-- ==== Sys2Proof/Word.lean ====
section
/-! DEFINITION. The word types of the NZ8 module: bytes, words and byte strings (R18: little-endian, bit 0 least significant). -/

namespace Sys2Proof

/-- One byte of a structure, a slot, a packet or a memory. -/
abbrev Byte := BitVec 8

/-- A 32-bit register or header word. -/
abbrev Word32 := BitVec 32

/-- A byte string, lowest offset first (R18). -/
abbrev Bytes := List Byte

end Sys2Proof
end

