-- ==== Sys2Proof/Syntax.lean ====
section
/-! DEFINITION. The commands of the NZ8 module: one constructor of `Instr` per row of spec/opcode_table.json,
with the operands that the row's home rule gives it. Every operand is plain data: what a sender, a
neighbour, a client, a pin or a sensor brings to the module. -/

namespace Sys2Proof

/-- The three mailbox ports (R278). -/
inductive MPort where
  | h | m | d
  deriving DecidableEq, Repr

/-- The path a port M slot message came by (R291): either I3C bus, or the management Ethernet with the
sender's address and UDP port. -/
inductive MPath where
  | i3c0 | i3c1
  | udp (addr port : Nat)
  deriving DecidableEq, Repr

/-- The image of a slot as a sender writes it (Table 9.3): the eight header words, the 32 bytes
0x20 to 0x3F, and the payload bytes. -/
structure SlotImage where
  word0 : Word32
  tag : Word32
  txnId : Word32
  word0C : Word32
  word10 : Word32 := 0
  seq : Word32
  word18 : Word32 := 0
  word1C : Word32 := 0
  tail : Bytes := []
  payload : Bytes
  deriving DecidableEq, Repr

/-- A mailbox command as the module finds it (R286): the port and slot, and, with `post`, the image the
sender posts there first (R285), by the path given when the port is M; without it the module finds what already stands in
the slot. -/
structure Req where
  port : MPort
  slot : Nat
  post : Option SlotImage
  path : MPath := .i3c0
  deriving DecidableEq, Repr

/-- A unit of Table 11.1. -/
structure UnitId where
  kind : Nat
  index : Nat
  deriving DecidableEq, Repr

/-- A packet with its header fields (Table 5.3), its data bytes and the CRC-32C that follows them (R164).
`rsv` says that some reserved header field is non-zero. -/
structure Packet where
  type : Nat
  cls : Nat
  phaseB : Bool := false
  dest : Nat := 0
  src : Nat := 0
  dch : Nat := 0
  via : Nat := 0
  detour : Bool := false
  dtile : Nat := 0
  opx : Nat := 0
  rsv : Bool := false
  sliceId : Nat := 0
  epoch : Nat := 0
  session : Nat := 0
  stepSeq : Nat := 0
  len : Nat := 0
  addr : Nat := 0
  exp : Int := 0
  a8d : Nat := 0
  data : Bytes := []
  dcrc : Word32 := 0
  deriving DecidableEq, Repr

/-- A flit after its parity decoding (Table 5.2, R160): the header word, FCRC and payload as corrected,
whether the parity could not correct it, and the bytes corrected per lane. -/
structure FlitIn where
  word0 : Word32
  fcrc : Word32
  payload : Bytes
  uncorrectable : Bool := false
  corrected : List (Nat × Nat) := []
  deriving DecidableEq, Repr

/-- The two SPDM transports, PCIe DOE and MCTP on the two I3C buses (R383). -/
inductive SpdmPath where
  | doe | mctp0 | mctp1
  deriving DecidableEq, Repr

/-- The PCIe resets that act on the host slots alike (R290). -/
inductive PcieReset where
  | flr | hot | linkLoss
  deriving DecidableEq, Repr

/-- Why a port goes down (R162). -/
inductive DownCause where
  | noFlit | retrainLate | threeRetrains | bothHalves
  deriving DecidableEq, Repr

/-- What makes a queue pair end by a NAK (R199). -/
inductive NakCause where
  | badOpcode | oversizedSend
  deriving DecidableEq, Repr

/-- One lane's measurements at the end of a margin window (Table 14.8). -/
structure LaneReading where
  lane : Nat
  role : Nat
  lock : Bool
  snrQ8 : Nat
  eyeLo : Nat
  eyeMid : Nat
  eyeHi : Nat
  eyeW : Nat
  ctle : Nat
  symErr : Nat
  symbols : Nat
  deriving DecidableEq, Repr

/-- What a memory block holds where the spec gives it no address in the module range (Table 11.3): the module allocates
these places itself, so the event that reports the block says what it is. `range` is a block of the module range or of a
tile, found by its address; `task` names the commands in progress on a cache line's task, `flashCopy` a copy of the configuration
image or of the unit history. -/
inductive Content where
  | range
  | copy (kind id gen role chunk : Nat)
  | tokens (session : Nat)
  | planObject
  | adapterPool (id gen : Nat)
  | adapterStore (id gen : Nat)
  | sheetNode (id : Nat)
  | cacheLine (addr : Nat)
  | task (commands : List (MPort × Nat))
  | flashCopy (config copyB : Bool)
  deriving DecidableEq, Repr

/-- The commands of the block, in the order of spec/opcode_table.json. A tile operand is a module-wide logical
tile id (0 to 2,303), a ptile operand a physical tile id (0 to 2,559), a port operand a port code (Table 5.1). -/
inductive Instr where
  -- mailbox opcodes (Table 9.7) and the ends of their long work
  | opIdentify (q : Req)
  | opStatus (q : Req)
  | opRightsRead (q : Req)
  | opBegin (q : Req)
  | opStage (q : Req)
  | opRead (q : Req)
  | opCommit (q : Req)
  | opRollback (q : Req)
  | opPersist (q : Req)
  | opFactoryView (q : Req)
  | opPlanLoad (q : Req)
  | planCheckDone
  | opShardWrite (q : Req)
  | opShardVerify (q : Req)
  | shardVerifyDone (kind id gen : Nat)
  | opWeightSwap (q : Req)
  | opPlanUnload (q : Req)
  | opDigestSweep (q : Req)
  | opAdapterLoad (q : Req)
  | opAdapterReplace (q : Req)
  | opAdapterUnload (q : Req)
  | opAdapterList (q : Req)
  | opSliceStart (q : Req)
  | opSliceStop (q : Req)
  | opSessionQuery (q : Req)
  | opSessionEvict (q : Req)
  | opPowerStateSet (q : Req)
  | powerStateEntered
  | opCapSet (q : Req)
  | opPowerRead (q : Req)
  | opOppointSet (q : Req)
  | opBudgetRead (q : Req)
  | opCounterRead (q : Req)
  | opEventRead (q : Req)
  | opAccountingRead (q : Req)
  | opFaultRead (q : Req)
  | opFaultAck (q : Req)
  | opHealthRead (q : Req)
  | selftestCheckers (q : Req)
  | selftestTile (q : Req)
  | selftestAllDue (q : Req)
  | opHistoryRead (q : Req)
  | opFwHeader (q : Req)
  | opFwChunk (q : Req)
  | fwActivateAtReset (q : Req)
  | fwActivateWarm (q : Req)
  | fwActivateLive (q : Req)
  | opHealthConfirm (q : Req)
  | opFwAbort (q : Req)
  | opLifecycleSet (q : Req)
  | opOwnershipTake (q : Req)
  | opRightsNarrow (q : Req)
  | opDebugLevelSet (q : Req)
  | opErase (q : Req)
  | eraseDone (failed : Option UnitId)
  | opCertRead (q : Req)
  | opNeighbourRead (q : Req)
  | opLinkStatus (q : Req)
  | opLinkRetrain (q : Req)
  | opLaneMargin (q : Req)
  | traceRead (q : Req)
  | traceStart (q : Req)
  | traceStop (q : Req)
  | opPhysRead (q : Req)
  | opPhysWrite (q : Req)
  | scanList (q : Req)
  | scanCapture (q : Req)
  | scanShiftOut (q : Req)
  | scanShiftIn (q : Req)
  -- the register block and the slots' transports
  | mailboxReset (word : Word32)
  | warmReset (word : Word32)
  | irqClear (word : Word32)
  | registerWrite (off : Nat) (word : Word32)
  | slotWriteDenied (slot off : Nat) (data : Bytes)
  | slotMsgWrite (path : MPath) (slot : Nat) (image : SlotImage)
  | slotMsgRead (path : MPath) (slot : Nat)
  | mboxAccess (slot : Nat) (write : Bool) (image : SlotImage)
  | pcieLinkReset (kind : PcieReset)
  | heartbeat
  -- attestation
  | getVersion (t : SpdmPath)
  | getCapabilities (t : SpdmPath) (version : Nat)
  | negotiateAlgorithms (t : SpdmPath) (p384 sha384 dmtf : Bool)
  | getDigests (t : SpdmPath)
  | getCertificate (t : SpdmPath) (slot off len : Nat)
  | challenge (t : SpdmPath) (slot : Nat) (nonce : Bytes) (hashType : Nat)
  | getMeasurements (t : SpdmPath) (index : Nat) (signed : Bool) (nonce : Bytes)
  | spdmUnsupportedRequest (t : SpdmPath) (code : Nat)
  -- fault export
  | setEventReceiver (receiver : Option (Nat × Nat))
  | pldmEventResponse
  | pldmExportRetry
  | collectorAck (c recordId : Nat)
  | collectorResend (c recordId : Nat)
  | faultCountSecond (code : Nat) (unit : UnitId)
  -- the data network
  | cmReq (client : Nat) (ipv6 : Bool) (addr remoteQp : Nat)
  | cmDreq (qp : Nat)
  | invalidRequestNak (qp : Nat) (why : NakCause)
  | cnpReceived (qp : Nat)
  | ceMarkedPacket (qp : Nat)
  | localAckTimeout (qp : Nat)
  | reqOpen (qp : Nat) (msg : Bytes)
  | reqAppend (qp : Nat) (msg : Bytes)
  | reqGenerate (qp : Nat) (msg : Bytes)
  | reqCancel (qp : Nat) (msg : Bytes)
  | reqPause (qp : Nat) (msg : Bytes)
  | reqResume (qp : Nat) (msg : Bytes)
  | reqClose (qp : Nat) (msg : Bytes)
  | unknownType (qp : Nat) (msg : Bytes)
  | cancelSettled (session : Nat)
  | closeSettled (session : Nat)
  | kvWaitExpiry (session : Nat)
  -- steps, and the messages of the mesh (Table 5.12)
  | stepCompose
  | sessionTable (port : Nat) (k : Packet)
  | attnRecords (port : Nat) (k : Packet)
  | grantList (port : Nat) (k : Packet)
  | grantMoveDone (group session chunk : Nat)
  | commit (port : Nat) (k : Packet)
  | csLookup (session : Nat)
  | sessionUpdate (port : Nat) (k : Packet)
  | genParams (port : Nat) (k : Packet)
  | holeTable (port : Nat) (k : Packet)
  | txnStage (port : Nat) (k : Packet)
  | txnApply (port : Nat) (k : Packet)
  | txnReply (port : Nat) (k : Packet)
  | txnTimeout (sliceScope : Bool)
  | promotion (port : Nat) (k : Packet)
  | stepAbort (port : Nat) (k : Packet)
  | clear (port : Nat) (k : Packet)
  | stepReport (port : Nat) (k : Packet)
  | streamStallWindow
  | budgetSlack (port : Nat) (k : Packet)
  | budgetLent (port : Nat) (k : Packet)
  | budgetGrant (port : Nat) (k : Packet)
  | budgetRevert (port : Nat) (k : Packet)
  | budgetReverted (port : Nat) (k : Packet)
  | budgetWindow
  | startInfo (port : Nat) (k : Packet)
  | draftTree (port : Nat) (k : Packet)
  | outcome (port : Nat) (k : Packet)
  | draftStep (session : Nat) (logits : List (List Word32))
  | samplingRow (session row : Nat) (remote : List (Nat × List Word32))
  | adapterGatherDone (id gen : Nat)
  | pauseFixStart (session : Nat)
  | pauseComplete (session : Nat)
  | pauseExpiry (session : Nat)
  | restoreComplete (session : Nat)
  -- operators on the tiles
  | descriptorStart (tile : Nat)
  | descriptorComplete (tile unit : Nat)
  | matmul (tile : Nat)
  | lora (tile : Nat)
  | attn (tile : Nat)
  | kvAppend (tile : Nat)
  | norm (tile : Nat)
  | elemwise (tile : Nat)
  | route (tile : Nat)
  | skipGate (tile : Nat)
  | combine (tile : Nat)
  | dispatch (tile : Nat)
  | collective (tile : Nat)
  | move (tile : Nat)
  | fabricRed (tile : Nat)
  | mcast (tile : Nat)
  | embed (tile : Nat)
  | sample (tile : Nat)
  | phaseBoundary (tile : Nat)
  | moeReserveExpiry
  | markTimeout (tile : Nat)
  | stripJudge (tile : Nat)
  | shadowCheckRun (tile : Nat)
  | shadowVote (tile : Nat)
  -- tiles' health, clocks and memories
  | slownessWindow (tile meanNs peerMeanNs : Nat)
  | testDue (ptile : Nat)
  | testComplete (ptile : Nat) (pass : Bool)
  | testOverdue (ptile : Nat)
  | droopTrip (unit : UnitId) (fallPermille : Nat)
  | droopRecovery (unit : UnitId)
  | railCurrentSample (rail milliamps : Nat)
  | pageMoveStart (page tier frame : Nat)
  | pageMoveDone (page : Nat) (dirtyAfter : List Nat)
  | ceDetected (unit : UnitId) (addr : Nat)
  | ueDetected (unit : UnitId) (addr : Nat) (holds : Content) (recurs : Bool) (step : Nat)
  | parityError (unit : UnitId) (step : Nat)
  | blockCrcFail (unit : UnitId) (addr : Nat) (holds : Content) (step : Nat)
  | leakyBucketLeak (unit : UnitId)
  | agitationScrub (unit : UnitId) (words corrected : Nat)
  | agitationLapLate (unit : UnitId)
  | streamFetchStart (layer : Nat)
  | streamFetchDone (layer tier cause : Nat)
  | sweepPeriod
  | sweepDone
  | backingCopyDone (id : Nat)
  | homePhaseWrite (phase : Nat)
  | homePhaseWritten (phase : Nat)
  | darkslideOpen
  -- links, cards and packets
  | flitReceived (port : Nat) (f : FlitIn)
  | fastRetrainDone (port : Nat) (failing : List Nat) (restored : Bool)
  | portDown (port : Nat) (cause : DownCause)
  | linkTrainingDone (port : Nat) (failing : List Nat)
  | linkTrainingRetry (port : Nat)
  | neighbourCard (port : Nat) (k : Packet)
  | cardSend (port : Nat)
  | cardAbsent (port : Nat)
  | heldIdleRetrain (port : Nat)
  | flushMarker (port : Nat) (k : Packet)
  | linkMgmt (port : Nat) (k : Packet)
  | writePacket (port : Nat) (k : Packet)
  | readReq (port : Nat) (k : Packet)
  | readRsp (port : Nat) (k : Packet)
  | redPacket (port : Nat) (k : Packet)
  | mcastPacket (port : Nat) (k : Packet)
  | dispatchPacket (port : Nat) (k : Packet)
  | dispatchEnd (port : Nat) (k : Packet)
  | ret (port : Nat) (k : Packet)
  | bufFree (port : Nat) (k : Packet)
  | collPacket (port : Nat) (k : Packet)
  | creditPacket (port : Nat) (k : Packet)
  -- power
  | powerWindowEnd (meanW vIn100mV : Nat)
  | clampAdjust (mean10usW : Nat)
  | capReachDecision (reachW : Nat)
  | thermalSupervisor (temps : List Int)
  | oppointSettled (cdie : Nat)
  | staggerHoldEnd
  | fadeEnd
  -- start-up, firmware and pins
  | coldStart (pwrEn dimmPwrOk : Bool)
  | startupStage (stage : Nat) (failing : List UnitId)
  | handoverBlackout
  | handoverDone
  | trialWindowExpiry
  | heartbeatWatchdog
  | pwrEnRise
  | pwrEnFall
  | modResetN (lowNs : Nat)
  | perstN
  | dimmPwrOkFall
  | trayLeakN
  | carrierLeak
  | thermalTrip (sensor : Nat)
  | thermtripRelease
  | inputUndervoltage (lowestMv : Nat)
  | inputOvervoltage (highestMv : Nat)
  | vsbLoss
  | strapSample (slotId : Nat) (recoveryN : Bool)
  | strapChange
  | ppsEdge
  | ppsLost
  | coolantHigh (inletMilliC : Int)
  | drainDeadline
  | laneMarginDone (iface index : Nat) (lanes : List LaneReading)
  | persistDone
  | dmaReadDone (port : MPort) (slot : Nat) (result : Nat ⊕ Bytes)
  | scheduledWarmReset
  | progressRewrite (port : MPort) (slot progress : Nat)
  | checkerTestDone (failed : Option (Nat × UnitId))
  | lostModuleMark
  | lenderSelfRevert
  deriving DecidableEq, Repr

end Sys2Proof
end

