-- ==== Sys2Proof/Decode.lean ====
section
/-! DEFINITION. The command that a word spells by the opcode table's bits. -/

namespace Sys2Proof

/-- The table gives no row any bits: its commands are mailbox opcodes, register writes, messages, packets, pin edges
and ends of long work, each laid out by its own rule, so no table word spells a command. -/
def decodeTableWord (_nbits _w : Nat) : Option Instr := none

end Sys2Proof
end

