-- ==== Sys2Proof/Machine/State.lean ====
section
/-! DEFINITION. The state of one NZ8 module, as plain data: everything the spec gives the module, grouped by the
chapter that owns it, and the queue of waiting commands. Tables with many equal entries are sparse: a key that is
not listed has the default entry of its group. -/

namespace Sys2Proof.Machine

open Sys2Proof

/-- A sparse table by number. Keys strictly rise in what the operations of Ops.lean build. -/
abbrev Tbl (α : Type) := List (Nat × α)

inductive Lifecycle where
  | factory | owned | service | retired
  deriving DecidableEq, Repr

inductive PowerState where
  | s0 | s1 | s2 | s3 | s5
  deriving DecidableEq, Repr

/-- SLICE_STATE, Table 9.8. -/
inductive SliceState where
  | noPlan | stopped | starting | running | draining | haltedSoft | haltedHard
  deriving DecidableEq, Repr

/-- Session states, Table 6.9. -/
inductive SessState where
  | idle | prefilling | generating | pausing | paused | resuming
  deriving DecidableEq, Repr

/-- Shard copy states, Table 7.7. -/
inductive CopyState where
  | empty | writing | verifying | verified | failed
  deriving DecidableEq, Repr

/-- Firmware bank states, R412. -/
inductive BankState where
  | empty | writing | staged | trial | active | failed
  deriving DecidableEq, Repr

/-- Port outcomes, Table 13.3. -/
inductive PortOutcome where
  | noPlan | unused | matched | remapped | wait | missing | extra | crossed | quarantine | foreign
  deriving DecidableEq, Repr

/-- Port states of OP_LINK_STATUS, Table 13.12. -/
inductive LinkState where
  | down | training | heldIdle | mgmtOnly | up | lowPower
  deriving DecidableEq, Repr

inductive StepKind where
  | prefill | verify
  deriving DecidableEq, Repr

/-! ### What the module sends -/

/-- One thing the module sends or shows to the outside: the model's own record of it. -/
inductive Out where
  /-- an MSI-X vector (R283) -/
  | vector (n : Nat)
  /-- a port M NOTICE (R291) -/
  | notice (path : MPath) (slot status detail progress : Nat) (payload : Bytes)
  /-- a port M WRITE_ACK (R291) -/
  | writeAck (path : MPath) (slot result : Nat)
  /-- a port M READ_REPLY (R291) -/
  | readReply (path : MPath) (slot : Nat) (image : Bytes)
  /-- the data register that a port D shift returns (R292) -/
  | jtag (slot : Nat) (image : Bytes)
  /-- a fabric packet, by destination module (R164) -/
  | packet (k : Packet)
  /-- a LINK_MGMT packet on one port (R165) -/
  | linkPacket (port : Nat) (k : Packet)
  /-- a NAK for a refused flit, naming the last SEQ received in order (R160) -/
  | flitNak (port ack : Nat)
  /-- the flits from a SEQ on are sent again (R160) -/
  | flitResend (port seq : Nat)
  /-- flit payloads of a receive buffer released to the sender (R167) -/
  | release (port buffer n : Nat)
  /-- a port starts a training, full or fast (R161, R402) -/
  | training (port : Nat) (full : Bool)
  /-- a CM answer: accepted queue pair, or a reject (R197) -/
  | cmAccept (qp : Nat)
  | cmReject (client : Nat)
  /-- a CM DREQ that ends a queue pair (R198) -/
  | cmDreq (qp : Nat)
  /-- an Invalid Request NAK (R199) -/
  | nak (qp : Nat)
  /-- a congestion notification (R199) -/
  | cnp (qp : Nat)
  /-- a packet sent again (R199) -/
  | resend (qp retry : Nat)
  /-- a serving reply (R201 to R205) -/
  | reply (qp mtype tag session epoch count aux0 aux1 : Nat) (body : List (Nat × Word32))
  /-- logits of a row for another module's sampling unit, from a vocabulary entry on (R219) -/
  | logits (dest session step row lo : Nat) (values : List Word32)
  /-- an SPDM response: its name's code and its parts (R383) -/
  | spdm (t : SpdmPath) (code : Nat) (body : Bytes) (signature : Option Bytes)
  /-- a PLDM PlatformEventMessage with a CPER record (R373) -/
  | pldm (receiver bus recordId : Nat) (record : Bytes)
  /-- a collector datagram (R374) -/
  | datagram (c : Nat) (bytes : Bytes)
  deriving DecidableEq, Repr

/-! ### Mailboxes (chapter 9) -/

/-- A slot with its stored SEQ (Table 9.3, R288) and, on port M, the path that posted it (R291). -/
structure Slot where
  owner : Bool := false
  noIrq : Bool := false
  rsv0 : Nat := 0
  opcode : Nat := 0
  tag : Word32 := 0
  txnId : Word32 := 0
  payloadLen : Nat := 0
  rsvC : Nat := 0
  status : Nat := 0
  detail : Nat := 0
  seq : Word32 := 0
  doneUs : Nat := 0
  progress : Nat := 0
  rsvTail : Bool := false
  payload : Bytes := []
  storedSeq : Word32 := 0
  path : Option MPath := none
  started : Bool := false
  deriving DecidableEq, Repr

/-- A long command in course (R286): its slot, its opcode and object, and what its end needs. `orphan` says that its
host slot was reset, so its completion is not written (R290). -/
structure Running where
  port : MPort
  slot : Nat
  opcode : Nat
  foundNs : Nat
  orphan : Bool := false
  obj : List Nat := []
  args : List Nat := []
  body : Bytes := []
  deriving DecidableEq, Repr

structure Mbox where
  slotsH : Tbl Slot := []
  slotsM : Tbl Slot := []
  slotsD : Tbl Slot := []
  running : List Running := []
  ready : Bool := false
  mServed : Bool := false
  dServed : Bool := false
  irqCause : BitVec 4 := 0
  irqMask : BitVec 4 := 0
  slotWriteDenied : Nat := 0
  lastReset : Nat := 0
  msix : Tbl Word32 := []
  pba : BitVec 64 := 0
  warmResetAt : Option Nat := none
  deriving DecidableEq, Repr

/-- The module's own time and life (R284, R365, R369). -/
structure Clock where
  timeNs : Nat := 0
  startNs : Nat := 0
  lifeS : Nat := 0
  lifeNs : Nat := 0
  boot : Nat := 0
  heartbeat : Word32 := 0
  heartbeatNs : Nat := 0
  deriving DecidableEq, Repr

/-! ### Settings and transactions (chapter 9) -/

/-- A setting's running value and its SRC (Table 9.9). -/
structure SetVal where
  value : Bytes
  src : Nat
  deriving DecidableEq, Repr

structure Txn where
  id : Nat
  slice : Bool
  port : MPort
  timeoutMs : Nat
  timerNs : Nat
  base : Tbl SetVal
  baseGen : Nat
  staged : Tbl Bytes
  deriving DecidableEq, Repr

/-- A commit past its check (R310): the set, who has prepared and who has applied. -/
structure CommitRun where
  txn : Txn
  port : MPort
  slot : Nat
  prepared : List Nat
  assigned : Option Nat
  firstStep : Nat
  applied : List Nat
  deriving DecidableEq, Repr

/-- A copy of the user configuration image (R314). -/
structure CfgImage where
  valid : Bool := false
  format : Nat := 1
  gen : Nat := 0
  entries : Tbl Bytes := []
  deriving DecidableEq, Repr

/-- A staged set this module has prepared (R310): transaction, scope, generation at BEGIN, entries. -/
structure Prepared where
  txn : Nat
  slice : Bool
  baseGen : Nat
  staged : Tbl Bytes
  deriving DecidableEq, Repr

/-- An OP_PERSIST in course (R312): its slot, SLICE, and the modules that have written. -/
structure PersistRun where
  port : MPort
  slot : Nat
  slice : Bool
  deriving DecidableEq, Repr

structure Cfg where
  gen : Nat := 1
  run : Tbl SetVal := []
  unknown : Tbl Bytes := []
  txnModule : Option Txn := none
  txnSlice : Option Txn := none
  commit : Option CommitRun := none
  prepared : Option Prepared := none
  prevGen : Nat := 1
  prevRun : Tbl SetVal := []
  imageA : CfgImage := { valid := true, gen := 1 }
  imageB : CfgImage := {}
  persist : Option PersistRun := none
  waiting : List (Nat × Nat) := []
  migrated : Bool := false
  deriving DecidableEq, Repr

/-! ### Plans and weights (chapters 2 and 7) -/

/-- A plan object as parsed: header words, section entries by TYPE (each entry its 32-bit words), its order of
sections, its length and the digest computed. -/
structure PlanObj where
  hdr : List Nat
  secs : Tbl (List (List Nat))
  totalBytes : Nat
  digest : Bytes
  deriving DecidableEq, Repr

/-- A copy of a shard (R241, R249). Role 0 = backing, 1 = staged, 2 = working. KIND as Table 7.6. -/
structure ShardCopy where
  kind : Nat
  id : Nat
  gen : Nat
  role : Nat
  state : CopyState
  coded : Bool
  length : Nat
  totalLen : Nat
  data : List (Nat × Bytes) := []
  narrow : Bytes := []
  digest : Bytes := []
  inT3 : Bool := false
  repair : Bool := false
  marked : Bool := false
  deriving DecidableEq, Repr

/-- The plan staging region (R248, R249). -/
structure Staging where
  state : CopyState := .empty
  totalLen : Nat := 0
  parts : List (Nat × Bytes) := []
  deriving DecidableEq, Repr

/-- A weight swap in course (R260, R261). `phase` is the number of phases whose homes are written. -/
structure SwapRun where
  newGen : Nat
  discard : Bool
  port : MPort
  slot : Nat
  closedNs : Option Nat
  writing : Option Nat
  phase : Nat
  reports : List Nat
  deriving DecidableEq, Repr

structure Sweep where
  done : Nat
  total : Nat
  mismatch : Nat
  startNs : Nat
  deriving DecidableEq, Repr

/-- A half of the stream buffer (R255): the layer it holds, whether its fetch has completed, and when it started. -/
structure StreamHalf where
  layer : Option Nat := none
  step : Nat := 0
  fetched : Bool := false
  startNs : Nat := 0
  deriving DecidableEq, Repr

structure Weights where
  main : Option PlanObj := none
  draft : Option PlanObj := none
  next : Option PlanObj := none
  nextDraft : Option PlanObj := none
  staging : Staging := {}
  checking : Option (MPort × Nat × Bool) := none
  curGen : Nat := 0
  firstGen : Nat := 0
  stagedGen : Nat := 0
  copies : List ShardCopy := []
  homeGens : Tbl Nat := []
  swap : Option SwapRun := none
  sweep : Option Sweep := none
  sweepAfterSwap : Bool := false
  sweepCleanS : Nat := 0
  halves : Tbl StreamHalf := []
  dimms : List Nat := List.replicate 16 512
  dimmRate : Nat := 12800
  t3InService : Bool := false
  t3Gib : Nat := 0
  t3Rate : Nat := 0
  t3Retained : Bool := false
  draftGen : Nat := 0
  deriving DecidableEq, Repr

/-! ### Memory (chapter 1) -/

/-- A block's sideband less its CRC, which is that of its bytes (Table 11.5). -/
structure Sideband where
  exp : Int := 0
  a8d : Nat := 0
  poison : Bool := false
  deriving DecidableEq, Repr

/-- A mapped page of the module range (R41): its frame's base in the physical view, its tier and hint, whether it is a
home weight page, a pause image or a plan's page, and its access count (R45). -/
structure Page where
  base : Nat
  tier : Nat
  hint : Nat
  home : Bool := false
  own : Bool := false
  access : Nat := 0
  deriving DecidableEq, Repr

structure PageMove where
  page : Nat
  tier : Nat
  toBase : Nat
  deriving DecidableEq, Repr

structure Mem where
  cells : List Host.Cell := []
  side : Tbl Sideband := []
  pages : Tbl Page := []
  moves : List PageMove := []
  holdOff : Tbl Nat := []
  retired : List (Nat × Nat) := []
  ceAddrs : Tbl (List (Nat × Nat)) := []
  deriving DecidableEq, Repr

/-! ### Tiles and operators (chapters 1 to 3) -/

/-- A channel's counts (R29), and when its arrival count last rose. -/
structure Chan where
  marks : Nat := 0
  credits : Nat := 0
  lastNs : Nat := 0
  deriving DecidableEq, Repr

/-- A queued descriptor: its index in DESCRIPTORS, whether it has started, and whether its operator has done its work (R63). -/
structure QEnt where
  desc : Nat
  started : Bool := false
  executed : Bool := false
  deriving DecidableEq, Repr

/-- Buffer space that data fill: the channel that its marks went to, its first physical view address and blocks, the module it
came from, whether its marks are raised, and the descriptor that took them. -/
structure Space where
  chan : Nat
  addr : Nat
  blocks : Nat
  src : Nat
  arrived : Bool := false
  reader : Option Nat := none
  deriving DecidableEq, Repr

/-- A sampled block of the shadow vote (R358): the accumulator block and the checkers' values as they come. -/
structure ShadowBlk where
  block : Nat
  results : List (Nat × List Word32) := []
  done : Bool := false
  deriving DecidableEq, Repr

/-- An output held for the test strip or the shadow vote (R112, R360): the descriptor, the rows of its run, the sampled column
blocks of the strip row group with their references as they are made, and the blocks of the vote. -/
structure Held where
  desc : Nat
  rows : List Nat
  strip : List (Nat × List Word32) := []
  shadow : List ShadowBlk := []
  startNs : Nat := 0
  deriving DecidableEq, Repr

/-- A tile as an engine: its queue and the descriptors still to be read (R63), the step and phase it is in, what each unit runs
(R26), its held outputs, the layers it converts with per-block exposures (R114), and the groups left to each half-batch's
chain, the head one current (R187). -/
structure TileX where
  queue : List QEnt := []
  toRead : List Nat := []
  phase : Nat := 0
  step : Nat := 0
  phaseDone : Bool := true
  array : Option Nat := none
  vector : Option Nat := none
  mover : Option Nat := none
  held : List Held := []
  reexposed : List Nat := []
  chain : Tbl (List (List Nat)) := []
  deriving DecidableEq, Repr

/-- A cause waiting to take a tile out of service (Table 1.6): 1 permanent, 2 overdue test, 3 slowness, 4 test. -/
structure SwapCause where
  ptile : Nat
  cause : Nat
  deriving DecidableEq, Repr

/-- An island's stretch (R31, R32): the droop request in sixteenths, whether it is stopped, and good cycles. -/
structure Island where
  droop16 : Nat := 0
  stopped : Bool := false
  deriving DecidableEq, Repr

/-- A shadow block that a checker is to compute: the checker and the producer, the producer's descriptor and its block. -/
structure ShadowJob where
  checker : Nat
  tile : Nat
  desc : Nat
  block : Nat
  deriving DecidableEq, Repr

/-- The tiles. `chans` holds every channel of the module under one number: of a tile, and of an island that serves transfers
(R29). `empty` lists the blocks, by physical view, whose last arrival was an empty mark (R56). -/
structure Tiles where
  map : Tbl Nat := []
  x : Tbl TileX := []
  causes : List SwapCause := []
  inTest : List Nat := []
  testFailedOnce : List Nat := []
  slowWindows : Tbl Nat := []
  islands : Tbl Island := []
  chans : Tbl Chan := []
  full : List Space := []
  empty : List Nat := []
  a8Rows : Tbl (List Nat) := []
  reserveMet : List Nat := []
  shadowPending : List ShadowJob := []
  depleted : List Nat := []
  deriving DecidableEq, Repr

/-! ### Steps (chapters 2, 6 and 8) -/

/-- A session-table entry (Table 2.26). -/
structure SRow where
  session : Nat
  epoch : Nat
  rows : Nat
  firstRow : Nat
  lastChunk : Bool
  adapter : Nat
  deriving DecidableEq, Repr

/-- An attention record (Table 4.8). -/
structure ARec where
  kvLen : Nat
  bucket : Nat
  mask : List Nat
  depth : List Nat
  deriving DecidableEq, Repr

structure HalfBatch where
  rows : List SRow := []
  recs : List ARec := []
  deriving DecidableEq, Repr

/-- A step known to the module: kind, half-batches, captured generations (R54, R266), entry times by phase, and the
tiles' progress. `got` says which of the four table parts are here (half-batch, and 2 for records), `replayNs` when a phase was
last replayed, and `kept` what a SKIP_GATE left of a layer's half-batch. -/
structure Step where
  seq : Nat
  verify : Bool
  hb0 : HalfBatch := {}
  hb1 : HalfBatch := {}
  wGen : Nat := 0
  pGen : Nat := 0
  cGen : Nat := 0
  enteredNs : Tbl Nat := []
  leftNs : Tbl Nat := []
  entered : Bool := false
  leftPost : Bool := false
  held : Bool := false
  replayNs : Tbl Nat := []
  tokens : Tbl (List Nat) := []
  cfg : Tbl SetVal := []
  got : List Nat := []
  kept : List (Nat × Nat × Bool) := []
  deriving DecidableEq, Repr

structure Steps where
  composed : Nat := 0
  lastEntered : Nat := 0
  live : List Step := []
  aborted : List Nat := []
  leftUpTo : Nat := 0
  awaitClear : Option Nat := none
  clears : List Nat := []
  abortLog : List Nat := []
  stalls : Tbl Nat := []
  lateReturnNs : Option Nat := none
  lateReturns : Nat := 0
  lastGen : Nat := 0
  deriving DecidableEq, Repr

/-! ### Sessions and serving (chapters 4 and 6) -/

/-- Generation parameters (Table 6.6) with stop ids and biases. -/
structure GenParams where
  temperature : Word32 := 0
  topK : Nat := 0
  specMax : Nat := 1
  logprobs : Bool := false
  topP : Word32 := 0x3F800000#32
  minP : Word32 := 0
  repPenalty : Word32 := 0x3F800000#32
  repWindow : Nat := 0
  maxTokens : Nat := 1
  stops : List Nat := []
  bias : List (Nat × Word32) := []
  seed : Nat := 0
  deriving DecidableEq, Repr

/-- A request accepted and not yet answered: its queue pair, tag and type, and the adapter generation it binds. -/
structure ReqRec where
  qp : Nat
  tag : Nat
  mtype : Nat
  silent : Bool := false
  startedNs : Nat := 0
  ttl : Nat := 0
  deriving DecidableEq, Repr

/-- A tree row (R226): token, parent row, depth, and its q list. -/
structure TreeRow where
  token : Nat
  parent : Nat
  depth : Nat
  q : List (Nat × Word32) := []
  deriving DecidableEq, Repr

/-- A drafted branch (R227): the assumed outcome row and token, and its tree. -/
structure Branch where
  row : Nat
  token : Nat
  rootOnly : Bool
  epoch : Nat
  tree : List TreeRow
  deriving DecidableEq, Repr

/-- A session descriptor (R194) with what the lead keeps beside it. -/
structure Sess where
  index : Nat
  use : Nat
  epoch : Nat := 0
  client : Nat
  cls : Nat
  maxCtx : Nat
  adapterId : Nat
  handle : Nat := 0
  kvLen : Nat := 0
  n : Nat := 0
  promo : List Nat := []
  tracker : Word32 := 0x40E00000#32
  state : SessState := .idle
  gen : Option GenParams := none
  emitted : Nat := 0
  tokens : List Nat := []
  generation : Option ReqRec := none
  pauseReq : Option ReqRec := none
  resumeReq : Option ReqRec := none
  cancels : List ReqRec := []
  closes : List ReqRec := []
  closing : Bool := false
  heldBy : List (Nat × Nat) := []
  lastQp : Nat := 0
  waitingNs : Option Nat := none
  readyNs : Nat := 0
  lookedUp : Bool := false
  path : List Nat := []
  tree : List TreeRow := []
  branches : List Branch := []
  rootOnly : Bool := true
  outRow : Nat := 0
  lastTok : Nat := 0
  pauseUntilNs : Option Nat := none
  rateLog : List (Nat × Nat) := []
  deriving DecidableEq, Repr

structure Qp where
  client : Nat
  ipv6 : Bool
  addr : Nat
  remote : Nat
  rate : Nat
  lastCutNs : Option Nat
  lastCnpNs : Option Nat
  retries : Nat
  deriving DecidableEq, Repr

/-- A contact-sheet node (R144). -/
structure CsNode where
  id : Nat
  parent : Nat
  lineage : Nat × Nat × Nat
  tokens : List Nat
  slots : List Nat
  used : Nat
  deriving DecidableEq, Repr

/-- A grant's data move in course (R132): group, session index, chunk, action, destination and source. -/
structure KvMove where
  group : Nat
  session : Nat
  chunk : Nat
  action : Nat
  slot : Nat
  from_ : Nat
  startNs : Nat
  deriving DecidableEq, Repr

/-- This module's part of a pause image (R149): the length it covers and the module-range pages that hold it, in
order. -/
structure PauseImg where
  kvLen : Nat
  pages : List Nat
  complete : Bool
  deriving DecidableEq, Repr

structure Kv where
  moves : List KvMove := []
  images : Tbl PauseImg := []
  commits : List (Nat × Nat) := []
  slotRefs : Tbl Nat := []
  nodes : List CsNode := []
  nextNode : Nat := 1
  csEnable : Bool := true
  csNodes : Nat := 1048576
  deriving DecidableEq, Repr

/-- An installed adapter (R231, R232): id, current generation, ranks, its module's shard, generations held in the
store and in the pool. -/
structure Adapter where
  id : Nat
  gen : Nat
  ranks : List Nat
  shard : Nat
  stored : List (Nat × Nat) := []
  pool : List (Nat × Nat) := []
  deriving DecidableEq, Repr

/-- An install that waits for the next step boundary (R232, R235): its command's slot, the id, its ranks and this module's
shard, and FORCE. -/
structure AdInstall where
  port : MPort
  slot : Nat
  id : Nat
  ranks : List Nat
  shard : Nat
  deriving DecidableEq, Repr

structure Adapters where
  list : List Adapter := []
  lastGen : Tbl Nat := []
  storePages : Nat := 8192
  perHb : Nat := 16
  pending : List AdInstall := []
  deriving DecidableEq, Repr

/-- A slice start in course (R408, R122): who has reported what. -/
structure StartRun where
  port : MPort
  slot : Nat
  kv : List (Nat × List Nat)
  ports : List (Nat × Nat × Nat)
  cleared : List Nat
  deriving DecidableEq, Repr

structure Drain where
  mode : Nat
  port : MPort
  slot : Nat
  startNs : Nat
  deadlineNs : Option Nat
  deriving DecidableEq, Repr

/-- Logits landed at the sampling unit for a row (R219). -/
structure RowLogits where
  session : Nat
  step : Nat
  row : Nat
  ranges : List (Nat × List Word32)
  deriving DecidableEq, Repr

/-- The step reports of a step on the lead (R258): who has sent one, and the largest stall with its cause. -/
structure StepRep where
  seq : Nat
  from_ : List Nat
  stallNs : Nat
  cause : Nat
  deriving DecidableEq, Repr

structure Serving where
  sessions : Tbl Sess := []
  uses : Tbl Nat := []
  qps : Tbl Qp := []
  nextQp : Nat := 1
  deficits : Tbl Rat := []
  interLimit : Nat := 128
  kvShortage : Bool := false
  prefillRun : Nat := 0
  promoCounts : Tbl Nat := []
  promoNext : List (Nat × Nat) := []
  logits : List RowLogits := []
  accounting : Tbl (Nat × Nat × Nat) := []
  start : Option StartRun := none
  drain : Option Drain := none
  sliceState : SliceState := .noPlan
  noStart : List Nat := []
  haltNs : Nat := 0
  downReports : List Nat := []
  lost : List Nat := []
  held : Bool := false
  reports : List StepRep := []
  windowStall : Nat := 0
  windowTime : Nat := 0
  windowCount : Nat := 0
  causeShares : Tbl Nat := []
  deriving DecidableEq, Repr

/-! ### Mesh and fabric (chapters 5 and 13) -/

structure Port where
  trained : Bool := false
  training : Bool := false
  width : Nat := 32
  failedLanes : List Nat := []
  sparesA : Bool := false
  sparesB : Bool := false
  txSeq : Nat := 0
  acked : Nat := 4095
  replay : Nat := 0
  rxLast : Nat := 4095
  refusals : Nat := 0
  retrainFails : List Nat := []
  fast : Option Nat := none
  retrains : Nat := 0
  upNs : Nat := 0
  room : List Nat := [32, 128, 128, 1024, 1024, 1024, 1024, 512]
  state : LinkState := .down
  outcome : PortOutcome := .noPlan
  card : Option Bytes := none
  cardNs : Nat := 0
  logical : Option Nat := none
  leavingNs : Option Nat := none
  awaitMarker : Bool := false
  markerIn : Bool := false
  departed : Bool := false
  deriving DecidableEq, Repr

/-- A line of the fabric read cache (R175), least recently used first in the list. -/
structure CacheLine where
  addr : Nat
  exp : Int
  a8d : Nat
  data : Bytes
  deriving DecidableEq, Repr

/-- What an owner records of a landed slot (R185): slot, expert, source, session, epoch, and the bytes that have come. -/
structure Landed where
  slot : Nat
  expert : Nat
  src : Nat
  session : Nat
  epoch : Nat
  bytes : Nat
  deriving DecidableEq, Repr

/-- A layer's dispatch of one half-batch and step (R184 to R190). As owner: landed slots, who has sent DISPATCH_END, whether the
lists are built, the expert tiles whose chains are done, who has sent BUF_FREE, and whether this module has. As sender: the
slots sent, the bytes of each return that have landed, the slots resolved, in order those landed whole, and where the returns lie. -/
structure DispRec where
  step : Nat
  layer : Nat
  hb : Nat
  landed : List Landed := []
  ends : List Nat := []
  listed : Bool := false
  chainsDone : List Nat := []
  freed : List Nat := []
  freeSent : Bool := false
  sent : Option (List Nat) := none
  returns : Tbl Nat := []
  resolved : List Nat := []
  order : List Nat := []
  base : Nat := 0
  marked : Bool := false
  deriving DecidableEq, Repr

/-- A collective instance (R180): its step, position code, issuing tile and start, the segments received with their source, and
those sent with their neighbour. -/
structure CollRec where
  step : Nat
  key : Nat
  tile : Nat
  startNs : Option Nat := none
  segs : List (Nat × Nat × Bytes × Int) := []
  sent : List (Nat × Nat) := []
  lastNs : Nat := 0
  deriving DecidableEq, Repr

/-- A remote read in course (R174): the tile and its descriptor, the block's place in it, and the fabric address. -/
structure RemoteRead where
  tile : Nat
  desc : Nat
  block : Nat
  addr : Nat
  deriving DecidableEq, Repr

/-- A multi-packet message being joined (R166). -/
structure Asm where
  src : Nat
  msg : Nat
  hb : Nat
  step : Nat
  bytes : Bytes
  deriving DecidableEq, Repr

structure Fabric where
  ports : Tbl Port := []
  routes : Tbl (Bool × Nat) := []
  cache : List CacheLine := []
  cachePages : Nat := 256
  disp : List DispRec := []
  colls : List CollRec := []
  asm : List Asm := []
  minor : Nat := 0
  reads : List RemoteRead := []
  redBusy : Tbl Nat := []
  collRoom : List (Nat × Nat × Nat × Nat) := []
  deriving DecidableEq, Repr

/-! ### Power (chapter 10) -/

structure Rail where
  samples : List Nat := []
  request16 : Nat := 0
  downTicks : Nat := 0
  deriving DecidableEq, Repr

/-- A change of power state in course (R327, R431). -/
structure StateRun where
  target : PowerState
  from_ : Option (MPort × Nat)
  foundNs : Nat
  waitFade : Bool
  byReach : Bool
  deriving DecidableEq, Repr

structure Power where
  state : PowerState := .s5
  change : Option StateRun := none
  s3Deferred : Bool := false
  belowReach : Bool := false
  reachW : Nat := 0
  reachDue : Option (Nat × Nat) := none
  lent : Nat := 0
  borrowed : Nat := 0
  thermalW : Nat := 5000
  thermalEvNs : Option Nat := none
  thermalCool : Nat := 0
  clamp : Bool := false
  clamp16 : Nat := 0
  clampSinceNs : Nat := 0
  clampRamp : Bool := false
  capReq : List (MPort × Nat × Nat) := []
  rampLimit : Nat := 5000
  stagger : Option (Nat × Nat) := none
  filler : Nat := 0
  fade : Option (Nat × Nat × Nat) := none
  windowW : Nat := 0
  windows : List Nat := []
  vIn100mV : Nat := 500
  energyMj : Nat := 0
  energyUj : Nat := 0
  stateNs : Tbl Nat := []
  rails : Tbl Rail := []
  points : Tbl Nat := []
  settling : Tbl Nat := []
  prefs : Tbl Nat := []
  prefsNext : Tbl Nat := []
  learnE : Tbl Nat := []
  learnT : Tbl Nat := []
  budgets : Tbl Nat := []
  slackNs : Nat := 0
  slackSum : Nat := 0
  slackSteps : Nat := 0
  paceSetter : Bool := false
  paceWindows : Nat := 0
  window : Nat := 0
  slackReports : Tbl (Nat × Nat) := []
  loans : List (Nat × Nat × Nat) := []
  lentReports : List (Nat × Nat) := []
  reverting : Bool := false
  reverted : List Nat := []
  owesLent : Option Nat := none
  owesReverted : Bool := false
  deriving DecidableEq, Repr

/-! ### Integrity and records (chapter 11) -/

/-- A state table entry's changing part (Table 11.8): state code, logical tile, last transients, last passed test. -/
structure UnitEnt where
  state : Nat := 0
  transients : List Nat := []
  votes : List Nat := []
  testPassS : Nat := 0
  thresholds : Nat := 0
  framesRetired : Nat := 0
  deriving DecidableEq, Repr

/-- A log or event record (Table 11.9), less its CRC, which is that of its bytes. -/
structure Rec where
  seq : Nat
  lifeS : Nat
  boot : Nat
  unit : UnitId
  code : Nat
  arg0 : Nat
  arg1 : Nat
  deriving DecidableEq, Repr

/-- What a fault record says of its occurrence: address, step, logical tile, layer code and arguments (Table 11.12). -/
structure FaultCtx where
  addr : Nat := 0
  stepSeq : Nat := 0
  logical : Option Nat := none
  layer : Option Nat := none
  args : List Nat := []
  deriving DecidableEq, Repr

/-- An open second of a fault code and unit (R370): occurrences counted since it opened, the last one's context, and
when it opened. -/
structure Series where
  code : Nat
  unit : UnitId
  count : Nat
  ctx : FaultCtx
  startNs : Nat
  deriving DecidableEq, Repr

/-- A held fault record (R371, R372): its CPER fields, its acknowledgement and the destinations that have it
(0 the tray management controller, 1 to 4 the collectors). -/
structure FaultRec where
  recordId : Nat
  code : Nat
  unit : UnitId
  lifeS : Nat
  count : Nat
  ctx : FaultCtx
  sliceId : Nat
  index : Option Nat
  planGen : Nat
  weightsGen : Nat
  fwVersion : Nat
  boot : Nat
  acked : Bool := false
  delivered : List Nat := []
  deriving DecidableEq, Repr

/-- A collector's position (R374): the last Record ID passed, and records outstanding with their next interval. -/
structure Collector where
  next : Nat := 0
  outstanding : List (Nat × Nat × Nat) := []
  deriving DecidableEq, Repr

/-- An OP_SELFTEST_RUN in course (R377): its slot and KIND, the tiles still to be tested, and the result so far. -/
structure SelfRun where
  port : MPort
  slot : Nat
  kind : Nat
  waiting : List Nat := []
  result : Nat := 0
  failing : Nat := 0
  deriving DecidableEq, Repr

structure Integ where
  units : Tbl UnitEnt := []
  buckets : Tbl Nat := []
  bucketFired : List Nat := []
  log : List Rec := []
  logSeq : Nat := 1
  events : List Rec := []
  eventSeq : Nat := 1
  faults : List FaultRec := []
  faultSeq : Nat := 1
  series : List Series := []
  receiver : Option (Nat × Nat) := none
  pldmSent : Option (Nat × Nat × Nat) := none
  pldmPos : Nat := 0
  collectors : Tbl Collector := []
  checkerFail : Nat := 0
  noStartCheckers : Bool := false
  selftest : Option SelfRun := none
  lapWords : Tbl Nat := []
  lapLate : List Nat := []
  lapsLate : Nat := 0
  lapStartS : Tbl Nat := []
  overdueEv : Tbl Nat := []
  tableValid : Bool := true
  deriving DecidableEq, Repr

/-! ### Security and debug (chapter 12) -/

structure Trace where
  recs : List Bytes := []
  seq : Nat := 0
  lost : Nat := 0
  running : Bool := false
  kinds : Nat := 0
  deriving DecidableEq, Repr

/-- An erase in course (R392): its command's slot if any, when it began, why (0 OP_ERASE, 1 lifecycle transition,
2 debug move, 3 start-up), KEEP_CONFIG, the target state or level, the new ceiling and owner. -/
structure EraseRun where
  port : Option MPort
  slot : Nat
  startNs : Nat
  why : Nat
  keep : Bool
  target : Nat
  ceiling : Nat
  owner : Bytes
  deriving DecidableEq, Repr

structure Security where
  orderEs : Bool := false
  lifecycle : Lifecycle := .factory
  debug : Nat := 0
  ownerId : Bytes := []
  debugCeiling : Nat := 0
  narrowed : Tbl Nat := []
  serviceFuses : Nat := 0
  factoryExit : Bool := false
  retireFuse : Bool := false
  erased : Bool := false
  erasePending : Bool := false
  erasing : Option EraseRun := none
  spdm : List (SpdmPath × Nat) := []
  resync : List SpdmPath := []
  trace : Trace := {}
  scanStopped : Bool := false
  scanChains : Tbl (List Bool) := []
  udsLocked : Bool := false
  deriving DecidableEq, Repr

/-! ### Firmware and start-up (chapter 13) -/

structure Bank where
  state : BankState := .empty
  header : Bytes := []
  parts : List (Nat × Bytes) := []
  deriving DecidableEq, Repr

/-- A live handover in course (R418). -/
structure Handover where
  port : MPort
  slot : Nat
  bank : Bool
  mode : Nat
  blackoutNs : Option Nat
  back : Bool
  deriving DecidableEq, Repr

structure Firmware where
  bankA : Bank := { state := .active }
  bankB : Bank := {}
  activeB : Bool := false
  trialBank : Option Bool := none
  trialStarts : Nat := 0
  trialConfirmS : Nat := 600
  trialFromNs : Option Nat := none
  trialLive : Bool := false
  fallbackDue : Bool := false
  runningB : Bool := false
  loaderB : Bool := false
  minSvn : Nat := 0
  handover : Option Handover := none
  safelight : Bool := false
  stage : Nat := 0
  t1Ns : Option Nat := none
  stageFailed : List UnitId := []
  deriving DecidableEq, Repr

/-! ### Pins and sensors (chapter 14) -/

structure Pins where
  pwrEn : Bool := false
  dimmPwrOk : Bool := false
  trayLeakN : Bool := true
  leakWet : Bool := false
  stbyOk : Bool := false
  mainOk : Bool := false
  thermtripN : Bool := true
  leakN : Bool := true
  alertN : Bool := true
  strapSampled : Bool := false
  slotStrap : Nat := 0
  i3cAddr : Nat := 0x50
  recoveryN : Bool := true
  ppsEdgeNs : Option Nat := none
  ppsLostRaised : Bool := false
  coolantEvNs : Option Nat := none
  margins : List (MPort × Nat × Nat × Nat × Nat) := []
  deriving DecidableEq, Repr

/-- The module's state. `pending` is the queue of waiting commands, first in, first out. `freeCtr` and `out` are the
model's own: the counter that free values are taken from, and the record of what the module sent. -/
structure State where
  pending : List Instr := []
  clock : Clock := {}
  mbox : Mbox := {}
  cfg : Cfg := {}
  wts : Weights := {}
  mem : Mem := {}
  tiles : Tiles := {}
  steps : Steps := {}
  srv : Serving := {}
  kv : Kv := {}
  adp : Adapters := {}
  fab : Fabric := {}
  pwr : Power := {}
  integ : Integ := {}
  sec : Security := {}
  fw : Firmware := {}
  pins : Pins := {}
  counters : Tbl Nat := []
  freeCtr : Nat := 0
  out : List Out := []
  deriving DecidableEq, Repr

/-- No command of this block faults: the spec answers every access to an address that does not exist with a status
(R48, R295), a fault record (R47) or a discarded write (R280), and the model takes that answer. The type is empty. -/
inductive Fault where
  deriving DecidableEq, Repr

/-- Why a command has no meaning. -/
inductive Refusal where
  /-- Raised only by an arm of `exec` for a command the model does not reach yet; safe, because nothing is claimed. -/
  | notModelled (mnemonic : String)
  deriving DecidableEq, Repr

/-- The module as reset leaves it: a factory module without power (S5, R410), every register and table at the value
its field's default names: the value the spec states, or the one that the assumption log names; no command waits. COLD_START takes it
from there (R399). -/
def State.reset : State := {}

end Sys2Proof.Machine
end

