-- ==== Sys2Proof/Machine/Bytes.lean ====
section
/-! DEFINITION. Byte strings and sparse tables: reading little-endian fields at offsets, writing them, cutting and
overlaying byte strings (R18), and the lookup and update of the state's sparse tables. -/

namespace Sys2Proof.Machine

open Sys2Proof

/-! ### Numbers and bits -/

/-- Bits `hi` down to `lo` of a number, as the tables' "[hi:lo]". -/
def bitsOf (x hi lo : Nat) : Nat := (x >>> lo) % 2 ^ (hi + 1 - lo)

/-- One bit of a number. -/
def bitOf (x i : Nat) : Bool := (x >>> i) % 2 = 1

def ceilDiv (a b : Nat) : Nat := (a + b - 1) / b

/-- A counter that stays at its highest value (R19's saturating fields). -/
def satTo (top x : Nat) : Nat := min top x

def b2n (b : Bool) : Nat := if b then 1 else 0

/-! ### Little-endian fields of byte strings (R18) -/

def byteAt (b : Bytes) (off : Nat) : Nat := (b.getD off 0).toNat

/-- The `n`-byte little-endian number at the head of a byte string; bytes past its end read as zero. -/
def rdHead : Nat → Bytes → Nat
  | 0, _ => 0
  | n + 1, b => (b.headD 0).toNat + 256 * rdHead n b.tail

/-- The `n`-byte little-endian number at an offset. -/
def rd (n : Nat) (b : Bytes) (off : Nat) : Nat := rdHead n (b.drop off)

/-- `n` bytes of a number, least significant first. -/
def le : Nat → Nat → Bytes
  | 0, _ => []
  | n + 1, x => BitVec.ofNat 8 x :: le n (x / 256)

/-- `n` bytes of a number, most significant first. -/
def be (n x : Nat) : Bytes := (le n x).reverse

/-- The number that a big-endian byte string spells. -/
def rdBe (b : Bytes) : Nat := b.foldl (fun a x => 256 * a + x.toNat) 0

def zeros (n : Nat) : Bytes := List.replicate n 0

/-- `len` bytes from `off`, short where the string ends. -/
def cut (b : Bytes) (off len : Nat) : Bytes := (b.drop off).take len

/-- `b` brought to exactly `n` bytes by zeros at its end or by cutting. -/
def fit (n : Nat) (b : Bytes) : Bytes := (b ++ zeros (n - b.length)).take n

/-- `b` with `new` laid over it from `off` (growing by zeros where `off` lies past its end). -/
def overlay (b : Bytes) (off : Nat) (new : Bytes) : Bytes :=
  fit off b ++ new ++ b.drop (off + new.length)

def allZero (b : Bytes) : Bool := b.all (· == 0)

/-- Padded by zeros to a multiple of `m`. -/
def padMul (m : Nat) (b : Bytes) : Bytes := b ++ zeros (ceilDiv b.length m * m - b.length)

/-- A number below 2^32 as a word. -/
def w32 (x : Nat) : Word32 := BitVec.ofNat 32 x

/-! ### Sparse tables -/

def tget {α : Type} : Tbl α → Nat → Option α
  | [], _ => none
  | (j, v) :: r, k => if j = k then some v else tget r k

def tgetD {α : Type} (t : Tbl α) (k : Nat) (d : α) : α := (tget t k).getD d

/-- The table with key `k` set, in rising key order. -/
def tset {α : Type} : Tbl α → Nat → α → Tbl α
  | [], k, v => [(k, v)]
  | (j, w) :: r, k, v =>
    if k < j then (k, v) :: (j, w) :: r else if k = j then (k, v) :: r else (j, w) :: tset r k v

def tdel {α : Type} (t : Tbl α) (k : Nat) : Tbl α := t.filter (fun e => e.1 != k)

/-- The entry of `k`, or `d` where there is none, changed by `f`. -/
def tmod {α : Type} (t : Tbl α) (k : Nat) (d : α) (f : α → α) : Tbl α := tset t k (f (tgetD t k d))

def tkeys {α : Type} (t : Tbl α) : List Nat := t.map (·.1)

def tvals {α : Type} (t : Tbl α) : List α := t.map (·.2)

/-! ### Lists -/

/-- Insertion into a list kept in the order `le`, before every element it is not after. -/
def insertBy {α : Type} (le : α → α → Bool) (x : α) : List α → List α
  | [] => [x]
  | y :: r => if le x y then x :: y :: r else y :: insertBy le x r

/-- A stable sort by insertion. -/
def sortBy {α : Type} (le : α → α → Bool) : List α → List α
  | [] => []
  | x :: r => insertBy le x (sortBy le r)

def addNew (l : List Nat) (x : Nat) : List Nat := if l.contains x then l else l ++ [x]

def without (l : List Nat) (x : Nat) : List Nat := l.filter (· != x)

/-- `n` numbers from `a`. -/
def rangeFrom (a n : Nat) : List Nat := (List.range n).map (· + a)

/-- Chunks of `n` elements (structural on a fuel of the list's length). -/
def chunksOf {α : Type} (n : Nat) (l : List α) : List (List α) :=
  (List.range (ceilDiv l.length n)).map (fun i => (l.drop (i * n)).take n)

def listMax (l : List Nat) : Nat := l.foldl max 0

def listSum (l : List Nat) : Nat := l.foldl (· + ·) 0

/-- The first of a list of refusals whose condition holds: (fails, status, detail). -/
def firstFail : List (Bool × Nat × Nat) → Option (Nat × Nat)
  | [] => none
  | (bad, st, d) :: r => if bad then some (st, d) else firstFail r

/-- All elements paired with their places. -/
def indexed {α : Type} (l : List α) : List (Nat × α) := (List.range l.length).zip l

def hasDup (l : List Nat) : Bool :=
  match l with
  | [] => false
  | x :: r => r.contains x || hasDup r

end Sys2Proof.Machine
end

