-- ==== Sys2Proof/Machine/Float.lean ====
section
/-! DEFINITION. The number formats of Table 3.1 and the arithmetic on them (R89 to R102, R127): a value is NaN, an
infinity, or an exact dyadic number; every rounding is to nearest with ties to even, on an exact ratio. -/

namespace Sys2Proof.Machine

open Sys2Proof

/-- A decoded value: NaN, an infinity, or `m × 2^e` exactly. No format keeps a negative zero apart (R90). -/
inductive Fp where
  | nan
  | inf (neg : Bool)
  | num (m : Int) (e : Int)
  deriving DecidableEq, Repr

/-! ### Rounding an exact ratio -/

/-- The exponent of the highest bit of `n / d`, both non-zero. -/
def msbExp (n d : Nat) : Int :=
  let e : Int := (Nat.log2 n : Int) - Nat.log2 d
  if d * 2 ^ e.toNat ≤ n * 2 ^ (-e).toNat then e else e - 1

/-- `n / d × 2^q` as a count of units `2^lsb`, to nearest with ties to even. -/
def rneUnits (n d : Nat) (q lsb : Int) : Nat :=
  let num := n * 2 ^ (q - lsb).toNat
  let den := d * 2 ^ (lsb - q).toNat
  let k := num / den
  let r := num % den
  if den < 2 * r ∨ (2 * r = den ∧ k % 2 = 1) then k + 1 else k

/-- The magnitude code of `n / d × 2^q` in a format of `prec` significant bits whose subnormal unit is `2^lo`. -/
def magCode (prec : Nat) (lo : Int) (n d : Nat) (q : Int) : Nat :=
  if n = 0 then 0 else
    let lsb := max (q + msbExp n d - (prec - 1)) lo
    (lsb - lo).toNat * 2 ^ (prec - 1) + rneUnits n d q lsb

/-- The same, rounded up: the least code not below the value. -/
def magCodeUp (prec : Nat) (lo : Int) (n d : Nat) (q : Int) : Nat :=
  if n = 0 then 0 else
    let lsb := max (q + msbExp n d - (prec - 1)) lo
    (lsb - lo).toNat * 2 ^ (prec - 1) + ceilDiv (n * 2 ^ (q - lsb).toNat) (d * 2 ^ (lsb - q).toNat)

/-! ### FP32 -/

def f32Nan : Word32 := 0x7FC00000#32
def f32Inf (neg : Bool) : Word32 := if neg then 0xFF800000#32 else 0x7F800000#32
def f32Zero : Word32 := 0#32
def f32One : Word32 := 0x3F800000#32

/-- A binary32 word's value. -/
def f32 (w : Word32) : Fp :=
  let x := w.toNat
  let e := bitsOf x 30 23
  let m := bitsOf x 22 0
  let sg : Int := if bitOf x 31 then -1 else 1
  if e = 255 then (if m = 0 then .inf (bitOf x 31) else .nan)
  else if e = 0 then .num (sg * m) (-149)
  else .num (sg * (m + 2 ^ 23)) ((e : Int) - 150)

/-- A ratio rounded to binary32. -/
def f32Ratio (neg : Bool) (n d : Nat) (q : Int) : Word32 :=
  let c := magCode 24 (-149) n d q
  if c = 0 then 0#32 else if 0x7F800000 ≤ c then f32Inf neg else w32 (c + 2 ^ 31 * b2n neg)

/-- An exact value rounded to binary32. -/
def Fp.to32 : Fp → Word32
  | .nan => f32Nan
  | .inf n => f32Inf n
  | .num m e => f32Ratio (m < 0) m.natAbs 1 e

/-! ### Exact arithmetic -/

def Fp.neg : Fp → Fp
  | .nan => .nan
  | .inf n => .inf (!n)
  | .num m e => .num (-m) e

def Fp.abs : Fp → Fp
  | .nan => .nan
  | .inf _ => .inf false
  | .num m e => .num m.natAbs e

def Fp.isZero : Fp → Bool
  | .num m _ => m == 0
  | _ => false

def Fp.isNan : Fp → Bool
  | .nan => true
  | _ => false

def Fp.finite : Fp → Bool
  | .num _ _ => true
  | _ => false

def Fp.sign : Fp → Bool
  | .nan => false
  | .inf n => n
  | .num m _ => m < 0

def Fp.add : Fp → Fp → Fp
  | .nan, _ => .nan
  | _, .nan => .nan
  | .inf a, .inf b => if a = b then .inf a else .nan
  | .inf a, _ => .inf a
  | _, .inf b => .inf b
  | .num a e, .num b f => let g := min e f; .num (a * 2 ^ (e - g).toNat + b * 2 ^ (f - g).toNat) g

def Fp.mul : Fp → Fp → Fp
  | .nan, _ => .nan
  | _, .nan => .nan
  | .inf a, .inf b => .inf (a != b)
  | .inf a, .num m _ => if m = 0 then .nan else .inf (a != decide (m < 0))
  | .num m _, .inf b => if m = 0 then .nan else .inf (b != decide (m < 0))
  | .num a e, .num b f => .num (a * b) (e + f)

/-- A value times a power of two. -/
def Fp.scale (x : Fp) (k : Int) : Fp :=
  match x with
  | .num m e => .num m (e + k)
  | y => y

/-- `a ≤ b` of two values that are not NaN. -/
def Fp.le : Fp → Fp → Bool
  | .inf true, _ => true
  | _, .inf false => true
  | .num a e, .num b f => let g := min e f; a * 2 ^ (e - g).toNat ≤ b * 2 ^ (f - g).toNat
  | _, _ => false

def Fp.lt (a b : Fp) : Bool := !a.isNan && !b.isNan && !Fp.le b a

/-! ### FP32 operations (R102) -/

def fadd (a b : Word32) : Word32 := ((f32 a).add (f32 b)).to32
def fsub (a b : Word32) : Word32 := ((f32 a).add (f32 b).neg).to32
def fmul (a b : Word32) : Word32 := ((f32 a).mul (f32 b)).to32
/-- `a × b + c`, rounded once. -/
def fma (a b c : Word32) : Word32 := (((f32 a).mul (f32 b)).add (f32 c)).to32

def fdiv (a b : Word32) : Word32 :=
  match f32 a, f32 b with
  | .nan, _ => f32Nan
  | _, .nan => f32Nan
  | .inf _, .inf _ => f32Nan
  | .inf x, y => f32Inf (x != y.sign)
  | .num _ _, .inf _ => 0#32
  | .num m e, .num n f =>
    if n = 0 then (if m = 0 then f32Nan else f32Inf (m < 0))
    else f32Ratio (decide (m < 0) != decide (n < 0)) m.natAbs n.natAbs (e - f)

/-- The integer square root, bit by bit. -/
def isqrt : Nat → Nat → Nat
  | 0, _ => 0
  | k + 1, n =>
    let r := 2 * isqrt k (n / 4)
    if (r + 1) * (r + 1) ≤ n then r + 1 else r

def fsqrt (a : Word32) : Word32 :=
  match f32 a with
  | .nan => f32Nan
  | .inf n => if n then f32Nan else f32Inf false
  | .num m e =>
    if m < 0 then f32Nan else if m = 0 then 0#32 else
      let sh : Nat := if (e % 2 + 2) % 2 = 0 then 64 else 65
      let n := m.natAbs * 2 ^ sh
      let r := isqrt 64 n
      f32Ratio false (2 * r + b2n (r * r != n)) 1 ((e - (sh : Int)) / 2 - 1)

def fmax (a b : Word32) : Word32 :=
  if (f32 a).isNan then b else if (f32 b).isNan then a else if (f32 a).le (f32 b) then b else a

def fneg (a : Word32) : Word32 := (f32 a).neg.to32

def f32OfNat (n : Nat) : Word32 := (Fp.num n 0).to32

/-- `a < b` of two FP32 words, false with a NaN. -/
def flt (a b : Word32) : Bool := (f32 a).lt (f32 b)
def fle (a b : Word32) : Bool := !(f32 a).isNan && !(f32 b).isNan && (f32 a).le (f32 b)

/-! ### Correctly rounded functions (R102, R139) -/

/-- Fixed-point fraction bits of the functions below: enough that no binary32 argument leaves the rounding open. -/
def fxBits : Nat := 320

/-- Terms of a Taylor sum: the `i`-th term times `r / (i + 1)`, `n` of them. -/
def taylor : Nat → Nat → Nat → Nat → Nat
  | 0, _, _, _ => 0
  | n + 1, i, term, r => term + taylor n (i + 1) (term * r / 2 ^ fxBits / (i + 1)) r

def squares : Nat → Nat → Nat
  | 0, x => x
  | n + 1, x => squares n (x * x / 2 ^ fxBits)

/-- `|m| × 2^e` in fixed point. -/
def toFx (n : Nat) (e : Int) : Nat := n * 2 ^ (e + fxBits).toNat / 2 ^ (-(e + fxBits)).toNat

/-- exp of a fixed-point number that is not negative: 2^16-th part, Taylor sum, 16 squarings. -/
def expFx (x : Nat) : Nat := squares 16 (taylor 48 0 (2 ^ fxBits) (x / 65536))

/-- Whether `n × 2^e` is above `k`. -/
def aboveNat (n : Nat) (e : Int) (k : Nat) : Bool := k * 2 ^ (-e).toNat < n * 2 ^ e.toNat

def fexp (a : Word32) : Word32 :=
  match f32 a with
  | .nan => f32Nan
  | .inf n => if n then 0#32 else f32Inf false
  | .num m e =>
    let n := m.natAbs
    if n = 0 then f32One
    else if aboveNat n e 104 then (if m < 0 then 0#32 else f32Inf false)
    else
      let x := expFx (toFx n e)
      if m < 0 then f32Ratio false (2 ^ fxBits) x 0 else f32Ratio false (2 * x + 1) 1 (-(fxBits : Int) - 1)

def ftanh (a : Word32) : Word32 :=
  match f32 a with
  | .nan => f32Nan
  | .inf n => if n then 0xBF800000#32 else f32One
  | .num m e =>
    let n := m.natAbs
    if n = 0 then 0#32
    else if aboveNat n e 16 then (if m < 0 then 0xBF800000#32 else f32One)
    else
      let x := expFx (2 * toFx n e)
      f32Ratio (m < 0) (x - 2 ^ fxBits) (x + 2 ^ fxBits) 0

def fsigmoid (a : Word32) : Word32 :=
  match f32 a with
  | .nan => f32Nan
  | .inf n => if n then 0#32 else f32One
  | .num m e =>
    let n := m.natAbs
    if aboveNat n e 104 then (if m < 0 then 0#32 else f32One)
    else
      let x := expFx (toFx n e)
      if m < 0 then f32Ratio false (2 ^ fxBits) (x + 2 ^ fxBits) 0 else f32Ratio false x (x + 2 ^ fxBits) 0

/-- atan(1/k) in fixed point of `b` bits: the alternating series as a pair of sums. -/
def atanInv (b k : Nat) : Nat → Nat → Nat → Int
  | 0, _, _ => 0
  | n + 1, i, p => (if i % 2 = 0 then ((p / (2 * i + 1) : Nat) : Int) else -((p / (2 * i + 1) : Nat) : Int)) +
      atanInv b k n (i + 1) (p / (k * k))

/-- π in fixed point of `b` bits (Machin). -/
def piFx (b : Nat) : Nat :=
  (16 * atanInv b 5 (b / 4 + 4) 0 (2 ^ b / 5) - 4 * atanInv b 239 (b / 15 + 4) 0 (2 ^ b / 239)).toNat

/-- The alternating sine and cosine sums of a fixed-point angle. -/
def trigSum (sq : Nat) : Nat → Nat → Nat → Int
  | 0, _, _ => 0
  | n + 1, i, term => (term : Int) - trigSum sq n (i + 2) (term * sq / 2 ^ fxBits / ((i + 1) * (i + 2)))

def sinFx (t : Nat) : Int := trigSum (t * t / 2 ^ fxBits) 60 1 t
def cosFx (t : Nat) : Int := trigSum (t * t / 2 ^ fxBits) 60 0 (2 ^ fxBits)

/-- sin and cos of `m × 2^e`, reduced exactly, each rounded once. -/
def sinCos (m : Int) (e : Int) : Word32 × Word32 :=
  if m = 0 then (0#32, f32One) else
    let b := fxBits + 192
    let half := piFx b
    let x := m.natAbs * 2 ^ (e + b).toNat / 2 ^ (-(e + b)).toNat
    -- quadrants of π/2
    let y := 2 * x
    let q := y / half % 4
    let t := (y % half) / 2 / 2 ^ 192
    let s := sinFx t
    let c := cosFx t
    let out (neg : Bool) (v : Int) : Word32 :=
      f32Ratio (neg != decide (v < 0)) (2 * v.natAbs + 1) 1 (-(fxBits : Int) - 1)
    let mneg := decide (m < 0)
    if q = 0 then (out mneg s, out false c)
    else if q = 1 then (out mneg c, out true s)
    else if q = 2 then (out (!mneg) s, out true c)
    else (out (!mneg) c, out false s)

/-- atanh(z) in fixed point for 0 ≤ z ≤ 1/3. -/
def atanhSum (sq : Nat) : Nat → Nat → Nat → Nat
  | 0, _, _ => 0
  | n + 1, i, p => p / (2 * i + 1) + atanhSum sq n (i + 1) (p * sq / 2 ^ fxBits)

def atanhFx (z : Nat) : Nat := atanhSum (z * z / 2 ^ fxBits) 110 0 z

/-- The natural logarithm, rounded once (R220's log-probability; DEDUCED, log entry 42). -/
def fln (a : Word32) : Word32 :=
  match f32 a with
  | .nan => f32Nan
  | .inf n => if n then f32Nan else f32Inf false
  | .num m e =>
    if m < 0 then f32Nan else if m = 0 then f32Inf true else
      let n := m.natAbs
      let k := Nat.log2 n
      -- n = 2^k (1 + f), ln = (k + e) ln 2 + 2 atanh(f / (2 + f))
      let f := n - 2 ^ k
      let l := 2 * atanhFx (f * 2 ^ fxBits / (2 ^ (k + 1) + f))
      let v : Int := (e + k) * (2 * atanhFx (2 ^ fxBits / 3) : Nat) + l
      f32Ratio (v < 0) v.natAbs 1 (-(fxBits : Int))

def fsilu (x : Word32) : Word32 := fmul x (fsigmoid x)

/-- GELU_TANH, step by step (R102). -/
def fgelu (x : Word32) : Word32 :=
  let s := fmul (fmul x x) x
  let t := fma 0x3D372713#32 s x
  let t := fmul 0x3F4C422A#32 t
  let t := fadd f32One (ftanh t)
  fmul (fmul 0x3F000000#32 x) t

/-! ### Sums in lane order (R102) -/

/-- Pairwise combination of `2 n` lanes: lane i with lane i + n, and so on down. -/
def pairUp (op : Word32 → Word32 → Word32) : Nat → List Word32 → Word32
  | 0, l => l.headD 0
  | k + 1, l => let n := 2 ^ k; pairUp op k ((l.take n).zipWith op (l.drop n))

/-- The sum of n elements: element j to lane j mod 64, each lane in ascending j, the lanes pairwise. -/
def vecSum (xs : List Word32) : Word32 :=
  let lanes := (List.range 64).map fun i =>
    (chunksOf 64 xs).foldl (fun a c => match c.drop i with | x :: _ => fadd a x | [] => a) 0#32
  pairUp fadd 6 lanes

def vecMax (xs : List Word32) : Word32 := xs.foldl fmax (f32Inf true)

/-! ### Narrow formats (Tables 3.2 to 3.4) -/

/-- E4M3. -/
def e4m3 (b : Nat) : Fp :=
  let e := bitsOf b 6 3
  let m := bitsOf b 2 0
  let sg : Int := if bitOf b 7 then -1 else 1
  if e = 15 ∧ m = 7 then .nan
  else if e = 0 then .num (sg * m) (-9)
  else .num (sg * (m + 8)) ((e : Int) - 10)

/-- E2M1, in halves. -/
def e2m1 (c : Nat) : Fp :=
  let v : Nat := [0, 1, 2, 3, 4, 6, 8, 12].getD (c % 8) 0
  .num (if bitOf c 3 then -(v : Int) else v) (-1)

/-- INT3. -/
def int3 (c : Nat) : Fp := .num (if 4 ≤ c % 8 then (c % 8 : Int) - 8 else (c % 8 : Nat)) 0

/-- BF16, the upper half of a binary32. -/
def bf16 (h : Nat) : Fp := f32 (w32 (h * 65536))

/-! ### Conversions (R95 to R99) -/

/-- The least e with `x ≤ k × 2^e`, for a positive finite x: ceil(log2(x / k)). -/
def ceilLog2 (x : Fp) (k : Nat) : Int :=
  match x with
  | .num m e =>
    if m = 0 then 0 else
      let g := e + msbExp m.natAbs k
      if (Fp.num m.natAbs e).le (.num k g) then g else g + 1
  | _ => 0

def clampExp (e : Int) : Int := max (-100) (min 100 e)

/-- The exposures of R95 from the largest finite magnitude. -/
def expA8 (m : Fp) : Int := clampExp (ceilLog2 m 448)
def expA4 (m : Fp) : Int := clampExp (ceilLog2 m 2688)

/-- The largest finite magnitude. -/
def maxMag (xs : List Fp) : Fp :=
  xs.foldl (fun a x => if x.finite && a.le x.abs then x.abs else a) (.num 0 0)

/-- What a conversion writes, and whether it saturated and met a non-finite value. -/
structure Conv where
  code : Nat
  sat : Bool := false
  nonfinite : Bool := false
  deriving DecidableEq, Repr

/-- One element to A8 at exposure e (R96, R99). -/
def toA8 (x : Fp) (e : Int) : Conv :=
  match x with
  | .num m q =>
    if (Fp.num 448 e).lt x.abs then { code := 0x7E + 128 * b2n (m < 0), sat := true }
    else
      let c := magCode 4 (-9) m.natAbs 1 (q - e)
      { code := if c = 0 then 0 else c + 128 * b2n (m < 0) }
  | _ => { code := 0xFF, nonfinite := true }

/-- One element to BF16 (R98, R99). -/
def toBf16 (x : Fp) : Conv :=
  match x with
  | .nan => { code := 0x7FC0, nonfinite := true }
  | .inf n => { code := 0x7F80 + 0x8000 * b2n n, nonfinite := true }
  | .num m q =>
    let c := magCode 8 (-133) m.natAbs 1 q
    if c = 0 then { code := 0 }
    else if 0x7F80 ≤ c then { code := 0x7F80 + 0x8000 * b2n (m < 0), nonfinite := true }
    else { code := c + 0x8000 * b2n (m < 0) }

/-- A 16-element group in A4: its codes, scale, and counts (R97, R99). -/
structure Group4 where
  codes : List Nat
  scale : Nat
  sat : Bool := false
  nonfinite : Bool := false
  deriving DecidableEq, Repr

/-- One element against a group scale: the nearest E2M1 value to x / (S × 2^e), ties to even code, at most ±6. -/
def e2m1Code (x : Fp) (scale : Nat) (e : Int) : Nat :=
  match x, e4m3 scale with
  | .num m q, .num s t =>
    if m = 0 then 0 else
      let c := min 7 (magCode 2 (-1) m.natAbs s.natAbs (q - t - e))
      if c = 0 then 0 else c + 8 * b2n (m < 0)
  | _, _ => 0

/-- A group to A4 at exposure e; `dodged` is the place that the dodge path took out. -/
def toA4 (xs : List Fp) (e : Int) (dodged : Option Nat := none) : Group4 :=
  let ys := (indexed xs).map fun p => if some p.1 = dodged then Fp.num 0 0 else p.2
  if ys.any (fun x => !x.finite) then { codes := List.replicate 16 0, scale := 0xFF, nonfinite := true }
  else match maxMag ys with
    | .num m q =>
      if m = 0 then { codes := List.replicate 16 0, scale := 0 }
      else
        let c := magCodeUp 4 (-9) m.natAbs 6 (q - e)
        let sc := min c 0x7E
        { codes := ys.map fun x => e2m1Code x sc e, scale := sc, sat := decide (0x7E < c) }
    | _ => { codes := List.replicate 16 0, scale := 0 }

/-- The dodged element of a group (R105): finite, non-zero, and above four times every other magnitude. -/
def dodgePlace (xs : List Fp) : Option Nat :=
  ((indexed xs).find? fun p => p.2.finite && !p.2.isZero &&
    ((indexed xs).all fun o => o.1 == p.1 ||
      match o.2 with
      | .num _ _ => (o.2.abs.scale 2).lt p.2.abs
      | _ => false)).map (·.1)

/-- The value of an A4 code under its scale and exposure. -/
def fromA4 (code scale : Nat) (e : Int) : Fp := ((e2m1 code).mul (e4m3 scale)).scale e

/-- The value of an A8 code under its exposure. -/
def fromA8 (code : Nat) (e : Int) : Fp := (e4m3 code).scale e

/-- Two 4-bit codes per byte, the even element low. -/
def packNibbles (cs : List Nat) : Bytes :=
  (chunksOf 2 cs).map fun c => BitVec.ofNat 8 (c.headD 0 % 16 + 16 * (c.getD 1 0 % 16))

def nibble (b : Bytes) (i : Nat) : Nat := byteAt b (i / 2) / 16 ^ (i % 2) % 16

/-! ### The array's sums (R101) -/

/-- The exact sum of a group of products, rounded once. -/
def groupSum (ps : List (Fp × Fp)) : Word32 := (ps.foldl (fun a p => a.add (p.1.mul p.2)) (Fp.num 0 0)).to32

/-- S over the groups of 16 in ascending order, then the dodged products. -/
def arrayDot (ps : List (Fp × Fp)) (dodged : List (Fp × Fp)) : Word32 :=
  let s := (chunksOf 16 ps).foldl (fun a g => fadd a (groupSum g)) 0#32
  dodged.foldl (fun a p => ((f32 a).add (p.1.mul p.2)).to32) s

end Sys2Proof.Machine
end

