-- ==== Sys2Proof/Config.lean ====
section
/-! DEFINITION. What one module fixes and the spec does not state, as constants without a body: nothing can be
proved of their values. Each is named in the assumption log. -/

namespace Sys2Proof.Config

/-- A byte of the 16 ASCII bytes of the module serial (Table 9.2 SERIAL). -/
opaque serialByte : Nat → BitVec 8

/-- FW_VERSION of the firmware the module was shipped with, when its bank holds no header the model has seen. -/
opaque fwVersion : BitVec 32

/-- PLAN_FMT_MINOR, the highest plan FMT_MINOR accepted (Table 9.2). -/
opaque planFmtMinor : BitVec 16

/-- LINK_MINOR and LINK_MINOR_MIN of the shipped image (Tables 9.2 and 13.2). -/
opaque linkMinor : BitVec 8
opaque linkMinorMin : BitVec 8

/-- ENTERPRISE, Milhotra's IANA enterprise number (Table 9.2). -/
opaque enterprise : BitVec 32

/-- HANDOVER_ABI of the shipped image (Table 13.7). -/
opaque handoverAbi : BitVec 16

/-- CFG_FORMAT changes are registry versions above 1; the migration table of an image lies inside L2 (R422):
the value a key has after the migration, and how many keys it defaults. -/
opaque migratedValue : Nat → List (BitVec 8) → List (BitVec 8)
opaque migratedDefaults : Nat

/-- POWER_STATE of the OP_STATUS completion while the module is in S3, which Table 9.2 gives no code for. -/
opaque powerCodeInS3 : BitVec 2

/-- Draws of the module's random sources, by place: each use takes the next place (R110, R222, R305, R379). -/
opaque random : Nat → Nat

/-- Unique Device Secret, 48 bytes, and the fused hashes of the firmware key slots (R379, Table 12.2). -/
opaque udsByte : Nat → BitVec 8
opaque keyHashByte : Nat → Nat → BitVec 8
/-- A firmware key slot's revoke fuse. No command of the table burns one (Table 12.2). -/
opaque keyRevoked : Nat → Bool

/-- The measured digests of the ROM, L0, L1 and L2 of the shipped image (Table 12.4), by byte. -/
opaque imageDigestByte : Nat → Nat → BitVec 8
/-- SVNs of the shipped image (layer 0 to 2). -/
opaque shippedSvn : Nat → BitVec 6

/-- The certificate chain in DER: a certificate by its place in the chain (R381) and the identifier of the layer, as
a list of bytes; X.509 encodings are not stated by the spec. -/
opaque certificate : Nat → List (BitVec 8) → List (BitVec 8)

/-- An ECDSA signature by the key derived from an identifier over a message (R380, R385): the derivation of the key
pair is not stated. -/
opaque signature : List (BitVec 8) → List (BitVec 8) → List (BitVec 8)

/-- An SPDM message's fields that the spec leaves to DSP0274: by the response code. -/
opaque spdmFields : Nat → List (BitVec 8)

/-- Whether the DeviceID certificate in flash fails against the DeviceID key (Table 12.12 FLT_IDENTITY). -/
opaque identityBad : Bool

/-- The scan chains: how many, their lengths, and a captured bit (R396: the contents are not published). -/
opaque scanChains : Nat
opaque scanLength : Nat → Nat
opaque scanBit : Nat → Nat → Bool

/-- A value of the physical model that the spec states no rule for, by a code and its arguments. -/
opaque unstated : Nat → List Nat → Nat

/-- A result in a number format that the spec leaves unstated, by a code and the operand bits. -/
opaque unstatedWord : Nat → List (BitVec 32) → BitVec 32

end Sys2Proof.Config
end

