-- ==== Sys2Proof/Machine/Crypto.lean ====
section
/-! DEFINITION. The check values, digests and random draws the spec names by their standards: CRC-32C (R350, whose
parameters the spec gives), SHA-384 and HMAC-SHA-384 (R380), ECDSA P-384 verification (R414) and Philox-4x32-10
(R222). PRESUMED: the constants of SHA-384, P-384 and Philox are those of their published standards (log entry 20). -/

namespace Sys2Proof.Machine

open Sys2Proof

/-! ### CRC-32C (R350) -/

/-- One bit of the reflected CRC: 0x1EDC6F41 reflected is 0x82F63B78. -/
def crcBit (c : Nat) : Nat := if c % 2 = 1 then (c / 2) ^^^ 0x82F63B78 else c / 2

def crcByte (c : Nat) (b : Byte) : Nat :=
  let x := c ^^^ b.toNat
  crcBit (crcBit (crcBit (crcBit (crcBit (crcBit (crcBit (crcBit x)))))))

/-- CRC-32C of a byte string. -/
def crc32c (b : Bytes) : Nat := (b.foldl crcByte 0xFFFFFFFF) ^^^ 0xFFFFFFFF

/-! ### SHA-384 -/

/-- The round constants. -/
def shaK : List Nat :=
  [0x428a2f98d728ae22, 0x7137449123ef65cd, 0xb5c0fbcfec4d3b2f, 0xe9b5dba58189dbbc,
   0x3956c25bf348b538, 0x59f111f1b605d019, 0x923f82a4af194f9b, 0xab1c5ed5da6d8118,
   0xd807aa98a3030242, 0x12835b0145706fbe, 0x243185be4ee4b28c, 0x550c7dc3d5ffb4e2,
   0x72be5d74f27b896f, 0x80deb1fe3b1696b1, 0x9bdc06a725c71235, 0xc19bf174cf692694,
   0xe49b69c19ef14ad2, 0xefbe4786384f25e3, 0xfc19dc68b8cd5b5, 0x240ca1cc77ac9c65] ++
  [0x2de92c6f592b0275, 0x4a7484aa6ea6e483, 0x5cb0a9dcbd41fbd4, 0x76f988da831153b5,
   0x983e5152ee66dfab, 0xa831c66d2db43210, 0xb00327c898fb213f, 0xbf597fc7beef0ee4,
   0xc6e00bf33da88fc2, 0xd5a79147930aa725, 0x6ca6351e003826f, 0x142929670a0e6e70,
   0x27b70a8546d22ffc, 0x2e1b21385c26c926, 0x4d2c6dfc5ac42aed, 0x53380d139d95b3df,
   0x650a73548baf63de, 0x766a0abb3c77b2a8, 0x81c2c92e47edaee6, 0x92722c851482353b] ++
  [0xa2bfe8a14cf10364, 0xa81a664bbc423001, 0xc24b8b70d0f89791, 0xc76c51a30654be30,
   0xd192e819d6ef5218, 0xd69906245565a910, 0xf40e35855771202a, 0x106aa07032bbd1b8,
   0x19a4c116b8d2d0c8, 0x1e376c085141ab53, 0x2748774cdf8eeb99, 0x34b0bcb5e19b48a8,
   0x391c0cb3c5c95a63, 0x4ed8aa4ae3418acb, 0x5b9cca4f7763e373, 0x682e6ff3d6b2b8a3,
   0x748f82ee5defb2fc, 0x78a5636f43172f60, 0x84c87814a1f0ab72, 0x8cc702081a6439ec] ++
  [0x90befffa23631e28, 0xa4506cebde82bde9, 0xbef9a3f7b2c67915, 0xc67178f2e372532b,
   0xca273eceea26619c, 0xd186b8c721c0c207, 0xeada7dd6cde0eb1e, 0xf57d4f7fee6ed178,
   0x6f067aa72176fba, 0xa637dc5a2c898a6, 0x113f9804bef90dae, 0x1b710b35131c471b,
   0x28db77f523047d84, 0x32caab7b40c72493, 0x3c9ebe0a15c9bebc, 0x431d67c49c100d4c,
   0x4cc5d4becb3e42b6, 0x597f299cfc657e2a, 0x5fcb6fab3ad6faec, 0x6c44198c4a475817]

/-- The initial hash words. -/
def shaH : List Nat :=
  [0xcbbb9d5dc1059ed8, 0x629a292a367cd507, 0x9159015a3070dd17, 0x152fecd8f70e5939,
   0x67332667ffc00b31, 0x8eb44a8768581511, 0xdb0c2e0d64f98fa7, 0x47b5481dbefa4fa4]

def mask64 (x : Nat) : Nat := x % 2 ^ 64

def rotr64 (x n : Nat) : Nat := mask64 ((x >>> n) ||| (x <<< (64 - n)))

/-- The message with its padding: 0x80, zeros, and the bit length in 16 bytes. -/
def shaPad (m : Bytes) : Bytes :=
  let z := (128 - (m.length + 17) % 128) % 128
  m ++ [0x80#8] ++ zeros z ++ be 16 (8 * m.length)

/-- The schedule of a block, newest word first: `n` words are added to the sixteen read. -/
def shaSchedule : Nat → List Nat → List Nat
  | 0, w => w
  | n + 1, w =>
    let w2 := w.getD 1 0
    let w7 := w.getD 6 0
    let w15 := w.getD 14 0
    let w16 := w.getD 15 0
    let s0 := rotr64 w15 1 ^^^ rotr64 w15 8 ^^^ (w15 >>> 7)
    let s1 := rotr64 w2 19 ^^^ rotr64 w2 61 ^^^ (w2 >>> 6)
    shaSchedule n (mask64 (w16 + s0 + w7 + s1) :: w)

/-- The eight working words. -/
structure ShaWords where
  (a b c d e f g h : Nat)
  deriving DecidableEq, Repr

def shaRound (v : ShaWords) (kw : Nat × Nat) : ShaWords :=
  let s1 := rotr64 v.e 14 ^^^ rotr64 v.e 18 ^^^ rotr64 v.e 41
  let ch := (v.e &&& v.f) ^^^ ((2 ^ 64 - 1 - v.e) &&& v.g)
  let t1 := mask64 (v.h + s1 + ch + kw.1 + kw.2)
  let s0 := rotr64 v.a 28 ^^^ rotr64 v.a 34 ^^^ rotr64 v.a 39
  let mj := (v.a &&& v.b) ^^^ (v.a &&& v.c) ^^^ (v.b &&& v.c)
  { a := mask64 (t1 + mask64 (s0 + mj)), b := v.a, c := v.b, d := v.c
    e := mask64 (v.d + t1), f := v.e, g := v.f, h := v.g }

def shaBlock (v : ShaWords) (blk : Bytes) : ShaWords :=
  let w := ((chunksOf 8 blk).map rdBe).reverse
  let sch := (shaSchedule 64 w).reverse
  let r := (shaK.zip sch).foldl shaRound v
  { a := mask64 (v.a + r.a), b := mask64 (v.b + r.b), c := mask64 (v.c + r.c), d := mask64 (v.d + r.d)
    e := mask64 (v.e + r.e), f := mask64 (v.f + r.f), g := mask64 (v.g + r.g), h := mask64 (v.h + r.h) }

/-- SHA-384 of a byte string: 48 bytes. -/
def sha384 (m : Bytes) : Bytes :=
  let h := fun i => shaH.getD i 0
  let v0 : ShaWords := { a := h 0, b := h 1, c := h 2, d := h 3, e := h 4, f := h 5, g := h 6, h := h 7 }
  let v := (chunksOf 128 (shaPad m)).foldl shaBlock v0
  be 8 v.a ++ be 8 v.b ++ be 8 v.c ++ be 8 v.d ++ be 8 v.e ++ be 8 v.f

/-- HMAC-SHA-384 (Table 12.1). -/
def hmac384 (key msg : Bytes) : Bytes :=
  let k := fit 128 (if key.length > 128 then sha384 key else key)
  sha384 (k.map (· ^^^ 0x5C#8) ++ sha384 (k.map (· ^^^ 0x36#8) ++ msg))

/-! ### ECDSA over P-384 (Table 13.7) -/

def p384 : Nat := 2 ^ 384 - 2 ^ 128 - 2 ^ 96 + 2 ^ 32 - 1
def n384 : Nat :=
  0xFFFFFFFFFFFFFFFFFFFFFFFFFFFFFFFFFFFFFFFFFFFFFFFFC7634D81F4372DDF581A0DB248B0A77AECEC196ACCC52973
def b384 : Nat :=
  0xB3312FA7E23EE7E4988E056BE3F82D19181D9C6EFE8141120314088F5013875AC656398D8A2ED19D2A85C8EDD3EC2AEF
def gx384 : Nat :=
  0xAA87CA22BE8B05378EB1C71EF320AD746E1D3B628BA79B9859F741E082542A385502F25DBF55296C3A545E3872760AB7
def gy384 : Nat :=
  0x3617DE4A96262C6F5D9E98BF9292DC29F8F41DBD289A147CE9DA3113B5F0B8C00A60B1CE1D7E819D7A431D7C90EA0E5F

/-- x^e mod m by squaring; `n` bounds the bits of e. -/
def powMod (m : Nat) : Nat → Nat → Nat → Nat
  | 0, _, _ => 1 % m
  | n + 1, x, e =>
    let r := powMod m n (x * x % m) (e / 2)
    if e % 2 = 1 then x * r % m else r

def invMod (m x : Nat) : Nat := powMod m 384 (x % m) (m - 2)

/-- A point in Jacobian coordinates; z = 0 is the point at infinity. -/
structure JPoint where
  (x y z : Nat)
  deriving DecidableEq, Repr

def subMod (a b : Nat) : Nat := (a + p384 - b % p384) % p384

def jDouble (q : JPoint) : JPoint :=
  if q.z = 0 then q else
  let p := p384
  let d := q.z * q.z % p
  let g := q.y * q.y % p
  let b := q.x * g % p
  let a := 3 * (subMod q.x d) % p * ((q.x + d) % p) % p
  let x3 := subMod (a * a) (8 * b)
  let z3 := subMod (subMod ((q.y + q.z) * (q.y + q.z)) g) d
  { x := x3, y := subMod (a * subMod (4 * b) x3) (8 * g * g), z := z3 }

def jAdd (q r : JPoint) : JPoint :=
  if q.z = 0 then r else if r.z = 0 then q else
  let p := p384
  let z1 := q.z * q.z % p
  let z2 := r.z * r.z % p
  let u1 := q.x * z2 % p
  let u2 := r.x * z1 % p
  let s1 := q.y * r.z % p * z2 % p
  let s2 := r.y * q.z % p * z1 % p
  if u1 = u2 then (if s1 = s2 then jDouble q else { x := 1, y := 1, z := 0 }) else
  let h := subMod u2 u1
  let r' := subMod s2 s1
  let h2 := h * h % p
  let h3 := h * h2 % p
  let v := u1 * h2 % p
  let x3 := subMod (subMod (r' * r') h3) (2 * v)
  { x := x3, y := subMod (r' * subMod v x3) (s1 * h3), z := q.z * r.z % p * h % p }

/-- k times a point, from the highest of `n` bits. -/
def jMul : Nat → Nat → JPoint → JPoint
  | 0, _, _ => { x := 1, y := 1, z := 0 }
  | n + 1, k, q =>
    let d := jDouble (jMul n (k / 2) q)
    if k % 2 = 1 then jAdd d q else d

/-- Whether the signature r ‖ s verifies under the key x ‖ y over the SHA-384 of the message. -/
def ecdsaVerify (key msg sig : Bytes) : Bool :=
  let qx := rdBe (cut key 0 48)
  let qy := rdBe (cut key 48 48)
  let r := rdBe (cut sig 0 48)
  let s := rdBe (cut sig 48 48)
  let onCurve := qx < p384 && qy < p384 &&
    qy * qy % p384 == (qx * qx % p384 * qx + (p384 - 3) * qx + b384) % p384
  if onCurve && 0 < r && r < n384 && 0 < s && s < n384 then
    let e := rdBe (sha384 msg) % n384
    let w := invMod n384 s
    let pt := jAdd (jMul 384 (e * w % n384) { x := gx384, y := gy384, z := 1 })
      (jMul 384 (r * w % n384) { x := qx, y := qy, z := 1 })
    if pt.z = 0 then false else
    let zi := invMod p384 pt.z
    (pt.x * zi % p384 * zi % p384) % n384 == r
  else false

/-! ### Philox-4x32-10 (R222) -/

structure PhiloxCtr where
  (c0 c1 c2 c3 : Nat)
  deriving DecidableEq, Repr

def philoxRound (k0 k1 : Nat) (c : PhiloxCtr) : PhiloxCtr :=
  let p0 := 0xD2511F53 * c.c0
  let p1 := 0xCD9E8D57 * c.c2
  { c0 := (p1 / 2 ^ 32) ^^^ c.c1 ^^^ k0, c1 := p1 % 2 ^ 32
    c2 := (p0 / 2 ^ 32) ^^^ c.c3 ^^^ k1, c3 := p0 % 2 ^ 32 }

def philoxRounds : Nat → Nat → Nat → PhiloxCtr → PhiloxCtr
  | 0, _, _, c => c
  | n + 1, k0, k1, c =>
    philoxRounds n ((k0 + 0x9E3779B9) % 2 ^ 32) ((k1 + 0xBB67AE85) % 2 ^ 32) (philoxRound k0 k1 c)

/-- The four words of Philox-4x32-10 under a 64-bit key, low word first. -/
def philox (key : Nat) (c : PhiloxCtr) : PhiloxCtr :=
  philoxRounds 10 (key % 2 ^ 32) (key / 2 ^ 32 % 2 ^ 32) c

end Sys2Proof.Machine
end

