-- ==== Sys2Proof/Machine/Operands.lean ====
section
/-! DEFINITION. Operand forms: the plan object's header, sections and descriptors (chapter 2), module indices and
the slice rectangle (R18, R50), fabric and module-range addresses (R41, R50), and destinations (R65). A field is
named as the tables name it, by the offset of its word and its bits. -/

namespace Sys2Proof.Machine

open Sys2Proof

/-! ### Fields of 32-bit word lists -/

/-- The word at a byte offset. -/
def wordAt (ws : List Nat) (off : Nat) : Nat := ws.getD (off / 4) 0

/-- A field written "off [hi:lo]". -/
def fld (ws : List Nat) (off hi lo : Nat) : Nat := bitsOf (wordAt ws off) hi lo

/-- A field written "off [63:0]". -/
def fld64 (ws : List Nat) (off : Nat) : Nat := wordAt ws off + 2 ^ 32 * wordAt ws (off + 4)

/-- The bytes from a word offset: `n` words as bytes. -/
def fldBytes (ws : List Nat) (off n : Nat) : Bytes :=
  (List.range (n / 4)).flatMap (fun i => le 4 (wordAt ws (off + 4 * i)))

/-- A byte string as 32-bit words. -/
def wordsOf (b : Bytes) : List Nat := (chunksOf 4 b).map (fun c => rd 4 c 0)

/-! ### Sections of a plan (Table 2.3) -/

def secLayer : Nat := 1
def secIndex : Nat := 2
def secDesc : Nat := 3
def secTensor : Nat := 4
def secShard : Nat := 5
def secExpert : Nat := 6
def secResv : Nat := 7
def secRouting : Nat := 8
def secNeigh : Nat := 9
def secDigests : Nat := 10

/-- The entries of a section; none where it is absent. -/
def PlanObj.sec (p : PlanObj) (t : Nat) : List (List Nat) := tgetD p.secs t []

/-- An entry of a section; all zero where there is none. -/
def PlanObj.ent (p : PlanObj) (t i : Nat) : List Nat := (p.sec t).getD i []

/-! ### Header fields (Table 2.1) -/

def PlanObj.h (p : PlanObj) (off hi lo : Nat) : Nat := fld p.hdr off hi lo
def PlanObj.planGen (p : PlanObj) : Nat := p.h 0x08 31 0
def PlanObj.sliceId (p : PlanObj) : Nat := p.h 0x10 15 0
def PlanObj.moduleIndex (p : PlanObj) : Nat := p.h 0x14 8 0
def PlanObj.leadIndex (p : PlanObj) : Nat := p.h 0x14 17 9
def PlanObj.nLayers (p : PlanObj) : Nat := p.h 0x2C 15 0
def PlanObj.maxPositions (p : PlanObj) : Nat := p.h 0x40 15 0
def PlanObj.chunkPositions (p : PlanObj) : Nat := p.h 0x40 31 16
def PlanObj.assumeAccept (p : PlanObj) : Nat := p.h 0x44 15 0
def PlanObj.promoteDefault (p : PlanObj) : Nat := p.h 0x44 23 16
def PlanObj.streamBwPct (p : PlanObj) : Nat := p.h 0x44 31 24
def PlanObj.preNs (p : PlanObj) : Nat := p.h 0x48 31 0
def PlanObj.postNs (p : PlanObj) : Nat := p.h 0x4C 31 0
def PlanObj.maxSessionsHb (p : PlanObj) : Nat := p.h 0x50 15 0
def PlanObj.vocab (p : PlanObj) : Nat := p.h 0x54 31 0
def PlanObj.maxContext (p : PlanObj) : Nat := p.h 0x58 31 0
/-- TILES_USED of a C-die. -/
def PlanObj.tilesUsed (p : PlanObj) (c : Nat) : Nat := bitsOf (wordAt p.hdr (0x30 + c / 4 * 4)) (c % 4 * 8 + 7) (c % 4 * 8)
/-- The header's PLAN_DIGEST. -/
def PlanObj.planDigest (p : PlanObj) : Bytes := fldBytes p.hdr 0x60 48
/-- The proof modules' indices, N_PROOF of them. -/
def PlanObj.proofs (p : PlanObj) : List Nat :=
  [p.h 0x24 8 0, p.h 0x24 24 16, p.h 0x28 8 0, p.h 0x28 24 16].take (p.h 0x20 2 0)

/-! ### Module indices and the slice (R18, R50) -/

def coordX (m : Nat) : Nat := m % 8
def coordY (m : Nat) : Nat := m / 8 % 16
def coordZ (m : Nat) : Nat := m / 128 % 4
def moduleAt (x y z : Nat) : Nat := x + 8 * y + 128 * z

structure Rect where
  (x y z dx dy dz : Nat)
  deriving DecidableEq, Repr

def PlanObj.rect (p : PlanObj) : Rect :=
  { x := p.h 0x18 7 0, y := p.h 0x18 15 8, z := p.h 0x18 23 16
    dx := p.h 0x1C 7 0, dy := p.h 0x1C 15 8, dz := p.h 0x1C 23 16 }

def Rect.has (r : Rect) (m : Nat) : Bool :=
  r.x ≤ coordX m && coordX m < r.x + r.dx && r.y ≤ coordY m && coordY m < r.y + r.dy &&
    r.z ≤ coordZ m && coordZ m < r.z + r.dz

/-- A rectangle's modules in ascending index. -/
def Rect.modules (r : Rect) : List Nat :=
  (rangeFrom r.z r.dz).flatMap fun z => (rangeFrom r.y r.dy).flatMap fun y =>
    (rangeFrom r.x r.dx).map fun x => moduleAt x y z

/-- The modules of the slice, in ascending index. -/
def PlanObj.modules (p : PlanObj) : List Nat := p.rect.modules
def PlanObj.inSlice (p : PlanObj) (m : Nat) : Bool := p.rect.has m
/-- A module's rank in the slice, in ascending index. -/
def PlanObj.rank (p : PlanObj) (m : Nat) : Nat := p.modules.idxOf m

/-! ### Addresses (R41, R49, R50) -/

def pageBytes : Nat := 0x200000
def blockBytes : Nat := 4096
/-- Module index of a fabric address: bits [52:44]. -/
def fabMod (a : Nat) : Nat := bitsOf a 52 44
/-- Local part of a fabric address: bits [43:0]. -/
def fabLocal (a : Nat) : Nat := bitsOf a 43 0
def fabAddr (m a : Nat) : Nat := m * 2 ^ 44 + a % 2 ^ 44
def pageOf (a : Nat) : Nat := a / pageBytes
def blockOf (a : Nat) : Nat := a / blockBytes

/-! ### Tiles (R20, R23) -/

def tileDie (t : Nat) : Nat := t / 144
def tileIn (t : Nat) : Nat := t % 144
def ptileDie (p : Nat) : Nat := p / 160

/-- The physical view address of a physical tile's store: weight buffer, activation buffer, accumulators (R48). -/
def tileBase (p : Nat) : Nat := 0xA0800000000 + p * 0x400000
def actBase (p : Nat) : Nat := tileBase p + 0x200000
def accBase (p : Nat) : Nat := tileBase p + 0x300000
def t1Base : Nat := 0xA0000000000
def t2Base : Nat := 0x80000000000
def reservedBase : Nat := 0xA0A80000000

/-- The tier of a physical view address (Table 1.9); none in the reserved part. -/
def viewTier (a : Nat) : Option Nat :=
  if a < t2Base then some 3 else if a < t1Base then some 2 else if a < 0xA0800000000 then some 1
  else if a < reservedBase ∧ a % 0x400000 < 0x380000 then some 0 else none

/-- The unit that holds a physical view address: stack, T3 channel, S-die segment or tile (Table 11.1). -/
def viewUnit (a : Nat) : UnitId :=
  if a < t2Base then ⟨4, a / 0x8000000000⟩
  else if a < t1Base then ⟨3, (a - t2Base) / 0x1000000000⟩
  else if a < 0xA0800000000 then ⟨2, (a - t1Base) / 0x8000000⟩
  else ⟨1, (a - 0xA0800000000) / 0x400000⟩

/-! ### Program index and descriptors (R63 to R66) -/

/-- Phase codes: 0 is PRE, 1 + n is layer n, N_LAYERS + 1 is POST, in the order of the program index. -/
def phaseOfLayer (n : Nat) : Nat := n + 1
def PlanObj.postPhase (p : PlanObj) : Nat := p.nLayers + 1

/-- LAYER_CODE of a phase (Table 11.12): the layer; N_LAYERS for PRE; N_LAYERS + 1 for POST. -/
def PlanObj.layerCode (p : PlanObj) (ph : Nat) : Nat :=
  if ph = 0 then p.nLayers else if ph = p.postPhase then p.nLayers + 1 else ph - 1

/-- FIRST of a tile's program for a phase. -/
def PlanObj.progFirst (p : PlanObj) (ph t : Nat) : Nat := fld (p.ent secIndex (ph * 2304 + t)) 0 31 0
/-- COUNT of a tile's program for a phase. -/
def PlanObj.progCount (p : PlanObj) (ph t : Nat) : Nat := fld (p.ent secIndex (ph * 2304 + t)) 4 15 0

def PlanObj.desc (p : PlanObj) (i : Nat) : List Nat := p.ent secDesc i
/-- A layer's table entry. -/
def PlanObj.layer (p : PlanObj) (n : Nat) : List Nat := p.ent secLayer n
def layerKind (l : List Nat) : Nat := fld l 0 17 16
def layerStreamed (l : List Nat) : Bool := fld l 0 18 18 = 1
def layerResNs (l : List Nat) : Nat := fld l 4 31 0

/-- Reserved time of a phase. -/
def PlanObj.resNs (p : PlanObj) (ph : Nat) : Nat :=
  if ph = 0 then p.preNs else if ph = p.postPhase then p.postNs else layerResNs (p.layer (ph - 1))

/-- Whether a logical tile has work in the plan. -/
def PlanObj.hasWork (p : PlanObj) (t : Nat) : Bool :=
  (List.range (p.nLayers + 2)).any (fun ph => p.progCount ph t != 0)

def dOpc (d : List Nat) : Nat := fld d 0 7 0
def dUnit (d : List Nat) : Nat := fld d 0 9 8
def dHb (d : List Nat) : Nat := fld d 0 16 16
def dMasked (d : List Nat) : Bool := fld d 0 17 17 = 1
def dStripOk (d : List Nat) : Bool := fld d 0 18 18 = 1
def dShadowOk (d : List Nat) : Bool := fld d 0 19 19 = 1
def dVarRows (d : List Nat) : Bool := fld d 0 20 20 = 1
def dPhase (d : List Nat) : Nat := fld d 0 22 21
def dLayer (d : List Nat) : Nat := fld d 4 15 0
def dMaskBlk (d : List Nat) : Nat := fld d 4 23 16
def dInCh (d : List Nat) (i : Nat) : Nat := fld d (0x08 + 4 * i) 7 0
def dInMarks (d : List Nat) (i : Nat) : Nat := fld d (0x08 + 4 * i) 31 16
def dOutCh (d : List Nat) (j : Nat) : Nat := fld d (0x18 + 4 * j) 7 0
def dOutCred (d : List Nat) (j : Nat) : Nat := fld d (0x18 + 4 * j) 31 16

/-- The phase a descriptor runs in. -/
def PlanObj.dPhaseOf (p : PlanObj) (d : List Nat) : Nat :=
  if dPhase d = 0 then 0 else if dPhase d = 2 then p.postPhase else phaseOfLayer (dLayer d)

/-- A destination (Table 2.7). Kind 0 NONE, 1 TILE, 2 RANGE, 3 MCAST. -/
structure Dest where
  addr : Nat
  kind : Nat
  dch : Nat
  dtile : Nat
  dmod : Nat
  deriving DecidableEq, Repr

def dDest (d : List Nat) (j : Nat) : Dest :=
  let o := 0x20 + 16 * j
  { addr := fld64 d o, kind := fld d (o + 8) 2 0, dch := fld d (o + 8) 15 8
    dtile := fld d (o + 8) 31 16, dmod := fld d (o + 12) 8 0 }

/-! ### Tensors (Table 2.19) -/

def PlanObj.tensor (p : PlanObj) (id : Nat) : Option (List Nat) :=
  (p.sec secTensor).find? (fun t => fld t 0 31 0 == id)
def tnKind (t : List Nat) : Nat := fld t 4 7 0
def tnFmt (t : List Nat) : Nat := fld t 4 15 8
def tnHint (t : List Nat) : Nat := fld t 4 19 16
def tnStreamed (t : List Nat) : Bool := fld t 4 20 20 = 1
def tnBase (t : List Nat) : Nat := fld64 t 8
def tnBytes (t : List Nat) : Nat := fld64 t 0x10
def tnRows (t : List Nat) : Nat := fld t 0x18 31 0
def tnCols (t : List Nat) : Nat := fld t 0x1C 31 0
def tnLayer (t : List Nat) : Nat := fld t 0x20 15 0
def tnLayerValid (t : List Nat) : Bool := fld t 0x20 16 16 = 1
def tnTile (t : List Nat) : Nat := fld t 0x24 15 0
def tnPages (t : List Nat) : Nat := ceilDiv (tnBytes t) pageBytes

/-- The tensor that holds a module-range address. -/
def PlanObj.tensorAt (p : PlanObj) (a : Nat) : Option (List Nat) :=
  (p.sec secTensor).find? (fun t => tnBase t ≤ a && a < tnBase t + tnPages t * pageBytes)

/-! ### Slice tables (Tables 2.20 to 2.24) -/

/-- The shards of a module. -/
def PlanObj.shardsOf (p : PlanObj) (m : Nat) : List (List Nat) :=
  (p.sec secShard).filter (fun e => fld e 4 8 0 == m)
def PlanObj.shard (p : PlanObj) (m id : Nat) : Option (List Nat) :=
  (p.shardsOf m).find? (fun e => fld e 0 31 0 == id)
def shId (e : List Nat) : Nat := fld e 0 31 0
def shCoded (e : List Nat) : Bool := fld e 4 16 16 = 1
def shTensor (e : List Nat) : Nat := fld e 8 31 0
def shOffset (e : List Nat) : Nat := fld64 e 0x10
def shLength (e : List Nat) : Nat := fld64 e 0x18
def shDigest (e : List Nat) : Bytes := fldBytes e 0x20 48

/-- The expert map entry of a layer's expert. -/
def PlanObj.expert (p : PlanObj) (layer x : Nat) : Option (List Nat) :=
  (p.sec secExpert).find? (fun e => fld e 0 15 0 == layer && fld e 0 25 16 == x)
def exOwner (e : List Nat) : Nat := fld e 4 8 0
def exFirstTile (e : List Nat) : Nat := fld e 8 15 0
def exTiles (e : List Nat) : Nat := fld e 8 23 16
def exExpert (e : List Nat) : Nat := fld e 0 25 16

def PlanObj.resv (p : PlanObj) (i : Nat) : List Nat := p.ent secResv i
def rsLayer (e : List Nat) : Nat := fld e 0 15 0
def rsSlots (e : List Nat) : Nat := fld e 4 31 0
def rsPages (e : List Nat) : Nat := fld e 8 15 0
def rsBase (e : List Nat) : Nat := fld64 e 0x10
/-- The reservation entry of a layer. -/
def PlanObj.resvOfLayer (p : PlanObj) (l : Nat) : Option (List Nat) :=
  (p.sec secResv).find? (fun e => rsLayer e == l)

/-- The neighbour entry of a port code (Table 2.24). -/
def PlanObj.neighbour (p : PlanObj) (port : Nat) : List Nat :=
  ((p.sec secNeigh).find? (fun e => fld e 0 2 0 == port)).getD []
def nbExpected (e : List Nat) : Bool := fld e 0 8 8 = 1
def nbOptional (e : List Nat) : Bool := fld e 0 9 9 = 1
def nbRemapOk (e : List Nat) : Bool := fld e 0 10 10 = 1
def nbIndex (e : List Nat) : Nat := fld e 4 8 0
def nbPort (e : List Nat) : Nat := fld e 4 11 9
def nbSerial (e : List Nat) : Bytes := fldBytes e 8 16
def nbSlice (e : List Nat) : Nat := fld e 0x18 15 0

end Sys2Proof.Machine
end

