-- ==== Sys2Proof/Machine/Ops.lean ====
section
/-! DEFINITION. The named operations that the commands share: changing a group of the state, what the module sends,
counters (R375), interrupt causes (R283), event, log and fault records (R363, R369 to R374), memory over the fixed
physical view and the module range (R41, R48), and the settings' running values. -/

namespace Sys2Proof.Machine

open Sys2Proof

/-- What a command's meaning answers. -/
abbrev Ret := Host.Outcome State Fault Refusal

/-! ### Changing one group of the state -/

def State.onClock (s : State) (f : Clock → Clock) : State := { s with clock := f s.clock }
def State.onMbox (s : State) (f : Mbox → Mbox) : State := { s with mbox := f s.mbox }
def State.onCfg (s : State) (f : Cfg → Cfg) : State := { s with cfg := f s.cfg }
def State.onWts (s : State) (f : Weights → Weights) : State := { s with wts := f s.wts }
def State.onMem (s : State) (f : Mem → Mem) : State := { s with mem := f s.mem }
def State.onTiles (s : State) (f : Tiles → Tiles) : State := { s with tiles := f s.tiles }
def State.onSteps (s : State) (f : Steps → Steps) : State := { s with steps := f s.steps }
def State.onSrv (s : State) (f : Serving → Serving) : State := { s with srv := f s.srv }
def State.onKv (s : State) (f : Kv → Kv) : State := { s with kv := f s.kv }
def State.onAdp (s : State) (f : Adapters → Adapters) : State := { s with adp := f s.adp }
def State.onFab (s : State) (f : Fabric → Fabric) : State := { s with fab := f s.fab }
def State.onPwr (s : State) (f : Power → Power) : State := { s with pwr := f s.pwr }
def State.onInteg (s : State) (f : Integ → Integ) : State := { s with integ := f s.integ }
def State.onSec (s : State) (f : Security → Security) : State := { s with sec := f s.sec }
def State.onFw (s : State) (f : Firmware → Firmware) : State := { s with fw := f s.fw }
def State.onPins (s : State) (f : Pins → Pins) : State := { s with pins := f s.pins }
def State.onCounters (s : State) (f : Tbl Nat → Tbl Nat) : State := { s with counters := f s.counters }

/-! ### Sending, time and free values -/

/-- One more thing sent. -/
def State.emit (s : State) (o : Out) : State := { s with out := s.out ++ [o] }
def State.emits (s : State) (os : List Out) : State := { s with out := s.out ++ os }

/-- Module time since start-up in microseconds, as DONE_US (Table 9.3). -/
def State.nowUs (s : State) : Nat := ((s.clock.timeNs - s.clock.startNs) / 1000) % 2 ^ 32
def State.now (s : State) : Nat := s.clock.timeNs

/-- A draw below `n` from the module's random source; the next draw is another (R110, R222, R305). -/
def State.draw (s : State) (n : Nat) : Nat := Config.random s.freeCtr % n
def State.drawn (s : State) : State := { s with freeCtr := s.freeCtr + 1 }

/-! ### The loaded plan and this module -/

def State.plan? (s : State) : Option PlanObj := s.wts.main
def emptyPlan : PlanObj := { hdr := [], secs := [], totalBytes := 0, digest := [] }
/-- The loaded plan; all zero where there is none. -/
def State.plan (s : State) : PlanObj := s.wts.main.getD emptyPlan
/-- This module's index, where a plan gives it one (R49). -/
def State.index? (s : State) : Option Nat := s.wts.main.map PlanObj.moduleIndex
def State.index (s : State) : Nat := s.plan.moduleIndex
/-- Whether this module is the lead of a loaded plan. -/
def State.isLead (s : State) : Bool := s.wts.main.any (fun p => p.moduleIndex == p.leadIndex)
/-- The modules of the slice, in ascending index. -/
def State.sliceModules (s : State) : List Nat := if s.wts.main.isSome then s.plan.modules else []
def State.others (s : State) : List Nat := s.sliceModules.filter (· != s.index)

def SliceState.code : SliceState → Nat
  | .noPlan => 0 | .stopped => 1 | .starting => 2 | .running => 3 | .draining => 4 | .haltedSoft => 5
  | .haltedHard => 6

/-- STARTING, RUNNING or DRAINING. -/
def State.sliceBusy (s : State) : Bool :=
  s.srv.sliceState == .starting || s.srv.sliceState == .running || s.srv.sliceState == .draining
/-- NO_PLAN, STOPPED, HALTED_SOFT or HALTED_HARD. -/
def State.sliceIdle (s : State) : Bool := !s.sliceBusy

/-- S0, S1 or S2: the main rails are powered (R365). -/
def State.mainOn (s : State) : Bool := s.pwr.state == .s0 || s.pwr.state == .s1 || s.pwr.state == .s2

/-- Whether BAR0 answers: the PCIe endpoint has power (Table 10.4, R420). -/
def State.endpoint (s : State) : Bool := s.mainOn || s.fw.safelight

/-- Whether the runtime firmware L2 runs: from the end of start-up stage 4 while the main rails are on (Table 13.1). -/
def State.l2Up (s : State) : Bool := s.mainOn && 5 ≤ s.fw.stage

/-! ### Counters (R375) -/

/-- COUNTER_ID of place `pl` in table `tbl` of chapter `ch`. -/
def counterId (ch tbl pl : Nat) : Nat := ch * 2 ^ 24 + tbl * 2 ^ 16 + pl * 2 ^ 8

def counterKey (id inst : Nat) : Nat := id * 2 ^ 32 + inst

def State.counter (s : State) (id inst : Nat) : Nat := tgetD s.counters (counterKey id inst) 0

/-- A counter raised by `n`, in 64 bits. -/
def State.count (s : State) (id inst n : Nat) : State :=
  if n = 0 then s else
    { s with counters := tmod s.counters (counterKey id inst) 0 (fun c => (c + n) % 2 ^ 64) }

/-- A gauge set to a value. -/
def State.gauge (s : State) (id inst v : Nat) : State :=
  { s with counters := tset s.counters (counterKey id inst) v }

/-- Counters 3.9. -/
def ctSat := counterId 3 9 1
def ctNonfinite := counterId 3 9 2
def ctDodgeElements := counterId 3 9 3
def ctDodgeOverflow := counterId 3 9 4
def ctStripSampled := counterId 3 9 5
def ctStripNonfinite := counterId 3 9 6
def ctStripFail := counterId 3 9 7
def ctStripA8 := counterId 3 9 8
def ctPromotions := counterId 3 9 9
/-- Counters 4.11. -/
def ctKvAppendRows := counterId 4 11 1
def ctKvCommits := counterId 4 11 2
def ctKvStaleCommit := counterId 4 11 3
def ctKvGrant := counterId 4 11 4
def ctKvCommit := counterId 4 11 5
def ctAttnOver := counterId 4 11 6
def ctWindowFixes := counterId 4 11 7
def ctCsLookups := counterId 4 11 8
def ctCsHitChunks := counterId 4 11 9
def ctCsCopy := counterId 4 11 10
def ctCsInsert := counterId 4 11 11
def ctCsEvict := counterId 4 11 12
def ctKvWait := counterId 4 11 13
def ctPauseFixed := counterId 4 11 14
def ctPauseRestored := counterId 4 11 15
/-- Counters 5.10. -/
def ctFlitsTx := counterId 5 10 1
def ctFlitsRx := counterId 5 10 2
def ctFecCorrected := counterId 5 10 3
def ctFlitDropped := counterId 5 10 4
def ctReplays := counterId 5 10 5
def ctRetrains := counterId 5 10 6
def ctBadPacket := counterId 5 10 7
def ctForeignPacket := counterId 5 10 8
def ctRemoteReads := counterId 5 10 9
def ctCacheHits := counterId 5 10 10
def ctCacheInvalidated := counterId 5 10 11
def ctRedBlocks := counterId 5 10 12
def ctRedWait := counterId 5 10 13
def ctMcastBlocks := counterId 5 10 14
def ctSlotsSent := counterId 5 10 15
def ctSlotsLanded := counterId 5 10 16
def ctReturnsLanded := counterId 5 10 17
def ctDispatchWait := counterId 5 10 18
/-- Counters 6.12. -/
def ctRequests := counterId 6 12 1
def ctRefused := counterId 6 12 2
def ctTokensPrefilled := counterId 6 12 3
def ctTokensEmitted := counterId 6 12 4
def ctPrefillSteps := counterId 6 12 5
def ctVerifySteps := counterId 6 12 6
def ctDeferred := counterId 6 12 7
def ctDraftMiss := counterId 6 12 8
def ctDraftLate := counterId 6 12 9
def ctAcceptHist := counterId 6 12 10
def ctSessionRate := counterId 6 12 11
def ctAdapterWait := counterId 6 12 12
def ctKvFullEnds := counterId 6 12 13
/-- Counters 7.12. -/
def ctBwBytes := counterId 7 12 1
def ctShardBytes := counterId 7 12 2
def ctShardVerified := counterId 7 12 3
def ctShardFailed := counterId 7 12 4
def ctChunkRetry := counterId 7 12 5
def ctChunkRecovered := counterId 7 12 6
def ctStreamPlanned := counterId 7 12 7
def ctStreamStall := counterId 7 12 8
def ctRepair := counterId 7 12 9
def ctSwapHold := counterId 7 12 10
def ctSwaps := counterId 7 12 11
def ctSweepBytes := counterId 7 12 12
def ctSweepMismatch := counterId 7 12 13
/-- Counters 8.6. -/
def ctLateReturn := counterId 8 6 1
def ctStaleStep := counterId 8 6 2
def ctEpochMerged := counterId 8 6 3
def ctStepAborts := counterId 8 6 4
/-- Counters 10.13. -/
def ctRailHold := counterId 10 13 1
def ctClamp := counterId 10 13 2
def ctRampLimited := counterId 10 13 3
def ctFiller := counterId 10 13 4
def ctFloorShort := counterId 10 13 5
def ctFades := counterId 10 13 6
def ctTrades := counterId 10 13 7
def ctReverts := counterId 10 13 8
def ctStateTime := counterId 10 13 9
/-- Counters 11.15. -/
def ctCe := counterId 11 15 1
def ctUe := counterId 11 15 2
def ctBlockCrcFail := counterId 11 15 3
def ctPoisonReads := counterId 11 15 4
def ctScrubWords := counterId 11 15 5
def ctScrubCorrected := counterId 11 15 6
def ctLaps := counterId 11 15 7
def ctShadowBlocks := counterId 11 15 8
def ctShadowMismatch := counterId 11 15 9
def ctShadowFail := counterId 11 15 10
def ctShadow := counterId 11 15 11
def ctSpareSwap := counterId 11 15 12
def ctReexpose := counterId 11 15 13
def ctDroopStretches := counterId 11 15 14
def ctDroopStops := counterId 11 15 15
def ctMigrateAbandon := counterId 11 15 16
def ctRouteNan := counterId 11 15 17
def ctTestsRun := counterId 11 15 18
def ctTestsFailed := counterId 11 15 19
def ctFramesRetired := counterId 11 15 20
def ctRecords := counterId 11 15 21
def ctRecordsDropped := counterId 11 15 22
def ctExportRetries := counterId 11 15 23
/-- Counters and gauges 14.13. -/
def ctDieTemp := counterId 14 13 1
def ctCoolantIn := counterId 14 13 2
def ctCoolantOut := counterId 14 13 3
def ctSlotStrap := counterId 14 13 4
def ctPpsEdges := counterId 14 13 5
def ctPpsRejected := counterId 14 13 6
def ctPpsLastNs := counterId 14 13 7
def ctUvTrips := counterId 14 13 8
def ctOvTrips := counterId 14 13 9
def ctThermalTrips := counterId 14 13 10
def ctLeakTrips := counterId 14 13 11

/-- Instance of a unit (Table 11.13). -/
def UnitId.inst (u : UnitId) : Nat := u.kind * 65536 + u.index

def noUnit : UnitId := ⟨0, 0⟩
def tileUnit (p : Nat) : UnitId := ⟨1, p⟩
def portUnit (p : Nat) : UnitId := ⟨7, p⟩
def moduleUnit : UnitId := ⟨11, 0⟩

/-! ### Interrupt causes (R281, R283) -/

def irqComplete : Nat := 0
def irqFault : Nat := 1
def irqEvent : Nat := 2
def irqState : Nat := 3

/-- An MSI-X vector, raised or, while its table entry is masked, held in the pending bit array (PRESUMED of PCIe, log entry 131). -/
def State.vector (s : State) (n : Nat) : State :=
  if (tgetD s.mbox.msix (4 * n + 3) 0#32).getLsbD 0 then
    s.onMbox fun m => { m with pba := m.pba ||| BitVec.ofNat 64 (2 ^ n) }
  else s.emit (.vector n)

/-- A word of the MSI-X table; an entry that is unmasked raises the vector that it held. -/
def State.msixWrite (s : State) (i : Nat) (w : Word32) : State :=
  let s1 := s.onMbox fun m => { m with msix := tset m.msix i w }
  if i % 4 = 3 && !w.getLsbD 0 && s.mbox.pba.getLsbD (i / 4) then
    (s1.onMbox fun m => { m with pba := m.pba &&& ~~~(BitVec.ofNat 64 (2 ^ (i / 4))) }).emit (.vector (i / 4))
  else s1

/-- A cause of IRQ_FAULT, IRQ_EVENT or IRQ_STATE set, and vector 0 raised unless the cause is masked or the endpoint is
without power. -/
def State.raiseIrq (s : State) (c : Nat) : State :=
  let s1 := s.onMbox fun m => { m with irqCause := m.irqCause ||| BitVec.ofNat 4 (2 ^ c) }
  if s.mbox.irqMask.getLsbD c || !s.endpoint then s1 else s1.vector 0

/-! ### Event and log records (Table 11.9, R363, R376) -/

def State.mkRec (s : State) (seq : Nat) (u : UnitId) (code a0 a1 : Nat) : Rec :=
  { seq := seq, lifeS := s.clock.lifeS, boot := s.clock.boot, unit := u, code := code, arg0 := a0 % 2 ^ 64,
    arg1 := a1 % 2 ^ 32 }

/-- An event: a record in the ring of 4,096, and IRQ_EVENT. -/
def State.event (s : State) (code : Nat) (u : UnitId := noUnit) (a0 a1 : Nat := 0) : State :=
  let r := s.mkRec s.integ.eventSeq u code a0 a1
  (s.onInteg fun i =>
    { i with events := (i.events ++ [r]).drop (i.events.length + 1 - 4096),
             eventSeq := (i.eventSeq + 1) % 2 ^ 32 }).raiseIrq irqEvent

/-- A log record in the ring of 458,752. -/
def State.log (s : State) (code : Nat) (u : UnitId) (a0 a1 : Nat := 0) : State :=
  let r := s.mkRec s.integ.logSeq u code a0 a1
  s.onInteg fun i =>
    { i with log := (i.log ++ [r]).drop (i.log.length + 1 - 458752), logSeq := (i.logSeq + 1) % 2 ^ 32 }

/-- The 32 bytes of a record, with its CRC (Table 11.9). -/
def Rec.bytes (r : Rec) : Bytes :=
  let b := le 4 r.seq ++ le 4 r.lifeS ++ le 2 r.boot ++ le 1 r.unit.kind ++ le 1 0 ++ le 2 r.unit.index ++
    le 2 r.code ++ le 8 r.arg0 ++ le 4 r.arg1
  b ++ le 4 (crc32c b)

/-! ### Fault codes (Tables 11.11, 12.12, 13.14, 14.12) -/

def fltMarkOverflow := 0x0101
def fltMarkResidue := 0x0102
def fltMarkTimeout := 0x0103
def fltRangeUnmapped := 0x0104
def fltFabricRange := 0x0105
def fltFabricPacket := 0x0106
def fltKvUnmapped := 0x0107
def fltKvTree := 0x0108
def fltKvGrant := 0x0109
def fltStepCheck := 0x010A
def fltMemUe := 0x010B
def fltBlockCrc := 0x010C
def fltStepLost := 0x0201
def fltSliceHalt := 0x0202
def fltTileDepleted := 0x0203
def fltWeightLost := 0x0204
def fltNbMissing := 0x0205
def fltUnitPermanent := 0x0301
def fltMemDegraded := 0x0302
def fltChecker := 0x0303
def fltHistory := 0x0304
def fltT3Population := 0x0305
def fltWeightDigest := 0x0306
def fltBackingDigest := 0x0307
def fltCfgImage := 0x0308
def fltLinkDegraded := 0x0401
def fltLinkDown := 0x0402
def fltLateReturn := 0x0501
def fltPaceLimiter := 0x0502
def fltCapBelowFloor := 0x0503
def fltErase := 0x0601
def fltIdentity := 0x0602
def fltFwImage := 0x0603
def fltFwFallback := 0x0604
def fltFwWatchdog := 0x0605
def fltStartStage := 0x0606
def fltThermalTrip := 0x0607
def fltLeak := 0x0608
def fltInputUv := 0x0609
def fltInputOv := 0x060A
def fltT3Power := 0x060B

def evTileSpared := 0x8001
def evTestOverdue := 0x8002
def evTestFailed := 0x8003
def evTransient := 0x8004
def evCeThreshold := 0x8005
def evFrameRetired := 0x8006
def evAgitationLate := 0x8007
def evStripA8 := 0x8101
def evPromoted := 0x8102
def evPauseExpired := 0x8201
def evSessionLost := 0x8202
def evLaneSpared := 0x8301
def evRouteReplanned := 0x8302
def evNbExtra := 0x8303
def evNbCrossed := 0x8304
def evNbRemapped := 0x8305
def evNbQuarantine := 0x8306
def evNbForeign := 0x8307
def evAdapterInstalled := 0x8401
def evAdapterFreed := 0x8402
def evAdapterRemoved := 0x8403
def evSweepDone := 0x8501
def evSweepLate := 0x8502
def evStreamLimit := 0x8503
def evCfgDefaulted := 0x8504
def evCapRestored := 0x8601
def evThermalLimit := 0x8602
def evBudgetTrade := 0x8603
def evBudgetRevert := 0x8604
def evLifecycle := 0x8701
def evDebugLevel := 0x8702
def evRightsNarrowed := 0x8703
def evEraseDone := 0x8704
def evFwStaged := 0x8705
def evFwConfirmed := 0x8706
def evNbDeparted := 0x8707
def evNbArrived := 0x8708
def evCfgMigrated := 0x8709
def evSafelight := 0x870A
def evDrainDone := 0x870B
def evFwActivated := 0x870C
def evS3Deferred := 0x870D
def evStrapChanged := 0x870E
def evCoolantHigh := 0x870F
def evPpsLost := 0x8710

/-! ### Settings (Table 9.14): running values -/

def setTxnTimeout := 0x01000001
def setMgmtUdpPort := 0x01000002
def setMgmtAddr := 0x01000003
def setCachePages := 0x02000001
def setSwapBw := 0x02000002
def setBgFloor := 0x02000003
def setSweepPeriod := 0x02000004
def setStorePages := 0x02000005
def setClientTable := 0x04000001
def setInterLimit := 0x04000002
def setPrefillBurst := 0x04000003
def setKvWaitMax := 0x04000004
def setPauseTtlMax := 0x04000005
def setCsEnable := 0x04000006
def setCsNodes := 0x04000007
def setDraftAhead := 0x04000008
def setAdaptersPerHb := 0x04000009
def setStallBudget := 0x0400000A
def setLimitStep := 0x0400000B
def setAbortHalt := 0x0400000C
def setPfcPrio := 0x0400000D
def setEthMode := 0x0400000E
def setPowerCap := 0x05000001
def setRampUp := 0x05000002
def setStagger := 0x05000003
def setPowerFloor := 0x05000004
def setFade := 0x05000005
def setBudgetTrade := 0x05000006
def setShadowRate := 0x07000001
def setCollectors := 0x07000002
def setAgitationLap := 0x07000003
def setTestPeriod := 0x07000004

/-- A row of Table 9.14: size in bytes, BLOB or not, range (numbers), default, slice scope, transaction needed, and
whether its effect waits for an event later than a commit. -/
structure SettingRow where
  key : Nat
  size : Nat
  blob : Bool := false
  lo : Nat := 0
  hi : Nat := 0
  dflt : Nat := 0
  slice : Bool := false
  txn : Bool := true
  later : Bool := false
  deriving DecidableEq, Repr

/-- Table 9.14. -/
def settings : List SettingRow :=
  [ { key := setTxnTimeout, size := 4, lo := 100, hi := 600000, dflt := 30000, txn := false, later := true },
    { key := setMgmtUdpPort, size := 2, lo := 1024, hi := 65535, dflt := 20058, later := true },
    { key := setMgmtAddr, size := 48, blob := true },
    { key := setCachePages, size := 2, lo := 0, hi := 4096, dflt := 256, later := true },
    { key := setSwapBw, size := 1, lo := 10, hi := 90, dflt := 20, slice := true, later := true },
    { key := setBgFloor, size := 1, lo := 1, hi := 10, dflt := 2 },
    { key := setSweepPeriod, size := 4, lo := 1800, hi := 604800, dflt := 21600, txn := false, later := true },
    { key := setStorePages, size := 4, lo := 0, hi := 65536, dflt := 8192, slice := true, later := true },
    { key := setClientTable, size := 8160, blob := true, slice := true },
    { key := setInterLimit, size := 2, lo := 1, hi := 512, dflt := 128, slice := true, later := true } ] ++
  [ { key := setPrefillBurst, size := 1, lo := 0, hi := 16, dflt := 1, slice := true },
    { key := setKvWaitMax, size := 2, lo := 1, hi := 10000, dflt := 100, slice := true },
    { key := setPauseTtlMax, size := 4, lo := 1, hi := 2592000, dflt := 86400, slice := true, later := true },
    { key := setCsEnable, size := 1, lo := 0, hi := 1, dflt := 1, slice := true, later := true },
    { key := setCsNodes, size := 4, lo := 1024, hi := 4194304, dflt := 1048576, slice := true, later := true },
    { key := setDraftAhead, size := 1, lo := 1, hi := 4, dflt := 2, slice := true },
    { key := setAdaptersPerHb, size := 1, lo := 1, hi := 64, dflt := 16, slice := true, later := true },
    { key := setStallBudget, size := 4, lo := 0, hi := 1000000, dflt := 10000, slice := true, later := true },
    { key := setLimitStep, size := 1, lo := 1, hi := 128, dflt := 8, slice := true, later := true },
    { key := setAbortHalt, size := 1, lo := 1, hi := 255, dflt := 3, slice := true } ] ++
  [ { key := setPfcPrio, size := 1, lo := 0, hi := 7, dflt := 3, txn := false },
    { key := setEthMode, size := 1, lo := 0, hi := 1, dflt := 0, later := true },
    { key := setPowerCap, size := 2, lo := 1200, hi := 5000, dflt := 5000, txn := false },
    { key := setRampUp, size := 2, lo := 10, hi := 5000, dflt := 200 },
    { key := setStagger, size := 2, lo := 0, hi := 10000, dflt := 100, slice := true, later := true },
    { key := setPowerFloor, size := 2, lo := 0, hi := 5000, dflt := 0 },
    { key := setFade, size := 4, lo := 0, hi := 600000, dflt := 10000, slice := true, later := true },
    { key := setBudgetTrade, size := 1, lo := 0, hi := 1, dflt := 1, slice := true },
    { key := setShadowRate, size := 2, lo := 0, hi := 65534, dflt := 4096, slice := true },
    { key := setCollectors, size := 128, blob := true, txn := false },
    { key := setAgitationLap, size := 4, lo := 3600, hi := 604800, dflt := 86400 },
    { key := setTestPeriod, size := 2, lo := 24, hi := 2160, dflt := 168 } ]

def settingRow (k : Nat) : Option SettingRow := settings.find? (fun r => r.key == k)

/-- A key's factory default. -/
def SettingRow.factory (r : SettingRow) : Bytes := le r.size r.dflt

/-- A key's running value: the table's, or the factory default where nothing else was set. -/
def runValue (t : Tbl SetVal) (k : Nat) : Bytes :=
  match tget t k with
  | some v => v.value
  | none => match settingRow k with
    | some r => r.factory
    | none => []

def State.setting (s : State) (k : Nat) : Bytes := runValue s.cfg.run k
/-- A numeric setting. -/
def State.setN (s : State) (k : Nat) : Nat := rd 8 (s.setting k) 0

/-- The VALID collector entries, 1 to 4 (R374). -/
def State.collectors (s : State) : List Nat :=
  [1, 2, 3, 4].filter fun c => byteAt (s.setting setCollectors) (32 * (c - 1)) % 2 = 1

/-- Table 6.1 entry of a client, 32 bytes. -/
def State.clientEntry (s : State) (c : Nat) : Bytes := cut (s.setting setClientTable) (32 * (c - 1)) 32

/-! ### Fault records (R370 to R374) -/

/-- FW_VERSION of the running firmware: that of its bank's header, or the shipped image's. -/
def State.fwVersion (s : State) : Nat :=
  let b := if s.fw.runningB then s.fw.bankB else s.fw.bankA
  if b.header.isEmpty then Config.fwVersion.toNat else rd 4 b.header 8

/-- Severity fatal of Table 11.11 and of chapters 12 to 14: those are logged in the health history. -/
def fatalCode (c : Nat) : Bool :=
  (0x0201 ≤ c && c ≤ 0x0205) || c == fltLinkDown || c == fltErase || c == fltIdentity || c == fltFwFallback ||
    c == fltFwWatchdog || c == fltStartStage || (0x0607 ≤ c && c ≤ 0x060A)

/-- CPER severity: 0 recoverable, 1 fatal, 3 informational. -/
def severityOf (c : Nat) : Nat := if fatalCode c then 1 else if 0x0501 ≤ c && c ≤ 0x0503 then 3 else 0

/-- Every destination that is to have each record: the PLDM receiver where one is set, and the valid collectors. -/
def State.destinations (s : State) : List Nat :=
  (if s.integ.receiver.isSome then [0] else []) ++ s.collectors

/-- ALERT_N: low while a receiver is set and a held record lacks its response (R373). -/
def State.setAlert (s : State) : State :=
  s.onPins fun p =>
    { p with alertN := !(s.integ.receiver.isSome && s.integ.faults.any (fun r => !r.delivered.contains 0)) }

/-! ### CPER bytes (R371) -/

def asciiNat (n : Nat) : Bytes :=
  let d (k : Nat) : Byte := BitVec.ofNat 8 (48 + n / 10 ^ k % 10)
  if n < 10 then [d 0] else if n < 100 then [d 1, d 0] else if n < 1000 then [d 2, d 1, d 0] else [d 3, d 2, d 1, d 0]

def ascii (cs : List Nat) : Bytes := cs.map (BitVec.ofNat 8)

/-- FRU Text of a unit (Table 11.1): "NZ8 " and the unit's words. -/
def fruText (u : UnitId) : Bytes :=
  let nz8 := ascii [0x4E, 0x5A, 0x38, 0x20]
  let num (w : List Nat) : Bytes := ascii w ++ ascii [0x20] ++ asciiNat u.index
  nz8 ++ match u.kind with
  | 1 => num [0x54, 0x49, 0x4C, 0x45]
  | 2 => num [0x53, 0x45, 0x47]
  | 3 => num [0x53, 0x54, 0x41, 0x43, 0x4B]
  | 4 => num [0x54, 0x33, 0x43, 0x48]
  | 5 => num [0x43, 0x4F, 0x52, 0x45]
  | 6 => num [0x58, 0x42, 0x4C, 0x4B]
  | 7 => ascii [0x50, 0x4F, 0x52, 0x54, 0x20, 0x58 + u.index / 2, if u.index % 2 = 0 then 0x4E else 0x50]
  | 8 => num [0x44, 0x45, 0x56]
  | 9 => match u.index with
    | 0 => ascii [0x50, 0x43, 0x49, 0x45]
    | 1 => ascii [0x45, 0x54, 0x48, 0x30]
    | 2 => ascii [0x45, 0x54, 0x48, 0x31]
    | 3 => ascii [0x4D, 0x47, 0x4D, 0x54]
    | 4 => ascii [0x49, 0x33, 0x43, 0x30]
    | _ => ascii [0x49, 0x33, 0x43, 0x31]
  | 10 => ascii [0x46, 0x4C, 0x41, 0x53, 0x48]
  | 11 => ascii [0x4D, 0x4F, 0x44, 0x55, 0x4C, 0x45]
  | _ => ascii [0x4E, 0x4F, 0x4E, 0x45]

/-- The module serial. -/
def serial : Bytes := (List.range 16).map Config.serialByte

/-- A GUID in the byte form of the CPER header: 32, 16 and 16 bits little-endian, then eight bytes. -/
def guid (a b c : Nat) (d : Nat) : Bytes := le 4 a ++ le 2 b ++ le 2 c ++ be 8 d

/-- The 128-byte Milhotra section (Table 11.12). -/
def FaultRec.section (r : FaultRec) : Bytes :=
  fit 128 (le 2 r.code ++ le 1 r.unit.kind ++ le 1 1 ++ le 2 r.unit.index ++ le 2 r.sliceId ++
    le 4 (r.index.getD 0 + 512 * b2n r.index.isSome) ++ le 4 r.lifeS ++ le 6 r.ctx.stepSeq ++ le 2 r.boot ++
    le 4 r.count ++ le 4 r.fwVersion ++ le 8 r.ctx.addr ++
    le 4 (r.ctx.logical.getD 0 + 4096 * b2n r.ctx.logical.isSome) ++
    le 4 (r.ctx.layer.getD 0 + 65536 * b2n r.ctx.layer.isSome) ++
    (List.range 4).flatMap (fun i => le 8 (r.ctx.args.getD i 0)) ++ le 4 r.planGen ++ le 4 r.weightsGen)

/-- The 328-byte record. PRESUMED: the places of the header's and descriptor's fields are those of the UEFI
specification's appendix that R371 names (log entry 21). -/
def FaultRec.cper (r : FaultRec) : Bytes :=
  let sev := severityOf r.code
  -- record header: "CPER", revision, signature end, section count, severity, validation, length, timestamp,
  -- platform id, partition id, creator id, notification type, record id, flags, persistence, reserved
  (ascii [0x43, 0x50, 0x45, 0x52] ++ le 2 0x0101 ++ le 4 0xFFFFFFFF ++ le 2 1 ++ le 4 sev ++ le 4 1 ++ le 4 328 ++
    zeros 8 ++ serial ++ zeros 16 ++ guid 0x7a40e1c9 0x3d62 0x4b8f 0x91a5e0c83f2d6b17 ++
    guid 0xc3b95f20 0x68d4 0x47a1 0xbd0e94f1a2c7e653 ++ le 8 r.recordId ++ zeros 4 ++ zeros 8 ++ zeros 12) ++
  -- section descriptor
  (le 4 200 ++ le 4 128 ++ le 2 0x0101 ++ le 1 3 ++ le 1 0 ++ le 4 1 ++
    guid 0x2f8c4a71 0x9b3e 0x4d05 0xa6e25c17d09b3e48 ++ serial ++ le 4 sev ++ fit 20 (fruText r.unit)) ++
  r.section

/-! ### Export (R373, R374) -/

/-- The standby domain has power: Shuid exports in S0 to S3 (R15). -/
def State.standby (s : State) : Bool := s.pwr.state != .s5

/-- The first held record after an id that a destination has not had. -/
def State.nextFor (s : State) (dest after : Nat) : Option FaultRec :=
  s.integ.faults.find? (fun r => after < r.recordId && !r.delivered.contains dest)

/-- The next record to the event receiver, one at a time, in record order. -/
def State.exportPldm (s : State) : State :=
  if !s.standby then s else
  match s.integ.receiver, s.integ.pldmSent with
  | some rx, none => match s.nextFor 0 s.integ.pldmPos with
    | some r => (s.onInteg fun i => { i with pldmSent := some (r.recordId, 0, s.clock.timeNs) }).emit
        (.pldm rx.1 rx.2 r.recordId r.cper)
    | none => s
  | _, _ => s

/-- A collector datagram: its 16-byte header and the record. -/
def datagramOf (r : FaultRec) : Bytes := le 4 0x4E5A4652 ++ le 1 1 ++ zeros 3 ++ le 8 r.recordId ++ r.cper

def State.collector (s : State) (c : Nat) : Collector := tgetD s.integ.collectors c {}
def State.putCollector (s : State) (c : Nat) (x : Collector) : State :=
  s.onInteg fun i => { i with collectors := tset i.collectors c x }

/-- Records to a collector while fewer than 8 are unacknowledged. -/
def State.exportTo (s : State) (c : Nat) : Nat → State
  | 0 => s
  | n + 1 =>
    let x := s.collector c
    if 8 ≤ x.outstanding.length then s else
      match s.nextFor c x.next with
      | some r => ((s.putCollector c { x with
          next := r.recordId, outstanding := x.outstanding ++ [(r.recordId, s.clock.timeNs, 1)] }).emit
            (.datagram c (datagramOf r))).exportTo c n
      | none => s

/-- Every VALID collector takes what it has room for. -/
def State.exportCollectors (s : State) : State :=
  if s.standby then s.collectors.foldl (fun a c => a.exportTo c 8) s else s

/-- What the store holds goes out to every destination. -/
def State.exportFaults (s : State) : State := (s.exportPldm).exportCollectors

/-! ### Raising a fault -/

/-- The store with a record added; a full store of 1,024 loses the oldest acknowledged and delivered record, or else
the oldest, which is counted (R372). -/
def State.storeFault (s : State) (r : FaultRec) : State :=
  let old := s.integ.faults
  let gone (x : FaultRec) := x.acked && s.destinations.all (fun d => x.delivered.contains d)
  let s1 := s.onInteg fun i => { i with
    faults := (if old.length < 1024 then old else
      match old.find? gone with
      | some x => old.filter (fun y => y.recordId != x.recordId)
      | none => old.drop 1) ++ [r]
    faultSeq := i.faultSeq + 1 }
  let s2 := if old.length < 1024 || (old.find? gone).isSome then s1 else s1.count ctRecordsDropped 0 1
  let s3 := s2.count ctRecords 0 1
  let s4 := if fatalCode r.code then s3.log r.code r.unit (r.ctx.args.headD 0) (r.ctx.args.getD 1 0) else s3
  ((s4.setAlert).exportFaults).raiseIrq irqFault

/-- A record of `n` occurrences of a fault. -/
def State.faultRecord (s : State) (code : Nat) (u : UnitId) (c : FaultCtx) (n : Nat) : State :=
  s.storeFault
    { recordId := s.clock.boot * 2 ^ 32 + s.integ.faultSeq, code := code, unit := u, lifeS := s.clock.lifeS
      count := min n 0xFFFFFFFE, ctx := c, sliceId := s.plan.sliceId, index := s.index?, planGen := s.plan.planGen
      weightsGen := s.wts.curGen, fwVersion := s.fwVersion, boot := s.clock.boot }

/-- A fault occurs: a first occurrence is a record at once and opens a second; further ones within it are counted
(R370). -/
def State.fault (s : State) (code : Nat) (u : UnitId := noUnit) (c : FaultCtx := {}) : State :=
  if s.integ.series.any (fun x => x.code == code && x.unit == u) then
    s.onInteg fun i => { i with series := i.series.map fun x =>
      if x.code == code && x.unit == u then { x with count := x.count + 1, ctx := c } else x }
  else
    (s.faultRecord code u c 1).onInteg fun i =>
      { i with series := i.series ++ [{ code := code, unit := u, count := 0, ctx := c, startNs := s.now }] }

/-! ### Memory: one list of cells over the fixed physical view (R48) -/

/-- What an address that nothing has written reads as (DESIGN CHOICE, log entry 2). -/
def memDefault : Byte := 0

/-- The canonical form: addresses strictly rising, and no cell that holds what an unlisted address reads as. -/
def Memory.wf : List Host.Cell → Bool
  | [] => true
  | [c] => c.2 != memDefault
  | c :: d :: r => c.2 != memDefault && c.1 < d.1 && Memory.wf (d :: r)

/-- One byte read. -/
def Memory.get : List Host.Cell → Nat → Byte
  | [], _ => memDefault
  | c :: r, a => if c.1 = a then c.2 else Memory.get r a

/-- One byte written, keeping the canonical form. -/
def Memory.set : List Host.Cell → Nat → Byte → List Host.Cell
  | [], a, v => if v = memDefault then [] else [(a, v)]
  | c :: r, a, v =>
    if a < c.1 then (if v = memDefault then c :: r else (a, v) :: c :: r)
    else if a = c.1 then (if v = memDefault then r else (a, v) :: r)
    else c :: Memory.set r a v

/-- Bytes written from an address up. -/
def Memory.write (m : List Host.Cell) (a : Nat) : Bytes → List Host.Cell
  | [] => m
  | v :: r => Memory.write (Memory.set m a v) (a + 1) r

/-- `n` bytes read from an address up. -/
def Memory.read (m : List Host.Cell) (a n : Nat) : Bytes := (List.range n).map (fun i => Memory.get m (a + i))

/-- Every cell from `a` on for `n` bytes returned to what an unlisted address reads as. -/
def Memory.clear (m : List Host.Cell) (a n : Nat) : List Host.Cell := m.filter (fun c => c.1 < a || a + n ≤ c.1)

/-! ### The state's memory -/

def State.read (s : State) (a n : Nat) : Bytes := Memory.read s.mem.cells a n

/-- Bytes written by a producer or a partial write: the bytes alone (the block's CRC is that of its bytes, R352). -/
def State.write (s : State) (a : Nat) (b : Bytes) : State :=
  s.onMem fun m => { m with cells := Memory.write m.cells a b }

/-- A block's sideband (Table 11.5). -/
def State.sideband (s : State) (a : Nat) : Sideband := tgetD s.mem.side (blockOf a) {}

/-- A block's sideband set; the default one is not listed. -/
def setSide (t : Tbl Sideband) (blk : Nat) (x : Sideband) : Tbl Sideband := if x = {} then tdel t blk else tset t blk x

/-- A whole 4 KiB block written with its exposure and A8 offset: the bytes not defined are zero, and a poison ends
(R347, R352). -/
def State.writeBlock (s : State) (a : Nat) (b : Bytes) (exp : Int := 0) (a8d : Nat := 0) : State :=
  let base := blockOf a * blockBytes
  s.onMem fun m => { m with
    cells := Memory.write m.cells base (fit blockBytes b)
    side := setSide m.side (blockOf a) { exp := exp, a8d := a8d } }

def State.poisoned (s : State) (a : Nat) : Bool := (s.sideband a).poison

/-! ### The module range (R41) -/

/-- The physical view address behind a module-range address; none where the page is not mapped. -/
def State.phys? (s : State) (a : Nat) : Option Nat :=
  (tget s.mem.pages (pageOf a)).map (fun p => p.base + a % pageBytes)

def State.phys (s : State) (a : Nat) : Nat := (s.phys? a).getD 0

/-- Bytes of the module range; a byte of an unmapped page reads as zero (its reader checks the mapping first). -/
def State.readRange (s : State) (a n : Nat) : Bytes :=
  (List.range n).map fun i => match s.phys? (a + i) with
    | some p => Memory.get s.mem.cells p
    | none => 0

/-- Bytes written to the module range where it is mapped. -/
def writeRangeBytes (s : State) (a : Nat) : Bytes → State
  | [] => s
  | v :: r => writeRangeBytes (match s.phys? a with
    | some p => s.write p [v]
    | none => s) (a + 1) r

def State.writeRange (s : State) (a : Nat) (b : Bytes) : State := writeRangeBytes s a b

/-- A whole block of the module range written. -/
def State.writeRangeBlock (s : State) (a : Nat) (b : Bytes) (exp : Int := 0) (a8d : Nat := 0) : State :=
  match s.phys? a with
  | some p => s.writeBlock p b exp a8d
  | none => s

def State.mapped (s : State) (a : Nat) : Bool := (tget s.mem.pages (pageOf a)).isSome

/-- Whether `n` bytes from `a` lie in mapped pages. -/
def State.mappedAll (s : State) (a n : Nat) : Bool :=
  (List.range (pageOf (a + n - 1) - pageOf a + 1)).all fun i => (tget s.mem.pages (pageOf a + i)).isSome

/-! ### Frames (R349) -/

/-- Frames of a tier over the whole module, and the physical base of each. -/
def frameBase (tier f : Nat) : Nat :=
  if tier = 0 then tileBase f else if tier = 1 then t1Base + f * pageBytes
  else if tier = 2 then t2Base + f * pageBytes else f * pageBytes

def frameOf (a : Nat) : Nat × Nat :=
  match viewTier a with
  | some 3 => (3, a / pageBytes)
  | some 2 => (2, (a - t2Base) / pageBytes)
  | some 1 => (1, (a - t1Base) / pageBytes)
  | _ => (0, (a - 0xA0800000000) / 0x400000)

def State.frameUsed (s : State) (tier f : Nat) : Bool :=
  s.mem.pages.any (fun e => e.2.base == frameBase tier f) || s.mem.moves.any (fun m => m.toBase == frameBase tier f)

def State.frameRetired (s : State) (tier f : Nat) : Bool := s.mem.retired.contains (tier, f)

/-- T3 frames that DIMMs populate: `t3Gib` GiB, channel by channel (log entry 30). -/
def State.frameExists (s : State) (tier f : Nat) : Bool :=
  match tier with
  | 0 => f < 2560
  | 1 => f < 16384
  | 2 => f < 1048576
  | _ => f % 262144 < s.wts.t3Gib * 32 && f / 262144 < 16 && s.wts.t3InService

/-- The first free frame of a tier from `lo`, below `hi`, by search over at most `fuel` frames. -/
def State.findFrame (s : State) (tier : Nat) : Nat → Nat → Option Nat
  | 0, _ => none
  | fuel + 1, f =>
    if s.frameExists tier f && !s.frameUsed tier f && !s.frameRetired tier f then some f
    else s.findFrame tier fuel (f + 1)

/-- Frames of a tier in service, and those that pages hold. -/
def State.tierFrames (s : State) (tier : Nat) : Nat :=
  (match tier with
  | 0 => 2304
  | 1 => 16384
  | 2 => 1048576
  | _ => if s.wts.t3InService then s.wts.t3Gib * 512 else 0) - (s.mem.retired.filter (fun r => r.1 == tier)).length

def State.tierPages (s : State) (tier : Nat) : Nat := (s.mem.pages.filter (fun e => e.2.tier == tier)).length

end Sys2Proof.Machine
end

