-- ==== Sys2Proof/Machine/Flags.lean ====
section
/-! DEFINITION. The status words the module shows: BAR0 0x040 and the identity bytes (Table 9.2), the OP_STATUS
completion (Table 9.8), and the interrupt that a change of 0x040 raises. -/

namespace Sys2Proof.Machine

open Sys2Proof

def lifecycleCode : Lifecycle → Nat
  | .factory => 0 | .owned => 1 | .service => 2 | .retired => 3

/-- POWER_STATE of BAR0 0x040; in S3 and S5, which it has no code for, a value the spec leaves open. -/
def powerCode : PowerState → Nat
  | .s0 => 0 | .s1 => 1 | .s2 => 2 | .s3 => Config.powerCodeInS3.toNat | .s5 => Config.powerCodeInS3.toNat

/-- State codes of OP_POWER_READ and STATE_TIME: 0 to 3 for S0 to S3. -/
def powerIndex : PowerState → Nat
  | .s0 => 0 | .s1 => 1 | .s2 => 2 | .s3 => 3 | .s5 => 3

/-- SLICE_RUNNING: the module's slice runs or drains. -/
def State.sliceRunning (s : State) : Bool := s.srv.sliceState == .running || s.srv.sliceState == .draining

/-- The word of BAR0 0x040 (Table 9.2, R420). -/
def State.statusWord (s : State) : Nat :=
  let plan := s.wts.main.isSome && !s.fw.safelight
  lifecycleCode s.sec.lifecycle + s.sec.debug * 4 + powerCode s.pwr.state * 16 + b2n s.mbox.ready * 64 +
    b2n s.fw.safelight * 128 + b2n plan * 256 + b2n s.sliceRunning * 512 + b2n plan * 1024 +
    (if plan then s.index else 0) * 2048

/-- IRQ_STATE where a command has changed a field of 0x040 (R283). -/
def State.noteState (s0 s1 : State) : State :=
  if s0.statusWord = s1.statusWord then s1 else s1.raiseIrq irqState

/-- The running image's LINK_MAJOR, LINK_MINOR and LINK_MINOR_MIN (Table 13.7, R405). -/
def State.runningHeader (s : State) : Bytes := (if s.fw.runningB then s.fw.bankB else s.fw.bankA).header
def State.linkMajor (s : State) : Nat := if s.runningHeader.isEmpty then 1 else byteAt s.runningHeader 0x14
def State.linkMinor (s : State) : Nat :=
  if s.runningHeader.isEmpty then Config.linkMinor.toNat else byteAt s.runningHeader 0x15
def State.linkMinorMin (s : State) : Nat :=
  if s.runningHeader.isEmpty then Config.linkMinorMin.toNat else byteAt s.runningHeader 0x16
def State.cfgFormat (s : State) : Nat := if s.runningHeader.isEmpty then 1 else rd 2 s.runningHeader 0x12
def State.handoverAbi (s : State) : Nat :=
  if s.runningHeader.isEmpty then Config.handoverAbi.toNat else rd 2 s.runningHeader 0x18

/-- Bytes 0x000 to 0x04F of the BAR0 register block (Table 9.2, R299). -/
def State.identityBytes (s : State) : Bytes :=
  le 4 0x4E5A0008 ++ le 1 0xB0 ++ le 1 (b2n s.sec.orderEs) ++ le 2 0 ++ le 4 s.fwVersion ++
  le 2 Config.planFmtMinor.toNat ++ le 1 s.linkMinor ++ le 1 s.linkMajor ++ le 4 Config.enterprise.toNat ++
  le 2 s.cfgFormat ++ le 2 0 ++ serial ++ zeros 24 ++ le 4 s.statusWord ++ le 4 s.clock.heartbeat.toNat ++
  le 4 0x00040000 ++ le 1 64 ++ le 1 12 ++ le 2 0

/-- Fault records not yet acknowledged (Table 9.8 FAULTS_WAITING). -/
def State.faultsWaiting (s : State) : Nat := (s.integ.faults.filter (fun r => !r.acked)).length

/-- The OP_STATUS completion (Table 9.8), 44 bytes. -/
def State.statusBytes (s : State) : Bytes :=
  le 4 s.statusWord ++ le 2 s.plan.sliceId ++
  le 2 (s.srv.sliceState.code + s.plan.leadIndex * 8) ++
  le 4 s.plan.planGen ++ le 4 s.wts.curGen ++ le 4 s.wts.stagedGen ++ le 4 s.cfg.gen ++
  le 6 s.steps.lastEntered ++ le 2 s.srv.sessions.length ++
  le 4 ((s.cfg.txnModule.map Txn.id).getD 0) ++
  le 4 (if s.isLead then (s.cfg.txnSlice.map Txn.id).getD 0 else 0) ++ le 2 s.faultsWaiting ++ le 2 0

/-! ### Trace (R397) -/

def traceCap : Nat := 65536

/-- A trace record, where its kind is recorded: into the ring, or counted where the ring is full. -/
def State.traceRec (s : State) (kind layer tile desc step arg : Nat) : State :=
  let t := s.sec.trace
  if !t.running || !bitOf t.kinds (kind - 1) || s.pwr.state != .s0 then s
  else if traceCap ≤ t.recs.length then s.onSec fun c => { c with trace := { t with lost := t.lost + 1 } }
  else
    let r := le 4 t.seq ++ le 2 kind ++ le 2 layer ++ le 8 (s.now - s.clock.startNs) ++ le 4 tile ++ le 4 desc ++ le 6 step ++
      le 2 arg
    s.onSec fun c => { c with trace := { t with recs := t.recs ++ [r], seq := (t.seq + 1) % 2 ^ 32 } }

def trDescStart : Nat := 1
def trDescDone : Nat := 2
def trPhaseEnter : Nat := 3
def trPhaseLeave : Nat := 4
def trStall : Nat := 5
def trReexpose : Nat := 6
def trVote : Nat := 7
def trSwap : Nat := 8

/-- A stall: its nanoseconds in its counter, and a trace record whose ARG is the cause that its counter's instance gives, zero where
it gives none. -/
def State.stall (s : State) (ct inst ns layer tile desc step : Nat) (cause : Nat := 0) : State :=
  if ns = 0 then s else (s.count ct inst ns).traceRec trStall layer tile desc step cause

end Sys2Proof.Machine
end

