-- ==== Sys2Proof/Machine/Slots.lean ====
section
/-! DEFINITION. Mailbox service (chapter 9): slots and their images, completions, interim statuses, vectors and
notices (R283 to R291), the rights of Table 9.7, the ordered checks of R294, and the one frame in which every mailbox
opcode runs. -/

namespace Sys2Proof.Machine

open Sys2Proof

/-! ### Status codes (Table 9.6) -/

def stOk := 0x0000
def stPending := 0x0001
def stBadOpcode := 0x0010
def stPortDenied := 0x0011
def stStateDenied := 0x0012
def stLenRange := 0x0013
def stFieldRange := 0x0014
def stTxnBusy := 0x0020
def stTxnExpired := 0x0021
def stTxnConflict := 0x0022
def stBusy := 0x0030
def stAdapterBusy := 0x0031
def stDigestMismatch := 0x0040
def stSignature := 0x0041
def stVersion := 0x0042
def stNoSpace := 0x0050
def stAdmitDenied := 0x0060
def stInternal := 0x00FF

/-! ### Slots (Table 9.3) -/

def slotCount : MPort → Nat
  | .h => 64 | .m => 8 | .d => 2

def Mbox.slots (m : Mbox) : MPort → Tbl Slot
  | .h => m.slotsH | .m => m.slotsM | .d => m.slotsD

def Mbox.putSlots (m : Mbox) (p : MPort) (t : Tbl Slot) : Mbox :=
  match p with
  | .h => { m with slotsH := t } | .m => { m with slotsM := t } | .d => { m with slotsD := t }

def State.slot (s : State) (p : MPort) (i : Nat) : Slot := tgetD (s.mbox.slots p) i {}

def State.putSlot (s : State) (p : MPort) (i : Nat) (x : Slot) : State :=
  s.onMbox fun m => m.putSlots p (tset (m.slots p) i x)

/-- A slot's 64 header bytes and its payload, `n` bytes of it. -/
def Slot.image (x : Slot) (n : Nat) : Bytes :=
  le 2 (b2n x.owner + 2 * b2n x.noIrq + 4 * x.rsv0) ++ le 2 x.opcode ++ le 4 x.tag.toNat ++ le 4 x.txnId.toNat ++
  le 2 x.payloadLen ++ le 2 x.rsvC ++ le 2 x.status ++ le 2 x.detail ++ le 4 x.seq.toNat ++ le 4 x.doneUs ++
  le 2 x.progress ++ zeros 34 ++ fit n x.payload

/-- A slot as a sender leaves it: the payload and header words, and word 0x00 last, with its OWNER (R285). The module's
own fields stay. -/
def Slot.posted (x : Slot) (i : SlotImage) (path : Option MPath) : Slot :=
  { x with
    owner := bitOf i.word0.toNat 0, noIrq := bitOf i.word0.toNat 1, rsv0 := bitsOf i.word0.toNat 15 2
    opcode := bitsOf i.word0.toNat 31 16, tag := i.tag, txnId := i.txnId
    payloadLen := bitsOf i.word0C.toNat 15 0, rsvC := bitsOf i.word0C.toNat 31 16, seq := i.seq
    rsvTail := bitsOf i.word1C.toNat 31 16 != 0 || !allZero i.tail
    payload := overlay x.payload 0 i.payload, path := path, started := false }

/-- Posting into a free slot; a slot the module holds is left as it is. -/
def State.post (s : State) (p : MPort) (i : Nat) (img : SlotImage) (path : MPath) : State :=
  if i < slotCount p && !(s.slot p i).owner then
    s.putSlot p i ((s.slot p i).posted img (if p = .m then some path else none))
  else s

/-! ### Service -/

/-- Port M is served as in S3 by Shuid alone: in S3, during start-up before READY, and during a live blackout (R297,
R399, R418). -/
def State.shuidOnly (s : State) : Bool :=
  s.pwr.state == .s3 || (2 ≤ s.fw.stage && s.fw.stage ≤ 10) || (s.fw.handover.any (fun h => h.blackoutNs.isSome))

/-- Whether a port's slots are scanned now (R286, R292). -/
def State.served (s : State) : MPort → Bool
  | .h => s.mbox.ready && (s.mainOn || s.fw.safelight)
  | .m => s.mbox.mServed
  | .d => s.mbox.dServed && s.mainOn && !s.fw.safelight && !(s.fw.handover.any (fun h => h.blackoutNs.isSome))

/-! ### Rights (Table 9.7) -/

structure OpInfo where
  code : Nat
  /-- ports H, M and D as bits 0, 1 and 2 -/
  ports : Nat
  /-- lifecycle states F, O, S and R as bits 0 to 3 -/
  states : Nat
  lead : Bool := false
  s3 : Bool := false
  deriving DecidableEq, Repr

/-- Table 9.7. Ports: H 1, M 2, D 4; states: F 1, O 2, S 4, R 8. Debug levels and the lead of slice scope are judged in
`opState`. -/
def opTable : List OpInfo :=
  [ ⟨0x0001, 7, 15, false, true⟩, ⟨0x0002, 7, 15, false, true⟩, ⟨0x0003, 7, 15, false, true⟩,
    ⟨0x0101, 3, 7, false, false⟩, ⟨0x0102, 3, 7, false, false⟩, ⟨0x0103, 7, 15, false, true⟩,
    ⟨0x0104, 3, 7, false, false⟩, ⟨0x0105, 3, 7, false, false⟩, ⟨0x0106, 3, 7, false, false⟩,
    ⟨0x0107, 7, 15, false, true⟩ ] ++
  [ ⟨0x0201, 1, 7, false, false⟩, ⟨0x0202, 3, 7, false, false⟩, ⟨0x0203, 3, 7, false, false⟩,
    ⟨0x0204, 1, 6, true, false⟩, ⟨0x0205, 3, 7, false, false⟩, ⟨0x0206, 3, 6, false, false⟩,
    ⟨0x0301, 1, 6, true, false⟩, ⟨0x0302, 1, 6, true, false⟩, ⟨0x0303, 3, 6, true, false⟩,
    ⟨0x0304, 3, 6, true, false⟩, ⟨0x0401, 3, 7, true, false⟩, ⟨0x0402, 3, 7, true, false⟩,
    ⟨0x0403, 3, 6, true, false⟩, ⟨0x0404, 3, 6, true, false⟩ ] ++
  [ ⟨0x0501, 3, 7, false, true⟩, ⟨0x0502, 3, 7, false, true⟩, ⟨0x0503, 7, 15, false, true⟩,
    ⟨0x0504, 1, 6, false, false⟩, ⟨0x0505, 3, 6, false, false⟩, ⟨0x0601, 7, 15, false, false⟩,
    ⟨0x0602, 7, 15, false, true⟩, ⟨0x0603, 3, 6, true, false⟩, ⟨0x0701, 7, 15, false, true⟩,
    ⟨0x0702, 3, 15, false, true⟩, ⟨0x0703, 7, 15, false, true⟩, ⟨0x0704, 3, 7, false, false⟩,
    ⟨0x0705, 7, 15, false, true⟩ ] ++
  [ ⟨0x0801, 3, 7, false, true⟩, ⟨0x0802, 3, 7, false, true⟩, ⟨0x0803, 3, 7, false, true⟩,
    ⟨0x0804, 3, 7, false, true⟩, ⟨0x0805, 3, 7, false, true⟩, ⟨0x0901, 6, 7, false, true⟩,
    ⟨0x0902, 2, 1, false, true⟩, ⟨0x0903, 2, 2, false, true⟩, ⟨0x0904, 6, 15, false, true⟩,
    ⟨0x0905, 6, 14, false, true⟩, ⟨0x0906, 7, 15, false, true⟩ ] ++
  [ ⟨0x0A01, 7, 7, false, false⟩, ⟨0x0A02, 7, 7, false, false⟩, ⟨0x0A03, 3, 7, false, false⟩,
    ⟨0x0A04, 7, 7, false, false⟩, ⟨0x0F01, 5, 15, false, false⟩, ⟨0x0F02, 5, 15, false, false⟩,
    ⟨0x0F03, 5, 15, false, false⟩, ⟨0x0F04, 4, 9, false, false⟩ ]

def opInfo (c : Nat) : Option OpInfo := opTable.find? (fun o => o.code == c)

def portBit : MPort → Nat
  | .h => 0 | .m => 1 | .d => 2

/-- Check 3 of R294: the port is allowed and not narrowed by the owner (R388); port H has the physical view in FACTORY
only. -/
def State.portAllowed (s : State) (o : OpInfo) (p : MPort) : Bool :=
  bitOf o.ports (portBit p) && !bitOf (tgetD s.sec.narrowed o.code 0) (portBit p) &&
    !((o.code == 0x0F02 || o.code == 0x0F03) && p == .h && s.sec.lifecycle != .factory)

/-- Opcodes that ports H and M accept in safelight mode (R420); OP_FW_ACTIVATE in mode 1 only. -/
def safelightOp (c mode : Nat) : Bool :=
  c < 0x0100 || c == 0x0801 || c == 0x0802 || (c == 0x0803 && mode % 4 == 1) || c == 0x0805 || c == 0x0701 ||
    c == 0x0702 || c == 0x0503 || c == 0x0906

/-- Check 4 of R294: lifecycle, debug level, power state and lead condition (R297, R394, Tables 12.7 and 12.8). `w0` is
the payload's first word. -/
def State.opState (s : State) (o : OpInfo) (p : MPort) (w0 : Nat) : Bool :=
  let lc := lifecycleCode s.sec.lifecycle
  bitOf o.states lc &&
  -- Shuid alone serves port M
  (!(p == .m && s.shuidOnly && !s.fw.safelight) || o.s3) &&
  (!s.fw.safelight || safelightOp o.code w0) &&
  -- stopped island clocks leave group 0x00 and OP_SCAN
  (!s.sec.scanStopped || o.code < 0x0100 || o.code == 0x0F04) &&
  (!o.lead || s.isLead) &&
  -- a WEIGHT write needs a plan's shard map (R248)
  (o.code != 0x0202 || w0 % 4 != 1 || s.wts.main.isSome) &&
  (!(o.code == 0x0101 && w0 % 2 == 1) || s.isLead) &&
  (!(o.code == 0x0106 && w0 % 2 == 1) || s.isLead) &&
  -- debug levels
  (o.code != 0x0F01 || (1 ≤ s.sec.debug && (w0 % 4 == 0 || s.pwr.state == .s0))) &&
  (!(o.code == 0x0F02 || o.code == 0x0F03) || ((lc == 0 || 2 ≤ s.sec.debug) && s.pwr.state == .s0)) &&
  (o.code != 0x0F04 || (s.sec.debug == 3 && s.pwr.state == .s0)) &&
  -- FACTORY at D3: no slice, no plans, shards or adapters
  (!(s.sec.debug == 3 && 0x0200 ≤ o.code && o.code < 0x0500))

/-! ### Handing back (R286, R283, R291) -/

/-- The vector of a slot: 1 + (slot mod 63). -/
def slotVector (i : Nat) : Nat := 1 + i % 63

/-- What a status that is not silent raises: IRQ_COMPLETE and the slot's vector on port H, a NOTICE on port M. -/
def State.signal (s : State) (p : MPort) (i : Nat) (x : Slot) : State :=
  match p with
  | .h =>
    let s1 := s.onMbox fun m => { m with irqCause := m.irqCause ||| 1#4 }
    if x.noIrq || s.mbox.irqMask.getLsbD 0 then s1 else s1.vector (slotVector i)
  | .m => match x.path with
    | some path => s.emit (.notice path i x.status x.detail x.progress (x.payload.take x.payloadLen))
    | none => s
  | .d => s

/-- The final status: completion payload, PAYLOAD_LEN, STATUS and DETAIL, then OWNER 0. `acc` records the SEQ of a
command that passed every check (R288). -/
def State.handBack (s : State) (p : MPort) (i st det : Nat) (pay : Bytes) (acc : Bool) : State :=
  let x := s.slot p i
  let y := { x with
    owner := false, status := st, detail := det, payloadLen := pay.length, payload := overlay x.payload 0 pay
    progress := 0, doneUs := s.nowUs, started := false, storedSeq := if acc then x.seq else x.storedSeq }
  (s.putSlot p i y).signal p i y

/-- An interim ST_PENDING with its PROGRESS; `loud` where R286 says that it raises a vector. The command is accepted. -/
def State.interim (s : State) (p : MPort) (i prog : Nat) (loud : Bool) : State :=
  let x := s.slot p i
  let y := { x with status := stPending, detail := 0, progress := prog, doneUs := s.nowUs, started := true
                    storedSeq := x.seq }
  if loud then (s.putSlot p i y).signal p i { y with payloadLen := 0 } else s.putSlot p i y

/-- The TXN_ID field that OP_BEGIN also writes (Table 9.10). -/
def State.setTxnField (s : State) (p : MPort) (i txn : Nat) : State :=
  s.putSlot p i { s.slot p i with txnId := w32 txn }

/-! ### Long commands (R286, R289, R290) -/

/-- The running command of an opcode, first started first. -/
def State.running? (s : State) (op : Nat) : Option Running := s.mbox.running.find? (fun r => r.opcode == op)

def State.isRunning (s : State) (op : Nat) : Bool := s.mbox.running.any (fun r => r.opcode == op)

def State.dropRunning (s : State) (r : Running) : State :=
  s.onMbox fun m => { m with running := m.running.filter (fun x => !(x.port == r.port && x.slot == r.slot &&
    x.orphan == r.orphan && x.foundNs == r.foundNs && x.opcode == r.opcode)) }

/-- A long command's end: handed back, unless its host slot was reset (R290). -/
def State.finishRun (s : State) (r : Running) (st det : Nat) (pay : Bytes) : State :=
  let s1 := s.dropRunning r
  if r.orphan then s1 else s1.handBack r.port r.slot st det pay true

/-- The running command at a slot. -/
def State.runningAt (s : State) (p : MPort) (i : Nat) : Option Running :=
  s.mbox.running.find? (fun r => r.port == p && r.slot == i && !r.orphan)

/-- The end of the long command at a slot; nothing where none runs there. -/
def State.finishAt (s : State) (p : MPort) (i st det : Nat) (pay : Bytes) : State :=
  match s.runningAt p i with
  | some r => s.finishRun r st det pay
  | none => s

/-! ### The frame of an opcode -/

/-- A command as found: port, slot, its header and payload. -/
structure Cmd where
  port : MPort
  slot : Nat
  hdr : Slot
  pay : Bytes
  deriving DecidableEq, Repr

/-- What a command's home rule decides. -/
inductive Act where
  /-- refused by a check: nothing changes but the slot -/
  | refuse (st det : Nat)
  /-- a short command's end -/
  | done (s : State) (st det : Nat) (pay : Bytes)
  /-- long work: an interim status; `obj` is the object it holds -/
  | long (s : State) (obj args : List Nat) (body : Bytes)
  /-- another command of this opcode holds the object: it starts after that one (R289) -/
  | wait

/-- Checks 1 to 4 of R294: (fails, status, detail). -/
def State.headChecks (s : State) (c : Cmd) : List (Bool × Nat × Nat) :=
  let x := c.hdr
  let o := (opInfo x.opcode).getD ⟨0, 0, 0, false, false⟩
  [ (x.seq == x.storedSeq, stFieldRange, 0x14),
    (x.rsv0 != 0 || (x.noIrq && c.port != .h), stFieldRange, 0x00),
    (x.rsvC != 0, stFieldRange, 0x0E),
    (x.rsvTail, stFieldRange, 0x1E),
    ((opInfo x.opcode).isNone, stBadOpcode, 0x02),
    (!s.portAllowed o c.port, stPortDenied, 0x02),
    (!s.opState o c.port (rd 4 c.pay 0), stStateDenied, 0x02) ]

/-- Slot offset of a payload byte, as DETAIL gives it. -/
def payOff (n : Nat) : Nat := 0x40 + n

/-- PAYLOAD_LEN against the payload's own parts (R295). -/
def lenIs (c : Cmd) (n : Nat) : List (Bool × Nat × Nat) := [(c.hdr.payloadLen != n, stLenRange, 0x0C)]

/-- Check 7: TXN_ID is zero or names an open transaction. -/
def State.txnCheck (s : State) (c : Cmd) : List (Bool × Nat × Nat) :=
  let t := c.hdr.txnId.toNat
  [(t != 0 && !(s.cfg.txnModule.any (fun x => x.id == t)) && !(s.cfg.txnSlice.any (fun x => x.id == t)),
    stTxnExpired, 0x08)]

/-- A command as it stands in a slot. -/
def State.cmdAt (s : State) (p : MPort) (i : Nat) : Cmd :=
  let x := s.slot p i
  { port := p, slot := i, hdr := x, pay := fit (min x.payloadLen 4032) x.payload }

/-- The outcome of a command's checks: those of the header, then those that the opcode gives (its lengths and ranges),
then TXN_ID. -/
def State.refusal (s : State) (c : Cmd) (own : List (Bool × Nat × Nat)) : Option (Nat × Nat) :=
  firstFail (s.headChecks c ++ [(decide (4032 < c.hdr.payloadLen), stLenRange, 0x0C)] ++ own ++ s.txnCheck c)

/-- The home rule's decision carried out. -/
def State.carryOut (s : State) (c : Cmd) : Act → State
  | .refuse st d => s.handBack c.port c.slot st d [] false
  | .done s1 st d pay => s1.handBack c.port c.slot st d pay true
  | .long s1 obj args body =>
    (s1.interim c.port c.slot 0 true).onMbox fun m => { m with running := m.running ++
      [{ port := c.port, slot := c.slot, opcode := c.hdr.opcode, foundNs := s.now, obj := obj, args := args
         body := body }] }
  | .wait => s

/-- One mailbox command: posted where its sender posts it, found where the port is served and the slot holds this row's
opcode (or one in no row), checked, and carried out (R285, R286, R294). `mine` says which payloads are this row's. -/
def State.runOp (s0 : State) (q : Req) (op : Nat) (mine : Cmd → Bool) (own : State → Cmd → List (Bool × Nat × Nat))
    (act : State → Cmd → Act) : State :=
  let s := match q.post with
    | some img => s0.post q.port q.slot img q.path
    | none => s0
  let c := s.cmdAt q.port q.slot
  if s.served q.port && q.slot < slotCount q.port && c.hdr.owner && !c.hdr.started &&
      ((c.hdr.opcode == op && mine c) || (opInfo c.hdr.opcode).isNone) then
    match s.refusal c (own s c) with
    | some (st, d) => s.carryOut c (.refuse st d)
    | none => s.carryOut c (act s c)
  else s

/-- Whether a command is there to be carried out: found, past its checks, and neither refused by its home rule nor left
waiting. -/
def State.runs (s0 : State) (q : Req) (op : Nat) (mine : Cmd → Bool) (own : State → Cmd → List (Bool × Nat × Nat))
    (act : State → Cmd → Act) : Bool :=
  let s := match q.post with
    | some img => s0.post q.port q.slot img q.path
    | none => s0
  let c := s.cmdAt q.port q.slot
  s.served q.port && decide (q.slot < slotCount q.port) && c.hdr.owner && !c.hdr.started && c.hdr.opcode == op && mine c &&
    (s.refusal c (own s c)).isNone && (match act s c with
      | .done _ _ _ _ => true
      | .long _ _ _ _ => true
      | _ => false)

/-- A mailbox command with what follows it where it is carried out; a refused command changes nothing (R294). -/
def State.runOpThen (s0 : State) (q : Req) (op : Nat) (mine : Cmd → Bool) (own : State → Cmd → List (Bool × Nat × Nat))
    (act : State → Cmd → Act) (after : State → State) : State :=
  let t := s0.runOp q op mine own act
  if s0.runs q op mine own act then after t else t

/-! ### Objects of R289 -/

def objTxn (id : Nat) : List Nat := [1, id]
def objCopy (kind id gen : Nat) : List Nat := [2, kind, id, gen]
def objAdapter (id : Nat) : List Nat := [3, id]
def objPlan : List Nat := [4]
def objFirmware : List Nat := [5]
def objConfig : List Nat := [6]
def objSelftest : List Nat := [7]
def objSwap : List Nat := [8]

/-- The object that a command needs: free, held by a running command of the same opcode (it waits its turn), or held
by another (ST_BUSY) (R289). -/
def State.objAct (s : State) (op : Nat) (obj : List Nat) (k : Act) : Act :=
  match s.mbox.running.find? (fun r => r.obj == obj) with
  | some r => if r.opcode == op then .wait else .refuse stBusy 0
  | none => k

/-- A row that is the whole of its opcode. -/
def allPayloads : Cmd → Bool := fun _ => true

/-- An opcode that carries no request payload. -/
def noPayload : State → Cmd → List (Bool × Nat × Nat) := fun _ c => lenIs c 0

end Sys2Proof.Machine
end

