-- ==== Sys2Proof/Machine/Life.lean ====
section
/-! DEFINITION. What is lost and what is kept: freeing weights and plans (R302), the loss of a running module's
volatile state at S3 entry, a trip or a reset (Table 12.8, R251, R410), the host-slot reset (R290), the erase of
customer data (R392), the ROM's choice of a bank (R413), and the start of a start-up (R399). -/

namespace Sys2Proof.Machine

open Sys2Proof

/-! ### Plans and weights freed -/

/-- Physical frames that hold a plan's pages are cleared when the pages are freed. -/
def State.unmapAll (s : State) : State := s.onMem fun m => { m with pages := [], moves := [], holdOff := [] }

/-- Every weight copy, home and generation freed; the plan staging region stays (R249). -/
def State.freeWeights (s : State) : State :=
  s.onWts fun w => { w with curGen := 0, firstGen := 0, stagedGen := 0, copies := w.copies.filter (fun c => c.kind != 1)
                            homeGens := [], sweep := none, sweepAfterSwap := false, halves := [] }

/-- The staged generation freed. -/
def State.freeStaged (s : State) : State :=
  s.onWts fun w => { w with stagedGen := 0, copies := w.copies.filter (fun c => !(c.kind == 1 && c.role == 1)) }

/-- The plan, the next plan and every weight copy freed; PLAN_LOADED clears (R302). -/
def State.unloadPlan (s : State) : State :=
  let s1 := (s.unmapAll).freeWeights
  let s2 := s1.onWts fun w => { w with main := none, draft := none, next := none, nextDraft := none, draftGen := 0 }
  (s2.onSrv fun v => { v with sliceState := .noPlan }).onFab fun f =>
    { f with routes := [], disp := [], colls := [], reads := [], collRoom := [] }

/-! ### Host slots (R290) -/

/-- Host slots zeroed with their stored SEQ, unstarted commands dropped, started ones left to run to an unwritten end,
and every transaction begun on port H rolled back. -/
def State.resetHostSlots (s : State) : State :=
  let s1 := s.onMbox fun m => { m with
    slotsH := [], running := m.running.map fun r => if r.port == .h then { r with orphan := true } else r }
  s1.onCfg fun c => { c with
    txnModule := if c.txnModule.any (fun t => t.port == .h) then none else c.txnModule
    txnSlice := if c.txnSlice.any (fun t => t.port == .h) then none else c.txnSlice }

/-! ### What a loss of the main rails takes -/

/-- Ports untrained, with what the plan gave them kept. -/
def Port.dark (p : Port) : Port :=
  { ({} : Port) with retrains := p.retrains, logical := p.logical }

/-- SRAM and stacks lose their contents; T3 keeps its own where the module entered S3 by command and the supplies held
(R251). Steps, sessions, KV, adapters, the fabric's records, filler work and trace are gone with them. -/
def State.loseVolatile (s : State) (keepT3 : Bool) : State :=
  let s1 := s.onMem fun m => { m with
    cells := if keepT3 then m.cells.filter (fun c => c.1 < t2Base) else []
    side := if keepT3 then m.side.filter (fun e => e.1 < t2Base / blockBytes) else [], moves := [], holdOff := [] }
  let s2 := s1.onWts fun w => { w with
    copies := if keepT3 then w.copies.filter (fun c => c.kind == 1 && c.inT3 && c.state == .verified) else []
    stagedGen := 0, homeGens := [], staging := {}, swap := none, sweep := none, halves := []
    checking := none, next := none, nextDraft := none, t3Retained := keepT3 }
  let s3 := (s2.onTiles fun t => { t with x := [], inTest := [], chans := [], full := [], empty := [], a8Rows := []
                                          reserveMet := [], shadowPending := [] }).onSteps fun _ => {}
  let s4 := s3.onSrv fun v => { ({} : Serving) with
    accounting := v.accounting, uses := v.uses, noStart := v.noStart
    sliceState := if s.wts.main.isSome then .stopped else .noPlan }
  let s5 := (s4.onKv fun k => { ({} : Kv) with csEnable := k.csEnable, csNodes := k.csNodes }).onAdp fun a =>
    { ({} : Adapters) with storePages := a.storePages, perHb := a.perHb }
  let s6 := s5.onFab fun f => { ({} : Fabric) with
    ports := f.ports.map (fun e => (e.1, e.2.dark)), routes := f.routes, cachePages := f.cachePages }
  let s7 := s6.onPwr fun p => { p with
    clamp := false, clamp16 := 0, clampRamp := false, capReq := [], stagger := none, filler := 0, fade := none
    lent := 0, borrowed := 0, loans := [], reverting := false, belowReach := false, budgets := [], settling := []
    windows := [], windowW := 0 }
  (s7.onSec fun c => { c with trace := {}, scanChains := [] }).onCfg fun c =>
    { c with txnModule := none, txnSlice := none, commit := none, prepared := none, persist := none }

/-- The main rails go off: the module is in S3, MAIN_OK falls, the PCIe link goes down and the host slots are lost
(Table 10.4, R429). -/
def State.railsOff (s : State) (keepT3 : Bool) : State :=
  let s1 := (s.loseVolatile keepT3).resetHostSlots
  let s2 := s1.onMbox fun m => { m with ready := false, dServed := false
                                        running := m.running.filter (fun r => r.port == .m) }
  (s2.onPwr fun p => { p with state := .s3, change := none, s3Deferred := false }).onPins fun p =>
    { p with mainOk := false }

/-! ### Erase (R392) -/

/-- The counters an erase resets: Tables 4.11, 6.12 and 7.12. -/
def erasedCounter (key : Nat) : Bool :=
  let t := key / 2 ^ 48
  t == 4 * 256 + 11 || t == 6 * 256 + 12 || t == 7 * 256 + 12

/-- The configuration image as an erase leaves it, and the running configuration at factory defaults. -/
def State.clearConfig (s : State) : State :=
  s.onCfg fun c => { c with run := [], unknown := [], imageA := { valid := true, gen := 1 }, imageB := {} }

/-- Memory and objects of customer data gone: every word zero, every plan, copy, adapter, session, image and sheet
node freed; the counters of R392 reset. -/
def State.eraseData (s : State) : State :=
  let s1 := (s.onMem fun m => { m with cells := [], side := [] }).unloadPlan
  let s2 := s1.onWts fun w => { w with copies := [], staging := {}, checking := none, swap := none, t3Retained := false }
  let s3 := s2.onSrv fun v => { ({} : Serving) with noStart := v.noStart, qps := v.qps, nextQp := v.nextQp }
  let s4 := (s3.onKv fun k => { ({} : Kv) with csEnable := k.csEnable, csNodes := k.csNodes }).onAdp fun a =>
    { ({} : Adapters) with storePages := a.storePages, perHb := a.perHb }
  let s5 := (s4.onSteps fun _ => {}).onTiles fun t => { t with
    x := [], chans := [], full := [], empty := [], a8Rows := [], reserveMet := [], shadowPending := [] }
  let s6 := s5.onFab fun f => { f with cache := [], disp := [], colls := [], asm := [], reads := [], collRoom := [] }
  let s7 := s6.onSec fun c => { c with trace := {} }
  s7.onCounters fun t => t.filter (fun e => !erasedCounter e.1)

/-- An erase whose writes all held: the data and, unless kept, the configuration are gone, and ERASED is set. -/
def State.eraseNow (s : State) (keep : Bool) : State :=
  let s1 := s.eraseData
  let s2 := if keep then s1 else s1.clearConfig
  s2.onSec fun c => { c with erased := true, erasePending := false, erasing := none }

/-- Customer data arrives: ERASED clears (R392). -/
def State.dataArrives (s : State) : State := s.onSec fun c => { c with erased := false }

/-! ### Bundle headers (Tables 13.7 and 13.8) -/

def fwMagic : Nat := 0x4E5A4657

/-- Offsets and lengths of Table 13.8 row 2. -/
def headerLengths (h : Bytes) : Bool :=
  let len := rd 4 h 0x20
  let r := [(rd 4 h 0x24, rd 4 h 0x28), (rd 4 h 0x2C, rd 4 h 0x30), (rd 4 h 0x34, rd 4 h 0x38)]
  let apart (a b : Nat × Nat) : Bool := a.1 + a.2 ≤ b.1 || b.1 + b.2 ≤ a.1
  64 ≤ len && len ≤ 100662784 && len % 64 == 0 &&
    r.all (fun x => x.1 % 64 == 0 && x.2 % 64 == 0 && x.1 + x.2 ≤ len) &&
    apart (r.getD 0 (0, 0)) (r.getD 1 (0, 0)) && apart (r.getD 0 (0, 0)) (r.getD 2 (0, 0)) &&
    apart (r.getD 1 (0, 0)) (r.getD 2 (0, 0))

/-- Reserved fields of a bundle header. -/
def headerReserved (h : Bytes) : Bool :=
  bitsOf (rd 4 h 4) 31 18 == 0 && rd 2 h 0x1A == 0 && rd 4 h 0x3C == 0 && allZero (cut h 0xD0 0x30) &&
    allZero (cut h 0x160 0xA0)

/-- The fused SHA-384 of a firmware key slot. -/
def keyHash (slot : Nat) : Bytes := (List.range 48).map (Config.keyHashByte slot)

/-- Rows 1 to 5 of Table 13.8, in order: the first that fails, with its status and the field's offset. -/
def State.headerCheck (s : State) (h : Bytes) : Option (Nat × Nat) :=
  let slot := bitsOf (rd 4 h 4) 17 16
  let key := cut h 0x70 96
  firstFail
    [ (rd 4 h 0 != fwMagic, stVersion, 0x00), (rd 2 h 4 != 1, stVersion, 0x04),
      (byteAt h 0x17 != 0xB0, stVersion, 0x17), (!headerLengths h, stLenRange, 0x20),
      (!headerReserved h, stFieldRange, 0x04),
      (sha384 key != keyHash slot || Config.keyRevoked slot || !ecdsaVerify key (cut h 0 0x100) (cut h 0x100 96),
        stSignature, 0x100),
      (decide (rd 2 h 0x0C < s.fw.minSvn) || decide (rd 2 h 0x0E < s.fw.minSvn) ||
        decide (rd 2 h 0x10 < s.fw.minSvn), stVersion, 0x0C) ]

/-- A bank's body, the later part over the earlier (R416). -/
def Bank.body (b : Bank) : Bytes :=
  let n := rd 4 b.header 0x20
  fit n (b.parts.foldl (fun acc p => overlay acc p.1 p.2) [])

def State.bank (s : State) (b : Bool) : Bank := if b then s.fw.bankB else s.fw.bankA
def State.putBank (s : State) (b : Bool) (x : Bank) : State :=
  s.onFw fun f => if b then { f with bankB := x } else { f with bankA := x }

/-- Whether the ROM takes a bank: its header by rows 1 to 5 and its body's digest. The shipped image, whose header the
model has not seen, is taken (log entry 40). -/
def State.bankGood (s : State) (b : Bool) : Bool :=
  let x := s.bank b
  if x.header.isEmpty then x.state == .active || x.state == .staged || x.state == .trial
  else (s.headerCheck x.header).isNone && sha384 x.body == cut x.header 0x40 48

/-- Safelight mode (R420): the recovery image answers on ports H and M. -/
def State.enterSafelight (s : State) : State :=
  let s1 := (s.onFw fun f => { f with safelight := true }).onMbox fun m => { m with ready := true, mServed := true }
  s1.event evSafelight

/-- A bank that the ROM refuses is FAILED, raises FLT_FW_IMAGE and is on trial no longer. -/
def State.failBank (s : State) (b : Bool) : State :=
  ((s.putBank b { s.bank b with state := .failed }).onFw fun f =>
    { f with trialBank := if f.trialBank = some b then none else f.trialBank }).fault fltFwImage noUnit { args := [b2n b] }

/-- The ROM marks a bank FAILED with FLT_FW_IMAGE and tries the other, where that is STAGED or ACTIVE; with none left it
enters safelight mode. -/
def State.romTry (s : State) (b : Bool) : State :=
  if s.bankGood b then s.onFw fun f => { f with runningB := b, loaderB := b } else
  let s1 := s.failBank b
  let o := s1.bank (!b)
  if o.state == .staged || o.state == .active then
    if s1.bankGood (!b) then s1.onFw fun f => { f with runningB := !b, loaderB := !b } else
    (s1.failBank (!b)).enterSafelight
  else s1.enterSafelight

/-- A bank left WRITING becomes EMPTY at the next start (R413). -/
def State.dropWriting (s : State) : State :=
  let fixB (x : Bank) : Bank := if x.state == .writing then {} else x
  s.onFw fun f => { f with bankA := fixB f.bankA, bankB := fixB f.bankB }

/-- The ROM's choice of a bank (R413), three trial starts without READY being fallback trigger 4 (Table 13.11). -/
def State.romSelect (s : State) : State :=
  let s0 := s.dropWriting
  match s0.fw.trialBank with
  | some b =>
    if 0 < s0.fw.trialStarts then
      let s1 := (s0.putBank b { s0.bank b with state := .trial }).onFw fun f => { f with trialStarts := f.trialStarts - 1 }
      s1.romTry b
    else
      let s1 := (s0.putBank b { s0.bank b with state := .failed }).onFw fun f => { f with trialBank := none, trialFromNs := none }
      (s1.fault fltFwFallback noUnit { args := [4] }).romTry s1.fw.activeB
  | none => s0.romTry s0.fw.activeB

/-! ### Starting up (R399) -/

/-- t0 of a start-up: every slot zero (R284), the registers at their hardware values, no debug level (R391), SPDM
connections closed, and the ROM at work: it chooses a bank by the end of stage 1. -/
def State.startUp (s : State) (cause : Nat) : State :=
  let s1 := s.onMbox fun m => { ({} : Mbox) with lastReset := cause, warmResetAt := none, msix := m.msix }
  let s2 := s1.onSec fun c => { c with debug := 0, trace := {}, scanStopped := false, spdm := [], resync := []
                                       udsLocked := false, erasing := none }
  let s3 := s2.onClock fun c => { c with startNs := c.timeNs, heartbeat := 0, heartbeatNs := c.timeNs }
  let s4 := s3.onFw fun f => { f with stage := 1, t1Ns := none, stageFailed := [], trialFromNs := none
                                      handover := none, safelight := false, fallbackDue := false }
  let s5 := s4.onPins fun p => { p with stbyOk := false, mainOk := false, margins := [] }
  s5.onPwr fun p => { p with state := .s3, change := none, energyMj := 0, energyUj := 0 }

/-- A WARM reset, or the end of a MOD_RESET_N pulse: main rails off, the plan gone, and start-up through the ROM; the
fault store and the event ring stay (R282, R399, R432). -/
def State.warmReset (s : State) (cause : Nat) : State :=
  let s1 := (s.railsOff false).unloadPlan
  let s2 := s1.onWts fun w => { w with t3Retained := false, staging := {} }
  let s3 := s2.startUp cause
  s3.onMem fun m => { m with ceAddrs := [] }

end Sys2Proof.Machine
end

