-- ==== Sys2Proof/Machine/Messages.lean ====
section
/-! DEFINITION. Packets and the LEAD and SLICE messages: routing entries (R170, R171), packet headers (R164), message
headers and their splitting and joining (R166, Tables 5.11 and 5.12). -/

namespace Sys2Proof.Machine

open Sys2Proof

/-! ### Packets -/

def ptLink : Nat := 0
def ptWrite : Nat := 1
def ptReadReq : Nat := 2
def ptReadRsp : Nat := 3
def ptRed : Nat := 4
def ptMcast : Nat := 5
def ptDispatch : Nat := 6
def ptDispatchEnd : Nat := 7
def ptReturn : Nat := 8
def ptBufFree : Nat := 9
def ptColl : Nat := 10
def ptCredit : Nat := 11
def ptLead : Nat := 12
def ptSlice : Nat := 13

/-- Class of a packet type (Table 5.4): 0 LINK, 1 CTRL, 2 REQ, 3 RSP, 4 MCAST. -/
def classOf (ty : Nat) : Nat := [0, 2, 2, 3, 2, 4, 2, 2, 3, 1, 2, 3, 1, 1].getD ty 7

/-- The routing entry of a destination: the hole table's where it has one, else the plan's (R170, R171). -/
def State.routeOf (s : State) (dest : Nat) : Bool × Nat :=
  match tget s.fab.routes dest with
  | some r => r
  | none => match (s.plan.sec secRouting).find? (fun e => fld e 0 8 0 == dest) with
    | some e => (fld e 0 9 9 = 1, fld e 4 8 0)
    | none => (false, 0)

/-- A packet of this module to a destination, with its route and its data's CRC. -/
def State.mkPacket (s : State) (ty dest : Nat) (data : Bytes := []) (exp : Int := 0) (a8d : Nat := 0) : Packet :=
  let r := s.routeOf dest
  { type := ty, cls := classOf ty, dest := dest, src := s.index, detour := r.1, via := if r.1 then r.2 else 0
    sliceId := s.plan.sliceId, len := data.length, data := data, dcrc := w32 (crc32c data), exp := exp, a8d := a8d }

def State.portX (s : State) (p : Nat) : Port := tgetD s.fab.ports p {}
def State.modPort (s : State) (p : Nat) (f : Port → Port) : State :=
  s.onFab fun x => { x with ports := tmod x.ports p {} f }

def allPorts : List Nat := [0, 1, 2, 3, 4, 5]

/-- Logical port of a physical port, and the physical port that a logical port lies on (R406). -/
def State.logicalOf (s : State) (p : Nat) : Nat := (s.portX p).logical.getD p
def State.physOf (s : State) (q : Nat) : Nat := (allPorts.find? (fun p => s.logicalOf p == q)).getD q

/-- The logical port by which a packet leaves module `a` towards `t`; none where it has arrived. -/
def hopPort (a t : Nat) : Option Nat :=
  if coordZ a ≠ coordZ t then some (if coordZ a < coordZ t then 5 else 4)
  else if coordY a ≠ coordY t then some (if coordY a < coordY t then 3 else 2)
  else if coordX a ≠ coordX t then some (if coordX a < coordX t then 1 else 0)
  else none

/-- The module behind a logical port. -/
def behindPort (a port : Nat) : Nat :=
  match port with
  | 0 => a - 1 | 1 => a + 1 | 2 => a - 8 | 3 => a + 8 | 4 => a - 128 | _ => a + 128

/-- Receive buffer of a class and phase, and its size in flit payloads (Table 5.5). -/
def bufferOf (k : Packet) : Nat :=
  match k.cls with
  | 0 => 0
  | 1 => 1 + b2n k.phaseB
  | 3 => 3 + b2n k.phaseB
  | 2 => 5 + b2n k.phaseB
  | _ => 7
def bufferSize (b : Nat) : Nat := [32, 128, 128, 1024, 1024, 1024, 1024, 512].getD b 0

/-- Flit payloads of a packet: header, data and the data's CRC. -/
def flitPayloads (k : Packet) : Nat := ceilDiv (if k.len = 0 then 32 else 36 + k.len) 288

/-- A packet leaves by a physical port: it takes room of the far end's buffer and flits of the port's numbering. Waiting for
room is not modelled (log entry 57). -/
def State.sendOn (s : State) (port : Nat) (k : Packet) : State :=
  let n := flitPayloads k
  let b := bufferOf k
  ((s.modPort port fun x => { x with
    txSeq := (x.txSeq + n) % 4096, replay := x.replay + n, room := x.room.set b (x.room.getD b 0 - n) }).count
      ctFlitsTx port n).emit (.packet k)

/-- The module that a packet is bound for now (R169). -/
def packetTarget (k : Packet) : Nat := if k.detour && !k.phaseB then k.via else k.dest

/-- A packet sent by this module: towards its target; one for this module itself crosses no link. -/
def State.sendPacket (s : State) (k : Packet) : State :=
  match hopPort s.index (packetTarget k) with
  | some q => s.sendOn (s.physOf q) k
  | none => s.emit (.packet k)

/-! ### Messages -/

def mSessionTable : Nat := 0x01
def mAttnRecords : Nat := 0x02
def mGrantList : Nat := 0x03
def mCommit : Nat := 0x04
def mSessionUpdate : Nat := 0x05
def mGenParams : Nat := 0x06
def mHoleTable : Nat := 0x07
def mTxnStage : Nat := 0x08
def mPromotion : Nat := 0x09
def mStepAbort : Nat := 0x0A
def mClear : Nat := 0x0B
def mStepReport : Nat := 0x0C
def mBudget : Nat := 0x0D
def mTxnReply : Nat := 0x0E
def mStartInfo : Nat := 0x0F
def mDraftTree : Nat := 0x10
def mOutcome : Nat := 0x11

/-- Entry size of a message (Table 5.12); none where the number is in no row. -/
def msgEntry (m : Nat) : Option Nat :=
  if m = 0 then none else ([16, 64, 16, 32, 32, 8, 16, 8, 16, 16, 0, 16, 32, 16, 16, 8, 8].map some).getD (m - 1) none

/-- The packet type that carries a message: LEAD for 0x01 to 0x08, SLICE for the rest. -/
def msgType (m : Nat) : Nat := if m ≤ 8 then ptLead else ptSlice

/-- A message header (Table 5.11). -/
def msgHead (m minor hb : Nat) (more : Bool) (count step : Nat) : Bytes :=
  le 1 m ++ le 1 minor ++ le 2 (hb % 2 + 2 * b2n more) ++ le 4 count ++ le 8 step

/-- Entries split into packets of whole entries, every packet but the last with MORE. -/
def msgParts (m minor hb step : Nat) (es : List Bytes) : List Bytes :=
  let sz := (msgEntry m).getD 0
  if sz = 0 ∨ es.isEmpty then [msgHead m minor hb false 0 step] else
    let cs := chunksOf (4080 / sz) es
    (indexed cs).map fun c =>
      msgHead m minor hb (c.1 + 1 < cs.length) c.2.length step ++ c.2.flatMap id

/-- A message to one module. -/
def State.sendMsg (s : State) (dest m hb step : Nat) (es : List Bytes) : State :=
  (msgParts m s.fab.minor hb step es).foldl (fun a d => a.sendPacket (a.mkPacket (msgType m) dest d)) s

/-- A message to every other module of the slice. -/
def State.sendAll (s : State) (m hb step : Nat) (es : List Bytes) : State :=
  s.others.foldl (fun a d => a.sendMsg d m hb step es) s

/-- A message to the lead from another module; on the lead nothing is sent. -/
def State.sendLead (s : State) (m hb step : Nat) (es : List Bytes) : State :=
  if s.isLead then s else s.sendMsg s.plan.leadIndex m hb step es

/-- A message as parsed from one packet. -/
structure Msg where
  src : Nat
  msg : Nat
  minor : Nat
  hb : Nat
  more : Bool
  step : Nat
  entries : List Bytes
  deriving DecidableEq, Repr

/-- R166's checks: MSG in the table and on its packet type, LEN agreeing with COUNT, reserved fields zero. -/
def parseMsg (k : Packet) : Option Msg :=
  let b := k.data
  let m := byteAt b 0
  let n := rd 2 b 4
  match msgEntry m with
  | none => none
  | some sz =>
    if k.type ≠ msgType m ∨ k.len ≠ b.length ∨ b.length ≠ 16 + n * sz ∨ (sz = 0 ∧ n ≠ 0) ∨
        bitsOf (rd 2 b 2) 15 2 ≠ 0 ∨ rd 2 b 6 ≠ 0 ∨ rd 2 b 14 ≠ 0 then none
    else some
      { src := k.src, msg := m, minor := byteAt b 1, hb := rd 2 b 2 % 2, more := bitOf (rd 2 b 2) 1
        step := rd 6 b 8, entries := if sz = 0 then [] else chunksOf sz (b.drop 16) }

/-- The step a malformed message's header names. -/
def msgStep (k : Packet) : Nat := rd 6 k.data 8

/-- Joining the parts of a message: none while more follow. -/
def State.joinMsg (s : State) (m : Msg) : State × Option Msg :=
  let key (a : Asm) : Bool := a.src == m.src && a.msg == m.msg && a.hb == m.hb && a.step == m.step
  let before := (s.fab.asm.filter key).flatMap (·.bytes)
  let all := before ++ m.entries.flatMap id
  let rest := s.fab.asm.filter (fun a => !key a)
  if m.more then
    (s.onFab fun f => { f with asm := rest ++ [{ src := m.src, msg := m.msg, hb := m.hb, step := m.step, bytes := all }] },
      none)
  else
    let sz := (msgEntry m.msg).getD 0
    (s.onFab fun f => { f with asm := rest },
      some { m with entries := if sz = 0 then [] else chunksOf sz all })

end Sys2Proof.Machine
end

