-- ==== Sys2Proof/Machine/KvPages.lean ====
section
/-! DEFINITION. KV groups, page tables and pages (R120 to R129), grants (R130 to R132), and the pause image's layout
(R149). -/

namespace Sys2Proof.Machine

open Sys2Proof

/-! ### Groups and pools (R120) -/

def opMatmul : Nat := 0x01
def opLora : Nat := 0x02
def opAttn : Nat := 0x03
def opKvAppend : Nat := 0x04
def opNorm : Nat := 0x10
def opElemwise : Nat := 0x11
def opRoute : Nat := 0x12
def opSkipGate : Nat := 0x13
def opCombine : Nat := 0x14
def opDispatchOpc : Nat := 0x20
def opCollective : Nat := 0x21
def opMove : Nat := 0x22
def opFabricRed : Nat := 0x23
def opMcastOpc : Nat := 0x24
def opEmbed : Nat := 0x30
def opSample : Nat := 0x31

/-- The PAGE_TABLE tensors in ascending id: the plan's groups. -/
def PlanObj.groups (p : PlanObj) : List (List Nat) :=
  sortBy (fun a b => fld a 0 31 0 ≤ fld b 0 31 0) ((p.sec secTensor).filter (fun t => tnKind t == 2))

def PlanObj.group (p : PlanObj) (g : Nat) : List Nat := p.groups.getD g []

/-- Session and chunk capacity of a group. -/
def grSessions (t : List Nat) : Nat := tnRows t
def grChunks (t : List Nat) : Nat := tnCols t

/-- An ATTN descriptor of a layer. -/
def PlanObj.attnOf (p : PlanObj) (layer : Nat) : Option (List Nat) :=
  (p.sec secDesc).find? (fun d => dOpc d == opAttn && dLayer d == layer)

def hdimOf (code : Nat) : Nat := 64 * 2 ^ code

/-- A pool of a group: its layer, address, heads and head dimension on this module, form and slot count. -/
structure Pool where
  layer : Nat
  base : Nat
  heads : Nat
  dim : Nat
  k4 : Bool
  slots : Nat
  deriving DecidableEq, Repr

/-- The pools of a group, in layer order. -/
def PlanObj.pools (p : PlanObj) (g : Nat) : List Pool :=
  let gid := fld (p.group g) 0 31 0
  let ts := (p.sec secTensor).filter fun t => tnKind t == 1 && tnLayerValid t &&
    ((p.attnOf (tnLayer t)).any fun d => fld d 0x48 31 0 == gid)
  (sortBy (fun a b => tnLayer a ≤ tnLayer b) ts).map fun t =>
    { layer := tnLayer t, base := tnBase t, heads := tnCols t
      dim := hdimOf (fld ((p.attnOf (tnLayer t)).getD []) 0x44 15 14), k4 := tnFmt t == 6, slots := tnRows t }

def PlanObj.groupK4 (p : PlanObj) (g : Nat) : Bool := ((p.pools g).headD ⟨0, 0, 0, 0, false, 0⟩).k4
def PlanObj.groupSlots (p : PlanObj) (g : Nat) : Nat := ((p.pools g).headD ⟨0, 0, 0, 0, false, 0⟩).slots
/-- The group whose PAGE_TABLE tensor has an id. -/
def PlanObj.groupOfTab (p : PlanObj) (id : Nat) : Nat := (p.groups.map (fun t => fld t 0 31 0)).idxOf id

/-- The session capacity C of R193: the smallest of the groups', at most 4,096. -/
def PlanObj.sessionCap (p : PlanObj) : Nat := p.groups.foldl (fun a t => min a (grSessions t)) 4096

/-! ### Page sizes and places (R125, R126) -/

def p8Bytes (h d : Nat) : Nat := 128 * h * d + ceilDiv (128 * h) 4096 * 4096
def p4Bytes (h d : Nat) : Nat := 64 * h * d + ceilDiv (8 * h * d) 4096 * 4096 + ceilDiv (128 * h) 4096 * 4096
def Pool.p8 (q : Pool) : Nat := p8Bytes q.heads q.dim
def Pool.p4 (q : Pool) : Nat := p4Bytes q.heads q.dim
def Pool.page (q : Pool) : Nat := if q.k4 then q.p4 else q.p8

/-- A chunk map entry (Table 4.2). -/
structure MapEnt where
  slot : Nat := 0
  ring : Bool := false
  shared : Bool := false
  valid : Bool := false
  deriving DecidableEq, Repr

def MapEnt.word (e : MapEnt) : Nat :=
  e.slot + b2n e.ring * 2 ^ 24 + b2n e.shared * 2 ^ 25 + b2n e.valid * 2 ^ 26

def mapEnt (w : Nat) : MapEnt :=
  { slot := bitsOf w 23 0, ring := bitOf w 24, shared := bitOf w 25, valid := bitOf w 26 }

def PlanObj.entAddr (p : PlanObj) (g sess chunk : Nat) : Nat :=
  tnBase (p.group g) + (sess * grChunks (p.group g) + chunk) * 4

def State.ent (s : State) (g sess chunk : Nat) : MapEnt :=
  mapEnt (rd 4 (s.readRange (s.plan.entAddr g sess chunk) 4) 0)

def State.putEnt (s : State) (g sess chunk : Nat) (e : MapEnt) : State :=
  s.writeRange (s.plan.entAddr g sess chunk) (le 4 e.word)

/-- Address of the page that an entry names, and whether it has K8 form. -/
def Pool.at (q : Pool) (e : MapEnt) (sess : Nat) : Nat :=
  if e.ring then q.base + q.slots * q.p4 + (6 * sess + e.slot) * q.p8 else q.base + e.slot * q.page

def Pool.isK8 (q : Pool) (e : MapEnt) : Bool := e.ring || !q.k4

/-! ### Rows of a page (R125 to R127) -/

/-- Row index of head h, part k (0 key, 1 value) and position ρ within the chunk. -/
def rowIdx (h k pos : Nat) : Nat := (2 * h + k) * 64 + pos

def signed8 (b : Nat) : Int := if b < 128 then b else (b : Int) - 256
def unsigned8 (e : Int) : Nat := (e % 256).toNat

/-- Offsets of a row's codes, scales and exposure in a page. -/
def rowCodes (k8 : Bool) (d i : Nat) : Nat := if k8 then i * d else i * d / 2
def rowScales (h d i : Nat) : Nat := 64 * h * d + i * d / 16
def rowExp (k8 : Bool) (h d i : Nat) : Nat :=
  if k8 then 128 * h * d + i else 64 * h * d + ceilDiv (8 * h * d) 4096 * 4096 + i

/-- A row as its page holds it: codes, scales and exposure. -/
structure KvRow where
  codes : Bytes
  scales : Bytes
  exp : Nat
  deriving DecidableEq, Repr

def State.kvRow (s : State) (a : Nat) (k8 : Bool) (h d i : Nat) : KvRow :=
  { codes := s.readRange (a + rowCodes k8 d i) (if k8 then d else d / 2)
    scales := if k8 then [] else s.readRange (a + rowScales h d i) (d / 16)
    exp := byteAt (s.readRange (a + rowExp k8 h d i) 1) 0 }

def State.putKvRow (s : State) (a : Nat) (k8 : Bool) (h d i : Nat) (r : KvRow) : State :=
  let s1 := s.writeRange (a + rowCodes k8 d i) r.codes
  let s2 := if k8 then s1 else s1.writeRange (a + rowScales h d i) r.scales
  s2.writeRange (a + rowExp k8 h d i) (le 1 r.exp)

/-- The values of a row. -/
def KvRow.values (r : KvRow) (k8 : Bool) (d : Nat) : List Fp :=
  let e := signed8 r.exp
  (List.range d).map fun j =>
    if k8 then fromA8 (byteAt r.codes j) e else fromA4 (nibble r.codes j) (byteAt r.scales (j / 16)) e

/-- A row converted by R127, with the counts of its conversions that saturated and that met a non-finite value. -/
def kvConvert (k8 : Bool) (xs : List Fp) : KvRow × Nat × Nat :=
  let m := maxMag xs
  if k8 then
    let e := expA8 m
    let cs := xs.map fun x => toA8 x e
    ({ codes := cs.map fun c => BitVec.ofNat 8 c.code, scales := [], exp := unsigned8 e },
      (cs.filter (·.sat)).length, (cs.filter (·.nonfinite)).length)
  else
    let e := expA4 m
    let gs := (chunksOf 16 xs).map fun g => toA4 g e
    ({ codes := packNibbles (gs.flatMap (·.codes)), scales := gs.map fun g => BitVec.ofNat 8 g.scale
       exp := unsigned8 e }, (gs.filter (·.sat)).length, (gs.filter (·.nonfinite)).length)

/-- A row in one form from a row in another: the same bytes where the forms agree (R129, R151). -/
def KvRow.reform (r : KvRow) (k8 to8 : Bool) (d : Nat) : KvRow :=
  if k8 = to8 then r else (kvConvert to8 (r.values k8 d)).1

/-- A whole page brought into another page's form; positions from `limit` on are zero. -/
def State.reformPage (s : State) (src : Nat) (k8 : Bool) (dst : Nat) (to8 : Bool) (h d limit : Nat) : State :=
  (List.range (128 * h)).foldl (fun a i =>
    let r := if i % 64 < limit then (s.kvRow src k8 h d i).reform k8 to8 d else
      { codes := zeros (if to8 then d else d / 2), scales := if to8 then [] else zeros (d / 16), exp := 0 }
    a.putKvRow dst to8 h d i r) s

/-! ### The pause image (R149) -/

/-- Bytes of one chunk in an image: a K4 page for every pool of every group. -/
def PlanObj.imageChunk (p : PlanObj) : Nat :=
  listSum ((List.range p.groups.length).flatMap fun g => (p.pools g).map (·.p4))

/-- Offset of a pool's page of a chunk. -/
def PlanObj.imageOff (p : PlanObj) (g layer chunk : Nat) : Nat :=
  4096 + chunk * p.imageChunk +
    listSum (((List.range p.groups.length).flatMap fun h => (p.pools h).map fun q => (h, q.layer, q.p4)).filterMap
      fun x => if x.1 < g ∨ (x.1 = g ∧ x.2.1 < layer) then some x.2.2 else none)

def PlanObj.imageBytes (p : PlanObj) (kvLen : Nat) : Nat := 4096 + ceilDiv kvLen 64 * p.imageChunk

/-- Module-range address of an image's byte. K4 pages are multiples of 4 KiB, and a 2 MiB page holds whole blocks. -/
def PauseImg.addr (m : PauseImg) (off : Nat) : Nat := m.pages.getD (off / pageBytes) 0 * pageBytes + off % pageBytes

/-- Bytes of an image, which may cross its pages. -/
def State.readImage (s : State) (m : PauseImg) (off n : Nat) : Bytes :=
  (chunksOf 4096 (List.range n)).flatMap fun c => s.readRange (m.addr (off + c.headD 0)) c.length

def State.writeImage (s : State) (m : PauseImg) (off : Nat) (b : Bytes) : State :=
  (indexed (chunksOf 4096 b)).foldl (fun a c => a.writeRange (m.addr (off + 4096 * c.1)) c.2) s

/-- `n` module-range pages from `at_`, each on a free frame of a tier, mapped with a hint for the module's own use. -/
def State.mapOwnAt (s : State) (tier hint at_ : Nat) : Nat → Option State
  | 0 => some s
  | n + 1 =>
    match s.mapOwnAt tier hint at_ n with
    | none => none
    | some s1 => (s1.findFrame tier 4194304 0).map fun f => s1.onMem fun m => { m with
        pages := tset m.pages (at_ + n) { base := frameBase tier f, tier := tier, hint := hint, own := true } }

/-- Pages for the module's own use, in one run below those it has: from the top of the module range down, which no plan
needs (log entry 43). -/
def State.mapOwn (s : State) (tier hint n : Nat) : Option (State × List Nat) :=
  let top := (s.mem.pages.filter (fun e => e.2.own)).foldl (fun a e => min a e.1) 8388608
  (s.mapOwnAt tier hint (top - n) n).map fun s1 => (s1, rangeFrom (top - n) n)

/-- Pages of the module's own freed. -/
def State.unmapOwn (s : State) (ps : List Nat) : State :=
  s.onMem fun m => { m with pages := m.pages.filter (fun e => !ps.contains e.1) }

/-- A session's image freed. -/
def State.freeImage (s : State) (sess : Nat) : State :=
  match tget s.kv.images sess with
  | some m => (s.unmapOwn m.pages).onKv fun k => { k with images := tdel k.images sess }
  | none => s

/-! ### Grants (R130 to R132) -/

structure Grant where
  session : Nat
  chunk : Nat
  group : Nat
  action : Nat
  slot : Nat
  frm : Nat := 0
  deriving DecidableEq, Repr

def gMap : Nat := 0
def gShare : Nat := 1
def gCopy : Nat := 2
def gRing : Nat := 3
def gFix : Nat := 4
def gRestore : Nat := 5
def gRestoreRing : Nat := 6
def gUnmap : Nat := 7

def Grant.bytes (g : Grant) : Bytes :=
  le 4 g.session ++ le 4 (g.chunk + g.group * 2 ^ 14 + g.action * 2 ^ 17) ++ le 4 g.slot ++ le 4 g.frm

def grantOf (b : Bytes) : Grant :=
  let w := rd 4 b 4
  { session := rd 4 b 0, chunk := bitsOf w 13 0, group := bitsOf w 16 14, action := bitsOf w 19 17
    slot := rd 4 b 8 % 2 ^ 24, frm := rd 4 b 12 % 2 ^ 24 }

/-- What Table 4.6 requires of the entry and the group's form. -/
def Grant.ok (g : Grant) (e : MapEnt) (k4 : Bool) : Bool :=
  match g.action with
  | 0 => !e.valid
  | 1 => !e.valid || (!e.ring && e.slot == g.slot)
  | 2 => !e.valid && !k4
  | 3 => !e.valid && k4
  | 4 => e.valid && e.ring && k4
  | 5 => !e.valid
  | 6 => !e.valid && k4
  | _ => true

/-- A grant that moves data waits for the migration engines. -/
def Grant.moves (g : Grant) : Bool :=
  g.action == gCopy || g.action == gFix || g.action == gRestore || g.action == gRestoreRing

/-- A grant applied: none where its requirement fails (FLT_KV_GRANT). -/
def State.applyGrant (s : State) (g : Grant) : Option State :=
  let sess := g.session % 4096
  let t := s.plan.group g.group
  if s.plan.groups.length ≤ g.group ∨ grChunks t ≤ g.chunk ∨ grSessions t ≤ sess then none
  else if !(g.ok (s.ent g.group sess g.chunk) (s.plan.groupK4 g.group)) then none
  else if g.moves then
    some (s.onKv fun k => { k with moves := k.moves ++
      [{ group := g.group, session := sess, chunk := g.chunk, action := g.action, slot := g.slot, from_ := g.frm
         startNs := s.now }] })
  else if g.action = gUnmap then
    some ((s.putEnt g.group sess g.chunk {}).onKv fun k => { k with
      moves := k.moves.filter fun m => !(m.group == g.group && m.session == sess && m.chunk == g.chunk) })
  else some (s.putEnt g.group sess g.chunk
    { slot := g.slot, ring := g.action == gRing, shared := g.action == gShare, valid := true })

/-- A KV counter of a whole session or node counts once in every group (DEDUCED, log entry 82). -/
def State.countGroups (s : State) (id n : Nat) : State :=
  (List.range s.plan.groups.length).foldl (fun a g => a.count id g n) s

/-- A grant list in list order: the state reached, and whether every grant held. -/
def State.applyGrants : List Grant → State → State × Bool
  | [], s => (s, true)
  | g :: r, s =>
    match s.applyGrant g with
    | some s1 => State.applyGrants r s1
    | none => (s, false)

/-- The data of a move, pool by pool, and then its entry (Table 4.6). -/
def State.finishMove (s : State) (m : KvMove) : State :=
  let p := s.plan
  let e := s.ent m.group m.session m.chunk
  let img := (tget s.kv.images m.session).getD ⟨0, [], false⟩
  let toRing := m.action == gRestoreRing
  let target : MapEnt := { slot := m.slot, ring := toRing, valid := true }
  let s1 := (p.pools m.group).foldl (fun (a : State) q =>
    let dst := q.at target m.session
    if m.action = gCopy then a.writeRange dst (a.readRange (q.base + m.from_ * q.page) q.page)
    else if m.action = gFix then a.reformPage (q.at e m.session) true dst false q.heads q.dim 64
    else
      -- from the image's K4 page into the entry's form
      let off := p.imageOff m.group q.layer m.chunk
      let src := img.addr off
      a.reformPage src false dst (q.isK8 target) q.heads q.dim 64) s
  let s2 := s1.putEnt m.group m.session m.chunk target
  let s3 := s2.onKv fun k => { k with moves := k.moves.filter fun x =>
    !(x.group == m.group && x.session == m.session && x.chunk == m.chunk) }
  if m.action = gFix then s3.count ctWindowFixes m.group 1
  else if m.action = gCopy then s3
  else s3.count ctPauseRestored m.group (listSum ((p.pools m.group).map (·.p4)))

/-- Whether a session's chunk waits for a data move on this module. -/
def State.moving (s : State) (g sess chunk : Nat) : Bool :=
  s.kv.moves.any fun m => m.group == g && m.session == sess && m.chunk == chunk

/-! ### The lead's slot references (R147) -/

def slotKey (g slot : Nat) : Nat := g * 2 ^ 24 + slot
def State.slotRefs (s : State) (g slot : Nat) : Nat := tgetD s.kv.slotRefs (slotKey g slot) 0

def State.addRef (s : State) (g slot : Nat) : State :=
  s.onKv fun k => { k with slotRefs := tmod k.slotRefs (slotKey g slot) 0 (· + 1) }

def State.dropRef (s : State) (g slot : Nat) : State :=
  let n := s.slotRefs g slot
  s.onKv fun k => { k with
    slotRefs := if n ≤ 1 then tdel k.slotRefs (slotKey g slot) else tset k.slotRefs (slotKey g slot) (n - 1) }

/-- The lowest free slot of a group (DESIGN CHOICE, log entry 44), by search over at most `fuel` slots. -/
def State.freeSlotFrom (s : State) (g : Nat) : Nat → Nat → Option Nat
  | 0, _ => none
  | fuel + 1, i =>
    if s.plan.groupSlots g ≤ i then none
    else if s.slotRefs g i = 0 then some i else s.freeSlotFrom g fuel (i + 1)

def State.freeSlot (s : State) (g : Nat) : Option Nat :=
  s.freeSlotFrom g ((s.kv.slotRefs.filter (fun e => e.1 / 2 ^ 24 == g)).length + 1) 0

/-! ### The contact sheet (R144 to R148) -/

/-- A leaf whose slots no session maps: every slot's only reference is the node's own. -/
def State.csEvictable (s : State) (n : CsNode) : Bool :=
  !s.kv.nodes.any (fun x => x.parent == n.id) && (indexed n.slots).all (fun p => s.slotRefs p.1 p.2 ≤ 1)

/-- Whether a node's lineage is still current for some session to come: those of a freed lineage go first (R235). -/
def State.csDead (s : State) (n : CsNode) : Bool :=
  n.lineage.2.1 != 0 && !s.adp.list.any (fun a => a.stored.any fun g => a.id + g.1 * 2048 == n.lineage.2.1)

/-- The node that goes first: of a dead lineage ahead of every other, then the least recently used. -/
def State.csVictim (s : State) : Option CsNode :=
  let c := s.kv.nodes.filter s.csEvictable
  let d := c.filter s.csDead
  (sortBy (fun a b => a.used ≤ b.used) (if d.isEmpty then c else d)).head?

/-- One eviction, where any node can go. -/
def State.csEvict (s : State) : Option State :=
  match s.csVictim with
  | none => none
  | some n =>
    let s1 := (indexed n.slots).foldl (fun a p => a.dropRef p.1 p.2) s
    some ((s1.onKv fun k => { k with nodes := k.nodes.filter (fun x => x.id != n.id) }).countGroups ctCsEvict 1)

/-- A free slot of a group, evicting nodes until one is free. -/
def State.takeSlot (s : State) (g : Nat) : Nat → Option (State × Nat)
  | 0 => none
  | fuel + 1 =>
    match s.freeSlot g with
    | some i => some (s.addRef g i, i)
    | none => match s.csEvict with
      | some s1 => s1.takeSlot g fuel
      | none => none

end Sys2Proof.Machine
end

