-- ==== Sys2Proof/Machine/Serve.lean ====
section
/-! DEFINITION. Sessions as every module holds them (R193, R194), replies (R205), epochs (R194, R267), the ends of
requests (R209, R210, R212), and the freeing of adapter generations that nothing binds (R235). -/

namespace Sys2Proof.Machine

open Sys2Proof

/-! ### Sessions -/

/-- A session id: its index plus 4,096 times its use count (R193). -/
def Sess.id (x : Sess) : Nat := x.index + 4096 * x.use

def State.sess? (s : State) (i : Nat) : Option Sess := tget s.srv.sessions i

/-- The open session that an id names. -/
def State.sessById (s : State) (id : Nat) : Option Sess :=
  match tget s.srv.sessions (id % 4096) with
  | some x => if x.id = id then some x else none
  | none => none

def State.putSess (s : State) (x : Sess) : State :=
  s.onSrv fun v => { v with sessions := tset v.sessions x.index x }

def State.modSess (s : State) (i : Nat) (f : Sess → Sess) : State :=
  match s.sess? i with
  | some x => s.putSess (f x)
  | none => s

def State.allSess (s : State) : List Sess := tvals s.srv.sessions

def SessState.code : SessState → Nat
  | .idle => 0 | .prefilling => 1 | .generating => 2 | .pausing => 3 | .paused => 4 | .resuming => 5

def sessStateOf (c : Nat) : SessState :=
  match c with
  | 1 => .prefilling | 2 => .generating | 3 => .pausing | 4 => .paused | 5 => .resuming | _ => .idle

/-- The 28 bytes of the OP_SESSION_QUERY completion (R304). -/
def Sess.bytes (x : Sess) : Bytes :=
  le 4 x.id ++ le 4 (x.epoch + x.state.code * 2 ^ 16 + x.cls * 2 ^ 19 + x.adapterId * 2 ^ 21) ++ le 4 x.client ++
    le 4 x.kvLen ++ le 4 x.n ++ le 4 x.maxCtx ++ le 4 x.tracker.toNat

/-- A session's descriptor to every other module (R194). -/
def State.pushUpdate (s : State) (i : Nat) : State :=
  match s.sess? i with
  | some x => s.sendAll mSessionUpdate 0 0 [x.bytes ++ le 4 x.handle]
  | none => s

/-- The close of a session to every other module. No message of Table 5.12 names a close: a descriptor whose MAX_CTX is
zero, which no open session has, stands for it (DESIGN CHOICE, log entry 45). -/
def State.pushClosed (s : State) (id : Nat) : State :=
  s.sendAll mSessionUpdate 0 0 [le 4 id ++ zeros 28]

/-! ### Replies (Tables 6.4, 6.7 and 6.8) -/

def rpTokens : Nat := 0x81
def rpDone : Nat := 0x82
def rpError : Nat := 0x83

def rdOpened : Nat := 0x01
def rdAppended : Nat := 0x02
def rdStop : Nat := 0x03
def rdMaxTokens : Nat := 0x04
def rdContext : Nat := 0x05
def rdCancelled : Nat := 0x06
def rdGenPaused : Nat := 0x07
def rdPaused : Nat := 0x08
def rdResumed : Nat := 0x09
def rdClosed : Nat := 0x0A
def rdExpired : Nat := 0x0B
def rdAbandoned : Nat := 0x0C

def reMalformed : Nat := 0x01
def reUnknownType : Nat := 0x02
def reNoSession : Nat := 0x03
def reStaleEpoch : Nat := 0x04
def reWrongState : Nat := 0x05
def reNotAllowed : Nat := 0x06
def reNoContext : Nat := 0x07
def reInteractiveFull : Nat := 0x08
def reKvFull : Nat := 0x09
def reContextLimit : Nat := 0x0A
def reAdapterGone : Nat := 0x0B
def reClientQueue : Nat := 0x0C
def reReplaced : Nat := 0x0D
def rePauseSpace : Nat := 0x0E
def reNoToken : Nat := 0x0F
def reLost : Nat := 0x10
def reStepFailed : Nat := 0x11

/-- The status of a REP_ERROR reason (Table 6.8); MALFORMED has two, and its sender gives it. -/
def reasonStatus (r : Nat) : Nat :=
  [0, stFieldRange, 0x10, stFieldRange, stStateDenied, stStateDenied, stAdmitDenied, stAdmitDenied, stAdmitDenied,
    stAdmitDenied, stLenRange, stFieldRange, stBusy, stAdapterBusy, stNoSpace, stInternal, stInternal,
    stInternal].getD r stInternal

def State.qpUp (s : State) (qp : Nat) : Bool := (tget s.srv.qps qp).isSome

/-- A reply to a request, on the queue pair that carried it; its replies are discarded where that has ended (R212). -/
def State.replyTo (s : State) (x : Sess) (r : ReqRec) (mtype a0 a1 : Nat) (items : List (Nat × Word32) := []) : State :=
  if r.silent || !s.qpUp r.qp then s
  else s.emit (.reply r.qp mtype r.tag x.id x.epoch items.length a0 a1 items)

def State.repDone (s : State) (x : Sess) (r : ReqRec) (reason : Nat) : State := s.replyTo x r rpDone reason x.n

/-- A REP_ERROR that ends an accepted request, counted by client and request type (Table 6.12). -/
def State.repError (s : State) (x : Sess) (r : ReqRec) (reason : Nat) : State :=
  (s.replyTo x r rpError (reasonStatus reason + reason * 65536) 0).count ctRefused (x.client * 256 + r.mtype) 1

/-- The queue pair of a reply that answers no request (R205). -/
def State.freeQp (s : State) (x : Sess) : Option Nat :=
  if s.qpUp x.lastQp then some x.lastQp
  else (s.srv.qps.find? (fun e => e.2.client == x.client)).map (·.1)

/-- A reply that answers no request: TAG zero. -/
def State.replyFree (s : State) (x : Sess) (mtype a0 a1 : Nat) : State :=
  match s.freeQp x with
  | some q => s.emit (.reply q mtype 0 x.id x.epoch 0 a0 a1 [])
  | none => s

/-! ### Epochs (R194, R267) -/

/-- Whether a step holds the session under an epoch other than its current one. -/
def Sess.heldStale (x : Sess) : Bool := x.heldBy.any (fun h => h.2 != x.epoch)
def Sess.held (x : Sess) : Bool := !x.heldBy.isEmpty

/-- An epoch advance: while a step holds an older epoch it is merged and counted; otherwise the epoch moves by one,
from 0xFFFE to 0, and every module is told. -/
def State.advanceEpoch (s : State) (i : Nat) : State :=
  match s.sess? i with
  | none => s
  | some x =>
    if x.heldStale then s.count ctEpochMerged 0 1
    else
      (s.putSess { x with epoch := (x.epoch + 1) % 0xFFFF, branches := [], tree := [] }).pushUpdate i

/-! ### Adapter generations (R231, R235) -/

def handleOf (id gen : Nat) : Nat := id + gen * 2048

/-- Whether a request binds a generation of an adapter. -/
def State.genBound (s : State) (id gen : Nat) : Bool := s.allSess.any (fun x => x.handle == handleOf id gen)

/-- Whether an adapter's generation is current or bound. -/
def State.genLive (s : State) (a : Adapter) (gen : Nat) : Bool := gen == a.gen || s.genBound a.id gen

/-- Old generations that nothing binds leave the store and the pool. -/
def State.freeUnbound (s : State) : State :=
  let gone := s.adp.list.flatMap fun a => (a.stored.filter fun g => !s.genLive a g.1).map fun g => (a.id, g.1, g.2)
  let s1 := s.onAdp fun d => { d with list := d.list.map fun a =>
    { a with stored := a.stored.filter (fun g => s.genLive a g.1), pool := a.pool.filter (fun g => s.genLive a g.1) } }
  let s2 := s1.onWts fun w => { w with copies := w.copies.filter fun c =>
    !(c.kind == 2 && gone.any (fun g => g.2.2 == c.id)) }
  gone.foldl (fun a g => a.event evAdapterFreed noUnit g.1 g.2.1) s2

/-! ### Ends of requests -/

/-- A session's next state when its generation has ended: prefill of what was appended goes on (R208). -/
def Sess.afterGen (x : Sess) : Sess :=
  let st : SessState :=
    match x.state with
    | .generating => .idle
    | .prefilling => if x.kvLen + 1 < x.n then .prefilling else .idle
    | y => y
  { x with generation := none, gen := none, state := st, waitingNs := none
           handle := if st == .prefilling then x.handle else 0 }

/-- The pending generation ends with a reply; a session without one is left as it is. -/
def State.endGen (s : State) (i : Nat) (how : State → Sess → ReqRec → State) : State :=
  match s.sess? i with
  | none => s
  | some x => match x.generation with
    | none => s
    | some r => (((how s x r).putSess x.afterGen).pushUpdate i).freeUnbound

/-- Every pending request ends with an error: the generation, the pause and the resume. -/
def State.failPending (s : State) (i reason : Nat) : State :=
  let s1 := s.endGen i fun s x r => s.repError x r reason
  match s1.sess? i with
  | none => s1
  | some x =>
    let s2 := match x.pauseReq with
      | some r => s1.repError x r reason
      | none => s1
    let s3 := match x.resumeReq with
      | some r => s2.repError x r reason
      | none => s2
    let st : SessState := if x.pauseReq.isSome then .idle else if x.resumeReq.isSome then .paused else x.state
    (s3.modSess i fun y => { y with pauseReq := none, resumeReq := none, state := st })

/-! ### Chunks of a session unmapped (R147, R153, R210) -/

/-- The UNMAP grants of every chunk that a session maps or waits to map, on the lead. -/
def State.unmapGrants (s : State) (x : Sess) : List Grant :=
  (List.range s.plan.groups.length).flatMap fun g =>
    ((List.range (min (grChunks (s.plan.group g)) (ceilDiv x.maxCtx 64 + 1))).filter fun c =>
      (s.ent g x.index c).valid || s.moving g x.index c).map fun c =>
        { session := x.id, chunk := c, group := g, action := gUnmap, slot := 0 }

/-- The references that a session's chunks hold released. -/
def State.dropChunkRefs (s : State) (x : Sess) (gs : List Grant) : State :=
  gs.foldl (fun a g =>
    let e := s.ent g.group x.index g.chunk
    let a1 := if e.valid && !e.ring then a.dropRef g.group e.slot else a
    match s.kv.moves.find? (fun m => m.group == g.group && m.session == x.index && m.chunk == g.chunk) with
    | some m => if m.action == gRestoreRing then a1 else a1.dropRef g.group m.slot
    | none => a1) s

/-- Grants sent to every module and applied here in list order. -/
def State.issueGrants (s : State) (gs : List Grant) (hb step : Nat) : State :=
  if gs.isEmpty then s
  else (State.applyGrants gs (s.sendAll mGrantList hb step (gs.map Grant.bytes))).1

/-- A session's chunks unmapped on every module. -/
def State.unmapSession (s : State) (i : Nat) : State :=
  match s.sess? i with
  | none => s
  | some x => let gs := s.unmapGrants x; (s.dropChunkRefs x gs).issueGrants gs 0 0

/-- A session's descriptor, image and record gone from this module. -/
def State.dropSession (s : State) (i : Nat) : State :=
  ((s.freeImage i).onSrv fun v => { v with sessions := tdel v.sessions i
                                           promoCounts := v.promoCounts.filter (fun e => e.1 / 2 ^ 16 != i)
                                           promoNext := v.promoNext.filter (fun e => e.1 != i)
                                           logits := v.logits.filter (fun l => l.session % 4096 != i) }).onKv fun k =>
    { k with commits := k.commits.filter (fun c => c.1 % 4096 != i) }

/-- A session freed on the lead: chunks, image, record, binding and index (R210). -/
def State.freeSession (s : State) (i : Nat) : State :=
  match s.sess? i with
  | none => s
  | some x => (((s.unmapSession i).dropSession i).pushClosed x.id).freeUnbound

/-- A close begins: the epoch advances, and every request of the session ends with REP_DONE CANCELLED (R210). -/
def State.beginClose (s : State) (i : Nat) (r : Option ReqRec) : State :=
  let s1 := s.advanceEpoch i
  let s2 := s1.endGen i fun s x q => s.repDone x q rdCancelled
  match s2.sess? i with
  | none => s2
  | some x =>
    let open_ := x.pauseReq.toList ++ x.resumeReq.toList ++ x.cancels
    let s3 := open_.foldl (fun a q => a.repDone x q rdCancelled) s2
    s3.modSess i fun y => { y with
      pauseReq := none, resumeReq := none, cancels := [], closing := true, closes := y.closes ++ r.toList }

/-- A cancel's effect on the session: the epoch advances and the pending generation ends (R209). The ended generation
is answered REP_DONE CANCELLED. -/
def State.cancelSession (s : State) (i : Nat) : State :=
  (s.advanceEpoch i).endGen i fun s x q => s.repDone x q rdCancelled

/-! ### Queue pairs (R198, R212) -/

/-- What a queue pair carried and is not answered is treated as cancelled, its replies discarded. -/
def State.cancelQp (s : State) (qp : Nat) : State :=
  let hush (r : ReqRec) : ReqRec := if r.qp == qp then { r with silent := true } else r
  s.allSess.foldl (fun a x =>
    let y := { x with generation := x.generation.map hush, pauseReq := x.pauseReq.map hush
                      resumeReq := x.resumeReq.map hush, cancels := x.cancels.map hush, closes := x.closes.map hush }
    let a1 := a.putSess y
    let mine (o : Option ReqRec) : Bool := o.any (fun r => r.qp == qp)
    let a2 := if mine x.generation then a1.cancelSession x.index else a1
    let a3 := if mine x.pauseReq || mine x.resumeReq then a2.advanceEpoch x.index else a2
    a3) s

/-- A queue pair ends. -/
def State.endQp (s : State) (qp : Nat) : State :=
  let s1 := s.onSrv fun v => { v with qps := tdel v.qps qp }
  s1.cancelQp qp

/-- A queue pair ended by this module with a CM DREQ. -/
def State.dropQp (s : State) (qp : Nat) : State := (s.emit (.cmDreq qp)).endQp qp

/-- Requests of a client not yet answered (CLIENT_QUEUE). -/
def State.clientOpen (s : State) (client : Nat) : Nat :=
  listSum ((s.allSess.filter (fun x => x.client == client)).map fun x =>
    x.generation.toList.length + x.pauseReq.toList.length + x.resumeReq.toList.length + x.cancels.length +
      x.closes.length)

/-! ### The client table (Table 6.1) -/

def ceValid (e : Bytes) : Bool := bitOf (byteAt e 0) 0
def ceClass (e : Bytes) (c : Nat) : Bool := bitOf (byteAt e 0) (1 + c)
def ceAdapters (e : Bytes) : Bool := bitOf (byteAt e 0) 4
def cePause (e : Bytes) : Bool := bitOf (byteAt e 0) 5
def ceIpv6 (e : Bytes) : Bool := bitOf (byteAt e 0) 6
def cePrefix (e : Bytes) : Nat := byteAt e 1
def ceShare (e : Bytes) : Nat := rd 2 e 4
def ceMaxSessions (e : Bytes) : Nat := rd 2 e 6
def ceMaxInteractive (e : Bytes) : Nat := rd 2 e 8
def ceMaxQps (e : Bytes) : Nat := rd 2 e 10
def ceMaxContext (e : Bytes) : Nat := rd 4 e 12

/-- The prefix test: the first PREFIX_LEN bits of the address, in network order, agree with SRC_ADDR. -/
def cePrefixHas (e : Bytes) (ipv6 : Bool) (addr : Nat) : Bool :=
  let w := if ipv6 then 128 else 32
  let a := rdBe (cut e 16 (w / 8))
  ceIpv6 e == ipv6 && (a >>> (w - min w (cePrefix e)) == addr >>> (w - min w (cePrefix e)))

/-- A changed client table settled at a step boundary, on the lead (R198). -/
def State.settleClients (s : State) (old : Bytes) : State :=
  if !s.isLead then s else
  (List.range 255).foldl (fun a k =>
    let e0 := cut old (32 * k) 32
    let e1 := a.clientEntry (k + 1)
    if e0 == e1 then a else
      let qps := (a.srv.qps.filter (fun q => q.2.client == k + 1))
      if ceValid e0 && !ceValid e1 then
        let a1 := qps.foldl (fun b q => b.dropQp q.1) a
        ((a1.allSess.filter (fun x => x.client == k + 1)).map (·.index)).foldl (fun b i => b.beginClose i none) a1
      else
        (qps.filter (fun q => !cePrefixHas e1 q.2.ipv6 q.2.addr)).foldl (fun b q => b.dropQp q.1) a) s

end Sys2Proof.Machine
end

