-- ==== Sys2Proof/Machine/Chunks.lean ====
section
/-! DEFINITION. The chunk format of coded weight copies and its developer (R243 to R245): the chunk index, the canonical
prefix code, decoding, and the chunk errors of Table 7.5. -/

namespace Sys2Proof.Machine

open Sys2Proof

/-- Narrow bytes of a full chunk. -/
def chunkBytes : Nat := 65536

/-- Chunks of a shard of narrow length `len`. -/
def chunkCount (len : Nat) : Nat := ceilDiv len chunkBytes

/-- Start of the data area. -/
def dataStart (len : Nat) : Nat := 64 * ceilDiv (32 * chunkCount len) 64

/-- Narrow bytes of chunk `k`. -/
def chunkLen (len k : Nat) : Nat := min chunkBytes (len - chunkBytes * k)

/-- A chunk index entry (Table 7.4). -/
structure ChunkEnt where
  mode : Nat
  threeBit : Bool
  tail : Nat
  rsv : Nat
  fill : Nat
  payLen : Nat
  lens : List Nat
  offset : Nat
  dcrc : Nat
  deriving DecidableEq, Repr

def chunkEnt (b : Bytes) : ChunkEnt :=
  let w := rd 4 b 0
  { mode := bitsOf w 1 0, threeBit := bitOf w 2, tail := bitsOf w 4 3
    rsv := bitsOf w 7 5 + bitsOf w 31 16 + bitsOf (rd 4 b 4) 31 17 + rd 4 b 0x1C
    fill := bitsOf w 15 8, payLen := bitsOf (rd 4 b 4) 16 0
    lens := (List.range 16).map (fun i => bitsOf (rd 8 b 8) (4 * i + 3) (4 * i))
    offset := rd 8 b 0x10, dcrc := rd 4 b 0x18 }

/-- Whether the code lengths obey R244: their highest, at least two, and the sum of 2^-len equal to 1. -/
def lensOk (e : ChunkEnt) : Bool :=
  let top := if e.threeBit then 7 else 12
  let used := e.lens.filter (· != 0)
  e.lens.all (· ≤ top) && (!e.threeBit || (e.lens.drop 8).all (· == 0)) && 2 ≤ used.length &&
    listSum (used.map fun l => 2 ^ (top - l)) == 2 ^ top

/-- The first row of Table 7.5 for one entry of narrow length `l`. -/
def entFieldsOk (e : ChunkEnt) (l : Nat) : Bool :=
  let noCode := !e.threeBit && e.tail == 0 && e.lens.all (· == 0)
  e.rsv == 0 && e.offset % 64 == 0 &&
    (match e.mode with
    | 0 => noCode && e.fill == 0 && e.payLen == l
    | 1 => e.fill == 0 && 1 ≤ e.payLen && e.payLen + 1 ≤ l && lensOk e &&
        (if e.threeBit then e.tail < 2 ^ (8 * l % 3) else e.tail == 0)
    | 2 => noCode && e.payLen == 0 && e.offset == 0
    | _ => false)

/-- Canonical codes: (symbol, length, codeword), by length and within it by symbol. -/
def codeBook (lens : List Nat) : List (Nat × Nat × Nat) :=
  ((List.range 12).foldl (fun (st : Nat × List (Nat × Nat × Nat)) l0 =>
    let l := l0 + 1
    let here := (indexed lens).filter (fun x => x.2 == l)
    let st1 := here.foldl (fun (a : Nat × List (Nat × Nat × Nat)) x => (a.1 + 1, a.2 ++ [(x.1, l, a.1)])) st
    (st1.1 * 2, st1.2)) (0, [])).2

/-- The bits of a payload, each byte from bit 0. -/
def bitStream (b : Bytes) : List Bool := b.flatMap fun x => (List.range 8).map fun i => x.getLsbD i

/-- `need` symbols read from a bit stream, each codeword most significant bit first: the symbols, last first, and the bits
left; none where the payload is exhausted. -/
def decodeSyms (book : List (Nat × Nat × Nat)) : List Bool → Nat → Nat → Nat → List Nat → Option (List Nat × List Bool)
  | [], need, _, _, acc => if need = 0 then some (acc, []) else none
  | b :: r, need, len, code, acc =>
    if need = 0 then some (acc, b :: r) else
      let c := 2 * code + b2n b
      match book.find? (fun x => x.2.1 == len + 1 && x.2.2 == c) with
      | some x => decodeSyms book r (need - 1) 0 0 (x.1 :: acc)
      | none => decodeSyms book r need (len + 1) c acc

/-- Bits, lowest first, as bytes. -/
def bytesOfBits (bs : List Bool) : Bytes :=
  (chunksOf 8 bs).map fun c => BitVec.ofNat 8 (listSum ((indexed c).map fun x => b2n x.2 * 2 ^ x.1))

def bitsLow (n x : Nat) : List Bool := (List.range n).map (bitOf x)

/-- A chunk's narrow bytes from its payload; none for a breach that only decoding finds. -/
def decodeChunk (e : ChunkEnt) (l : Nat) (pay : Bytes) : Option Bytes :=
  let out : Option Bytes :=
    match e.mode with
    | 0 => some (fit l pay)
    | 2 => some (List.replicate l (BitVec.ofNat 8 e.fill))
    | _ =>
      let n := if e.threeBit then 8 * l / 3 else 2 * l
      match decodeSyms (codeBook e.lens) (bitStream pay) n 0 0 [] with
      | none => none
      | some (syms, rest) =>
        if 8 ≤ rest.length ∨ rest.any id then none
        else if e.threeBit then
          some (bytesOfBits (syms.reverse.flatMap (bitsLow 3) ++ bitsLow (8 * l % 3) e.tail))
        else some (packNibbles syms.reverse)
  match out with
  | some b => if crc32c b = e.dcrc then some b else none
  | none => none

/-- What a whole copy decodes to: its narrow bytes, or the failing chunk with the status of Table 7.5. -/
inductive Developed where
  | ok (narrow : Bytes)
  | bad (chunk status : Nat)
  deriving DecidableEq, Repr

/-- The index check of R245 over a whole copy: the first failing chunk. -/
def indexBad (len : Nat) (b : Bytes) : Option Nat :=
  let n := chunkCount len
  let dataLen := b.length - dataStart len
  let es := (List.range n).map fun k => (k, chunkEnt (cut b (32 * k) 32))
  let held := es.filter (fun x => x.2.mode != 2)
  (es.find? fun x =>
    !entFieldsOk x.2 (chunkLen len x.1) ||
      (x.2.mode != 2 && (decide (dataLen < x.2.offset + x.2.payLen) ||
        held.any (fun y => y.1 < x.1 && x.2.offset < y.2.offset + y.2.payLen &&
          y.2.offset < x.2.offset + x.2.payLen)))).map (·.1)

/-- A copy developed: a coded one through its index and chunks; a narrow one as it is. -/
def develop (coded : Bool) (len : Nat) (b : Bytes) : Developed :=
  if !coded then .ok b else
  match indexBad len b with
  | some k => .bad k stFieldRange
  | none =>
    let outs := (List.range (chunkCount len)).map fun k =>
      let e := chunkEnt (cut b (32 * k) 32)
      (k, decodeChunk e (chunkLen len k) (cut b (dataStart len + e.offset) e.payLen))
    match outs.find? (fun x => x.2.isNone) with
    | some x => .bad x.1 stDigestMismatch
    | none => .ok (outs.flatMap fun x => x.2.getD [])

end Sys2Proof.Machine
end

