-- ==== Sys2Proof/Machine/WeightOps.lean ====
section
/-! DEFINITION. Weight copies and homes (R241, R249, R250, R261): the shards of a module, its copies by generation, the
writing of homes by phase, a generation becoming current, and the room of T2 and T3 (R249). -/

namespace Sys2Proof.Machine

open Sys2Proof

/-! ### Codes -/

def kPlan : Nat := 0
def kWeight : Nat := 1
def kAdapter : Nat := 2

def roleBacking : Nat := 0
def roleStaged : Nat := 1
def roleWorking : Nat := 2

def CopyState.code : CopyState → Nat
  | .empty => 0 | .writing => 1 | .verifying => 2 | .verified => 3 | .failed => 4

/-- Bandwidth classes of Table 7.2, for BW_BYTES. -/
def bwStep : Nat := 0
def bwStream : Nat := 1
def bwSwap : Nat := 2
def bwBackground : Nat := 3

def State.countBw (s : State) (tier cls n : Nat) : State := s.count ctBwBytes (tier * 4 + cls) n

/-! ### Shards of this module -/

/-- The plans whose shards this module holds: the main plan, then a draft plan (R250). -/
def State.weightPlans (s : State) : List PlanObj := s.wts.main.toList ++ s.wts.draft.toList

/-- This module's shards with their plan, in the order of the manifest (R260). -/
def State.shardEnts (s : State) : List (PlanObj × List Nat) :=
  s.weightPlans.flatMap fun p => (p.shardsOf p.moduleIndex).map fun e => (p, e)

/-- This module's shard of an id. -/
def State.shardEnt (s : State) (id : Nat) : Option (PlanObj × List Nat) :=
  s.shardEnts.find? (fun x => shId x.2 == id)

/-- The tensor of a shard. -/
def shardTensor (x : PlanObj × List Nat) : List Nat := (x.1.tensor (shTensor x.2)).getD []
def shardStreamed (x : PlanObj × List Nat) : Bool := tnStreamed (shardTensor x)

/-- Module-range address of a shard's narrow form. -/
def shardBase (x : PlanObj × List Nat) : Nat := tnBase (shardTensor x) + shOffset x.2

/-- Whether a POST descriptor's operands name an address of a tensor. -/
def PlanObj.postNames (p : PlanObj) (t : List Nat) : Bool :=
  (p.sec secDesc).any fun d => dPhase d == 2 && [0x40, 0x48, 0x50, 0x58].any fun o =>
    tnBase t ≤ fld64 d o && fld64 d o < tnBase t + tnBytes t

/-- The phase that a tensor's home serves: its layer; a tensor of no layer serves POST where a POST descriptor names it,
and PRE otherwise (DEDUCED, log entry 48). -/
def PlanObj.tensorPhase (p : PlanObj) (t : List Nat) : Nat :=
  if tnLayerValid t then phaseOfLayer (tnLayer t) else if p.postNames t then p.postPhase else 0

/-- The phase in which a swap writes a shard's home; a draft plan's are written with POST (log entry 48). -/
def State.shardPhase (s : State) (x : PlanObj × List Nat) : Nat :=
  if s.wts.main = some x.1 then x.1.tensorPhase (shardTensor x) else s.plan.postPhase

/-! ### Copies -/

/-- The copy that OP_SHARD_WRITE and OP_SHARD_VERIFY name: the backing or staged copy of a generation, or an adapter's. -/
def isCopy (kind id gen : Nat) (c : ShardCopy) : Bool :=
  c.kind == kind && c.id == id && c.gen == gen && c.role != roleWorking

def State.copy? (s : State) (kind id gen : Nat) : Option ShardCopy := s.wts.copies.find? (isCopy kind id gen)

def State.putCopy (s : State) (c : ShardCopy) : State :=
  let rest := s.wts.copies.filter (fun x => !isCopy c.kind c.id c.gen x)
  s.onWts fun w => { w with copies := rest ++ [c] }

/-- The transmitted bytes of a copy, later parts over earlier ones. -/
def ShardCopy.bytes (c : ShardCopy) : Bytes :=
  fit c.totalLen (c.data.foldl (fun acc p => overlay acc p.1 p.2) [])

/-- Whether every 64-byte unit of a length has been written. -/
def covered (total : Nat) (parts : List (Nat × Bytes)) : Bool :=
  (List.range (ceilDiv total 64)).all fun u => parts.any fun p => p.1 ≤ 64 * u && 64 * u < p.1 + p.2.length

/-- Whether every shard of the module is VERIFIED in a generation. -/
def State.allVerified (s : State) (gen : Nat) : Bool :=
  s.wts.main.isSome && s.shardEnts.all fun x =>
    (s.copy? kWeight (shId x.2) gen).any (fun c => c.state == .verified && !c.marked)

/-- The narrow bytes of a verified copy of a shard. -/
def State.narrowOf (s : State) (id gen : Nat) : Option Bytes :=
  match s.copy? kWeight id gen with
  | some c => if c.state = .verified then some c.narrow else none
  | none => none

/-- A module's manifest digest over a generation (R260). -/
def State.manifest (s : State) (gen : Nat) : Bytes :=
  sha384 (s.shardEnts.flatMap fun x => ((s.copy? kWeight (shId x.2) gen).map ShardCopy.digest).getD [])

/-! ### Homes -/

/-- Blocks written whole are no longer poisoned (R347). -/
def State.unpoison (s : State) (a n : Nat) : State :=
  let frames := (rangeFrom (pageOf a) (pageOf (a + n - 1) + 1 - pageOf a)).filterMap fun pg =>
    (tget s.mem.pages pg).map fun e => (pg, e.base)
  let hit (blk : Nat) : Bool := frames.any fun f =>
    let off := blk * blockBytes - f.2
    f.2 ≤ blk * blockBytes && off < pageBytes && a ≤ f.1 * pageBytes + off && f.1 * pageBytes + off + blockBytes ≤ a + n
  s.onMem fun m => { m with side := (m.side.map fun e =>
    if hit e.1 then (e.1, { e.2 with poison := false }) else e).filter fun e => e.2 != {} }

/-- A shard's home written with the narrow form of a generation. -/
def State.writeHome (s : State) (gen : Nat) (x : PlanObj × List Nat) : State :=
  if shardStreamed x then s else
    match s.narrowOf (shId x.2) gen with
    | some b => (s.writeRange (shardBase x) b).unpoison (shardBase x) b.length
    | none => s

/-- The homes of a phase written (R261). -/
def State.writeHomes (s : State) (gen ph : Nat) : State :=
  (s.shardEnts.filter (fun x => s.shardPhase x == ph)).foldl (fun a x => a.writeHome gen x) s

/-- The generation that a phase's homes hold. -/
def State.homeGen (s : State) (ph : Nat) : Nat := tgetD s.wts.homeGens ph s.wts.curGen

/-- Working copies of the streamed shards, made from the generation's verified copies (Table 7.3). -/
def State.makeWorking (s : State) (gen : Nat) : State :=
  (s.shardEnts.filter shardStreamed).foldl (fun a x =>
    match a.copy? kWeight (shId x.2) gen with
    | some c =>
      if a.wts.copies.any (fun y => y.kind == kWeight && y.id == c.id && y.gen == gen && y.role == roleWorking) then a
      else a.onWts fun w => { w with copies := w.copies ++ [{ c with role := roleWorking, inT3 := false }] }
    | none => a) s

/-- Weight copies of a generation that is neither current nor staged, and that no step in flight holds, are freed (R241). -/
def State.freeOldCopies (s : State) : State :=
  let keep (c : ShardCopy) : Bool := c.kind != kWeight || c.gen == s.wts.curGen || c.gen == s.wts.stagedGen ||
    (s.wts.curGen == 0 && c.gen == s.wts.firstGen) || s.steps.live.any (fun t => t.wGen == c.gen)
  s.onWts fun w => { w with copies := w.copies.filter keep }

/-- A generation becomes current on the module: its copies are the backing copies and its streamed tensors have working
copies. -/
def State.becomeCurrent (s : State) (gen : Nat) : State :=
  let s1 := s.makeWorking gen
  let promote (c : ShardCopy) : ShardCopy :=
    if c.kind == kWeight && c.gen == gen && c.role == roleStaged then { c with role := roleBacking } else c
  let s2 := s1.onWts fun w => { w with
    curGen := gen
    homeGens := []
    stagedGen := if w.stagedGen = gen then 0 else w.stagedGen
    copies := w.copies.map promote }
  s2.freeOldCopies

/-- The rest of a swap's writes, made at once: every phase not yet written, and the switch (R261, R262). -/
def State.finishSwapWrites (s : State) : State :=
  match s.wts.swap with
  | none => s
  | some r =>
    let s1 := (rangeFrom r.phase (s.plan.postPhase + 1 - r.phase)).foldl (fun a ph => a.writeHomes r.newGen ph) s
    s1.becomeCurrent r.newGen

/-! ### Room (R249) -/

def pagesOf (n : Nat) : Nat := ceilDiv n pageBytes

/-- Pages that a copy holds of a tier. -/
def ShardCopy.pagesIn (c : ShardCopy) (t3 : Bool) : Nat :=
  if c.kind == kAdapter || c.inT3 != t3 then 0 else pagesOf c.totalLen

/-- Pages of T2 that are not the plan's: the staging region, the plan objects, the adapter store, the read cache, copies
and, on the lead, the contact sheet, the token records and the receive buffers. -/
def State.t2Other (s : State) : Nat :=
  1024 + listSum ((s.weightPlans ++ s.wts.next.toList).map fun p => pagesOf p.totalBytes) + s.adp.storePages +
    s.fab.cachePages + listSum (s.wts.copies.map fun c => c.pagesIn false) +
    (if s.isLead then (if s.kv.csEnable then pagesOf (512 * s.kv.csNodes) else 0) + pagesOf (4096 * 270336) +
      listSum (s.allSess.map fun x => pagesOf (4 * x.maxCtx)) else 0)

def State.t2Free (s : State) : Nat := s.tierFrames 2 - s.tierPages 2 - s.t2Other
def State.t3Free (s : State) : Nat :=
  s.tierFrames 3 - s.tierPages 3 - listSum (s.wts.copies.map fun c => c.pagesIn true)

/-- Pages of the adapter store held by installed adapters and by copies being written (R232). -/
def State.storeUsed (s : State) : Nat :=
  listSum ((s.wts.copies.filter (fun c => c.kind == kAdapter)).map fun c => pagesOf c.totalLen)

end Sys2Proof.Machine
end

