-- ==== Sys2Proof/Machine/AdapterOps.lean ====
section
/-! DEFINITION. Adapter generations (R231 to R235): the next generation of an id, an install on the module, the parts in the
store and in the pool, and the end of the requests that a forced replace or unload cuts off. -/

namespace Sys2Proof.Machine

open Sys2Proof

def State.adapter? (s : State) (id : Nat) : Option Adapter := s.adp.list.find? (fun a => a.id == id)

def State.putAdapter (s : State) (a : Adapter) : State :=
  s.onAdp fun d => { d with list := sortBy (fun x y => x.id ≤ y.id) (a :: d.list.filter (fun x => x.id != a.id)) }

def State.modAdapter (s : State) (id : Nat) (f : Adapter → Adapter) : State :=
  s.onAdp fun d => { d with list := d.list.map fun a => if a.id = id then f a else a }

/-! ### Generations (R231) -/

/-- Highest adapter generation. -/
def lastAdapterGen : Nat := 0x1FFFFE

/-- Whether a generation is referenced: by a request, by the store or the pool, or by a contact-sheet node of its
lineage. -/
def State.genReferenced (s : State) (id gen : Nat) : Bool :=
  s.genBound id gen ||
    (s.adapter? id).any (fun a => a.stored.any (fun g => g.1 == gen) || a.pool.any (fun g => g.1 == gen)) ||
    s.kv.nodes.any (fun n => n.lineage.2.1 == handleOf id gen)

/-- The first generation after `g` that nothing references. -/
def State.genAfter (s : State) (id : Nat) : Nat → Nat → Nat
  | 0, g => g % lastAdapterGen + 1
  | fuel + 1, g =>
    let n := g % lastAdapterGen + 1
    if s.genReferenced id n then s.genAfter id fuel n else n

/-- An id's next generation. -/
def State.nextAdapterGen (s : State) (id : Nat) : Nat :=
  s.genAfter id (s.allSess.length + 2 * s.adp.list.length + s.kv.nodes.length + 64) (tgetD s.adp.lastGen id 0)

/-! ### Installs (R232, R235) -/

/-- An install: the id's next generation becomes its current one; the old one goes once nothing binds it. -/
def State.installAdapter (s : State) (x : AdInstall) : State :=
  let g := s.nextAdapterGen x.id
  let old := (s.adapter? x.id).getD { id := x.id, gen := 0, ranks := [], shard := 0 }
  let s1 := s.putAdapter { old with
    gen := g, ranks := x.ranks, shard := x.shard, stored := old.stored.filter (fun e => e.1 != g) ++ [(g, x.shard)] }
  let s2 := s1.onAdp fun d => { d with lastGen := tset d.lastGen x.id g }
  (s2.event evAdapterInstalled noUnit x.id g).freeUnbound

/-- The completion of an install: GEN. -/
def State.installed (s : State) (id : Nat) : Bytes := le 4 ((s.adapter? id).elim 0 (·.gen))

/-- Installs that wait for a step boundary take place. -/
def State.installPending (s : State) : State :=
  s.adp.pending.foldl (fun a x =>
    let b := a.installAdapter x
    b.finishAt x.port x.slot stOk 0 (b.installed x.id)) (s.onAdp fun d => { d with pending := [] })

/-! ### The parts of a generation (R233) -/

/-- The shard that holds this module's part of a generation. What another module than the lead is told of it no message
says; there it is left open (log entry 83). -/
def State.partShard (s : State) (id gen : Nat) : Nat :=
  match (s.adapter? id).bind (fun a => a.stored.find? (fun g => g.1 == gen)) with
  | some g => g.2
  | none => if s.isLead then 0 else Config.unstated 36 [id, gen]

/-- This module's part of a generation, in narrow form. -/
def State.partBytes (s : State) (id gen : Nat) : Bytes :=
  match s.copy? kAdapter (s.partShard id gen) 0 with
  | some c => if c.state = .verified then c.narrow else []
  | none => []

/-- Bytes of the adapter pool. -/
def State.poolBytes (s : State) : Nat :=
  listSum (((s.plan.sec secTensor).filter fun t => tnKind t == 3).map tnBytes)

/-- Bytes that the pool holds. -/
def State.poolUsed (s : State) : Nat :=
  listSum (s.adp.list.flatMap fun a => a.pool.map fun g => (s.partBytes a.id g.1).length)

/-- Whether a handle's generation is in the pool; handle 0 needs none. -/
def State.inPool (s : State) (handle : Nat) : Bool :=
  handle = 0 || (s.adapter? (handle % 2048)).any fun a => a.pool.any fun g => g.1 == handle / 2048

/-- The least recently used generation of the pool that no request binds. -/
def State.poolVictim (s : State) : Option (Nat × Nat) :=
  let free := s.adp.list.flatMap fun a => (a.pool.filter fun g => !s.genBound a.id g.1).map fun g => (g.2, a.id, g.1)
  (sortBy (fun x y => decide (x.1 ≤ y.1)) free).head?.map (·.2)

/-- A generation leaves the pool. -/
def State.leavePool (s : State) (id gen : Nat) : State :=
  s.modAdapter id fun a => { a with pool := a.pool.filter (fun g => g.1 != gen) }

/-- Room for `n` more bytes in the pool, by eviction; none where too little can be evicted. -/
def State.poolRoom (s : State) (n : Nat) : Nat → Option State
  | 0 => if s.poolUsed + n ≤ s.poolBytes then some s else none
  | fuel + 1 =>
    if s.poolUsed + n ≤ s.poolBytes then some s
    else match s.poolVictim with
      | some v => (s.leavePool v.1 v.2).poolRoom n fuel
      | none => none

/-- A use of a generation by a step. -/
def State.touchPool (s : State) (handle : Nat) : State :=
  s.modAdapter (handle % 2048) fun a => { a with
    pool := a.pool.map fun g => if g.1 = handle / 2048 then (g.1, s.steps.composed) else g }

/-! ### Forced ends (R235) -/

/-- The sessions that bind a generation of an adapter. -/
def State.boundTo (s : State) (id : Nat) : List Sess := s.allSess.filter fun x => x.handle != 0 && x.handle % 2048 == id

/-- Requests bound to an adapter end with REP_ERROR CANCELLED_BY_REPLACE, and their sessions' epochs advance. A session whose
answered append is still being prefilled goes on without the adapter (DEDUCED, log entry 90). -/
def State.endBound (s : State) (id : Nat) : State :=
  (s.boundTo id).foldl (fun a x =>
    let b := (a.advanceEpoch x.index).endGen x.index fun t y r => t.repError y r reReplaced
    (b.modSess x.index fun y => { y with handle := 0 }).pushUpdate x.index) s

/-- An adapter removed with every generation of it. -/
def State.removeAdapter (s : State) (a : Adapter) (code : Nat) : State :=
  let s1 := s.onAdp fun d => { d with list := d.list.filter (fun x => x.id != a.id) }
  let s2 := s1.onWts fun w => { w with copies := w.copies.filter fun c =>
    !(c.kind == kAdapter && a.stored.any (fun g => g.2 == c.id)) }
  s2.event code noUnit a.id a.gen

end Sys2Proof.Machine
end

