-- ==== Sys2Proof/Machine/Ports.lean ====
section
/-! DEFINITION. Ports and neighbours (chapter 13): logical ports, neighbour cards (Table 13.2), port outcomes (Table 13.3,
R404 to R407), and the card a port sends (R403, R410). -/

namespace Sys2Proof.Machine

open Sys2Proof

/-! ### Cards (Table 13.2) -/

def cdMajor (c : Bytes) : Nat := byteAt c 1
def cdMinor (c : Bytes) : Nat := byteAt c 2
def cdMinorMin (c : Bytes) : Nat := byteAt c 3
def cdPort (c : Bytes) : Nat := bitsOf (rd 4 c 4) 2 0
def cdIndexValid (c : Bytes) : Bool := bitOf (rd 4 c 4) 6
def cdIndex (c : Bytes) : Nat := bitsOf (rd 4 c 4) 15 7
def cdPlan (c : Bytes) : Bool := bitOf (rd 4 c 4) 16
def cdLeaving (c : Bytes) : Bool := bitOf (rd 4 c 4) 18
def cdLowPower (c : Bytes) : Bool := bitOf (rd 4 c 4) 19
def cdSlice (c : Bytes) : Nat := rd 2 c 8
def cdSerial (c : Bytes) : Bytes := cut c 0x10 16
def cdDigest (c : Bytes) : Bytes := cut c 0x20 48

/-- The card that this module sends on a physical port. -/
def State.cardBytes (s : State) (p : Nat) (leaving : Bool) : Bytes :=
  let plan := s.wts.main.isSome && !s.fw.safelight
  le 1 1 ++ le 1 s.linkMajor ++ le 1 s.linkMinor ++ le 1 s.linkMinorMin ++
    le 4 (s.logicalOf p + 8 * p + 64 * b2n plan + 128 * (if plan then s.index else 0) + 2 ^ 16 * b2n plan +
      2 ^ 17 * b2n s.sliceRunning + 2 ^ 18 * b2n leaving + 2 ^ 19 * b2n (s.pwr.state == .s2)) ++
    le 2 (if plan then s.plan.sliceId else 0) ++ zeros 2 ++ le 4 s.fwVersion ++ serial ++
    (if plan then s.plan.planDigest else zeros 48) ++ zeros 48

/-- A LINK_MGMT packet of some data. -/
def linkPacketOf (data : Bytes) : Packet :=
  { type := ptLink, cls := 0, len := data.length, data := data, dcrc := w32 (crc32c data) }

def State.sendCard (s : State) (p : Nat) (leaving : Bool := false) : State :=
  if (s.portX p).trained then s.emit (.linkPacket p (linkPacketOf (s.cardBytes p leaving))) else s

/-- Cards on every trained port (R403, R410). -/
def State.sendCards (s : State) (leaving : Bool) : State :=
  allPorts.foldl (fun a p => a.sendCard p leaving) s

/-! ### Outcomes (Table 13.3) -/

def PortOutcome.code : PortOutcome → Nat
  | .noPlan => 0 | .unused => 1 | .matched => 2 | .remapped => 3 | .wait => 4 | .missing => 5 | .extra => 6
  | .crossed => 7 | .quarantine => 8 | .foreign => 9

/-- Table 13.4. -/
def State.linkAccepted (s : State) (c : Bytes) : Bool :=
  cdMajor c == s.linkMajor && s.linkMinorMin ≤ cdMinor c && cdMinorMin c ≤ s.linkMinor

/-- Whether a card meets an entry's MATCH test (`full`), or its MATCH or WAIT test. A neighbour without a plan has no
module index to compare: its port and serial decide (DEDUCED, log entry 52). -/
def State.cardMeets (s : State) (e : List Nat) (c : Bytes) (full : Bool) : Bool :=
  let place := nbExpected e && cdPort c == nbPort e && (allZero (nbSerial e) || cdSerial c == nbSerial e)
  let known := cdPlan c && cdIndexValid c
  place && (if known then cdIndex c == nbIndex e else true) &&
    (if full then known && cdDigest c == s.plan.planDigest else true)

/-- The outcome of a physical port under the present logical ports. -/
def State.portOutcome (s : State) (p : Nat) : PortOutcome :=
  let x := s.portX p
  let e := s.plan.neighbour (s.logicalOf p)
  if s.wts.main.isNone then .noPlan else
  match x.card with
  | none => if nbExpected e then .missing else .unused
  | some c =>
    if !s.linkAccepted c then .quarantine
    else if cdPlan c && cdSlice c != s.plan.sliceId then .foreign
    else if !nbExpected e then .extra
    else if s.cardMeets e c true then (if s.logicalOf p = p then .matched else .remapped)
    else if s.cardMeets e c false then .wait
    else if (allPorts.filter (· != s.logicalOf p)).any (fun q => s.cardMeets (s.plan.neighbour q) c false) then .crossed
    else .missing

/-- The pairs (physical, logical) of R406: a crossed port with the entry that its card meets. -/
def State.remapPairs (s : State) : List (Nat × Nat) :=
  (allPorts.filter (fun p => s.portOutcome p == .crossed)).flatMap fun p =>
    match (s.portX p).card with
    | none => []
    | some c => ((allPorts.filter (· != s.logicalOf p)).filter fun q =>
        s.cardMeets (s.plan.neighbour q) c false && nbRemapOk (s.plan.neighbour p) && nbRemapOk (s.plan.neighbour q)).map
          fun q => (p, q)

/-- The port state of OP_LINK_STATUS that an outcome gives a trained port. -/
def PortOutcome.carries (o : PortOutcome) (noCard : Bool) : LinkState :=
  match o with
  | .matched => .up | .remapped => .up
  | .noPlan => .mgmtOnly | .wait => .mgmtOnly | .quarantine => .mgmtOnly
  | .extra => .heldIdle | .foreign => .heldIdle | .crossed => .heldIdle
  | .unused => .mgmtOnly
  | .missing => if noCard then .mgmtOnly else .heldIdle

/-- A port's outcome entered, with its report: ARG0 the physical port, ARG1 the serial found (its first eight bytes, log
entry 53). -/
def State.enterOutcome (s : State) (p : Nat) (o : PortOutcome) : State :=
  let x := s.portX p
  let e := s.plan.neighbour (s.logicalOf p)
  let found := (x.card.map fun c => rd 8 (cdSerial c) 0).getD 0
  let st : LinkState :=
    if !x.trained then (if x.training then .training else .down)
    else if s.pwr.state == .s2 && o.carries x.card.isNone == .up then .lowPower
    else o.carries x.card.isNone
  let s1 := s.modPort p fun y => { y with
    outcome := o, state := st, upNs := if st == .up && y.state != .up then s.now else y.upNs }
  if x.outcome = o then s1 else
    match o with
    | .missing => if nbExpected e then s1.fault fltNbMissing (portUnit p) { args := [p, found] } else s1
    | .quarantine => s1.event evNbQuarantine (portUnit p) p found
    | .foreign => s1.event evNbForeign (portUnit p) p found
    | .extra => s1.event evNbExtra (portUnit p) p found
    | .crossed => s1.event evNbCrossed (portUnit p) p found
    | .remapped => s1.event evNbRemapped (portUnit p) p found
    | _ => s1

/-- Every port's outcome taken again (R404), with a remap where R406 allows one. -/
def State.evalPorts (s : State) : State :=
  let s1 := allPorts.foldl (fun a p => a.enterOutcome p (a.portOutcome p)) s
  let prs := s1.remapPairs
  let ps := prs.map (·.1)
  let qs := prs.map (·.2)
  if prs.isEmpty || hasDup ps || hasDup qs || !(ps.all fun p => qs.contains p) then s1
  else
    let s2 := prs.foldl (fun a x => a.modPort x.1 fun y => { y with logical := some x.2 }) s1
    let s3 := allPorts.foldl (fun a p => a.enterOutcome p (a.portOutcome p)) s2
    s3.sendCards false

/-- A remap ends at a plan load or unload, and when a card on a remapped port changes (R406). -/
def State.endRemap (s : State) : State :=
  s.onFab fun f => { f with ports := f.ports.map fun e => (e.1, { e.2 with logical := none }) }

/-! ### Routes (R169, R170) -/

/-- The links (module, logical port) that a dimension-ordered route crosses. -/
def routeLinks : Nat → Nat → Nat → List (Nat × Nat)
  | 0, _, _ => []
  | fuel + 1, a, t =>
    match hopPort a t with
    | none => []
    | some q => (a, q) :: routeLinks fuel (behindPort a q) t

/-- A route of at most 25 hops (7 + 15 + 3). -/
def route (a t : Nat) : List (Nat × Nat) := routeLinks 32 a t

/-- A link seen from its other end. -/
def farEnd (l : Nat × Nat) : Nat × Nat := (behindPort l.1 l.2, if l.2 % 2 = 0 then l.2 + 1 else l.2 - 1)

end Sys2Proof.Machine
end

