-- ==== Sys2Proof/Machine/PlanOps.lean ====
section
/-! DEFINITION. A plan taking its place (R44, R153, R224, R274): where its pages lie, what goes with the plan before it,
and KV_DISCARD. -/

namespace Sys2Proof.Machine

open Sys2Proof

/-! ### Logical and physical tiles (R23) -/

/-- The physical tile of a logical tile: the map's, or the tile of the same place on the C-die. -/
def State.ptileOf (s : State) (t : Nat) : Nat := tgetD s.tiles.map t (tileDie t * 160 + tileIn t)
/-- The logical tile on a physical tile. -/
def State.ltileOf (s : State) (p : Nat) : Option Nat :=
  (rangeFrom (ptileDie p * 144) 144).find? fun t => s.ptileOf t == p && !s.tiles.depleted.contains t

/-! ### Page placement (R43, R44) -/

/-- The tile whose program holds a descriptor. -/
def PlanObj.tileOfDesc (p : PlanObj) (i : Nat) : Nat :=
  (((indexed (p.sec secIndex)).find? fun e => fld e.2 0 31 0 ≤ i && i < fld e.2 0 31 0 + fld e.2 4 15 0).map
    fun e => e.1 % 2304).getD 0

/-- The C-die whose tiles read a weight address: that of a MATMUL that names the page, or else its tensor. -/
def PlanObj.readerDie (p : PlanObj) (t : List Nat) (page : Nat) : Nat :=
  let mm := (indexed (p.sec secDesc)).filter fun d => dOpc d.2 == opMatmul &&
    tnBase t ≤ fld64 d.2 0x50 && fld64 d.2 0x50 < tnBase t + tnBytes t
  match mm.find? (fun d => pageOf (fld64 d.2 0x50) == page) with
  | some d => tileDie (p.tileOfDesc d.1)
  | none => (mm.head?.map fun d => tileDie (p.tileOfDesc d.1)).getD 0

/-- The first free frame among the tiers that a hint allows, in order (R44). -/
def State.placeIn (s : State) : List (Nat × Nat × Nat) → Option (Nat × Nat)
  | [] => none
  | (tier, lo, n) :: r =>
    match s.findFrame tier n lo with
    | some f => some (tier, f)
    | none => s.placeIn r

/-- Where a page of a tensor may lie: (tier, first frame, frames). A NONE page that is no home weight page starts in T2
(DESIGN CHOICE, log entry 50). `off` is where a plan's logical tiles start on the module (R224). -/
def State.placesOf (s : State) (p : PlanObj) (off : Nat → Nat) (t : List Nat) (page : Nat) : List (Nat × Nat × Nat) :=
  let home := tnKind t == 0 && !tnStreamed t
  let die := p.readerDie t page
  let own := tnTile t + off (tileDie (tnTile t))
  let t0 := (0, s.ptileOf own, 1)
  let t1 := if home then (1, die * 1024, 1024) else (1, 0, 16384)
  let t2 := (2, 0, 1048576)
  let t3 := (3, 0, 4194304)
  let tier := tnHint t / 4
  match tnHint t % 4 with
  | 2 => [[t0], [t1], [t2], [t3]].getD tier []
  | 1 => if home then (if tier = 0 then [(0, s.ptileOf own, 1), (1, tileDie own * 1024, 1024)] else [t1])
         else ([t1, t2, t3].drop (tier - 1))
  | _ => if home then [t1] else [t2, t3, t1]

/-- The pages of a plan mapped; a STREAMED tensor's pages are backed by no memory (R241). None where a page finds no
room. -/
def State.mapTensor (s : State) (p : PlanObj) (off : Nat → Nat) (t : List Nat) : Nat → Option State
  | 0 => some s
  | n + 1 =>
    match s.mapTensor p off t n with
    | none => none
    | some s1 =>
      let page := pageOf (tnBase t) + n
      match s1.placeIn (s1.placesOf p off t page) with
      | none => none
      | some (tier, f) => some (s1.onMem fun m => { m with
          pages := tset m.pages page { base := frameBase tier f, tier := tier, hint := tnHint t
                                       home := tnKind t == 0 } })

def State.mapPlan (s : State) (p : PlanObj) (off : Nat → Nat) : Option State :=
  ((p.sec secTensor).filter (fun t => !tnStreamed t)).foldl (fun (a : Option State) t =>
    match a with
    | none => none
    | some s1 => s1.mapTensor p off t (tnPages t)) (some s)

/-- The pages of a plan unmapped. -/
def State.unmapPlan (s : State) (p : PlanObj) : State :=
  let mine (page : Nat) : Bool := (p.sec secTensor).any fun t =>
    pageOf (tnBase t) ≤ page && page < pageOf (tnBase t) + tnPages t
  s.onMem fun m => { m with
    pages := m.pages.filter (fun e => e.2.own || !mine e.1), moves := m.moves.filter (fun x => !mine x.page) }

/-! ### KV_DISCARD (R153) -/

/-- Every pause image freed. -/
def State.freeImages (s : State) : State := (tkeys s.kv.images).foldl (fun a i => a.freeImage i) s

/-- A session as it is when its KV is gone: it is prefilled again from its token record (R195), a paused one on its resume
(R153). -/
def Sess.unprefilled (x : Sess) : Sess :=
  { x with kvLen := 0, lookedUp := false, tree := [], branches := [], path := [], rootOnly := true
           state := match x.state with
             | .generating => .prefilling
             | .idle => if 2 ≤ x.n then .prefilling else .idle
             | y => y }

/-- Every page table zeroed (R121). -/
def State.zeroTables (s : State) : State :=
  (s.plan.groups).foldl (fun (a : State) t => (rangeFrom (pageOf (tnBase t)) (tnPages t)).foldl
    (fun (b : State) pg => match tget b.mem.pages pg with
      | some q => b.onMem fun m => { m with cells := Memory.clear m.cells q.base pageBytes }
      | none => b) a) s

/-- Every chunk of every session unmapped, every pause image freed and the contact sheet emptied. -/
def State.kvDiscard (s : State) : State :=
  let s2 := (s.freeImages).zeroTables
  let s3 := s2.onKv fun k => { k with moves := [], commits := [], slotRefs := [], nodes := [] }
  s3.onSrv fun v => { v with sessions := v.sessions.map fun e => (e.1, e.2.unprefilled) }

/-- A swap with KV_KEEP moves every lineage root to the new weights generation (R153). -/
def State.kvKeep (s : State) (gen : Nat) : State :=
  s.onKv fun k => { k with nodes := k.nodes.map fun n => { n with lineage := (gen, n.lineage.2) } }

/-! ### A plan taking its place -/

/-- The largest RANK_MAX of a plan's LORA descriptors that name a target; none where none does. -/
def PlanObj.rankMax (p : PlanObj) (target : Nat) : Option Nat :=
  ((p.sec secDesc).filter fun d => dOpc d == opLora && fld d 0x4C 3 0 == target).foldl
    (fun a d => some (match a with
      | none => fld d 0x44 24 16
      | some r => min r (fld d 0x44 24 16))) none

/-- Whether a set of ranks exceeds a plan's RANK_MAX: a rank of a target that no LORA names exceeds it as well. -/
def PlanObj.ranksExceed (p : PlanObj) (ranks : List Nat) : Bool :=
  (indexed ranks).any fun r => r.2 != 0 && (match p.rankMax r.1 with
    | none => true
    | some m => decide (m < r.2))

/-- Adapters whose ranks exceed a new plan's RANK_MAX go, each with EV_ADAPTER_REMOVED (R232). -/
def State.dropHighAdapters (s : State) (p : PlanObj) : State :=
  (s.adp.list.filter (fun a => p.ranksExceed a.ranks)).foldl
    (fun st a => st.removeAdapter a evAdapterRemoved) s

/-- A logical tile that lost its physical tile takes that of a tile of its C-die that a new plan does not use (R40, log entry 78). -/
def State.rehome (s : State) (p : PlanObj) : State :=
  (s.tiles.depleted.filter fun l => decide (tileIn l < p.tilesUsed (tileDie l))).foldl (fun (a : State) l =>
    let die := tileDie l
    match (rangeFrom (die * 144 + p.tilesUsed die) (144 - p.tilesUsed die)).find? fun u => !a.tiles.depleted.contains u with
    | none => a
    | some u => a.onTiles fun t => { t with
        map := tset (tset t.map l (a.ptileOf u)) u (a.ptileOf l), depleted := without t.depleted l ++ [u] }) s

/-- The main plan replaced: KV_DISCARD, its weights freed, too-high adapters removed, a slice-scope transaction rolled
back, the read cache emptied and the ports judged again (R176, R249, R274, R311, R404). A draft plan goes with the plan it
was loaded after (DEDUCED, log entry 51). -/
def State.loadMain (s : State) (p : PlanObj) : State :=
  let s0 := s.kvDiscard
  let s1 := (s0.wts.main.toList ++ s0.wts.draft.toList).foldl (fun a q => a.unmapPlan q) s0
  let s2 := ((s1.rehome p).freeWeights).onWts fun w => { w with main := some p, draft := none, next := none, nextDraft := none, draftGen := 0 }
  let s3 := (s2.mapPlan p (fun _ => 0)).getD s2
  let s4 := (s3.dropHighAdapters p).onAdp fun a => { a with perHb := s.setN setAdaptersPerHb }
  let s5 := s4.onCfg fun c => { c with txnSlice := none }
  let s6 := s5.onFab fun f => { f with
    cache := [], routes := [], disp := [], colls := [], asm := [], reads := [], collRoom := [] }
  let s7 := s6.onTiles fun t => { t with
    x := [], chans := [], full := [], empty := [], a8Rows := [], reserveMet := [], shadowPending := [] }
  let s8 := s7.onSrv fun v => { v with sliceState := .stopped, noStart := [] }
  ((s8.endRemap).evalPorts).dataArrives

/-- A draft plan loaded beside the main plan (R224). -/
def State.loadDraft (s : State) (p : PlanObj) : State :=
  let s1 := s.wts.draft.toList.foldl (fun a q => a.unmapPlan q) s
  let gone (id : Nat) : Bool := s.wts.draft.any fun q => (q.shardsOf q.moduleIndex).any fun e => shId e == id
  let s2 := s1.onWts fun w => { w with
    draft := some p, draftGen := w.curGen, copies := w.copies.filter (fun c => !(c.kind == kWeight && gone c.id)) }
  ((s2.mapPlan p (fun d => s.plan.tilesUsed d)).getD s2).dataArrives

/-- The next plan replaces the loaded one once the slice has stopped or halted and no step is in flight (R274); so does a draft plan
that was checked while the slice ran. -/
def State.takeNext (s : State) : State :=
  if s.sliceIdle && s.steps.live.isEmpty then
    match s.wts.next, s.wts.nextDraft with
    | some p, _ => s.loadMain p
    | none, some p => (s.onWts fun w => { w with nextDraft := none }).loadDraft p
    | none, none => s
  else s

end Sys2Proof.Machine
end

