-- ==== Sys2Proof/Machine/Adapters.lean ====
section
/-! DEFINITION. The adapter opcodes of the lead (R231, R232, R235, R303) and the gather into the pool (R233). -/

namespace Sys2Proof.Machine

open Sys2Proof

/-! ### Payload fields (Table 9.12) -/

def adId (b : Bytes) : Nat := rd 4 b 0 % 2048
def adForce (b : Bytes) : Bool := bitOf (rd 4 b 0) 11
def adRanks (b : Bytes) : List Nat := (List.range 16).map fun t => rd 2 b (8 + 2 * t)
def adShard (b : Bytes) (i : Nat) : Nat := rd 4 b (0x28 + 4 * i)

def idRange (b : Bytes) : List (Bool × Nat × Nat) :=
  [ (adId b == 0 || decide (1024 < adId b), stFieldRange, payOff 0), (rd 4 b 0 / 4096 != 0, stFieldRange, payOff 0) ]

/-- Checks 5 and 6 of a load or a replace: the length, the count of modules, the id and the ranks. -/
def adapterChecks (force : Bool) (s : State) (c : Cmd) : List (Bool × Nat × Nat) :=
  lenIs c (0x28 + 4 * (rd 4 c.pay 4 % 1024)) ++
  [ (rd 4 c.pay 4 % 1024 != s.sliceModules.length, stLenRange, payOff 4) ] ++ idRange c.pay ++
  [ (!force && adForce c.pay, stFieldRange, payOff 0), (rd 4 c.pay 4 / 1024 != 0, stFieldRange, payOff 4) ] ++
  (indexed (adRanks c.pay)).map fun r => (decide (256 < r.2), stFieldRange, payOff (8 + 2 * r.1))

/-- Whether a module holds a shard of the adapter VERIFIED; a zero entry names none. Another module's shards are reported by
no message and are left open (log entry 83). -/
def State.shardThere (s : State) (m id : Nat) : Bool :=
  id = 0 || (if m = s.index then (s.copy? kAdapter id 0).any (fun c => c.state == .verified)
    else Config.unstated 37 [m, id] % 2 == 1)

/-- Whether a module's store has room for its part beside what it holds (another module's is left open). -/
def State.storeRoom (s : State) (m id : Nat) : Bool :=
  id = 0 || (if m = s.index then s.storeUsed ≤ s.adp.storePages else Config.unstated 38 [m, id] % 2 == 1)

def State.allModules (s : State) (f : Nat → Nat → Bool) (b : Bytes) : Bool :=
  (indexed s.sliceModules).all fun m => f m.2 (adShard b m.1)

/-- This module's shard in a load. -/
def State.mineOf (s : State) (b : Bytes) : Nat := adShard b (s.sliceModules.idxOf s.index)

/-- The first target whose rank exceeds a LORA's RANK_MAX. -/
def State.badRank (s : State) (b : Bytes) : Option Nat :=
  ((indexed (adRanks b)).find? fun r => r.2 != 0 && (match s.plan.rankMax r.1 with
    | none => true
    | some m => decide (m < r.2))).map (·.1)

/-- An install, at the next step boundary of a running slice, or at once where no step is composed. -/
def State.installAct (s : State) (c : Cmd) : Act :=
  let x : AdInstall := { port := c.port, slot := c.slot, id := adId c.pay, ranks := adRanks c.pay, shard := s.mineOf c.pay }
  if s.sliceRunning then .long (s.onAdp fun d => { d with pending := d.pending ++ [x] }) (objAdapter x.id) [] []
  else let t := s.installAdapter x; .done t stOk 0 (t.installed x.id)

/-- The refusals that a load and a replace share, in R232's order; the store's is the caller's. -/
def State.loadRefusals (s : State) (c : Cmd) (room : Nat) : List (Bool × Nat × Nat) :=
  [ (!s.allModules s.shardThere c.pay, stDigestMismatch, payOff 0x28),
    ((s.badRank c.pay).isSome, stFieldRange, payOff (8 + 2 * (s.badRank c.pay).getD 0)),
    (!s.allModules s.storeRoom c.pay, room, 0) ]

/-- OP_ADAPTER_LOAD. -/
def execOpAdapterLoad (q : Req) (s : State) : Ret :=
  .next (s.runOp q 0x0301 allPayloads (adapterChecks false) fun s c =>
    s.objAct 0x0301 (objAdapter (adId c.pay)) (
      match firstFail ([((s.adapter? (adId c.pay)).isSome, stStateDenied, payOff 0)] ++ s.loadRefusals c stNoSpace) with
      | some (st, d) => .refuse st d
      | none => s.installAct c))

/-- OP_ADAPTER_REPLACE. An id that holds no adapter is refused with ST_STATE_DENIED (DEDUCED, log entry 91). With FORCE the
want of room ends the bound requests, and the old generation goes first. -/
def execOpAdapterReplace (q : Req) (s : State) : Ret :=
  .next (s.runOp q 0x0302 allPayloads (adapterChecks true) fun s c =>
    s.objAct 0x0302 (objAdapter (adId c.pay)) (
      match firstFail ([((s.adapter? (adId c.pay)).isNone, stStateDenied, payOff 0)] ++ s.loadRefusals c stAdapterBusy) with
      | some (st, d) =>
        if st = stAdapterBusy && adForce c.pay then (s.endBound (adId c.pay)).installAct c else .refuse st d
      | none => s.installAct c))

/-- OP_ADAPTER_UNLOAD. -/
def execOpAdapterUnload (q : Req) (s : State) : Ret :=
  .next (s.runOp q 0x0303 allPayloads (fun _ c => lenIs c 4 ++ idRange c.pay) fun s c =>
    s.objAct 0x0303 (objAdapter (adId c.pay)) (
      match s.adapter? (adId c.pay) with
      | none => .refuse stStateDenied (payOff 0)
      | some a =>
        if !(s.boundTo a.id).isEmpty && !adForce c.pay then .refuse stAdapterBusy 0
        else .done ((s.endBound a.id).removeAdapter ((((s.endBound a.id).adapter? a.id)).getD a) evAdapterFreed) stOk 0 []))

/-- Requests bound to any generation of an adapter. -/
def State.boundCount (s : State) (id : Nat) : Nat := ((s.boundTo id).filter fun x => x.generation.isSome).length

/-- OP_ADAPTER_LIST: the adapters from FIRST upward, at most 502 of them. -/
def execOpAdapterList (q : Req) (s : State) : Ret :=
  .next (s.runOp q 0x0304 allPayloads (fun _ c => lenIs c 4 ++
      [ (rd 2 c.pay 0 == 0 || decide (1024 < rd 2 c.pay 0), stFieldRange, payOff 0),
        (rd 2 c.pay 2 != 0, stFieldRange, payOff 2) ]) fun s c =>
    let l := (s.adp.list.filter fun a => rd 2 c.pay 0 ≤ a.id).take 502
    .done s stOk 0 (le 2 l.length ++ zeros 6 ++
      l.flatMap fun a => le 4 (a.id + a.gen * 2048) ++ le 4 (s.boundCount a.id)))

/-- ADAPTER_GATHER_DONE: a bound generation's parts are in the pool; on the lead, on every module (log entry 85). Without room
in the pool nothing is gathered and the session waits. -/
def execAdapterGatherDone (id gen : Nat) (s : State) : Ret :=
  .next (match s.adapter? id with
  | none => s
  | some a =>
    if !a.stored.any (fun g => g.1 == gen) || !s.genBound id gen || s.inPool (handleOf id gen) then s else
      match s.poolRoom (s.partBytes id gen).length (listSum (s.adp.list.map (·.pool.length))) with
      | none => s
      | some t => t.modAdapter id fun b => { b with pool := b.pool ++ [(gen, s.steps.composed)] })

end Sys2Proof.Machine
end

