-- ==== Sys2Proof/Machine/PowerOps.lean ====
section
/-! DEFINITION. Caps, floors and fades (R322, R339, R340), and the budget messages and reverts of loans (R335, R336, Table
10.8). -/

namespace Sys2Proof.Machine

open Sys2Proof

/-- S0 idle draw (Table 0.3). -/
def idleW : Nat := 1050

/-- SET_POWER_CAP plus what is borrowed, less what is lent. -/
def State.tradingCap (s : State) : Nat := s.setN setPowerCap + s.pwr.borrowed - s.pwr.lent

/-- The effective cap (R322): the lower of the trading cap and the thermal limit, within 1,200 to 5,000 W. -/
def State.effCap (s : State) : Nat := max 1200 (min 5000 (min s.tradingCap s.pwr.thermalW))

/-- The effective floor (R339). -/
def State.effFloor (s : State) : Nat := min (s.setN setPowerFloor) (min s.effCap s.pwr.rampLimit)

/-- Mean draw over the last 1 ms: of the last ten 100 µs windows. -/
def State.meanMs (s : State) : Nat :=
  let w := s.pwr.windows.take 10
  if w.isEmpty then 0 else listSum w / w.length

/-- A stop or halt starts the fade, unless SET_FADE is 0 (R340). -/
def State.startFade (s : State) : State :=
  let ms := s.setN setFade
  if ms = 0 || s.pwr.state != .s0 then s
  else (s.onPwr fun p => { p with fade := some (min s.meanMs s.effCap, s.now, ms) }).count ctFades 0 1

/-- The fade target now: from its start linearly to the higher of the effective floor and the idle draw. -/
def State.fadeTarget (s : State) : Option Nat :=
  s.pwr.fade.map fun f =>
    let stop := max s.effFloor idleW
    let t := min (s.now - f.2.1) (f.2.2 * 1000000)
    let span := f.2.2 * 1000000
    if f.1 ≤ stop then stop else f.1 - (f.1 - stop) * t / span

/-! ### Budget messages -/

def bkSlack : Nat := 0
def bkLent : Nat := 1
def bkGrant : Nat := 2
def bkRevert : Nat := 3
def bkReverted : Nat := 4

/-- A budget message's entry (Table 10.8). -/
def budgetBytes (kind m window watts slack step : Nat) : Bytes :=
  le 4 (kind + m * 256) ++ le 4 window ++ le 4 (watts % 65536) ++ le 4 slack ++ le 4 step ++ zeros 12

def State.sendBudget (s : State) (dest kind m watts slack step : Nat) : State :=
  s.sendMsg dest mBudget 0 0 [budgetBytes kind m s.pwr.window watts slack step]

/-- A borrower returns to its own cap; it reports REVERTED after its first compliant window. -/
def State.revertBorrower (s : State) : State :=
  s.onPwr fun p => { p with borrowed := 0, owesReverted := true }

/-- A lender takes back what it lent. -/
def State.revertLender (s : State) : State := s.onPwr fun p => { p with lent := 0, owesLent := none }

def State.borrowers (s : State) : List Nat := s.pwr.loans.foldl (fun a l => addNew a l.2.1) []
def State.lenders (s : State) : List Nat := s.pwr.loans.foldl (fun a l => addNew a l.1) []

/-- Once every borrower has reverted, the lead tells the lenders; the revert is over. -/
def State.settleRevert (s : State) : State :=
  if s.pwr.reverting && s.borrowers.all (fun b => s.pwr.reverted.contains b) then
    let s1 := s.lenders.foldl (fun a m =>
      if m = s.index then a.revertLender else a.sendBudget m bkRevert m 0 0 0) s
    ((s1.onPwr fun p => { p with loans := [], lentReports := [], reverting := false, reverted := [] }).count
      ctReverts 0 1).event evBudgetRevert noUnit
  else s

/-- The lead reverts every loan of the slice, borrowers first (R336). -/
def State.revertLoans (s : State) : State :=
  if !s.isLead || s.pwr.loans.isEmpty || s.pwr.reverting then s else
    let s1 := s.onPwr fun p => { p with reverting := true, reverted := [] }
    (s1.borrowers.foldl (fun a m =>
      if m = s.index then a.revertBorrower else a.sendBudget m bkRevert m 0 0 0) s1).settleRevert

/-- A change of SET_POWER_CAP: loans revert, and a module other than the lead asks the lead for it with a REVERT of its own
(DESIGN CHOICE, log entry 55); the clamp and the ramp limit follow the new effective cap. -/
def State.capChanged (s : State) : State :=
  let s1 := if s.isLead then s.revertLoans
    else if s.wts.main.isSome && s.sliceRunning then s.sendBudget s.plan.leadIndex bkRevert s.index 0 0 0 else s
  s1.onPwr fun p => { p with rampLimit := min p.rampLimit s.effCap }

end Sys2Proof.Machine
end

