-- ==== Sys2Proof/Machine/TxnOps.lean ====
section
/-! DEFINITION. Settings and transactions, shared parts (R300, R307, R310, R311, R317): setting entries, a set taken as
the running configuration, the messages of a commit, and a commit's end. -/

namespace Sys2Proof.Machine

open Sys2Proof

/-! ### Setting entries (Table 9.9) -/

/-- An entry with its value, padded to a multiple of 8. -/
def entryBytes (key src voff : Nat) (value : Bytes) : Bytes :=
  le 4 key ++ le 2 value.length ++ le 2 src ++ le 4 voff ++ zeros 4 ++ padMul 8 value

/-- An entry as parsed from a command: its offset in the payload, its fields and its value. -/
structure SetEntry where
  at_ : Nat
  key : Nat
  len : Nat
  src : Nat
  rsv : Nat
  voff : Nat
  value : Bytes
  deriving DecidableEq, Repr

/-- The entry at an offset; `whole` where it carries its value. -/
def entryAt (b : Bytes) (off : Nat) (whole : Bool) : SetEntry :=
  let w := rd 4 b (off + 4)
  let n := bitsOf w 15 0
  { at_ := off, key := rd 4 b off, len := n, src := bitsOf w 17 16, rsv := bitsOf w 31 18 + rd 4 b (off + 12)
    voff := rd 4 b (off + 8), value := if whole then cut b (off + 16) n else [] }

/-- `n` entries from an offset, and the offset after them. -/
def entriesFrom (b : Bytes) (whole : Bool) : Nat → Nat → List SetEntry × Nat
  | 0, off => ([], off)
  | n + 1, off =>
    let e := entryAt b off whole
    let nxt := off + 16 + (if whole then ceilDiv e.len 8 * 8 else 0)
    let r := entriesFrom b whole n nxt
    (e :: r.1, r.2)

/-- Entries until the bytes end. -/
def entriesAll (b : Bytes) : Nat → Nat → List SetEntry
  | 0, _ => []
  | fuel + 1, off =>
    if b.length < off + 16 then [] else
      let e := entryAt b off true
      e :: entriesAll b fuel (off + 16 + ceilDiv e.len 8 * 8)

/-! ### Ranges (Table 9.14) -/

/-- One client entry: its ranges of Table 6.1; an entry that is not VALID may hold anything but reserved bits. -/
def clientEntryOk (maxContext : Nat) (e : Bytes) : Bool :=
  bitOf (byteAt e 0) 7 == false && rd 2 e 2 == 0 && cePrefix e ≤ (if ceIpv6 e then 128 else 32) &&
    (ceIpv6 e || allZero (cut e 20 12)) &&
    (!ceValid e || (1 ≤ ceShare e && 1 ≤ ceMaxSessions e && ceMaxSessions e ≤ 4096 && ceMaxInteractive e ≤ 512 &&
      1 ≤ ceMaxQps e && ceMaxQps e ≤ 64 && 64 ≤ ceMaxContext e && (maxContext == 0 || ceMaxContext e ≤ maxContext)))

/-- Whether a whole value meets its key's range. -/
def State.valueOk (s : State) (r : SettingRow) (v : Bytes) : Bool :=
  if r.key = setClientTable then
    (List.range 255).all fun k => clientEntryOk s.plan.maxContext (cut v (32 * k) 32)
  else if r.key = setMgmtAddr then
    byteAt v 0 < 2 && byteAt v 1 ≤ (if byteAt v 0 = 1 then 128 else 32) && allZero (cut v 2 14) &&
      (byteAt v 0 = 1 || (allZero (cut v 20 12) && allZero (cut v 36 12)))
  else if r.key = setCollectors then
    [0, 1, 2, 3].all fun i => byteAt v (32 * i) < 4 && byteAt v (32 * i + 1) == 0 && allZero (cut v (32 * i + 4) 12) &&
      (bitOf (byteAt v (32 * i)) 1 || allZero (cut v (32 * i + 20) 12))
  else
    let x := rd 8 v 0
    (r.lo ≤ x && x ≤ r.hi) && (r.key != setPowerFloor || x == 0 || 1050 ≤ x)

/-! ### Room that a set asks for (R310) -/

/-- ST_NO_SPACE: a staged page count asks for more T2 pages than are free, counting what the present value holds. -/
def State.roomFor (s : State) (staged : Tbl Bytes) : Bool :=
  let want (k : Nat) : Option Nat := (tget staged k).map fun v => rd 8 v 0
  let grow (k held : Nat) (size : Nat → Nat) : Bool := match want k with
    | none => true
    | some n => decide (size n ≤ s.t2Free + held)
  grow setCachePages s.fab.cachePages id && grow setStorePages s.adp.storePages id &&
    (!s.isLead || grow setCsNodes (pagesOf (512 * s.kv.csNodes)) (fun n => pagesOf (512 * n)))

/-! ### A set taken -/

/-- A collector entry that becomes VALID or changes starts at the oldest record held (R374). -/
def State.collectorsChanged (s : State) (old : Bytes) : State :=
  let fresh := [1, 2, 3, 4].filter fun c => cut old (32 * (c - 1)) 32 != cut (s.setting setCollectors) (32 * (c - 1)) 32
  (s.onInteg fun i => { i with
    collectors := i.collectors.filter fun c => !fresh.contains c.1
    faults := i.faults.map fun r => { r with delivered := r.delivered.filter fun d => !fresh.contains d } }).exportFaults

/-- The effects of changed keys that the module carries out at once. -/
def State.afterSet (s : State) (old : Tbl SetVal) (keys : List Nat) : State :=
  let s1 := if keys.contains setClientTable then s.settleClients (runValue old setClientTable) else s
  let s2 := if keys.contains setPowerCap then s1.capChanged else s1
  let s3 := if keys.contains setBudgetTrade && s2.setN setBudgetTrade == 0 then s2.revertLoans else s2
  if keys.contains setCollectors then s3.collectorsChanged (runValue old setCollectors) else s3

/-- The running configuration with a staged set laid over it, under a generation. -/
def State.takeSet (s : State) (staged : Tbl Bytes) (gen : Nat) : State :=
  let old := s.cfg.run
  let s1 := s.onCfg fun c => { c with
    prevGen := c.gen, prevRun := c.run, gen := gen
    run := staged.foldl (fun t e => tset t e.1 { value := e.2, src := 2 }) c.run }
  s1.afterSet old (tkeys staged)

/-- Keys of a set whose effect waits for a later event (DEFERRED). -/
def deferredCount (staged : Tbl Bytes) : Nat :=
  (staged.filter fun e => (settingRow e.1).any (·.later)).length

/-- The next configuration generation, wrapping from 0xFFFF_FFFF to 1. -/
def nextGen (g : Nat) : Nat := if g = 0xFFFFFFFF then 1 else g + 1

/-! ### Messages of a commit (Table 5.12) -/

/-- Units of 8 bytes. -/
def units (b : Bytes) : List Bytes := (chunksOf 8 b).map (fit 8)

def txnHead (id scope base assigned : Nat) : List Bytes :=
  [le 4 id ++ le 4 scope, le 4 base ++ le 4 assigned]

/-- The staged set to prepare. -/
def txnStageUnits (id scope base : Nat) (staged : Tbl Bytes) : List Bytes :=
  txnHead id scope base 0 ++ staged.flatMap (fun e => units (entryBytes e.1 0 0 e.2))

/-- A TXN_REPLY entry. -/
def txnReplyBytes (id st : Nat) (applied : Bool) (gen : Nat) : Bytes :=
  le 4 id ++ le 2 st ++ le 2 (b2n applied) ++ le 4 gen ++ zeros 4

/-! ### Ends of a commit -/

/-- The OP_COMMIT completion. -/
def commitBytes (gen first deferred : Nat) : Bytes := le 4 gen ++ zeros 4 ++ le 6 first ++ zeros 2 ++ le 2 deferred

def Cfg.closeTxn (c : Cfg) (t : Txn) : Cfg := if t.slice then { c with txnSlice := none } else { c with txnModule := none }

/-- Every module concerned has applied: the commit completes and its transaction closes. -/
def State.endCommit (s : State) (r : CommitRun) : State :=
  let s1 := s.onCfg fun c => { (c.closeTxn r.txn) with commit := none }
  s1.finishAt r.port r.slot stOk 0 (commitBytes s.cfg.gen r.firstStep (deferredCount r.txn.staged))

/-- The modules a commit concerns. -/
def State.concerned (s : State) (t : Txn) : List Nat := if t.slice then s.sliceModules else [s.index]

/-- The next generation assigned to the commits that are prepared: on the lead, at a composition of `step`, its own and
those that other modules have told it of, each with its apply message to every module of the slice; where the slice does
not run, this module's own commit, which concerns the modules of its scope alone (R310, Table 8.1). -/
def State.assignCommits (s : State) (step : Nat) : State :=
  let s1 := match s.cfg.commit with
    | some r =>
      if r.assigned.isSome || !(s.concerned r.txn).all (fun m => r.prepared.contains m) then s
      else
        let g := nextGen s.cfg.gen
        let a := if s.sliceRunning || r.txn.slice then
          s.sendAll mTxnStage 0 step (txnHead r.txn.id (b2n r.txn.slice) r.txn.baseGen g) else s
        let b := a.takeSet r.txn.staged g
        let q := { r with assigned := some g, firstStep := step, applied := [s.index] }
        let c := b.onCfg fun c => { c with commit := some q, prepared := none }
        if (s.concerned r.txn).all (· == s.index) then c.endCommit q else c
    | none => s
  if s.sliceRunning then
    s1.cfg.waiting.foldl (fun a w =>
      let g := nextGen a.cfg.gen
      ((a.sendAll mTxnStage 0 step (txnHead w.2 0 0 g)).takeSet [] g).onCfg fun c =>
        { c with waiting := c.waiting.filter (· != w) }) s1
  else s1.onCfg fun c => { c with waiting := [] }

/-- A transaction rolled back: what was staged is gone. -/
def State.dropTxn (s : State) (slice : Bool) : State :=
  s.onCfg fun c => if slice then { c with txnSlice := none } else { c with txnModule := none }

/-- A hard halt rolls back every open transaction; a commit in course is handed back with ST_TXN_EXPIRED, and the module
returns to the generation before it where not every survivor has applied it (R275, R311). The lead tells the others with
an apply message that names that generation (DESIGN CHOICE, log entry 49). -/
def State.haltTxns (s : State) : State :=
  let s1 := match s.cfg.commit with
    | none => s
    | some r =>
      let a := (s.onCfg fun c => { c with commit := none }).finishAt r.port r.slot stTxnExpired 0 []
      if r.assigned.isSome && r.assigned == some s.cfg.gen then
        let b := a.onCfg fun c => { c with gen := c.prevGen, run := c.prevRun }
        if s.isLead then b.sendAll mTxnStage 0 0 (txnHead r.txn.id (b2n r.txn.slice) r.txn.baseGen b.cfg.gen) else b
      else a
  s1.onCfg fun c => { c with txnModule := none, txnSlice := none, prepared := none, waiting := [] }

end Sys2Proof.Machine
end

