-- ==== Sys2Proof/Machine/Halt.lean ====
section
/-! DEFINITION. Aborts and halts (R271 to R273): raising an abort, what every module does on it, what the lead does, the two
kinds of halt, and what every stop of a slice brings (R274, R336, R340). -/

namespace Sys2Proof.Machine

open Sys2Proof

/-! ### Steps of the module -/

def State.step? (s : State) (n : Nat) : Option Step := s.steps.live.find? (fun t => t.seq == n)
def State.modStep (s : State) (n : Nat) (f : Step → Step) : State :=
  s.onSteps fun x => { x with live := x.live.map fun t => if t.seq = n then f t else t }
def State.aborted (s : State) (n : Nat) : Bool := s.steps.aborted.contains n
/-- A step that has left POST on this module. -/
def State.left (s : State) (n : Nat) : Bool := n ≤ s.steps.leftUpTo && !s.aborted n

/-- A tile with everything of a step gone: its queue, its units' operators and its held output. -/
def TileX.stopped (x : TileX) : TileX :=
  { x with queue := [], toRead := [], phaseDone := true, array := none, vector := none, mover := none, held := []
           reexposed := [], chain := [] }

/-- What each module does on an abort: no descriptor of the named step or a later one starts, their outputs are gone, the
steps are recorded as aborted, and every channel count is cleared (R271). -/
def State.applyAbort (s : State) (first code : Nat) : State :=
  let gone := (s.steps.live.filter (fun t => first ≤ t.seq)).map (·.seq)
  let last := max (listMax gone) (if s.isLead then s.steps.composed else first)
  let s1 := s.onSteps fun x => { x with
    live := x.live.filter (fun t => t.seq < first), aborted := gone.foldl addNew x.aborted }
  let s2 := s1.onTiles fun t => { t with
    x := t.x.map (fun e => (e.1, if first ≤ e.2.step then e.2.stopped else e.2))
    chans := [], full := [], shadowPending := [] }
  let s3 := s2.onFab fun f => { f with
    disp := f.disp.filter (fun d => d.step < first), colls := f.colls.filter (fun c => c.step < first)
    reads := [], collRoom := [] }
  let s4 := s3.onSrv fun v => { v with logits := v.logits.filter (fun l => l.step < first) }
  let s5 := s4.onKv fun k => { k with commits := k.commits.filter (fun c => c.2 < first) }
  (s5.count ctStepAborts code 1).sendLead mClear 0 last []

/-- The lead records a module as clear; when all have reported, composition may go on. -/
def State.noteClear (s : State) (m : Nat) : State :=
  let cs := addNew s.steps.clears m
  if s.sliceModules.all (fun x => cs.contains x) then
    s.onSteps fun x => { x with clears := [], awaitClear := none }
  else s.onSteps fun x => { x with clears := cs }

/-- What a step holds no longer (R267): the holds of the steps from `first` on are released. -/
def State.releaseFrom (s : State) (first : Nat) : State :=
  s.onSrv fun v => { v with sessions := v.sessions.map fun e =>
    (e.1, { e.2 with heldBy := e.2.heldBy.filter (fun h => h.1 < first) }) }

/-- Tests interrupted by S1 entry or a stop: each tile keeps its state and stays due (R368). -/
def State.stopTests (s : State) : State := s.onTiles fun t => { t with inTest := [], testFailedOnce := [] }

/-! ### Halts -/

/-- A step that has left POST goes once the commit notices of its sessions have been applied or dropped and none of them is
held by it (R267). -/
def State.pruneSteps (s : State) : State :=
  s.onSteps fun x => { x with live := x.live.filter fun t =>
    !t.leftPost || s.kv.commits.any (fun c => c.2 == t.seq) || s.allSess.any (fun y => y.heldBy.any fun h => h.1 == t.seq) }

/-- What every stop or halt brings to a module: loans revert, the fade starts, installs that wait for a step boundary take
place, and a next plan takes its place once no step is in flight. -/
def State.settleStop (s : State) : State := ((((s.revertLoans).startFade).stopTests).installPending).takeNext

/-- A drain in course ends with a halt: OP_SLICE_STOP completes with ST_INTERNAL (Table 13.13; for a soft halt DESIGN
CHOICE, log entry 54). -/
def State.breakDrain (s : State) : State :=
  match s.srv.drain with
  | some d => (s.onSrv fun v => { v with drain := none }).finishAt d.port d.slot stInternal 0 []
  | none => s

/-- A commit that waits for a composition which will not come applies at once (R310). -/
def State.settleCommit (s : State) : State := s.assignCommits 0

/-- A soft halt: pending generations end with STEP_FAILED on the lead; sessions stay open (Table 8.3). -/
def State.softHalt (s : State) : State :=
  if !s.sliceBusy then s else
    let s1 := s.onSrv fun v => { v with sliceState := .haltedSoft, haltNs := s.now }
    let s2 := if s.isLead then
      (s1.allSess.map (·.index)).foldl (fun a i => a.endGen i fun st x r => st.repError x r reStepFailed) s1
      else s1
    ((s2.breakDrain).settleCommit).settleStop

/-- A swap that a hard halt meets: the module completes its writes, and the command ends with ST_INTERNAL (R262). -/
def State.haltSwap (s : State) : State :=
  match s.wts.swap with
  | none => s
  | some r => ((s.finishSwapWrites).onWts fun w => { w with swap := none }).finishAt r.port r.slot stInternal 0 []

/-- The way to the lead leaves by a port that is down: this module is cut off from its lead. -/
def State.cutOff (s : State) : Bool :=
  !s.isLead && (match hopPort s.index s.plan.leadIndex with
    | some q => !(s.portX (s.physOf q)).trained
    | none => false)

/-- A hard halt on this module: every step aborts with FLT_STEP_LOST, transactions roll back, a swap completes its writes;
each down port is reported to the lead in START_INFO messages of KIND 2 (DESIGN CHOICE, log entry 56). What becomes of the
sessions is decided 1 ms later (R273). -/
def State.hardHalt (s : State) : State :=
  if s.srv.sliceState == .haltedHard || s.srv.sliceState == .stopped || s.srv.sliceState == .noPlan then s else
    let first := (s.steps.live.map (·.seq)).foldl min (s.steps.composed + 1)
    let s1 := s.applyAbort first fltStepLost
    let s2 := s1.onSrv fun v => { v with
      sliceState := .haltedHard, haltNs := s.now, downReports := if s.isLead then [s.index] else [], lost := []
      start := none }
    let s3 := (((s2.haltTxns).haltSwap).breakDrain).fault fltStepLost noUnit { stepSeq := first }
    let down := allPorts.filter fun p => !(s.portX p).trained && nbExpected (s.plan.neighbour (s.logicalOf p))
    let rep := if down.isEmpty then [le 1 2 ++ zeros 15] else down.map fun p =>
      le 1 2 ++ le 2 (p + s.logicalOf p * 8 + (s.portX p).outcome.code * 64) ++ zeros 13
    let s4 := if s3.cutOff && 0 < s3.pwr.borrowed then s3.revertBorrower else s3
    (s4.sendLead mStartInfo 0 0 rep).settleStop

/-! ### The lead -/

/-- A STEP_ABORT entry (Table 5.12). -/
def abortBytes (first code m : Nat) : Bytes := le 6 first ++ le 2 code ++ le 4 m ++ zeros 4

/-- Codes whose abort halts the slice softly (Table 8.3). -/
def softCode (c : Nat) : Bool := c == fltTileDepleted || c == fltWeightLost || c == fltSliceHalt

/-- The sessions of the aborted steps: each pending request ends with STEP_FAILED and the epoch advances (R271). -/
def State.failSessions (s : State) (first : Nat) : State :=
  let hit := (s.allSess.filter fun x => x.heldBy.any (fun h => first ≤ h.1)).map (·.index)
  hit.foldl (fun a i => (a.advanceEpoch i).failPending i reStepFailed) s

/-- Aborts of the last 10,000 steps, this one among them. -/
def State.recentAborts (s : State) : List Nat := s.steps.abortLog.filter (fun n => s.steps.composed < n + 10000)

/-- An abort on the lead: every module is told, sessions end, and the slice halts where the fault or SET_ABORT_HALT says so.
The halt that SET_ABORT_HALT brings is told by a second STEP_ABORT that names the next step (DESIGN CHOICE, log entry
46). -/
def State.leadAbort (s : State) (first code m : Nat) : State :=
  let s0 := s.sendAll mStepAbort 0 first [abortBytes first code m]
  if code = fltStepLost then s0.hardHalt else
  if first > s.steps.composed && !softCode code then s else
    let s1 := ((s0.failSessions first).releaseFrom first).applyAbort first code
    let s2 := (s1.onSteps fun x => { x with
      awaitClear := some x.composed, clears := [], abortLog := s.recentAborts ++ [s.steps.composed] }).noteClear s.index
    if softCode code then s2.softHalt
    else if s2.setN setAbortHalt ≤ s2.recentAborts.length then
      ((s2.sendAll mStepAbort 0 0 [abortBytes (s.steps.composed + 1) fltSliceHalt s.index]).fault fltSliceHalt
        noUnit { stepSeq := first }).softHalt
    else s2

/-- This module raises an abort of a step: the lead carries it out; another module tells the lead (R271). -/
def State.raiseAbort (s : State) (step code : Nat) : State :=
  if s.isLead then s.leadAbort step code s.index
  else s.sendLead mStepAbort 0 step [abortBytes step code s.index]

/-- A fault that aborts a step: its record, and the abort where it names a step in flight. -/
def State.stepFault (s : State) (code : Nat) (u : UnitId) (step : Nat) (c : FaultCtx := {}) : State :=
  let s1 := s.fault code u { c with stepSeq := step }
  if step = 0 || s.aborted step then s1 else s1.raiseAbort step code

/-- A soft halt that a module's fault brings about: the lead carries it out, another module asks for it. `step` is the step
that the fault aborts, or the next one where it aborts none. -/
def State.askHalt (s : State) (code step : Nat) : State :=
  if !s.sliceBusy then s
  else s.raiseAbort (if step = 0 then (if s.isLead then s.steps.composed else s.steps.lastEntered) + 1 else step) code

/-! ### Lost modules (R273) -/

/-- Whether a plan runs ATTN on every module it describes: this module's own plan does (the checker sees no other). -/
def PlanObj.runsAttn (p : PlanObj) : Bool := (p.sec secDesc).any fun d => dOpc d == opAttn

/-- A session LOST, on the lead: every pending request, or else its client, is told; the session is freed (step 5 of R273). -/
def State.loseSession (s : State) (i : Nat) : State :=
  match s.sess? i with
  | none => s
  | some x =>
    let waits := x.generation.toList ++ x.pauseReq.toList ++ x.resumeReq.toList ++ x.cancels ++ x.closes
    let b := if waits.isEmpty then s.replyFree x rpError (stInternal + reLost * 65536) 0
      else waits.foldl (fun c r => c.repError x r reLost) s
    let c := b.event evSessionLost noUnit x.id
    ((c.dropSession i).pushClosed x.id).freeUnbound

/-- One ms after a hard halt: the modules that sent no report are lost; every session of a slice that runs attention is
LOST where one is, and the others are treated as in a soft halt. A module cut off from its lead frees every
descriptor. -/
def State.markLost (s : State) : State :=
  if s.srv.sliceState != .haltedHard || !s.srv.lost.isEmpty then s else
  if s.isLead then
    let lost := s.sliceModules.filter fun m => !s.srv.downReports.contains m
    let s1 := s.onSrv fun v => { v with lost := lost }
    let ended := (s1.allSess.map (·.index))
    if lost.isEmpty || !s.plan.runsAttn then
      (ended.foldl (fun a i => (a.advanceEpoch i).endGen i fun st x r => st.repError x r reStepFailed) s1).releaseFrom 0
    else ended.foldl (fun a i => a.loseSession i) (s1.releaseFrom 0)
  else if s.cutOff then (tkeys s.srv.sessions).foldl (fun a i => a.dropSession i) s
  else s

end Sys2Proof.Machine
end

