-- ==== Sys2Proof/Machine/Units.lean ====
section
/-! DEFINITION. Units and their health (R344, R363, R364), spare tiles and swaps (R23, R34 to R40), and in-field tests
(R367, R368, R377). -/

namespace Sys2Proof.Machine

open Sys2Proof

/-! ### Units (Table 11.1) -/

/-- How many units a kind has. -/
def unitCount (kind : Nat) : Nat := [1, 2560, 256, 32, 16, 64, 4, 6, 16, 6, 1, 1].getD kind 0
def unitExists (u : UnitId) : Bool := decide (u.index < unitCount u.kind)

/-- State codes of Table 11.8. -/
def usGood : Nat := 0
def usSpare : Nat := 1
def usSlow : Nat := 2
def usRetired : Nat := 3
def usDisabled : Nat := 4

/-- A unit's entry of the state table. Every unit starts GOOD, and the sixteen tiles of a C-die beyond its 144 start SPARE. -/
def State.unitX (s : State) (u : UnitId) : UnitEnt :=
  tgetD s.integ.units (UnitId.inst u) { state := if u.kind = 1 ∧ 144 ≤ u.index % 160 then usSpare else usGood }

def State.modUnit (s : State) (u : UnitId) (f : UnitEnt → UnitEnt) : State :=
  s.onInteg fun i => { i with units := tset i.units (UnitId.inst u) (f (s.unitX u)) }

def State.unitState (s : State) (u : UnitId) : Nat := (s.unitX u).state

/-- A unit that is RETIRED or DISABLED stays so (R364). -/
def State.unitOut (s : State) (u : UnitId) : Bool := s.unitState u == usRetired || s.unitState u == usDisabled

/-! ### Work of a tile -/

/-- Whether a logical tile has work in the loaded plan, or in the draft plan whose tiles follow it (R34, R224). -/
def State.works (s : State) (l : Nat) : Bool :=
  s.wts.main.any (fun p => p.hasWork l) ||
    s.wts.draft.any fun p =>
      let off := s.plan.tilesUsed (tileDie l)
      off ≤ tileIn l && p.hasWork (l - off)

def State.tileX (s : State) (l : Nat) : TileX := tgetD s.tiles.x l {}

/-- A physical tile that no logical tile with work lies on is tested in place (R367); during start-up none has work. -/
def State.inPlace (s : State) (p : Nat) : Bool :=
  match s.ltileOf p with
  | none => true
  | some l => !s.works l || s.fw.stage < 12

/-! ### Spares (R35, R37) -/

/-- The free spares of a C-die in the order in which they are given: those not marked slow first, each by physical id
(DESIGN CHOICE, log entry 76). -/
def State.freeSpares (s : State) (d : Nat) : List Nat :=
  let free := (rangeFrom (d * 160) 160).filter fun p =>
    (s.ltileOf p).isNone && !s.tiles.inTest.contains p
  (free.filter fun p => s.unitState (tileUnit p) == usSpare) ++ free.filter fun p => s.unitState (tileUnit p) == usSlow

/-- When a tile's test falls due, in seconds of powered life. -/
def State.testDueS (s : State) (p : Nat) : Nat := (s.unitX (tileUnit p)).testPassS + s.setN setTestPeriod * 3600

/-- A test's precedence: 2 where it is more than 24 hours overdue, else 4 (Table 1.6). -/
def State.testRank (s : State) (p : Nat) : Nat := if s.testDueS p + 86400 < s.clock.lifeS then 2 else 4

/-- A cause's precedence now. -/
def State.rankOf (s : State) (c : SwapCause) : Nat := if c.cause = 4 ∨ c.cause = 2 then s.testRank c.ptile else c.cause

/-- The causes that wait on a C-die, by precedence and physical tile. -/
def State.causesOn (s : State) (d : Nat) : List (Nat × Nat) :=
  sortBy (fun a b => a.1 < b.1 || (a.1 == b.1 && a.2 ≤ b.2))
    ((s.tiles.causes.filter fun c => ptileDie c.ptile == d).map fun c => (s.rankOf c, c.ptile))

/-- Spares given to causes in order: a test that is not overdue never takes the last free one (R35). -/
def giveSpares : List (Nat × Nat) → List Nat → List (Nat × Nat)
  | [], _ => []
  | _, [] => []
  | c :: r, f :: fs => if c.1 = 4 ∧ fs.isEmpty then giveSpares r (f :: fs) else (c.2, f) :: giveSpares r fs

/-- The spare that a physical tile's cause gets at a boundary; every cause of its C-die that waits counts (log entry
77). -/
def State.spareFor (s : State) (p : Nat) : Option Nat :=
  ((giveSpares (s.causesOn (ptileDie p)) (s.freeSpares (ptileDie p))).find? (fun g => g.1 == p)).map (·.2)

def State.addCause (s : State) (p cause : Nat) : State :=
  s.onTiles fun t =>
    match t.causes.find? (fun c => c.ptile == p) with
    | some c => if c.cause ≤ cause then t else
        { t with causes := t.causes.filter (fun x => x.ptile != p) ++ [{ ptile := p, cause := cause }] }
    | none => { t with causes := t.causes ++ [{ ptile := p, cause := cause }] }

/-! ### Swaps (R38, R39) -/

/-- Time of a planned swap's copy of 2 MiB at 1.0 TB/s; that of a restore is left open. -/
def swapCopyNs : Nat := 2100

/-- The old tile's weight buffer on the spare: copied in a planned swap; for a permanent fault restored from the coded
copies of the generations that the pages' homes hold. -/
def State.moveBuffer (s : State) (old new : Nat) (planned : Bool) : State :=
  let pages := (s.mem.pages.filter fun e => e.2.base == tileBase old).map (·.1)
  let s1 := s.onMem fun m => { m with
    pages := m.pages.map fun e => if e.2.base = tileBase old then (e.1, { e.2 with base := tileBase new }) else e }
  if planned then
    let s2 := s1.write (tileBase new) (s1.read (tileBase old) pageBytes)
    s2.onMem fun m => { m with side := (List.range 512).foldl (fun t b =>
      setSide t (blockOf (tileBase new) + b) (s1.sideband (tileBase old + b * blockBytes))) m.side }
  else
    let hit (x : PlanObj × List Nat) : Bool := pages.any fun pg =>
      pageOf (shardBase x) ≤ pg && pg * pageBytes < shardBase x + shLength x.2
    (s1.shardEnts.filter hit).foldl (fun a x => a.writeHome (a.homeGen (a.shardPhase x)) x) s1

/-- A swap: the map, what becomes of the old tile (Table 1.6), the buffer, and its report. -/
def State.swapTile (s : State) (l old new cause : Nat) : State :=
  let s1 := s.onTiles fun t => { t with
    map := tset t.map l new, causes := t.causes.filter (fun c => c.ptile != old)
    slowWindows := tdel t.slowWindows l
    inTest := if cause = 2 ∨ cause = 4 then addNew t.inTest old else t.inTest }
  let s2 := s1.modUnit (tileUnit new) fun u => { u with state := if u.state = usSpare then usGood else u.state }
  let s3 := if cause = 3 then s2.modUnit (tileUnit old) fun u => { u with state := usSlow } else s2
  let x := s3.tileX l
  let code := s3.plan.layerCode x.phase
  let s4 := ((s3.moveBuffer old new (cause != 1)).stall ctSpareSwap 0
    (if cause != 1 then swapCopyNs else Config.unstated 31 [old, new]) code l 0 x.step).traceRec trSwap code l 0 x.step 0
  let a0 := l + new * 65536
  let a1 := cause + (s4.freeSpares (ptileDie old)).length % 256 * 256
  (s4.event evTileSpared (tileUnit old) a0 a1).log evTileSpared (tileUnit old) a0 a1

/-- A logical tile that no physical tile can serve (R40): the slice halts at the end of the current step. -/
def State.deplete (s : State) (l p : Nat) : State :=
  let s1 := s.onTiles fun t => { t with
    depleted := addNew t.depleted l, causes := t.causes.filter (fun c => c.ptile != p) }
  (s1.fault fltTileDepleted (tileUnit p) { logical := some l }).askHalt fltTileDepleted 0

/-- A layer boundary of a logical tile, or the absence of work: a waiting cause takes the spare it is given. -/
def State.boundary (s : State) (l : Nat) : State :=
  let p := s.ptileOf l
  match s.tiles.causes.find? (fun c => c.ptile == p) with
  | none => s
  | some c => match s.spareFor p with
    | some f => s.swapTile l p f (s.rankOf c)
    | none => if c.cause = 1 then s.deplete l p else s

/-! ### Tests (R367, R368) -/

/-- Whether a tile's test is due: by its time, or because OP_SELFTEST_RUN named it. -/
def State.testDue (s : State) (p : Nat) : Bool :=
  !s.tiles.inTest.contains p &&
    ((s.unitState (tileUnit p) != usRetired && s.testDueS p ≤ s.clock.lifeS) ||
      s.integ.selftest.any fun r => r.waiting.contains p)

def State.beginTest (s : State) (p : Nat) : State :=
  (s.onTiles fun t => { t with inTest := addNew t.inTest p, testFailedOnce := without t.testFailedOnce p }).onInteg
    fun i => { i with overdueEv := tdel i.overdueEv p }

/-- Due tiles that need no swap are tested, the earliest due first, at most two on a C-die, in S0. -/
def State.startTests (s : State) (d : Nat) : State :=
  if s.pwr.state != .s0 then s else
    let n := 2 - (s.tiles.inTest.filter fun p => ptileDie p == d).length
    let due := (rangeFrom (d * 160) 160).filter fun p => s.testDue p && s.inPlace p
    ((sortBy (fun a b => s.testDueS a ≤ s.testDueS b) due).take n).foldl (fun a p => a.beginTest p) s

/-! ### Transient and permanent (R364) -/

/-- Kinds that are classified. -/
def classified (u : UnitId) : Bool := u.kind == 1 || u.kind == 5 || u.kind == 6 || u.kind == 8

/-- The step whose current phase on a logical tile has a descriptor that is not completed. -/
def State.phaseStep (s : State) (l : Nat) : Option Nat :=
  let x := s.tileX l
  if x.phaseDone then none else some x.step

/-- A permanent classification and its effect (R34, R364). -/
def State.permanent (s : State) (u : UnitId) : State :=
  if !classified u || s.unitOut u then s else
    let s1 := (s.modUnit u fun e => { e with state := if u.kind = 5 then usDisabled else usRetired }).log fltUnitPermanent u
    if u.kind = 1 then
      match s.ltileOf u.index with
      | none => s1.fault fltUnitPermanent u
      | some l =>
        let s2 := s1.addCause u.index 1
        let s3 := match s.phaseStep l with
          | some n => s2.stepFault fltUnitPermanent u n { logical := some l }
          | none => s2.fault fltUnitPermanent u { logical := some l }
        -- its step is gone, or it stands between phases: its next phase runs on the spare
        s3.boundary l
    else if u.kind = 5 then s1.fault fltUnitPermanent u
    else ((s1.fault fltUnitPermanent u).fault fltSliceHalt u).askHalt fltSliceHalt 0

/-- Seconds of powered life of the two windows. -/
def transientWindow : Nat := 720 * 3600
def voteWindow : Nat := 24 * 3600

/-- A transient of a unit: its third within 720 hours, or the second lost vote within 24, is permanent. -/
def State.transient (s : State) (u : UnitId) (vote : Bool := false) : State :=
  if !classified u then s else
    let now := s.clock.lifeS
    let x := s.unitX u
    let ts := now :: x.transients
    let vs := if vote then now :: x.votes else x.votes
    let recent := (ts.filter fun t => now ≤ t + transientWindow).length
    let votes := (vs.filter fun t => now ≤ t + voteWindow).length
    let s1 := s.modUnit u fun e => { e with
      transients := ts.take (max 3 recent), votes := vs.take votes }
    let s2 := (s1.event evTransient u).log evTransient u
    if 3 ≤ recent || (vote && 2 ≤ votes) then s2.permanent u else s2

/-! ### A test's end (R368, R377) -/

/-- Result codes of SELFTEST_RUN. -/
def trPass : Nat := 0
def trPermanent : Nat := 1
def trTransient : Nat := 2

/-- A tile of an OP_SELFTEST_RUN is done; with none left the command completes. -/
def State.selfTested (s : State) (p result : Nat) : State :=
  match s.integ.selftest with
  | none => s
  | some r =>
    if !r.waiting.contains p then s else
      let q := { r with
        waiting := without r.waiting p
        result := if r.result = trPass then result else r.result
        failing := if r.result = trPass && result != trPass then p else r.failing }
      if q.waiting.isEmpty then
        (s.onInteg fun i => { i with selftest := none }).finishAt q.port q.slot stOk 0 (le 2 q.result ++ le 2 q.failing)
      else s.onInteg fun i => { i with selftest := some q }

/-- A test's result in the history (log entry 81). -/
def State.logTest (s : State) (p result : Nat) : State := s.log evTestFailed (tileUnit p) result

/-- A test that ended in a pass: the tile's time, and a tile out of service becomes a spare. -/
def State.testPassed (s : State) (p result : Nat) : State :=
  let s1 := (s.onTiles fun t => { t with inTest := without t.inTest p, testFailedOnce := without t.testFailedOnce p }).modUnit
    (tileUnit p) fun u => { u with testPassS := s.clock.lifeS }
  let s2 := if (s1.ltileOf p).isNone then
      s1.modUnit (tileUnit p) fun u => { u with state := if u.state = usGood then usSpare else u.state }
    else s1
  let s3 := (s2.logTest p result).onTiles fun t => { t with causes := t.causes.filter fun c =>
    !(c.ptile == p && (c.cause == 2 || c.cause == 4)) }
  let s4 := if result = trTransient then s3.transient (tileUnit p) else s3
  (s4.selfTested p result).startTests (ptileDie p)

/-- A test's end: a failure is repeated at once; a second failure is permanent. -/
def State.endTest (s : State) (p : Nat) (pass : Bool) : State :=
  if !s.tiles.inTest.contains p then s else
    let s0 := s.count ctTestsRun 0 1
    if pass then s0.testPassed p (if s.tiles.testFailedOnce.contains p then trTransient else trPass)
    else
      let s1 := s0.count ctTestsFailed 0 1
      if s.tiles.testFailedOnce.contains p then
        let s2 := s1.onTiles fun t => { t with
          inTest := without t.inTest p, testFailedOnce := without t.testFailedOnce p }
        let s3 := ((s2.logTest p trPermanent).event evTestFailed (tileUnit p)).permanent (tileUnit p)
        (s3.selfTested p trPermanent).startTests (ptileDie p)
      else s1.onTiles fun t => { t with testFailedOnce := addNew t.testFailedOnce p }

/-! ### Checker tests (R356, R357) -/

/-- CHECKER: zero for a pass, else the row of Table 11.6 × 256 + UNIT_KIND. -/
def checkerCode (f : Option (Nat × UnitId)) : Nat :=
  match f with
  | none => 0
  | some x => x.1 * 256 + x.2.kind

/-- A checker test's result: a failed tile checker retires its tile; another failed checker keeps slices from starting. -/
def State.checkerResult (s : State) (f : Option (Nat × UnitId)) : State :=
  let u := (f.map (·.2)).getD noUnit
  let s1 := (s.onInteg fun i => { i with checkerFail := checkerCode f }).log fltChecker u (checkerCode f)
  match f with
  | none => s1.onInteg fun i => { i with noStartCheckers := false }
  | some _ =>
    if u.kind = 1 then s1.permanent u
    else (s1.fault fltChecker u).onInteg fun i => { i with noStartCheckers := true }

end Sys2Proof.Machine
end

