-- ==== Sys2Proof/Machine/Arrive.lean ====
section
/-! DEFINITION. What every arriving packet meets before its own rule: the checks of R164, R166, R172 and R270, the flush
marker, the release of its buffer room (R167), and forwarding (R169). -/

namespace Sys2Proof.Machine

open Sys2Proof

/-- R164: a reserved field, LEN, TYPE or CLASS; and data that are not LEN bytes long. -/
def badPacket (k : Packet) : Bool :=
  k.rsv || decide (4096 < k.len) || decide (13 < k.type) || k.cls != classOf k.type || k.data.length != k.len ||
    ((k.cls == 0 || k.cls == 4) && k.phaseB)

/-- A malformed packet is counted, raised and discarded; the step it names aborts. -/
def State.badPacketAt (s : State) (port step : Nat) : State :=
  (s.count ctBadPacket 0 1).stepFault fltFabricPacket (portUnit port) (if s.sliceBusy then step else 0)

/-- Types of R270's data packets. -/
def dataType (ty : Nat) : Bool := 1 ≤ ty && ty ≤ 11 && ty != ptBufFree

/-- A packet dropped before landing by its step (R270). -/
def State.staleStep (s : State) (k : Packet) : Bool :=
  1 ≤ k.type && k.type ≤ 11 && k.stepSeq != 0 &&
    (s.aborted k.stepSeq || (dataType k.type && s.left k.stepSeq))

/-- Whether a port carries all traffic now. -/
def State.portUp (s : State) (p : Nat) : Bool :=
  (s.portX p).state == .up || (s.portX p).state == .lowPower

/-- A packet received on a port: released, checked, forwarded where it is bound further, and otherwise given to its rule.
`mine` says which packets are this row's; a malformed one is any row's. -/
def State.arrive (s0 : State) (port : Nat) (k : Packet) (mine : Packet → Bool) (rule : State → Packet → State) : State :=
  if !s0.portUp port || !s0.mainOn then s0 else
  if !badPacket k && !mine k then s0 else
  let s := s0.emit (.release port (bufferOf k) (flitPayloads k))
  if badPacket k then s.badPacketAt port (if k.type ≤ 11 then k.stepSeq else msgStep k)
  else if (s.portX port).awaitMarker then s
  else if k.sliceId != s.plan.sliceId then s.count ctForeignPacket 0 1
  else if s.staleStep k then s.count ctStaleStep port 1
  else if k.cls == 4 then rule s k
  else
    let k1 := if k.detour && !k.phaseB && k.via == s.index then { k with phaseB := true } else k
    match hopPort s.index (packetTarget k1) with
    | some q => s.sendOn (s.physOf q) k1
    | none => rule s k1

/-- A LEAD or SLICE message received: parsed, joined with the parts before it, and given to its rule (R166). -/
def State.recvMsg (s : State) (port : Nat) (k : Packet) (msg : Nat) (rule : State → Msg → State) : State :=
  let mine (x : Packet) : Bool := (x.type == ptLead || x.type == ptSlice) &&
    (match parseMsg x with
    | some m => m.msg == msg
    | none => true)
  s.arrive port k mine fun s k => match parseMsg k with
    | none => s.badPacketAt port (msgStep k)
    | some m =>
      match s.joinMsg m with
      | (s1, some whole) => rule s1 whole
      | (s1, none) => s1

end Sys2Proof.Machine
end

