-- ==== Sys2Proof/Machine/Power.lean ====
section
/-! DEFINITION. Power, caps and grid manners (chapter 10): the opcodes of group 0x05, states, windows, the clamp, operating
points, rails, and the trade of budget within a slice. -/

namespace Sys2Proof.Machine

open Sys2Proof

/-! ### Rails (R318 to R320) -/

/-- Current limit of a rail in mA: VC 0 to 15, VS 16 to 31, VX 32 to 35, VM 36, VSB 37 (Tables 10.1 and 10.12). -/
def railLimit (i : Nat) : Nat :=
  if i < 16 then 260000 else if i < 32 then 60000 else if i < 36 then 300000 else if i = 36 then 640000 else 12000

/-- Table 10.6: tile clock in 10 MHz, VC in 10 mV, S-die clock in 10 MHz, VS in 10 mV. -/
def pointRow (p : Nat) : Nat × Nat × Nat × Nat :=
  [(40, 55, 40, 60), (80, 60, 60, 62), (120, 65, 80, 65), (150, 70, 100, 68), (175, 75, 120, 72), (200, 80, 135, 75),
    (215, 84, 145, 78), (225, 88, 150, 80)].getD p (225, 88, 150, 80)

/-- The operating point of a C-die: 7 until the power manager sets another (DESIGN CHOICE, log entry 59). -/
def State.point (s : State) (c : Nat) : Nat := tgetD s.pwr.points c 7

/-- Voltage of a rail in mV. -/
def State.railMv (s : State) (i : Nat) : Nat :=
  if i < 16 then 10 * (pointRow (s.point i)).2.1 else if i < 32 then 10 * (pointRow (s.point (i - 16))).2.2.2
  else if i < 36 then 850 else if i = 36 then 1100 else 3300

def meanOf (l : List Nat) : Nat := if l.isEmpty then 0 else listSum l / l.length

/-- Mean power of a rail over the last 100 µs, in W. -/
def State.railW (s : State) (i : Nat) : Nat :=
  meanOf (tgetD s.pwr.rails i {}).samples * s.railMv i / 1000000

/-- A 50 ns sample: the stretch request follows the mean over the last 1 µs. -/
def execRailCurrentSample (rail milliamps : Nat) (s : State) : Ret :=
  .next (if rail = 37 || s.mainOn then
    let r := tgetD s.pwr.rails rail {}
    let smp := (milliamps :: r.samples).take 2000
    let mean := meanOf (smp.take 20)
    let lim := railLimit rail
    let r1 : Rail :=
      if 90 * lim ≤ 100 * mean then { samples := smp, request16 := r.request16 + 1, downTicks := 0 }
      else if 100 * mean < 85 * lim then
        if 3 ≤ r.downTicks then { samples := smp, request16 := r.request16 - 1, downTicks := 0 }
        else { samples := smp, request16 := r.request16, downTicks := r.downTicks + 1 }
      else { samples := smp, request16 := r.request16, downTicks := 0 }
    let s1 := s.onPwr fun p => { p with rails := tset p.rails rail r1 }
    if 0 < r1.request16 then s1.count ctRailHold rail 50 else s1
  else s)

/-! ### Operating points (R330 to R333) -/

/-- A change of operating point starts; until it settles the lower clock ceiling holds. -/
def State.setPoint (s : State) (c p : Nat) : State :=
  if s.point c = p then s
  else s.onPwr fun w => { w with points := tset w.points c p, settling := tset w.settling c (s.point c) }

/-- The tile clock ceiling of a C-die now, in 10 MHz. -/
def State.tileClock (s : State) (c : Nat) : Nat :=
  let now := (pointRow (s.point c)).1
  match tget s.pwr.settling c with
  | some old => min now (pointRow old).1
  | none => now

/-- The voltage of a C-die settles and the new clock applies. -/
def execOppointSettled (cdie : Nat) (s : State) : Ret :=
  .next (s.onPwr fun w => { w with settling := tdel w.settling cdie })

/-- Operator class of an opcode (R331): 0 ARRAY, 1 ATTN, 2 VECTOR, 3 MOVER. -/
def classOfOpc (o : Nat) : Nat :=
  if o = opMatmul || o = opLora then 0 else if o = opAttn then 1
  else if 0x10 ≤ o && o ≤ 0x14 then 2 else 3

/-- Key of an energy phase of a C-die: layer code and class. -/
def energyKey (c code cls : Nat) : Nat := (c * 65536 + code) * 4 + cls

/-- The classes with descriptors on a C-die in a phase. -/
def PlanObj.classesOn (p : PlanObj) (ph c : Nat) : List Nat :=
  [0, 1, 2, 3].filter fun cls => (List.range 144).any fun t =>
    (rangeFrom (p.progFirst ph (c * 144 + t)) (p.progCount ph (c * 144 + t))).any fun i =>
      classOfOpc (dOpc (p.desc i)) == cls

/-- The preferred point of a C-die in a phase: the highest preference among its classes, a class without one counting as
point 7. -/
def State.preferred (s : State) (ph c : Nat) : Nat :=
  let cs := s.plan.classesOn ph c
  if cs.isEmpty then 7
  else listMax (cs.map fun cls => tgetD s.pwr.prefs (s.plan.layerCode ph * 4 + cls) 7)

/-- The learned power of a C-die in a phase, in mW: the sum over its classes of E / T (E in µJ, T in ns). -/
def State.weightOf (s : State) (ph c : Nat) : Nat :=
  listSum ((s.plan.classesOn ph c).map fun cls =>
    let k := energyKey c (s.plan.layerCode ph) cls
    let t := tgetD s.pwr.learnT k 0
    if t = 0 then 0 else tgetD s.pwr.learnE k 0 * 1000000 / t)

/-- f × V² of a point, for scaling. -/
def pointScale (p : Nat) : Nat := (pointRow p).1 * (pointRow p).2.1 * (pointRow p).2.1

/-- The highest point at or below `top` whose power, scaled from point 7, fits a share. -/
def fittingPoint (w share : Nat) : Nat → Nat
  | 0 => 0
  | p + 1 => if w * pointScale (p + 1) ≤ share * pointScale 7 then p + 1 else fittingPoint w share p

/-- The budget shared among the C-dies at a phase entry (R332). -/
def State.shareBudget (s : State) (ph : Nat) : State :=
  let cap := s.effCap
  let other := listSum ([32, 33, 34, 35, 36, 37].map s.railW)
  let budget := (cap - other - cap * 6 / 100) * 1000
  let dies := List.range 16
  let ws := dies.map fun c => (c, s.weightOf ph c)
  let total := listSum (ws.map (·.2))
  let share (w : Nat) : Nat := if total = 0 then budget / 16 else budget * w / total
  let first := ws.map fun x => (x.1, x.2, fittingPoint x.2 (share x.2) (s.preferred ph x.1))
  let cost (w p : Nat) : Nat := w * pointScale p / pointScale 7
  let left := budget - listSum (first.map fun x => cost x.2.1 x.2.2)
  -- what is left goes to C-dies below their preferred point, heaviest first
  let order := sortBy (fun (a b : Nat × Nat × Nat) => decide (b.2.1 ≤ a.2.1)) first
  let given := order.foldl (fun (a : Nat × List (Nat × Nat)) x =>
    let p := fittingPoint x.2.1 (cost x.2.1 x.2.2 + a.1) (s.preferred ph x.1)
    let q := max p x.2.2
    (a.1 - (cost x.2.1 q - cost x.2.1 x.2.2), a.2 ++ [(x.1, q)])) (left, [])
  let s1 := given.2.foldl (fun (a : State) x => a.setPoint x.1 x.2) s
  s1.onPwr fun w => { w with budgets := ws.map fun x => (x.1, share x.2 / 1000) }

/-- After a step each learned value moves by a sixteenth towards its observation; one without history takes its first. What
was measured is a free value (log entry 60). -/
def State.learnStep (s : State) : State :=
  (List.range (s.plan.nLayers + 2)).foldl (fun (a : State) ph =>
    (List.range 16).foldl (fun (b : State) c =>
      (b.plan.classesOn ph c).foldl (fun (d : State) cls =>
        let k := energyKey c (d.plan.layerCode ph) cls
        let e := Config.unstated 11 [d.freeCtr, k]
        let t := Config.unstated 12 [d.freeCtr, k]
        let step (old : Option Nat) (new : Nat) : Nat := match old with
          | none => new
          | some v => if v ≤ new then v + (new - v) / 16 else v - (v - new) / 16
        { (d.onPwr fun w => { w with learnE := tset w.learnE k (step (tget w.learnE k) e)
                                     learnT := tset w.learnT k (step (tget w.learnT k) t) }) with
          freeCtr := d.freeCtr + 1 }) b) a) s

/-- OP_OPPOINT_SET (Table 10.7). -/
def execOpOppointSet (q : Req) (s : State) : Ret :=
  let own (s : State) (c : Cmd) : List (Bool × Nat × Nat) :=
    let n := rd 2 c.pay 0
    let ent (i : Nat) : Nat := rd 4 c.pay (8 + 4 * i)
    [(n == 0 || decide (1000 < n), stLenRange, 0x40)] ++ lenIs c (8 + 4 * n) ++
      [(rd 2 c.pay 2 != 0, stFieldRange, 0x42), (rd 4 c.pay 4 != 0, stFieldRange, 0x44)] ++
      (List.range n).flatMap fun i =>
        [(decide (s.plan.nLayers + 1 < bitsOf (ent i) 15 0), stFieldRange, 0x48 + 4 * i),
         (let p := bitsOf (ent i) 21 18; decide (8 ≤ p ∧ p ≤ 14), stFieldRange, 0x4A + 4 * i),
         (bitsOf (ent i) 31 22 != 0, stFieldRange, 0x4A + 4 * i)]
  .next (s.runOp q 0x0504 allPayloads own fun s c =>
    let set (t : Tbl Nat) (i : Nat) : Tbl Nat :=
      let e := rd 4 c.pay (8 + 4 * i)
      let k := bitsOf e 15 0 * 4 + bitsOf e 17 16
      if bitsOf e 21 18 = 15 then tdel t k else tset t k (bitsOf e 21 18)
    .done (s.onPwr fun w => { w with prefsNext := (List.range (rd 2 c.pay 0)).foldl set w.prefsNext }) stOk 0 [])

/-! ### Caps (R322 to R325) -/

/-- OP_CAP_SET's completion. -/
def State.capBytes (s : State) (achieved : Nat) : Bytes := le 2 s.effCap ++ le 2 achieved

/-- OP_CAP_SET: an immediate set of SET_POWER_CAP; its completion waits for the first compliant window, and outside S0
comes at once with ACHIEVED_W 0. -/
def execOpCapSet (q : Req) (s : State) : Ret :=
  let own (_ : State) (c : Cmd) : List (Bool × Nat × Nat) := lenIs c 4 ++
    [(decide (rd 2 c.pay 0 < 1200) || decide (5000 < rd 2 c.pay 0), stFieldRange, 0x40),
     (rd 2 c.pay 2 != 0, stFieldRange, 0x42)]
  .next (s.runOp q 0x0502 allPayloads own fun s c =>
    let s1 := s.onCfg fun g => { g with run := tset g.run setPowerCap { value := le 2 (rd 2 c.pay 0), src := 2 } }
    let s2 := s1.capChanged
    let s3 := if s2.pwr.state == .s0 then
        s2.onPwr fun p => { p with capReq := p.capReq ++ [(c.port, c.slot, s.now)] } else s2
    if s.pwr.state == .s0 then .long s3 [0x0502, c.slot] [] [] else .done s3 stOk 0 (s3.capBytes 0))

/-- The clamp's 10 µs adjustment: its request is sized from the excess over the cap or the ramp limit, by a rule the spec
does not state (a free value, log entry 60), and while it acts every C-die goes one operating point lower (DESIGN CHOICE,
log entry 59). -/
def execClampAdjust (mean10usW : Nat) (s : State) : Ret :=
  .next (if s.pwr.state != .s0 then s else
    let lim := min s.effCap s.pwr.rampLimit
    if mean10usW ≤ lim then
      s.onPwr fun p => { p with clamp := false, clamp16 := 0, clampRamp := false }
    else
      let amount := 1 + Config.unstated 10 [mean10usW, lim]
      let s1 := s.onPwr fun p => { p with
        clamp := true, clamp16 := amount, clampRamp := s.pwr.rampLimit < s.effCap
        clampSinceNs := if p.clamp then p.clampSinceNs else s.now }
      let s2 := (List.range 16).foldl (fun (a : State) c => a.setPoint c (a.point c - 1)) s1
      s2.count ctClamp 0 10000)

/-- R324's decision: the clamp has acted for 20 ms without a break and every C-die is at point 0. REACH_W is the operand;
S1 Hold is entered under R328. -/
def execCapReachDecision (reachW : Nat) (s : State) : Ret :=
  .next (if s.pwr.state == .s0 && s.pwr.clamp && s.pwr.clampSinceNs + 20000000 ≤ s.now &&
      (List.range 16).all (fun c => s.point c == 0) && s.pwr.change.isNone then
    s.onPwr fun p => { p with
      reachW := reachW, reachDue := some (10, s.effCap)
      change := some { target := .s1, from_ := none, foundNs := s.now, waitFade := false, byReach := true } }
  else s)

/-! ### States (R327 to R329) -/

def powerOf (c : Nat) : PowerState := match c with
  | 0 => .s0 | 1 => .s1 | 2 => .s2 | _ => .s3

/-- Whether Table 10.4 allows an entry now. -/
def State.stateAllowed (s : State) (t : PowerState) : Bool :=
  match t with
  | .s0 => true | .s1 => true
  | .s5 => false
  | _ => s.sliceIdle

/-- A module leaves S3 only while no leak is indicated and no sensor holds THERMTRIP_N low (R445, R446). -/
def State.exitAllowed (s : State) : Bool := s.pins.thermtripN && !s.pins.leakWet && s.pins.trayLeakN

/-- An S3 exit request: t1 of Table 13.1. -/
def State.s3Exit (s : State) : State :=
  if s.pwr.state == .s3 && s.fw.stage == 3 && s.fw.t1Ns.isNone && s.exitAllowed then
    s.onFw fun f => { f with t1Ns := some s.now }
  else s

/-- OP_POWER_STATE_SET (Table 10.5). -/
def execOpPowerStateSet (q : Req) (s : State) : Ret :=
  let own (_ : State) (c : Cmd) : List (Bool × Nat × Nat) := lenIs c 4 ++
    [(bitsOf (rd 4 c.pay 0) 31 3 != 0, stFieldRange, 0x40)]
  .next (s.runOp q 0x0501 allPayloads own fun s c =>
    let t := powerOf (rd 4 c.pay 0 % 4)
    if !s.stateAllowed t then .refuse stStateDenied 0
    else if s.pwr.change.isSome || s.sec.erasing.isSome then .refuse stBusy 0
    else
      let wait := bitOf (rd 4 c.pay 0) 2 && s.pwr.fade.isSome
      let s1 := s.onPwr fun p => { p with
        fade := if wait then p.fade else none
        change := some { target := t, from_ := some (c.port, c.slot), foundNs := s.now, waitFade := wait
                         byReach := false } }
      .long (if t != .s3 then s1.s3Exit else s1) [0x0501] [] [])

/-- The completion of OP_POWER_STATE_SET, where one asked for the change. -/
def State.endChange (s : State) (r : StateRun) : State :=
  let s1 := s.onPwr fun p => { p with change := none }
  match r.from_ with
  | some (p, i) => s1.finishAt p i stOk 0 (le 4 (powerIndex r.target) ++ le 4 ((s.now - r.foundNs) / 1000))
  | none => s1

/-- Modules in S0 again after S1 hold their ramp limit for rank × SET_STAGGER (R328, R338). -/
def State.startStagger (s : State) : State :=
  s.onPwr fun p => { p with
    stagger := some (s.now, p.windowW), rampLimit := min s.effCap (max p.windowW 1), fade := none }

/-- Entry to S3 by command or sideband (R251, R327, R410): cards with LEAVING 1, DIMMs into self-refresh, the rails off. -/
def State.enterS3 (s : State) : State :=
  let s1 := if s.sliceIdle then s.sendCards true else s
  let s2 := (s1.railsOff (s.wts.t3InService && s.pins.dimmPwrOk))
  s2.onFw fun f => { f with stage := 3, t1Ns := none }

/-- Entry to, or exit from, a power state completes, or an S3 entry that the sideband asked for and that waited: S1 once no step is in flight, and with FADE_FIRST only once the fade
has ended. -/
def execPowerStateEntered (s : State) : Ret :=
  .next (match s.pwr.change with
  | none =>
    if s.pwr.s3Deferred && s.mainOn && s.sliceIdle && s.pwr.fade.isNone then s.noteState s.enterS3 else s
  | some r =>
    if r.waitFade && s.pwr.fade.isSome || s.pwr.state == .s3 || s.fw.stage != 12 then s else
    match r.target with
    | .s1 => if s.steps.live.isEmpty then
        s.noteState (((s.onPwr fun p => { p with state := .s1, belowReach := r.byReach }).stopTests).endChange r) else s
    | .s2 => if s.sliceIdle then
        s.noteState ((((s.onPwr fun p => { p with state := .s2, belowReach := false }).evalPorts).sendCards false).endChange r)
        else s
    | .s3 => if s.sliceIdle then
        let s1 := s.enterS3
        s.noteState (match r.from_ with
        | some (.m, _) => s1.endChange r
        | _ => s1.onPwr fun p => { p with change := none }) else s
    | _ =>
      let was1 := s.pwr.state == .s1
      let s1 := s.onPwr fun p => { p with state := .s0, belowReach := false, reachDue := none }
      let s2 := if was1 then s1.startStagger else (s1.evalPorts).sendCards false
      s.noteState ((if r.byReach then s2.event evCapRestored noUnit s.effCap s.pwr.reachW else s2).endChange r))

/-! ### Windows (R321, R337 to R340) -/

/-- What a module that owes a budget report sends after its first compliant window. -/
def State.payBudget (s : State) : State :=
  let s1 := match s.pwr.owesLent with
    | some w =>
      let a := s.onPwr fun p => { p with owesLent := none }
      if s.isLead then a.onPwr fun p => { p with lentReports := p.lentReports ++ [(s.index, w)] }
      else a.sendBudget s.plan.leadIndex bkLent s.index w 0 0
    | none => s
  if s1.pwr.owesReverted then
    let a := s1.onPwr fun p => { p with owesReverted := false }
    if s.isLead then
      (a.onPwr fun p => { p with reverted := addNew p.reverted s.index }).settleRevert
    else a.sendBudget s.plan.leadIndex bkReverted s.index 0 0 0
  else s1

/-- Filler work follows the floor or the fade target (R339, R340). -/
def State.stepFiller (s : State) (meanW : Nat) : State :=
  let target := (s.fadeTarget).getD s.effFloor
  if s.pwr.state != .s0 || (s.setN setPowerFloor = 0 && s.pwr.fade.isNone) then s.onPwr fun p => { p with filler := 0 }
  else
    let n := if meanW < target then min 4 (s.pwr.filler + 1)
      else if target + 50 < meanW then s.pwr.filler - 1 else s.pwr.filler
    let s1 := if meanW < target && s.pwr.filler = 4 then s.count ctFloorShort 0 100000 else s
    let s2 := s1.onPwr fun p => { p with filler := n }
    if 0 < n then s2.count ctFiller 0 100000 else s2

/-- The end of a 100 µs window. -/
def execPowerWindowEnd (meanW vIn100mV : Nat) (s : State) : Ret :=
  .next (
    let uj := s.pwr.energyUj + meanW * 100
    let s1 := s.onPwr fun p => { p with
      windowW := meanW, windows := (meanW :: p.windows).take 10000, vIn100mV := vIn100mV
      energyMj := (p.energyMj + uj / 1000) % 2 ^ 64, energyUj := uj % 1000 }
    if s.pwr.state == .s3 || s.pwr.state == .s5 then s1 else
    let s2 := s1.onPwr fun p => { p with
      rampLimit := if p.stagger.isSome then p.rampLimit else min s.effCap (meanW + s.setN setRampUp / 10) }
    let s3 := if s.pwr.clamp && s.pwr.clampRamp then s2.count ctRampLimited 0 100000 else s2
    let s4 := s3.stepFiller meanW
    -- completions that wait for their first compliant window
    let done := s4.pwr.capReq.filter fun r => meanW ≤ s4.effCap && r.2.2 + 100000 ≤ s.now
    let s5 := s4.onPwr fun p => { p with capReq := p.capReq.filter fun r => !done.contains r }
    let s6 := done.foldl (fun (a : State) r => a.finishAt r.1 r.2.1 stOk 0 (a.capBytes meanW)) s5
    let s7 := if meanW ≤ s6.effCap then s6.payBudget else s6
    -- S1 Hold by R324
    let s8 := match s7.pwr.reachDue with
      | some (n, cap) => if s7.pwr.state != .s1 then s7
        else if n ≤ 1 then (s7.onPwr fun p => { p with reachDue := none }).fault fltCapBelowFloor noUnit
          { args := [cap, s7.pwr.reachW, meanOf (s7.pwr.windows.take 10), s7.setN setPowerCap] }
        else s7.onPwr fun p => { p with reachDue := some (n - 1, cap) }
      | none => s7
    if s8.pwr.belowReach && s8.pwr.state == .s1 && s8.pwr.change.isNone && s8.pwr.reachW + 50 ≤ s8.effCap then
      s8.onPwr fun p => { p with
        change := some { target := .s0, from_ := none, foundNs := s.now, waitFade := false, byReach := true } }
    else s8)

/-- The stagger hold ends rank × SET_STAGGER after its start. -/
def execStaggerHoldEnd (s : State) : Ret :=
  .next (match s.pwr.stagger with
  | some (t0, _) =>
    if t0 + s.plan.rank s.index * s.setN setStagger * 1000 ≤ s.now then s.onPwr fun p => { p with stagger := none } else s
  | none => s)

/-- The fade ends SET_FADE after the stop or halt; R339 applies as before. -/
def execFadeEnd (s : State) : Ret :=
  .next (match s.pwr.fade with
  | some (_, t0, ms) => if t0 + ms * 1000000 ≤ s.now then s.onPwr fun p => { p with fade := none } else s
  | none => s)

/-! ### Thermal supervisor (R326, R444, R445) -/

/-- Throttle temperature of a sensor in m°C. -/
def throttleM (i : Nat) : Int := if i < 36 then 95000 else 88000

def gaugeInt (x : Int) : Nat := (x % (2 ^ 64 : Int)).toNat

/-- A reading of every sensor, in order of DIE_TEMP instances: the limit falls by 100 W while one is above its throttle
temperature, and rises by 100 W at every tenth reading in which all are 3 °C or more below. -/
def execThermalSupervisor (temps : List Int) (s : State) : Ret :=
  .next (if !s.mainOn then s else
    let ts := indexed temps
    let s1 := ts.foldl (fun (a : State) t => a.gauge ctDieTemp t.1 (gaugeInt t.2)) s
    if ts.any (fun t => throttleM t.1 < t.2) then
      let s3 := s1.onPwr fun p => { p with thermalW := max 1200 (p.thermalW - 100), thermalCool := 0 }
      let quiet := match s.pwr.thermalEvNs with
        | some t => decide (t + 1000000000 ≤ s.now)
        | none => true
      if quiet && s3.pwr.thermalW < s.pwr.thermalW then
        (s3.onPwr fun p => { p with thermalEvNs := some s.now }).event evThermalLimit noUnit s3.pwr.thermalW
      else s3
    else if ts.all (fun t => t.2 + 3000 ≤ throttleM t.1) then
      if 9 ≤ s.pwr.thermalCool then
        s1.onPwr fun p => { p with thermalW := min 5000 (p.thermalW + 100), thermalCool := 0 }
      else s1.onPwr fun p => { p with thermalCool := p.thermalCool + 1 }
    else s1.onPwr fun p => { p with thermalCool := 0 })

/-! ### Reads (R336, R342) -/

/-- The OP_POWER_READ completion (Table 10.12); in S3 only what Shuid knows. -/
def State.powerBytes (s : State) : Bytes :=
  let low := s.pwr.state == .s3 || s.pwr.state == .s5
  let rails := (List.range 38).flatMap fun i => le 2 (if low && i != 37 then 0 else s.railW i)
  let mean := meanOf (s.pwr.windows.take 1)
  if low then le 4 3 ++ le 2 mean ++ zeros 2 ++ le 2 s.pwr.vIn100mV ++ zeros 6 ++ le 8 s.pwr.energyMj ++ rails ++ zeros 12
  else
    le 4 (powerIndex s.pwr.state + 8 * b2n s.pwr.clamp +
      16 * b2n (s.pwr.clamp && s.pwr.clampRamp && decide (s.pwr.rampLimit < s.effCap)) + 32 * b2n s.pwr.stagger.isSome +
      64 * b2n (decide (0 < s.pwr.filler)) + 128 * b2n s.pwr.fade.isSome + 256 * b2n s.pwr.belowReach) ++
    le 2 s.pwr.windowW ++ le 2 (meanOf s.pwr.windows) ++ le 2 s.pwr.vIn100mV ++ le 2 s.effCap ++
    le 2 s.pwr.rampLimit ++ le 2 ((s.fadeTarget).getD s.effFloor) ++ le 8 s.pwr.energyMj ++ rails ++
    le 2 s.pwr.reachW ++ zeros 10

/-- OP_POWER_READ. -/
def execOpPowerRead (q : Req) (s : State) : Ret :=
  .next (s.runOp q 0x0503 allPayloads noPayload fun s _ => .done s stOk 0 s.powerBytes)

/-- Mean slack of the window so far. -/
def State.meanSlack (s : State) : Nat := if s.pwr.slackSteps = 0 then 0 else s.pwr.slackSum / s.pwr.slackSteps

/-- OP_BUDGET_READ (Table 10.9). -/
def execOpBudgetRead (q : Req) (s : State) : Ret :=
  .next (s.runOp q 0x0505 allPayloads noPayload fun s _ => .done s stOk 0
    (le 2 (s.setN setPowerCap) ++ le 2 s.effCap ++ le 2 s.pwr.lent ++ le 2 s.pwr.borrowed ++
      le 4 (s.pwr.thermalW + 65536 * b2n s.pwr.paceSetter + 131072 * min 15 s.pwr.paceWindows) ++ le 4 s.pwr.slackNs ++
      le 8 (listSum ((List.range 16).map fun c => s.point c * 16 ^ c)) ++
      (List.range 16).flatMap fun c => le 2 (tgetD s.pwr.budgets c 0)))

/-! ### Budget trading (R334 to R336) -/

/-- A BUDGET message of a kind; another KIND is a bad packet (Table 10.8). -/
def State.recvBudget (s : State) (port : Nat) (k : Packet) (kind : Nat) (rule : State → Bytes → State) : State :=
  let hit (x : Packet) : Bool := match parseMsg x with
    | some m => m.msg == mBudget && m.entries.any (fun e => byteAt e 0 == kind || decide (4 < byteAt e 0))
    | none => true
  if !hit k then s else
    s.recvMsg port k mBudget fun s m => m.entries.foldl (fun (a : State) e =>
      if 4 < byteAt e 0 then a.badPacketAt port 0 else if byteAt e 0 = kind then rule a e else a) s

def bgModule (e : Bytes) : Nat := bitsOf (rd 4 e 0) 16 8

/-- The lead records a module's mean slack and step time. -/
def execBudgetSlack (port : Nat) (k : Packet) (s : State) : Ret :=
  .next (s.recvBudget port k bkSlack fun s e =>
    s.onPwr fun p => { p with slackReports := tset p.slackReports (bgModule e) (rd 4 e 12, rd 4 e 16) })

/-- The pace-setters among the reports: the lowest mean slack, or within 1% of the mean step time of it. -/
def State.paceSetters (s : State) : List Nat :=
  let low := (s.pwr.slackReports.map (·.2.1)).foldl min 0xFFFFFFFF
  (s.pwr.slackReports.filter fun r => 100 * r.2.1 ≤ 100 * low + r.2.2).map (·.1)

/-- The modules that a window makes lenders: mean slack of 5% of the mean step time or more. -/
def State.lendersDue (s : State) : List Nat :=
  (s.pwr.slackReports.filter fun r => 5 * r.2.2 ≤ 100 * r.2.1 && 0 < r.2.2).map (·.1)

/-- A module's trading cap raised by a grant; what it has lent comes back first. -/
def State.takeGrant (s : State) (w : Nat) : State :=
  s.onPwr fun p => { p with lent := p.lent - w, borrowed := p.borrowed + (w - p.lent) }

/-- When every lender has reported, the lead shares the loans equally among the pace-setters, up to their room; what finds no
room goes back to its lender by a GRANT of its own (DESIGN CHOICE, log entry 58). -/
def State.grantLoans (s : State) : State :=
  let due := s.lendersDue
  if due.isEmpty || !(due.all fun m => s.pwr.lentReports.any (fun r => r.1 == m)) then s else
    let setters := (s.paceSetters).filter fun m => !due.contains m
    let room (m : Nat) : Nat :=
      let got := listSum ((s.pwr.loans.filter (fun l => l.2.1 == m)).map (·.2.2))
      let own := s.setN setPowerCap
      5000 - min 5000 (own + got)
    let give (a : State) (dest w : Nat) : State :=
      if w = 0 then a else if dest = a.index then a.takeGrant w else a.sendBudget dest bkGrant dest w 0 0
    let s1 := s.pwr.lentReports.foldl (fun (a : State) r =>
      let share := if setters.isEmpty then 0 else r.2 / setters.length
      let parts := setters.map fun m => (m, min share (room m / s.pwr.lentReports.length))
      let lent := listSum (parts.map (·.2))
      let b := parts.foldl (fun (c : State) x => give c x.1 x.2) a
      let d := give b r.1 (r.2 - lent)
      d.onPwr fun p => { p with loans := p.loans ++ ((parts.filter (fun x => x.2 != 0)).map fun x => (r.1, x.1, x.2)) }) s
    ((s1.onPwr fun p => { p with lentReports := [], slackReports := [] }).count ctTrades 0 1).event evBudgetTrade noUnit

/-- A lender's report. -/
def execBudgetLent (port : Nat) (k : Packet) (s : State) : Ret :=
  .next (s.recvBudget port k bkLent fun s e =>
    if s.isLead then
      (s.onPwr fun p => { p with lentReports := p.lentReports ++ [(bgModule e, rd 2 e 8)] }).grantLoans
    else s)

/-- A borrower raises its trading cap; its draw then rises under R337. -/
def execBudgetGrant (port : Nat) (k : Packet) (s : State) : Ret :=
  .next (s.recvBudget port k bkGrant fun s e => s.takeGrant (rd 2 e 8))

/-- A module returns its trading cap to its own cap. A REVERT on the lead is another module's request (log entry 55). -/
def execBudgetRevert (port : Nat) (k : Packet) (s : State) : Ret :=
  .next (s.recvBudget port k bkRevert fun s _ =>
    if s.isLead then s.revertLoans
    else if 0 < s.pwr.borrowed then s.revertBorrower else s.revertLender)

/-- The lead records a borrower's revert. -/
def execBudgetReverted (port : Nat) (k : Packet) (s : State) : Ret :=
  .next (s.recvBudget port k bkReverted fun s e =>
    if s.isLead then (s.onPwr fun p => { p with reverted := addNew p.reverted (bgModule e) }).settleRevert else s)

/-- What a lender offers: the lower of 10% of its own cap and its effective cap less its highest draw less 100 W; nothing
below 20 W (R335). -/
def State.loanOffer (s : State) : Nat :=
  let peak := listMax ((chunksOf 10 s.pwr.windows).map meanOf)
  let l := min (s.setN setPowerCap / 10) (s.effCap - peak - 100)
  let l1 := min l (s.tradingCap - 1200)
  if l1 < 20 then 0 else l1

/-- The end of a window of 1,024 steps: the module's slack is reported, a lender lowers its trading cap, and the lead names
the pace-setters. Eight windows as a pace-setter with no free spare on a slow C-die raise FLT_PACE_LIMITER (R36,
R40, R334). -/
def execBudgetWindow (s : State) : Ret :=
  .next (if s.pwr.slackSteps < 1024 then s else
    let slack := s.meanSlack
    let stepNs := if s.srv.windowCount = 0 then s.plan.resNs 0 else s.srv.windowTime / s.srv.windowCount
    let s1 := s.onPwr fun p => { p with slackNs := slack, slackSum := 0, slackSteps := 0, window := p.window + 1 }
    let s2 := if s.isLead then
        s1.onPwr fun p => { p with slackReports := tset p.slackReports s.index (slack, stepNs) }
      else s1.sendBudget s.plan.leadIndex bkSlack s.index 0 slack stepNs
    let lends := s.setN setBudgetTrade == 1 && 5 * stepNs ≤ 100 * slack && 0 < stepNs && !s.pwr.reverting
    let s3 := if lends then
        let w := s2.loanOffer
        s2.onPwr fun p => { p with lent := p.lent + w, owesLent := some w } else s2
    let pace := s3.isLead && s3.paceSetters.contains s.index
    let s4 := s3.onPwr fun p => { p with
      paceSetter := pace, paceWindows := if pace then p.paceWindows + 1 else 0 }
    if s4.pwr.paceWindows = 8 && s4.tiles.causes.any (fun c => c.cause == 3) then s4.fault fltPaceLimiter else s4)

/-- A lender that has lost its lead in a hard halt takes back what it lent, no sooner than 1 ms after the halt; a borrower has
done so at once. -/
def execLenderSelfRevert (s : State) : Ret :=
  .next (if s.srv.sliceState == .haltedHard && s.srv.haltNs + 1000000 ≤ s.now && 0 < s.pwr.lent then s.revertLender else s)

end Sys2Proof.Machine
end

