-- ==== Sys2Proof/Machine/Settings.lean ====
section
/-! DEFINITION. The settings commands (R300, R301, R305 to R313): transactions, staged and immediate sets, reads, commits
and their messages, the timer, and the configuration image that OP_PERSIST writes. -/

namespace Sys2Proof.Machine

open Sys2Proof

/-! ### Checks of entries (Table 9.9) -/

/-- Bytes of a key's value, by its row. -/
def keySize (k : Nat) : Nat := (settingRow k).elim 0 SettingRow.size
def keyBlob (k : Nat) : Bool := (settingRow k).any (·.blob)

/-- LEN of an entry: its type's size, or a part of a BLOB that ends within it; in a read request 0xFFFF is the rest of the
value. The length of an unknown key's value is judged with the command's own range. -/
def entryLenBad (read : Bool) (e : SetEntry) : Bool :=
  if read && e.len == 0xFFFF then false
  else e.len == 0 || decide (4008 < e.len) ||
    ((settingRow e.key).isSome && (if keyBlob e.key then decide (keySize e.key < e.voff + e.len) && decide (e.voff < keySize e.key)
      else e.len != keySize e.key))

/-- The fields of an entry that are no lengths, each with its place. -/
def entryChecks (s : State) (write : Bool) (e : SetEntry) : List (Bool × Nat × Nat) :=
  let o := payOff e.at_
  let r := settingRow e.key
  [ (r.isNone, stFieldRange, o),
    (e.src != 0, stFieldRange, o + 6),
    (e.rsv != 0, stFieldRange, o + 6),
    (if keyBlob e.key then decide (keySize e.key ≤ e.voff) else e.voff != 0, stFieldRange, o + 8),
    (write && r.any (fun r => !r.blob && !s.valueOk r e.value), stFieldRange, o + 16) ]

/-- Entries of a command and where they end. -/
def cmdEntries (c : Cmd) (whole : Bool) : List SetEntry × Nat := entriesFrom c.pay whole (rd 2 c.pay 0) 8

/-- A value's zero padding. -/
def padBad (c : Cmd) (e : SetEntry) : Bool := !allZero (cut c.pay (e.at_ + 16 + e.len) (ceilDiv e.len 8 * 8 - e.len))

/-- Checks 5 and 6 of the commands that carry entries; `flag` says that bit 16 has a meaning. -/
def entriesOwn (flag whole : Bool) (s : State) (c : Cmd) : List (Bool × Nat × Nat) :=
  let n := rd 2 c.pay 0
  let es := cmdEntries c whole
  [ (decide (c.hdr.payloadLen < 8), stLenRange, 0x0C), (n == 0 || decide (255 < n), stLenRange, payOff 0) ] ++
  es.1.map (fun e => (entryLenBad (!whole) e, stLenRange, payOff (e.at_ + 4))) ++
  [ (c.hdr.payloadLen != es.2, stLenRange, 0x0C),
    (bitsOf (rd 4 c.pay 0) 31 (if flag then 17 else 16) != 0, stFieldRange, payOff 2),
    (rd 4 c.pay 4 != 0, stFieldRange, payOff 4) ] ++
  es.1.flatMap (entryChecks s whole) ++
  (if whole then es.1.map (fun e => (padBad c e, stFieldRange, payOff (e.at_ + 16 + e.len))) else [])

/-! ### Transactions -/

/-- The open transaction that an id names; 0 names none (R305). -/
def State.txn? (s : State) (id : Nat) : Option Txn :=
  if id = 0 then none
  else if s.cfg.txnModule.any (fun t => t.id == id) then s.cfg.txnModule
  else if s.cfg.txnSlice.any (fun t => t.id == id) then s.cfg.txnSlice else none

def State.putTxn (s : State) (t : Txn) : State :=
  s.onCfg fun c => if t.slice then { c with txnSlice := some t } else { c with txnModule := some t }

/-- An entry laid over what a value is now. -/
def layEntry (now : Bytes) (e : SetEntry) : Bytes := overlay now e.voff e.value

/-- The values that a command's entries leave, in command order, over what is staged or else runs. -/
def State.layEntries (s : State) (staged : Tbl Bytes) (es : List SetEntry) : Tbl Bytes :=
  es.foldl (fun (t : Tbl Bytes) e => tset t e.key (layEntry ((tget t e.key).getD (s.setting e.key)) e)) staged

/-- The first BLOB entry whose key's whole value would break its range: the command's last entry for that key. -/
def State.blobBad (s : State) (staged : Tbl Bytes) (es : List SetEntry) : Option SetEntry :=
  let t := s.layEntries staged es
  let bad := es.filter fun e => (settingRow e.key).any fun r => r.blob && !s.valueOk r ((tget t e.key).getD [])
  match bad with
  | [] => none
  | e :: _ => (es.reverse).find? (fun x => x.key == e.key)

/-- Whether a key may be staged in a scope. -/
def keyScope (k : Nat) (slice : Bool) : Bool := (settingRow k).any (fun r => r.slice == slice)

/-- An immediate set: the running values change at once, and no generation moves. -/
def State.setNow (s : State) (t : Tbl Bytes) : State :=
  let old := s.cfg.run
  let put (r : Tbl SetVal) : Tbl SetVal := t.foldl (fun a e => tset a e.1 { value := e.2, src := 2 }) r
  (s.onCfg fun c => { c with run := put c.run, prevRun := put c.prevRun }).afterSet old (tkeys t)

/-- What staging a command's entries into a transaction comes to; the refusals of R306, R305 and R307, and ST_BUSY while
the transaction's COMMIT holds it. -/
def State.stageInto (s : State) (c : Cmd) (t : Txn) (es : List SetEntry) (op : Nat) (k : State → Act) : Act :=
  if t.port != c.port then .refuse stPortDenied 0 else
  match es.find? (fun e => !keyScope e.key t.slice) with
  | some e => .refuse stFieldRange (payOff e.at_)
  | none => match s.blobBad t.staged es with
    | some e => .refuse stFieldRange (payOff (e.at_ + 16))
    | none => s.objAct op (objTxn t.id) (k (s.putTxn { t with staged := s.layEntries t.staged es, timerNs := s.now }))

/-- The bytes that a read entry returns of a value. -/
def readPart (e : SetEntry) (v : Bytes) : Bytes := if e.len = 0xFFFF then v.drop e.voff else cut v e.voff e.len

/-- A read completion. -/
def readBytes (xs : List (SetEntry × Nat × Bytes)) : Bytes :=
  le 2 xs.length ++ zeros 6 ++ xs.flatMap fun x => entryBytes x.1.key x.2.1 x.1.voff (readPart x.1 x.2.2)

def State.srcOf (s : State) (k : Nat) : Nat := (tget s.cfg.run k).elim 0 SetVal.src

/-- OP_BEGIN: a transaction of a scope opens with a drawn id (R305, R306). -/
def execOpBegin (q : Req) (s : State) : Ret :=
  .next (s.runOp q 0x0101 allPayloads (fun _ c =>
    let ms := rd 4 c.pay 4
    lenIs c 8 ++ [(decide (1 < rd 4 c.pay 0), stFieldRange, payOff 0),
      (ms != 0 && (decide (ms < 100) || decide (600000 < ms)), stFieldRange, payOff 4)])
    fun s c =>
      let slice := rd 4 c.pay 0 == 1
      if (if slice then s.cfg.txnSlice else s.cfg.txnModule).isSome then .refuse stTxnBusy 0 else
        let id := s.draw 0xFFFFFFFE + 1
        let ms := rd 4 c.pay 4
        let t : Txn :=
          { id := id, slice := slice, port := c.port, timeoutMs := if ms = 0 then s.setN setTxnTimeout else ms
            timerNs := s.now, base := s.cfg.run, baseGen := s.cfg.gen, staged := [] }
        .done (((s.drawn).putTxn t).setTxnField c.port c.slot id) stOk 0 (le 4 id ++ le 4 s.cfg.gen))

/-- OP_STAGE: entries staged into a transaction, or set at once where none is named (R307, R308). -/
def execOpStage (q : Req) (s : State) : Ret :=
  .next (s.runOp q 0x0102 allPayloads (entriesOwn false true) fun s c =>
    let es := (cmdEntries c true).1
    if c.hdr.txnId = 0 then
      match es.find? (fun e => (settingRow e.key).any (·.txn)) with
      | some e => .refuse stStateDenied (payOff e.at_)
      | none => match s.blobBad [] es with
        | some e => .refuse stFieldRange (payOff (e.at_ + 16))
        | none => .done (s.setNow (s.layEntries [] es)) stOk 0 []
    else match s.txn? c.hdr.txnId.toNat with
      | none => .refuse stTxnExpired 0x08
      | some t => s.stageInto c t es 0x0102 fun s1 => .done s1 stOk 0 [])

/-- OP_READ: running values, or staged ones where a transaction has them (R309). -/
def execOpRead (q : Req) (s : State) : Ret :=
  .next (s.runOp q 0x0103 allPayloads (fun s c => entriesOwn true false s c ++
      [(bitOf (rd 4 c.pay 0) 16 && c.hdr.txnId == 0, stFieldRange, payOff 0)]) fun s c =>
    let es := (cmdEntries c false).1
    let staged := bitOf (rd 4 c.pay 0) 16
    let t := s.txn? c.hdr.txnId.toNat
    if staged && t.any (fun t => t.port != c.port) then .refuse stPortDenied 0 else
      let val (e : SetEntry) : SetEntry × Nat × Bytes :=
        match (if staged then t.bind (fun t => tget t.staged e.key) else none) with
        | some v => (e, 3, v)
        | none => (e, s.srcOf e.key, s.setting e.key)
      let out := readBytes (es.map val)
      if 4032 < out.length then .refuse stLenRange (payOff 0) else
        .done (match t with
          | some t => s.putTxn { t with timerNs := s.now }
          | none => s) stOk 0 out)

/-- OP_FACTORY_VIEW: factory defaults, staged as well where the command asks for it (R313). -/
def execOpFactoryView (q : Req) (s : State) : Ret :=
  .next (s.runOp q 0x0107 allPayloads (fun s c => entriesOwn true false s c ++
      [(bitOf (rd 4 c.pay 0) 16 && c.hdr.txnId == 0, stFieldRange, payOff 0)]) fun s c =>
    let es := (cmdEntries c false).1
    let dflt (e : SetEntry) : Bytes := (settingRow e.key).elim [] SettingRow.factory
    let out := readBytes (es.map fun e => (e, 0, dflt e))
    if 4032 < out.length then .refuse stLenRange (payOff 0) else
    if !bitOf (rd 4 c.pay 0) 16 then .done s stOk 0 out else
      let o := (opInfo 0x0102).getD ⟨0, 0, 0, false, false⟩
      if !s.portAllowed o c.port then .refuse stPortDenied 0x02
      else if !s.opState o c.port (rd 4 c.pay 0) then .refuse stStateDenied 0x02 else
      match s.txn? c.hdr.txnId.toNat with
      | none => .refuse stTxnExpired 0x08
      | some t => s.stageInto c t (es.map fun e => { e with value := readPart e (dflt e) }) 0x0107 fun s1 =>
          .done s1 stOk 0 out)

/-! ### COMMIT -/

/-- Why this module refuses to prepare a set (R310). -/
def State.prepareStatus (s : State) (staged : Tbl Bytes) : Nat :=
  if !s.roomFor staged then stNoSpace else if s.cfg.persist.isSome then stBusy else stOk

/-- The commit in course ends unprepared; its transaction stays open. -/
def State.failCommit (s : State) (r : CommitRun) (st : Nat) : State :=
  (s.onCfg fun c => { c with commit := none, prepared := none }).finishAt r.port r.slot st 0 []

/-- Whether a commit goes through the lead's next composition. -/
def State.commitWaits (s : State) : Bool := s.sliceRunning

/-- Once every module concerned has prepared: PROGRESS 32,768, and, where no slice runs, the commit at once (R310). -/
def State.commitReady (s : State) : State :=
  match s.cfg.commit with
  | none => s
  | some r =>
    if r.assigned.isSome || !(s.concerned r.txn).all (fun m => r.prepared.contains m) then s else
      let s1 := if (s.runningAt r.port r.slot).isSome && (s.slot r.port r.slot).progress < 32768 then
        s.interim r.port r.slot 32768 true else s
      if s1.commitWaits then s1 else s1.assignCommits 0

/-- The prepare step begun: the lead sends a slice-scope set to every module; this module judges it for itself; and a
module of a running slice that is not the lead tells the lead of its prepared module-scope set (DESIGN CHOICE, log entry
61). -/
def State.prepareCommit (s : State) : State :=
  match s.cfg.commit with
  | none => s
  | some r =>
    if r.assigned.isSome || r.prepared.contains s.index then s else
      let st := s.prepareStatus r.txn.staged
      if st ≠ stOk then s.failCommit r st else
        let s1 := if r.txn.slice then
          s.sendAll mTxnStage 0 0 (txnStageUnits r.txn.id 1 r.txn.baseGen r.txn.staged) else s
        let s2 := s1.onCfg fun c => { c with commit := some { r with prepared := addNew r.prepared s.index } }
        let s3 := if !r.txn.slice && s.commitWaits && !s.isLead then
          s2.sendLead mTxnReply 0 0 [txnReplyBytes r.txn.id stOk false s.cfg.gen] else s2
        s3.commitReady

/-- OP_COMMIT: the check, the prepare step, and the apply step where no slice runs (R310). -/
def execOpCommit (q : Req) (s : State) : Ret :=
  .next (s.runOpThen q 0x0104 allPayloads noPayload (fun s c =>
    match s.txn? c.hdr.txnId.toNat with
    | none => .refuse stTxnExpired 0x08
    | some t =>
      if t.port != c.port then .refuse stPortDenied 0
      else if s.cfg.commit.isSome then .wait
      else if (tkeys t.staged).any (fun k => runValue t.base k != s.setting k) then .refuse stTxnConflict 0
      else s.objAct 0x0104 (objTxn t.id) (.long (s.onCfg fun g =>
        { g with commit := some { txn := t, port := c.port, slot := c.slot, prepared := [], assigned := none
                                  firstStep := 0, applied := [] } }) (objTxn t.id) [] [])) State.prepareCommit)

/-- OP_ROLLBACK: a transaction's staged values discarded, from port H or M (R306, R311). -/
def execOpRollback (q : Req) (s : State) : Ret :=
  .next (s.runOp q 0x0105 allPayloads noPayload fun s c =>
    match s.txn? c.hdr.txnId.toNat with
    | none => .refuse stTxnExpired 0x08
    | some t => s.objAct 0x0105 (objTxn t.id) (.done (s.dropTxn t.slice) stOk 0 []))

/-- TXN_TIMEOUT: the timer of a transaction has run out: it rolls back. While its COMMIT is in course the commit goes on
(DEDUCED, log entry 63). -/
def execTxnTimeout (sliceScope : Bool) (s : State) : Ret :=
  .next (match (if sliceScope then s.cfg.txnSlice else s.cfg.txnModule) with
    | none => s
    | some t =>
      if s.now < t.timerNs + t.timeoutMs * 1000000 || s.cfg.commit.any (fun r => r.txn.id == t.id) then s
      else s.dropTxn sliceScope)

/-! ### The messages of a commit (Table 5.12) -/

/-- A set that a TXN_STAGE carries: its units after the first two as entries. -/
def stagedOf (m : Msg) : Tbl Bytes :=
  let b := (m.entries.drop 2).flatMap id
  (entriesAll b (m.entries.length) 0).foldl (fun (t : Tbl Bytes) e => tset t e.key (layEntry ((tget t e.key).getD []) e)) []

/-- Each key's SRC in a TXN_STAGE (slice start). -/
def stagedSrc (m : Msg) : List (Nat × Nat) :=
  (entriesAll ((m.entries.drop 2).flatMap id) m.entries.length 0).map fun e => (e.key, e.src)

def txnIdOf (m : Msg) : Nat := rd 4 (m.entries.headD []) 0
def txnScopeOf (m : Msg) : Nat := rd 4 (m.entries.headD []) 4
def txnBaseOf (m : Msg) : Nat := rd 4 (m.entries.getD 1 []) 0
def txnAssignedOf (m : Msg) : Nat := rd 4 (m.entries.getD 1 []) 4

/-- A prepared set applied under the generation that the lead assigned, and the answer; a commit of another module moves
the generation alone. An apply message that names the generation before, on a module whose slice has halted, takes the
module back to it (R311, log entry 49). -/
def State.applyTxn (s : State) (m : Msg) : State :=
  let id := txnIdOf m
  let g := txnAssignedOf m
  if s.srv.sliceState == .haltedHard && g == s.cfg.prevGen then
    s.onCfg fun c => { c with gen := c.prevGen, run := c.prevRun, prepared := none }
  else
    let own := s.cfg.commit.filter fun r => r.txn.id == id
    let s1 := match own, s.cfg.prepared with
      | some r, _ => s.takeSet r.txn.staged g
      | none, some p => if p.txn = id then (s.takeSet p.staged g).onCfg fun c => { c with prepared := none } else s.takeSet [] g
      | none, none => s.takeSet [] g
    let s2 := s1.sendLead mTxnReply 0 m.step [txnReplyBytes id stOk true g]
    match own with
    | some r => s2.endCommit { r with assigned := some g, firstStep := m.step }
    | none => s2

/-- TXN_APPLY: the apply message of R310, a TXN_STAGE without entries. -/
def execTxnApply (port : Nat) (k : Packet) (s : State) : Ret :=
  .next (s.recvMsg port k mTxnStage fun s m =>
    if m.entries.length != 2 || m.src != s.plan.leadIndex then s else s.applyTxn m)

/-- A TXN_REPLY on the lead: a module's answer to the prepare or the apply step, or the news of a module-scope commit on a
running slice (log entry 61). -/
def State.txnReplied (s : State) (src : Nat) (b : Bytes) : State :=
  let id := rd 4 b 0
  let st := rd 2 b 4
  let applied := bitOf (rd 2 b 6) 0
  match s.cfg.commit.filter (fun r => r.txn.id == id) with
  | some r =>
    if applied then
      let q := { r with applied := addNew r.applied src }
      let s1 := s.onCfg fun c => { c with commit := some q }
      if q.assigned.isSome && (s.concerned r.txn).all (fun m => q.applied.contains m) then s1.endCommit q else s1
    else if st ≠ stOk then s.failCommit r st
    else (s.onCfg fun c => { c with commit := some { r with prepared := addNew r.prepared src } }).commitReady
  | none =>
    if applied || st ≠ stOk || id = 0 then s
    else s.onCfg fun c => { c with waiting := c.waiting ++ [(src, id)] }

/-! ### The configuration image (R312, R314) -/

/-- Whether image B is the newer one. -/
def Cfg.newerB (c : Cfg) : Bool := c.imageB.valid && (!c.imageA.valid || decide (c.imageA.gen < c.imageB.gen))

def Cfg.newer (c : Cfg) : CfgImage := if c.newerB then c.imageB else c.imageA

/-- The generation that the next image has: one above the newer copy's. -/
def Cfg.nextImage (c : Cfg) : Nat := (if c.newer.valid then c.newer.gen else 0) + 1

/-- The whole running configuration and the entries of unknown keys, written into the older copy. -/
def State.writeConfig (s : State) : State :=
  let all : Tbl Bytes := settings.foldl (fun (t : Tbl Bytes) r => tset t r.key (s.setting r.key)) s.cfg.unknown
  let img : CfgImage := { valid := true, format := s.cfgFormat, gen := s.cfg.nextImage, entries := all }
  s.onCfg fun c => if c.newerB then { c with imageA := img } else { c with imageB := img }

/-- OP_PERSIST: long work that ends when every module asked has written (R312, R422). -/
def execOpPersist (q : Req) (s : State) : Ret :=
  .next (s.runOp q 0x0106 allPayloads (fun _ c =>
    lenIs c 4 ++ [(decide (1 < rd 4 c.pay 0), stFieldRange, payOff 0)]) fun s c =>
    if s.cfg.migrated && s.fw.trialBank.isSome then .refuse stStateDenied 0
    else if s.cfg.commit.isSome || s.cfg.persist.isSome then .refuse stBusy 0
    else .long (s.onCfg fun g => { g with persist := some { port := c.port, slot := c.slot, slice := rd 4 c.pay 0 == 1 } })
      objConfig [] [])

/-- PERSIST_DONE: the configuration is in flash, here and, with SLICE 1, on every module of the slice (log entry 64). -/
def execPersistDone (s : State) : Ret :=
  .next (match s.cfg.persist with
    | none => s
    | some r =>
      let g := s.cfg.nextImage
      ((s.writeConfig).onCfg fun c => { c with persist := none }).finishAt r.port r.slot stOk 0 (le 4 g))

end Sys2Proof.Machine
end

