-- ==== Sys2Proof/Machine/SliceStart.lean ====
section
/-! DEFINITION. Slice start (R122, R171, R250, R270, R274, R304, R316, R328, R338, R408): the lead's checks, what each module
does at the start, its reports, the barrier, the hole table, and the lead's decision. -/

namespace Sys2Proof.Machine

open Sys2Proof

/-! ### Whether a module may start -/

/-- Basrel cores in service, of 64 (R368). -/
def State.coresUp (s : State) : Nat :=
  ((List.range 64).filter fun i => s.unitState ⟨5, i⟩ == usGood).length

/-- Logical tiles that the plan uses and no physical tile serves (R40). -/
def State.depletedUsed (s : State) : Bool := s.tiles.depleted.any fun l => tileIn l < s.plan.tilesUsed (tileDie l)

/-- What refuses a start on this module alone: weights (R250), failed checkers (R357), cores, developers and X-die blocks
out of service (R364), units that failed at start-up (R401), depleted tiles (R40), a lost plan object (R347), and a power state other than S0 (R328). -/
def State.mayStart (s : State) : Bool :=
  s.wts.curGen != 0 && s.allVerified s.wts.curGen && !s.integ.noStartCheckers && 56 ≤ s.coresUp &&
    ((List.range 4).all fun i => s.unitState ⟨6, i⟩ != usRetired) &&
    ((List.range 16).all fun i => s.unitState ⟨8, i⟩ != usRetired) && !s.depletedUsed &&
    s.srv.noStart.isEmpty && s.fw.stageFailed.isEmpty && s.fw.stage == 12 && s.pwr.state == .s0 && s.pwr.change.isNone

/-- Room in T2 for the page counts that take effect at a slice start (R310). -/
def State.startRoom (s : State) : Bool :=
  s.roomFor ([setCachePages, setStorePages] ++ (if s.isLead then [setCsNodes] else []) |>.map fun k => (k, s.setting k))

/-! ### What a module does at the start -/

/-- KIND 2: a flush marker with the slice's id (R270). -/
def markerBytes (slice : Nat) : Bytes := le 1 2 ++ zeros 3 ++ le 2 slice ++ zeros 10

/-- Step numbers, channels, dispatch records, cache and page tables as a start leaves them (R52, R121, R176, R270), and
the settings that a start brings into effect (R316, R317). -/
def State.clearRun (s : State) : State :=
  let s1 := (s.onSteps fun x => { ({} : Steps) with lastGen := x.lastGen }).zeroTables
  let s2 := s1.onKv fun k => { k with
    moves := [], commits := [], slotRefs := [], nodes := []
    csEnable := s.setN setCsEnable == 1, csNodes := s.setN setCsNodes }
  let s3 := s2.onSrv fun v => { v with
    interLimit := s.setN setInterLimit, logits := [], prefillRun := 0, deficits := [], reports := [], windowStall := 0, windowTime := 0, windowCount := 0
    causeShares := [], lost := [], downReports := []
    sessions := v.sessions.map fun e => (e.1, if e.2.state == .paused then { e.2 with heldBy := [] }
      else { e.2.unprefilled with heldBy := [] }) }
  let s4 := s3.onTiles fun t => { t with
    x := [], chans := [], full := [], a8Rows := [], reserveMet := [], shadowPending := [] }
  let s5 := s4.onFab fun f => { f with
    cache := [], cachePages := s.setN setCachePages, disp := [], colls := [], routes := [], reads := []
    redBusy := [], collRoom := [] }
  s5.onAdp fun a => { a with storePages := s.setN setStorePages }

/-- Flush markers on every connected port, whose packets are discarded until the neighbour's marker has come. -/
def State.sendMarkers (s : State) : State :=
  (allPorts.filter s.portUp).foldl (fun a p =>
    (a.emit (.linkPacket p (linkPacketOf (markerBytes s.plan.sliceId)))).modPort p fun x =>
      { x with awaitMarker := !x.markerIn, markerIn := false }) s

/-- START_INFO entries of a module: each KV group, and each physical port (Table 5.12). -/
def State.startInfo (s : State) : List Bytes :=
  (indexed s.plan.groups).map (fun g =>
    let q := (s.plan.pools g.1).headD ⟨0, 0, 0, 0, false, 0⟩
    le 4 (1 + g.1 * 256 + b2n q.k4 * 2 ^ 16 + (q.dim / 128) * 2 ^ 17) ++ le 2 (grSessions g.2) ++ le 2 0 ++
      le 4 (grChunks g.2) ++ le 4 q.slots) ++
  allPorts.map fun p => le 4 (2 + p * 256 + s.logicalOf p * 2 ^ 11 + (s.portX p).outcome.code * 2 ^ 14) ++ zeros 12

/-- What a START_INFO entry of KIND 1 or 2 adds to the lead's record. -/
def StartRun.note (r : StartRun) (m : Nat) (b : Bytes) : StartRun :=
  let w := rd 4 b 0
  if w % 256 = 1 then
    { r with kv := r.kv ++ [(m * 8 + bitsOf w 15 8, [bitsOf w 18 16, rd 2 b 4, rd 2 b 8, rd 4 b 12 % 2 ^ 24])] }
  else if w % 256 = 2 then
    { r with ports := r.ports ++ [(m, bitsOf w 10 8 + 8 * bitsOf w 13 11, bitsOf w 17 14)] }
  else r

/-! ### The lead's decision -/

def outMatched (code : Nat) : Bool := code == 2 || code == 3

/-- Whether a module's entry of a logical port has EXPECTED 1: its own plan's word on this module; elsewhere the port leads
to a module of the slice (DEDUCED, log entry 62). -/
def State.expectedPort (s : State) (m q : Nat) : Bool :=
  if m = s.index then nbExpected (s.plan.neighbour q)
  else
    let inside := match q with
      | 0 => s.plan.rect.x < coordX m
      | 1 => coordX m + 1 < s.plan.rect.x + s.plan.rect.dx
      | 2 => s.plan.rect.y < coordY m
      | 3 => coordY m + 1 < s.plan.rect.y + s.plan.rect.dy
      | 4 => s.plan.rect.z < coordZ m
      | _ => coordZ m + 1 < s.plan.rect.z + s.plan.rect.dz
    inside

/-- Whether a module's entry of a logical port has OPTIONAL 1: no message carries another module's entry, so the lead's
knowledge of it is left open (log entry 62). -/
def State.optionalPort (s : State) (m q : Nat) : Bool :=
  if m = s.index then nbOptional (s.plan.neighbour q) else Config.unstated 21 [s.plan.planGen, m, q] % 2 == 1

/-- R408 for one report. -/
def State.portStarts (s : State) (r : Nat × Nat × Nat) : Bool :=
  let q := r.2.1 / 8
  outMatched r.2.2 || r.2.2 == 1 || ((r.2.2 == 6 || r.2.2 == 9) && !s.expectedPort r.1 q) || s.optionalPort r.1 q

/-- The first failing report, by module and physical port. -/
def State.portFails (s : State) (r : StartRun) : Option Nat :=
  match (r.ports.filter fun x => !s.portStarts x).map (fun x => x.1 * 8 + x.2.1 % 8) with
  | [] => none
  | a :: l => some (l.foldl min a)

/-- R122: every group's numbers agree between the modules. -/
def StartRun.kvAgree (r : StartRun) : Bool :=
  r.kv.all fun a => r.kv.all fun b => a.1 % 8 != b.1 % 8 || a.2 == b.2

/-- Links of the slice that are missing, seen from both ends. -/
def State.missingLinks (s : State) (r : StartRun) : List (Nat × Nat) :=
  let one := (r.ports.filter fun x => !outMatched x.2.2 && s.expectedPort x.1 (x.2.1 / 8)).map fun x => (x.1, x.2.1 / 8)
  one ++ one.map farEnd

def avoids (missing : List (Nat × Nat)) (a t : Nat) : Bool := (route a t).all fun l => !missing.contains l

/-- Whether a module's planned way to a destination crosses a missing link. -/
def State.wayBroken (s : State) (missing : List (Nat × Nat)) (m d : Nat) : Bool :=
  let e := ((s.plan.sec secRouting).find? (fun e => fld e 0 8 0 == d)).getD []
  if fld e 0 9 9 = 1 then !(avoids missing m (fld e 4 8 0) && avoids missing (fld e 4 8 0) d) else !avoids missing m d

/-- The entries that R171 replaces, each with its VIA, none where no VIA serves. -/
def State.holes (s : State) (missing : List (Nat × Nat)) : List (Nat × Option Nat) :=
  let ms := s.plan.modules
  (ms.filter fun d => ms.any fun m => m != d && s.wayBroken missing m d).map fun d =>
    (d, ms.find? fun v => ms.all fun m => m == d || (avoids missing m v && avoids missing v d))

def clampTo (lo n x : Nat) : Nat := max lo (min (lo + n - 1) x)

/-- An MCAST descriptor's rectangle, and the entry module of a sender (R179). -/
def mcRect (d : List Nat) : Rect :=
  { x := fld d 0x50 7 0, y := fld d 0x50 15 8, z := fld d 0x50 23 16
    dx := fld d 0x54 7 0, dy := fld d 0x54 15 8, dz := fld d 0x54 23 16 }
def Rect.entry (r : Rect) (m : Nat) : Nat :=
  moduleAt (clampTo r.x r.dx (coordX m)) (clampTo r.y r.dy (coordY m)) (clampTo r.z r.dz (coordZ m))

/-- R171: a multicast rectangle that contains a missing link, or whose entry module the sender cannot reach without one. -/
def State.mcastBroken (s : State) (missing : List (Nat × Nat)) : Bool :=
  ((s.plan.sec secDesc).filter fun d => dOpc d == opMcastOpc).any fun d =>
    let r := mcRect d
    missing.any (fun l => r.has l.1 && r.has (behindPort l.1 l.2)) || !avoids missing s.index (r.entry s.index)

/-- A STEP_ABORT that names no fault: the slice stops before that step (DESIGN CHOICE, log entry 47). -/
def State.tellStop (s : State) : State :=
  s.sendAll mStepAbort 0 0 [abortBytes (s.steps.composed + 1) 0 s.index]

/-- A start that fails: the slice is STOPPED again, on every module. -/
def State.failStart (s : State) (st det : Nat) : State :=
  match s.srv.start with
  | none => s
  | some r =>
    ((s.onSrv fun v => { v with start := none, sliceState := .stopped }).tellStop).finishAt r.port r.slot st det []

/-- The lowest LINK_MINOR among the modules as far as cards tell the lead (R405). -/
def State.lowestMinor (s : State) : Nat :=
  (allPorts.filterMap fun p => (s.portX p).card.map cdMinor).foldl min s.linkMinor

/-- A hole table entry (Table 2.23, in the 16 bytes of Table 5.12). -/
def holeBytes (d via : Nat) : Bytes := le 4 (d + 512) ++ le 4 via ++ zeros 8

/-- Serving begins: the hole table, with which every module learns that the slice runs (DESIGN CHOICE, log entry 66), the
stagger, and the end of the command. -/
def State.beginServing (s : State) (r : StartRun) (holes : List (Nat × Nat)) (anyMissing : Bool) : State :=
  let s1 := (s.onFab fun f => { f with routes := holes.map (fun h => (h.1, (true, h.2))), minor := s.lowestMinor })
  let s2 := s1.sendAll mHoleTable 0 0 (holes.map fun h => holeBytes h.1 h.2)
  let s3 := (s2.onSrv fun v => { v with start := none, sliceState := .running }).startStagger
  let s4 := if anyMissing then s3.event evRouteReplanned noUnit holes.length else s3
  s4.finishAt r.port r.slot stOk 0 []

/-- Everything the lead waits for is in. -/
def State.startIn (s : State) (r : StartRun) : Bool :=
  s.sliceModules.all fun m => r.cleared.contains m && decide (6 ≤ (r.ports.filter (fun x => x.1 == m)).length)

/-- The decision once every module has reported (R408, R122, R171). -/
def State.decideStart (s : State) : State :=
  match s.srv.start with
  | none => s
  | some r =>
    if !s.startIn r then s else
    match s.portFails r with
    | some d => s.failStart stStateDenied d
    | none =>
      if !r.kvAgree then s.failStart stFieldRange 0 else
        let missing := s.missingLinks r
        let holes := s.holes missing
        if holes.any (fun h => h.2.isNone) || s.mcastBroken missing then s.failStart stFieldRange 0
        else s.beginServing r (holes.filterMap fun h => h.2.map fun v => (h.1, v)) (!missing.isEmpty)

/-- The barrier is done on this module: its reports (R270, R122, R408). -/
def State.barrierDone (s : State) : State :=
  if s.srv.sliceState != .starting || allPorts.any (fun p => (s.portX p).awaitMarker) then s else
    if s.isLead then
      (s.onSrv fun v => { v with start := v.start.map fun r =>
        { (s.startInfo.foldl (fun a b => a.note s.index b) r) with cleared := addNew r.cleared s.index } }).decideStart
    else
      (s.sendLead mStartInfo 0 0 s.startInfo).sendLead mClear 0 0 []

/-- What every module does when the start reaches it. -/
def State.prepareRun (s : State) : State :=
  ((s.clearRun.onSrv fun v => { v with sliceState := .starting }).sendMarkers).barrierDone

/-! ### The commands -/

/-- OP_SLICE_START on the lead: the checks that need no other module, then the start on every module. The lead's running
slice-scope settings go out in a TXN_STAGE with TXN_ID 0, with the weights and plan generations in its second unit (DESIGN
CHOICE, log entry 61). -/
def execOpSliceStart (q : Req) (s : State) : Ret :=
  let t := s.runOp q 0x0401 allPayloads noPayload fun s c =>
    if s.sec.erasing.isSome then .refuse stBusy 0
    else if s.sliceBusy || !s.mayStart then .refuse stStateDenied 0
    else if !s.startRoom then .refuse stNoSpace 0
    else
      let s1 := s.onCfg fun g => { g with gen := 1, prevGen := 1, prevRun := g.run }
      let keys := (settings.filter (·.slice)).map (·.key)
      let s2 := s1.sendAll mTxnStage 0 0 (txnHead 0 1 s.wts.curGen s.plan.planGen ++
        keys.flatMap fun k => units (entryBytes k (s.srcOf k) 0 (s.setting k)))
      let s3 := s2.onSrv fun v => { v with
        start := some { port := c.port, slot := c.slot, kv := [], ports := [], cleared := [] }, drain := none }
      .long (s3.clearRun.onSrv fun v => { v with sliceState := .starting }) [0x0401] [] []
  .next (s.noteState (if t.srv.start.isSome && s.srv.start.isNone then (t.sendMarkers).barrierDone else t))

/-- A slice start reaches a module: it refuses with ST_STATE_DENIED where it may not start, or holds another plan or weights
generation than the lead; with ST_NO_SPACE where it has no room; otherwise it takes the lead's slice-scope values with their
SRC, its generation is 1, and it prepares (R250, R274, R310, R316). -/
def State.joinStart (s : State) (m : Msg) : State :=
  let no (st : Nat) : State := s.sendLead mTxnReply 0 0 [txnReplyBytes 0 st false s.cfg.gen]
  if s.sliceBusy || !s.mayStart || txnBaseOf m != s.wts.curGen || txnAssignedOf m != s.plan.planGen then no stStateDenied
  else
    let vals := stagedOf m
    let src (k : Nat) : Nat := ((stagedSrc m).find? (fun e => e.1 == k)).elim 0 (·.2)
    let run := vals.foldl (fun (t : Tbl SetVal) e => tset t e.1 { value := e.2, src := src e.1 }) s.cfg.run
    let s1 := s.onCfg fun c => { c with run := run, gen := 1, prevGen := 1, prevRun := run }
    if !s1.startRoom then s1.sendLead mTxnReply 0 0 [txnReplyBytes 0 stNoSpace false 1] else s1.prepareRun

/-- TXN_STAGE: a set to prepare, answered by TXN_REPLY, or the lead's settings at a slice start. -/
def execTxnStage (port : Nat) (k : Packet) (s : State) : Ret :=
  .next (s.noteState (s.recvMsg port k mTxnStage fun s m =>
    if m.entries.length ≤ 2 || m.src != s.plan.leadIndex then s
    else if txnIdOf m = 0 then s.joinStart m
    else
      let set := stagedOf m
      let st := s.prepareStatus set
      let s1 := if st = stOk then s.onCfg fun c => { c with
        prepared := some { txn := txnIdOf m, slice := txnScopeOf m == 1, baseGen := txnBaseOf m, staged := set } } else s
      s1.sendLead mTxnReply 0 0 [txnReplyBytes (txnIdOf m) st false s.cfg.gen]))

/-- TXN_REPLY on the lead: a module's answer to a commit, or its refusal to start. -/
def execTxnReply (port : Nat) (k : Packet) (s : State) : Ret :=
  .next (s.noteState (s.recvMsg port k mTxnReply fun s m =>
    if !s.isLead then s else
      m.entries.foldl (fun a e =>
        if rd 4 e 0 = 0 then (if rd 2 e 4 ≠ stOk then a.failStart (rd 2 e 4) 0 else a) else a.txnReplied m.src e) s))

/-- START_INFO on the lead: what a module reports of its KV groups and ports at a start; after a hard halt, that the module
survives (R122, R273, R408). -/
def execStartInfo (port : Nat) (k : Packet) (s : State) : Ret :=
  .next (s.noteState (s.recvMsg port k mStartInfo fun s m =>
    if !s.isLead then s
    else if s.srv.sliceState == .haltedHard then s.onSrv fun v => { v with downReports := addNew v.downReports m.src }
    else (s.onSrv fun v => { v with start := v.start.map fun r => m.entries.foldl (fun a b => a.note m.src b) r }).decideStart))

/-- HOLE_TABLE: the entries that replace the plan's, and the word that serving begins (R171, log entry 66). -/
def execHoleTable (port : Nat) (k : Packet) (s : State) : Ret :=
  .next (s.noteState (s.recvMsg port k mHoleTable fun s m =>
    if m.src != s.plan.leadIndex then s else
      let s1 := s.onFab fun f => { f with
        minor := m.minor
        routes := m.entries.foldl (fun (t : Tbl (Bool × Nat)) e =>
          tset t (rd 2 e 0 % 512) (bitOf (rd 2 e 0) 9, rd 4 e 4 % 512)) f.routes }
      if s.srv.sliceState == .starting then (s1.onSrv fun v => { v with sliceState := .running }).startStagger else s1))

/-- CLEAR on the lead: a module is clear of an abort (R271), or has done its start barrier (STEP zero, R270). -/
def execClear (port : Nat) (k : Packet) (s : State) : Ret :=
  .next (s.noteState (s.recvMsg port k mClear fun s m =>
    if !s.isLead then s
    else if m.step = 0 then
      (s.onSrv fun v => { v with start := v.start.map fun r => { r with cleared := addNew r.cleared m.src } }).decideStart
    else if s.steps.awaitClear.isSome then s.noteClear m.src else s))

/-- FLUSH_MARKER: the port's traffic of this run begins (R270); one that comes before this module has prepared is kept for
then. -/
def execFlushMarker (port : Nat) (k : Packet) (s : State) : Ret :=
  .next (
    let mine : Bool := k.type == ptLink && byteAt k.data 0 == 2
    if !s.mainOn || !(s.portX port).trained || !mine then s else
    let s := s.emit (.release port (bufferOf k) (flitPayloads k))
    if badPacket k then s.badPacketAt port 0
    else if k.len != 16 || rd 2 k.data 4 != s.plan.sliceId then s
    else if (s.portX port).awaitMarker then
      s.noteState ((s.modPort port fun x => { x with awaitMarker := false }).barrierDone)
    else s.modPort port fun x => { x with markerIn := s.srv.sliceState != .running })

end Sys2Proof.Machine
end

