-- ==== Sys2Proof/Machine/Sessions.lean ====
section
/-! DEFINITION. Clients, queue pairs and requests (R192 to R215): connections, the request checks of R206 in their order, the
requests by session state (Table 6.9), their ends, and the session commands of the mailbox (R304). -/

namespace Sys2Proof.Machine

open Sys2Proof

/-! ### Sampling and proof modules (R219, R225) -/

/-- The module whose sampling unit serves a session. -/
def PlanObj.sampleModule (p : PlanObj) (i : Nat) : Nat := p.modules.getD (i % p.modules.length) p.moduleIndex

/-- The proof module that drafts a session. -/
def PlanObj.proofModule (p : PlanObj) (i : Nat) : Nat := p.proofs.getD (i % p.proofs.length) p.leadIndex

/-! ### Position budget (R229) -/

/-- floor(1.25 × a), exactly. -/
def floor125 (a : Word32) : Nat :=
  match f32 a with
  | .num m e => if m < 0 then 0 else m.toNat * 5 * 2 ^ e.toNat / (4 * 2 ^ (-e).toNat)
  | _ => 0

/-- D and B of a session. -/
def Sess.depthLimit (x : Sess) : Nat := min 15 (floor125 x.tracker + 1)
def budgetB (tracker : Word32) (specMax : Nat) : Nat := min (min specMax (2 * min 15 (floor125 tracker + 1) + 2)) 16
def Sess.budget (x : Sess) : Nat := budgetB x.tracker (x.gen.elim 1 (·.specMax))

/-- a := a + ((COUNT − 1) − a) / 8. -/
def trackerNext (a : Word32) (count : Nat) : Word32 := fadd a (fdiv (fsub (f32OfNat (count - 1)) a) (f32OfNat 8))

/-! ### Messages (Tables 6.3 to 6.6) -/

def hdType (b : Bytes) : Nat := byteAt b 0
def hdTag (b : Bytes) : Nat := rd 4 b 8
def hdSession (b : Bytes) : Nat := rd 4 b 0x0C
def hdEpoch (b : Bytes) : Nat := rd 2 b 0x10
def hdCount (b : Bytes) : Nat := rd 4 b 0x14

/-- N_STOP, N_BIAS and the places of a REQ_GENERATE's lists. -/
def gnStops (b : Bytes) : Nat := bitsOf (rd 4 b 0x3C) 4 0
def gnBias (b : Bytes) : Nat := bitsOf (rd 4 b 0x3C) 15 8
def gnTokensAt (b : Bytes) : Nat := 96 + 4 * gnStops b + 8 * gnBias b

/-- Bytes that a request's parts add up to, by its type. -/
def partsLen (b : Bytes) : Nat :=
  match hdType b with
  | 1 => 64
  | 2 => 32 + 4 * hdCount b
  | 3 => gnTokensAt b + 4 * hdCount b
  | 5 => 36
  | _ => 32

/-- `n` 32-bit values from an offset. -/
def words32 (b : Bytes) (off n : Nat) : List Nat := (List.range n).map fun i => rd 4 b (off + 4 * i)

/-- The parameters of a REQ_GENERATE body (Table 6.6): the block at `o`, then the lists. -/
def genParamsAt (b : Bytes) (o : Nat) : GenParams :=
  let w1 := rd 4 b (o + 4)
  let w7 := rd 4 b (o + 0x1C)
  let ns := bitsOf w7 4 0
  { temperature := w32 (rd 4 b o), topK := bitsOf w1 10 0, specMax := bitsOf w1 15 11, logprobs := bitOf w1 16
    topP := w32 (rd 4 b (o + 8)), minP := w32 (rd 4 b (o + 0x0C)), repPenalty := w32 (rd 4 b (o + 0x10))
    repWindow := bitsOf (rd 4 b (o + 0x14)) 16 0, maxTokens := rd 4 b (o + 0x18)
    stops := words32 b (o + 64) ns
    bias := (List.range (bitsOf w7 15 8)).map fun i =>
      (rd 4 b (o + 64 + 4 * ns + 8 * i), w32 (rd 4 b (o + 64 + 4 * ns + 8 * i + 4)))
    seed := rd 8 b (o + 0x20) }

/-- Whether an FP32 word lies in a closed range of FP32 words. -/
def inRange32 (x lo hi : Word32) : Bool := fle lo x && fle x hi

/-- Check 3 of R206 for the parameter block: (fails, status, byte offset). -/
def genChecks (vocab : Nat) (b : Bytes) : List (Bool × Nat × Nat) :=
  let g := genParamsAt b 32
  let zero := f32Zero
  [ (decide (65536 < hdCount b), stLenRange, 0x14), (decide (16 < gnStops b), stLenRange, 0x3C),
    (decide (64 < gnBias b), stLenRange, 0x3D),
    (!((f32 g.temperature).isZero || inRange32 g.temperature 0x3C23D70A#32 0x42C80000#32), stFieldRange, 0x20),
    (decide (1024 < g.topK), stFieldRange, 0x24),
    (g.specMax == 0 || decide (16 < g.specMax), stFieldRange, 0x25),
    (bitsOf (rd 4 b 0x24) 31 17 != 0, stFieldRange, 0x26),
    (!(flt zero g.topP && fle g.topP f32One), stFieldRange, 0x28),
    (!(fle zero g.minP && flt g.minP f32One), stFieldRange, 0x2C),
    (!inRange32 g.repPenalty f32One 0x40800000#32, stFieldRange, 0x30),
    (decide (65536 < g.repWindow), stFieldRange, 0x34),
    (g.maxTokens == 0 || decide (1048576 < g.maxTokens), stFieldRange, 0x38) ] ++
  (indexed g.stops).map (fun t => (decide (vocab ≤ t.2), stFieldRange, 96 + 4 * t.1)) ++
  (indexed g.bias).flatMap (fun t =>
    let o := 96 + 4 * gnStops b + 8 * t.1
    [ (decide (vocab ≤ t.2.1), stFieldRange, o),
      (!(t.2.2 == f32Inf true || inRange32 t.2.2 0xC2C80000#32 0x42C80000#32), stFieldRange, o + 4) ])

/-- Token ids of a list below VOCAB. -/
def tokenChecks (vocab : Nat) (b : Bytes) (off n : Nat) : List (Bool × Nat × Nat) :=
  (indexed (words32 b off n)).map fun t => (decide (vocab ≤ t.2), stFieldRange, off + 4 * t.1)

/-- Reserved fields of the header and the body, step 1. -/
def reservedBad (b : Bytes) : List (Bool × Nat × Nat) :=
  [ (byteAt b 1 != 1, stFieldRange, 1), (rd 2 b 2 != 0, stFieldRange, 2), (rd 2 b 0x12 != 0, stFieldRange, 0x12),
    (rd 4 b 0x18 != 0, stFieldRange, 0x18), (rd 4 b 0x1C != 0, stFieldRange, 0x1C) ] ++
  match hdType b with
  | 1 => [ (decide (3 < rd 4 b 0x20), stFieldRange, 0x20), (decide (2047 < rd 4 b 0x28), stFieldRange, 0x29),
           (!allZero (cut b 0x2C 20), stFieldRange, 0x2C) ]
  | 3 => [ (bitsOf (rd 4 b 0x24) 31 17 != 0, stFieldRange, 0x26), (bitsOf (rd 4 b 0x34) 31 17 != 0, stFieldRange, 0x36),
           (bitsOf (rd 4 b 0x3C) 7 5 + bitsOf (rd 4 b 0x3C) 31 16 != 0, stFieldRange, 0x3C),
           (!allZero (cut b 0x48 24), stFieldRange, 0x48) ]
  | _ => []

/-! ### The frame of a request (R206) -/

def State.modQp (s : State) (qp : Nat) (f : Qp → Qp) : State :=
  match tget s.srv.qps qp with
  | some q => s.onSrv fun v => { v with qps := tset v.qps qp (f q) }
  | none => s

/-- A REP_ERROR that refuses a request. -/
def State.refuseReq (s : State) (qp client : Nat) (b : Bytes) (status reason off : Nat) : State :=
  let ep := (s.sessById (hdSession b)).elim 0 (·.epoch)
  (s.emit (.reply qp rpError (hdTag b) (hdSession b) ep 0 (status + reason * 65536) off [])).count ctRefused
    (client * 256 + hdType b) 1

/-- What a request's own rule decides after the checks. -/
inductive Verdict where
  | no (reason off : Nat)
  | yes (s : State)

/-- A request found: the checks of R206 in order, then its rule. Requests of a session that is closing are refused with
WRONG_STATE, but for cancel and close. -/
def State.request (s0 : State) (qp : Nat) (b : Bytes) (ty : Nat) (own : Nat → List (Bool × Nat × Nat)) (needSession : Bool)
    (needEpoch : Bool) (rule : State → Nat → ReqRec → Option Sess → Verdict) : State :=
  let s := s0.modQp qp fun q => { q with retries := 0 }
  match tget s.srv.qps qp with
  | none => s
  | some q =>
    if !s.isLead || hdType b != ty then s else
    let no (status reason off : Nat) : State := s.refuseReq qp q.client b status reason off
    match firstFail ([ (rd 4 b 4 != b.length || decide (b.length < 32), stLenRange, 4) ] ++ reservedBad b ++
        [ (partsLen b != b.length, stLenRange, 4) ] ++ own q.client) with
    | some (st, off) => no st reMalformed off
    | none =>
      let x := s.sessById (hdSession b)
      if needSession && !(x.any fun y => y.client == q.client) then no (reasonStatus reNoSession) reNoSession 0x0C
      else if needEpoch && !(x.any fun y => y.epoch == hdEpoch b) then no (reasonStatus reStaleEpoch) reStaleEpoch 0x10
      else
        let r : ReqRec := { qp := qp, tag := hdTag b, mtype := ty, startedNs := s.now }
        match rule s q.client r x with
        | .no reason off => no (reasonStatus reason) reason off
        | .yes s1 =>
          (s1.modSess (hdSession b % 4096) fun y => if needSession then { y with lastQp := qp } else y).count ctRequests
            (q.client * 256 + ty) 1

/-- What refuses any request that asks for work: the client's queue (CLIENT_QUEUE). -/
def State.queueFull (s : State) (client : Nat) : Bool := 256 ≤ s.clientOpen client

/-- The handle that a request of a session binds now: none where the session names an adapter that is gone. -/
def State.bindHandle (s : State) (x : Sess) : Option Nat :=
  if x.adapterId = 0 then some 0
  else (s.adp.list.find? (fun a => a.id == x.adapterId)).map fun a => handleOf a.id a.gen

/-- The client's entry allows a session's class and adapter (R198). -/
def State.entryAllows (s : State) (x : Sess) (andClass : Bool) : Bool :=
  let e := s.clientEntry x.client
  (!andClass || ceClass e x.cls) && (x.adapterId = 0 || ceAdapters e)

def State.draining (s : State) : Bool := s.srv.sliceState == .draining

/-! ### REQ_OPEN (R193, R203) -/

/-- The lowest free index below C. -/
def State.freeIndex (s : State) : Option Nat :=
  (List.range (s.srv.sessions.length + 1)).find? fun i => i < s.plan.sessionCap && (s.sess? i).isNone

/-- The next use count of an index. -/
def nextUse (u : Nat) : Nat := if u = 0 ∨ u = 0xFFFFE then 1 else u + 1

def execReqOpen (qp : Nat) (msg : Bytes) (s : State) : Ret :=
  .next (s.request qp msg 1 (fun client =>
    let cap := ceMaxContext (s.clientEntry client)
    [ (hdSession msg != 0, stFieldRange, 0x0C), (hdCount msg != 0, stLenRange, 0x14),
      (rd 4 msg 0x20 == 3, stFieldRange, 0x20),
      (decide (rd 4 msg 0x24 < 64) || decide (cap < rd 4 msg 0x24), stFieldRange, 0x24),
      (decide (1024 < rd 4 msg 0x28), stFieldRange, 0x28) ]) false false
    fun s client r _ =>
      let e := s.clientEntry client
      let cls := rd 4 msg 0x20
      let ad := rd 4 msg 0x28
      if s.draining then .no reWrongState 0
      else if s.queueFull client then .no reClientQueue 0
      else if !ceClass e cls || (ad != 0 && !ceAdapters e) then .no reNotAllowed 0
      else match s.freeIndex with
        | none => .no reNoContext 0
        | some i =>
          if ceMaxSessions e ≤ (s.allSess.filter (fun x => x.client == client)).length then .no reNoContext 0 else
            let u := nextUse (tgetD s.srv.uses i 0)
            let x : Sess :=
              { index := i, use := u, client := client, cls := cls, maxCtx := rd 4 msg 0x24, adapterId := ad, lastQp := r.qp
                readyNs := s.now }
            let s1 := (s.onSrv fun v => { v with uses := tset v.uses i u }).putSess x
            .yes ((((s1.pushUpdate i).dataArrives).repDone x r rdOpened)))

/-! ### REQ_APPEND and REQ_GENERATE (R208, R214, R215) -/

/-- Tokens joined to a session's sequence and its record. -/
def Sess.append (x : Sess) (ts : List Nat) : Sess := 
  { x with tokens := x.tokens ++ ts, n := x.n + ts.length, lastTok := ts.getLast?.getD x.lastTok }

/-- A session whose generation is pending, or that prefills or has nothing to do. -/
def Sess.settled (x : Sess) : Sess :=
  if x.state = .prefilling ∧ x.generation.isNone ∧ x.n ≤ x.kvLen + 1 then { x with state := .idle } else x

def execReqAppend (qp : Nat) (msg : Bytes) (s : State) : Ret :=
  .next (s.request qp msg 2 (fun _ =>
    [ (hdCount msg == 0 || decide (65536 < hdCount msg), stLenRange, 0x14) ] ++
      tokenChecks s.plan.vocab msg 32 (hdCount msg)) true true
    fun s client r o => match o with
      | none => .no reNoSession 0x0C
      | some x =>
        if s.draining || x.closing || !(x.state == .idle || x.state == .prefilling) then .no reWrongState 0
        else if s.queueFull client then .no reClientQueue 0
        else if !s.entryAllows x false then .no reNotAllowed 0
        else match s.bindHandle x with
          | none => .no reAdapterGone 0
          | some h =>
            if x.maxCtx < x.n + hdCount msg then .no reContextLimit 0x14
            else if s.srv.kvShortage then .no reKvFull 0
            else
              let y := x.append (words32 msg 32 (hdCount msg))
              let z := ({ y with
                state := .prefilling, handle := if x.generation.isSome then x.handle else h
                readyNs := if x.state == .idle then s.now else x.readyNs } : Sess).settled
              .yes (((s.putSess z).pushUpdate z.index).repDone z r rdAppended))

/-- Whether a session is active for R214, and its count. -/
def Sess.active (x : Sess) : Bool := x.cls == 0 && (x.state == .generating || (x.state == .prefilling && x.generation.isSome))

/-- R214: a generation of an INTERACTIVE session fits. -/
def State.interactiveFits (s : State) (x : Sess) (g : GenParams) : Bool :=
  let act := s.allSess.filter fun y => y.active && y.index != x.index
  decide (act.length + 1 ≤ s.srv.interLimit) &&
    decide ((act.filter (fun y => y.client == x.client)).length + 1 ≤ ceMaxInteractive (s.clientEntry x.client)) &&
    decide (listSum (act.map Sess.budget) + budgetB x.tracker g.specMax ≤ s.plan.maxPositions)

/-- The parameters sent to the session's sampling and proof modules. -/
def State.sendParams (s : State) (x : Sess) (body : Bytes) : State :=
  let us := [le 4 x.id ++ le 2 x.epoch ++ zeros 2, zeros 8] ++ units body
  let dests := (addNew [s.plan.sampleModule x.index] (s.plan.proofModule x.index)).filter (· != s.index)
  dests.foldl (fun a d => a.sendMsg d mGenParams 0 0 us) s

def execReqGenerate (qp : Nat) (msg : Bytes) (s : State) : Ret :=
  .next (s.request qp msg 3 (fun _ => genChecks s.plan.vocab msg ++
      tokenChecks s.plan.vocab msg (gnTokensAt msg) (min 65536 (hdCount msg))) true true
    fun s client r o => match o with
      | none => .no reNoSession 0x0C
      | some x =>
        let g := genParamsAt msg 32
        let ts := words32 msg (gnTokensAt msg) (hdCount msg)
        if s.draining || x.closing || !(x.state == .idle || (x.state == .prefilling && x.generation.isNone)) then
          .no reWrongState 0
        else if s.queueFull client then .no reClientQueue 0
        else if !s.entryAllows x true then .no reNotAllowed 0
        else match s.bindHandle x with
          | none => .no reAdapterGone 0
          | some h =>
            if x.maxCtx < x.n + ts.length then .no reContextLimit 0x14
            else if x.cls == 0 && !s.interactiveFits x g then .no reInteractiveFull 0
            else if s.srv.kvShortage then .no reKvFull 0
            else
              let y := x.append ts
              let st : SessState := if x.state == .prefilling || !ts.isEmpty then .prefilling else .generating
              let z : Sess := { y with
                state := st, generation := some r, gen := some g, emitted := 0, handle := h
                rootOnly := true, tree := [], branches := []
                readyNs := if x.state == .idle then s.now else x.readyNs }
              .yes (((s.putSess z).pushUpdate z.index).sendParams z (cut msg 32 (gnTokensAt msg - 32))))

/-! ### REQ_CANCEL, REQ_PAUSE, REQ_RESUME, REQ_CLOSE (R209 to R211) -/

def noCount (msg : Bytes) : List (Bool × Nat × Nat) := [(hdCount msg != 0, stLenRange, 0x14)]

/-- Every cancel of a session that waits is answered once no step in flight carries an older epoch. -/
def State.settleCancel (s : State) (x : Sess) : State :=
  if x.cancels.isEmpty || x.heldStale then s
  else (x.cancels.foldl (fun a r => a.repDone x r rdCancelled) s).modSess x.index fun y => { y with cancels := [] }

def execReqCancel (qp : Nat) (msg : Bytes) (s : State) : Ret :=
  .next (s.request qp msg 4 (fun _ => noCount msg) true false
    fun s _ r o => match o with
      | none => .no reNoSession 0x0C
      | some x =>
        if hdEpoch msg != x.epoch then .yes (s.repDone x r rdCancelled)
        else .yes ((s.cancelSession x.index).modSess x.index fun y => { y with cancels := y.cancels ++ [r] }))

/-- CANCEL_SETTLED: no step in flight carries the session's old epoch. -/
def execCancelSettled (session : Nat) (s : State) : Ret :=
  .next (match s.sessById session with
    | some x => if s.isLead then s.settleCancel x else s
    | none => s)

def execReqPause (qp : Nat) (msg : Bytes) (s : State) : Ret :=
  .next (s.request qp msg 5 (fun _ => noCount msg ++
      [(rd 4 msg 32 == 0 || decide (s.setN setPauseTtlMax < rd 4 msg 32), stFieldRange, 0x20)]) true true
    fun s client r o => match o with
      | none => .no reNoSession 0x0C
      | some x =>
        if x.closing || !(x.state == .idle || x.state == .generating) then .no reWrongState 0
        else if s.queueFull client then .no reClientQueue 0
        else if !cePause (s.clientEntry client) then .no reNotAllowed 0
        else
          let z : Sess := { x with state := .pausing, pauseReq := some { r with ttl := rd 4 msg 32 } }
          .yes ((s.putSess z).pushUpdate z.index))

/-! ### Restores (R151) -/

/-- The restoring grant of a chunk: a K4 group's partial last chunk into its ring, everything else into a fresh slot. None
where no slot is free. -/
def State.restoreChunk (s : State) (x : Sess) (g c : Nat) : Option (State × Grant) :=
  if s.plan.groupK4 g && decide (x.kvLen < 64 * (c + 1)) then
    some (s, { session := x.id, chunk := c, group := g, action := gRestoreRing, slot := c % 6 })
  else (s.takeSlot g (s.kv.nodes.length + 1)).map fun r =>
    (r.1, { session := x.id, chunk := c, group := g, action := gRestore, slot := r.2 })

/-- Every restoring grant of a session, or none where a slot is wanting. -/
def State.restoreAll (s : State) (x : Sess) : Option (State × List Grant) :=
  ((List.range s.plan.groups.length).flatMap fun g => (List.range (ceilDiv x.kvLen 64)).map fun c => (g, c)).foldl
    (fun (a : Option (State × List Grant)) gc => match a with
      | none => none
      | some (t, gs) => (t.restoreChunk x gc.1 gc.2).map fun r => (r.1, gs ++ [r.2])) (some (s, []))

/-- Whether a RESUMING session's restoring grants have been issued. -/
def State.restoring (s : State) (x : Sess) : Bool :=
  x.kvLen = 0 || (List.range s.plan.groups.length).any fun g => (s.ent g x.index 0).valid || s.moving g x.index 0

/-- The restores of a RESUMING session issued where there is room; otherwise it waits as for any KV slot. -/
def State.tryRestore (s : State) (i : Nat) : State :=
  match s.sess? i with
  | none => s
  | some x =>
    if x.state != .resuming || s.restoring x then s else
    match s.restoreAll x with
    | some (t, gs) => (t.issueGrants gs 0 0).modSess i fun y => { y with waitingNs := none }
    | none => (s.countGroups ctKvWait 1).modSess i fun y =>
        { y with waitingNs := some (y.waitingNs.getD s.now) }

def execReqResume (qp : Nat) (msg : Bytes) (s : State) : Ret :=
  .next (s.request qp msg 6 (fun _ => noCount msg) true true
    fun s client r o => match o with
      | none => .no reNoSession 0x0C
      | some x =>
        if s.draining || x.closing || !(x.state == .pausing || x.state == .paused) then .no reWrongState 0
        else if s.queueFull client then .no reClientQueue 0
        else if x.state == .pausing then
          -- the pause is abandoned (R152)
          let s1 := s.endGen x.index fun t y q => t.repDone y q rdGenPaused
          match s1.sess? x.index with
          | none => .yes s1
          | some y =>
            let s2 := match y.pauseReq with
              | some q => s1.repDone y q rdAbandoned
              | none => s1
            let z : Sess := { y with state := if y.kvLen + 1 < y.n then .prefilling else .idle, pauseReq := none }
            .yes ((((s2.repDone y r rdResumed).freeImage y.index).putSess z).pushUpdate z.index)
        else if s.srv.kvShortage then .no reKvFull 0
        else
          let z : Sess := { x with state := .resuming, resumeReq := some r, pauseUntilNs := none }
          .yes (((s.putSess z).pushUpdate z.index).tryRestore z.index))

def execReqClose (qp : Nat) (msg : Bytes) (s : State) : Ret :=
  .next (s.request qp msg 7 (fun _ => noCount msg) true false
    fun s _ r o => match o with
      | none => .no reNoSession 0x0C
      | some x => .yes (s.beginClose x.index (some r)))

/-- CLOSE_SETTLED: no step in flight holds a closing session: it is freed, and its closes are answered; one that no request
asked for is told with TAG 0 (R210, R304). -/
def execCloseSettled (session : Nat) (s : State) : Ret :=
  .next (match s.sessById session with
    | none => s
    | some x =>
      if !s.isLead || !x.closing || x.held then s else
        let s1 := s.freeSession x.index
        if x.closes.isEmpty then s1.replyFree x rpDone rdClosed x.n
        else x.closes.foldl (fun a r => a.repDone x r rdClosed) s1)

/-- UNKNOWN_TYPE: a message whose MTYPE is no request type (R206 step 2). -/
def execUnknownType (qp : Nat) (msg : Bytes) (s : State) : Ret :=
  .next (match tget s.srv.qps qp with
    | none => s
    | some q =>
      if !s.isLead || (1 ≤ hdType msg && hdType msg ≤ 7) then s else
        match firstFail ([ (rd 4 msg 4 != msg.length || decide (msg.length < 32), stLenRange, 4) ] ++ reservedBad msg) with
        | some (st, off) => s.refuseReq qp q.client msg st reMalformed off
        | none => s.refuseReq qp q.client msg (reasonStatus reUnknownType) reUnknownType 0)

/-! ### KV waits (R215) -/

/-- The session that is ended for a waiting one: a STANDARD or BATCH session whose generation started later than a waiting
INTERACTIVE session's goes first, the latest started of them. -/
def State.kvVictim (s : State) (x : Sess) : Sess :=
  let from_ := x.generation.elim 0 (·.startedNs)
  let later := s.allSess.filter fun y => x.cls == 0 && y.cls != 0 && y.generation.any (fun g => decide (from_ < g.startedNs))
  later.foldl (fun a y =>
    if a.index = x.index || decide (a.generation.elim 0 (·.startedNs) < y.generation.elim 0 (·.startedNs)) then y else a) x

/-- KV_WAIT_EXPIRY: a session has been left out for longer than SET_KV_WAIT_MAX. -/
def execKvWaitExpiry (session : Nat) (s : State) : Ret :=
  .next (match s.sessById session with
    | none => s
    | some x => match x.waitingNs with
      | none => s
      | some t =>
        if !s.isLead || s.now ≤ t + s.setN setKvWaitMax * 1000000 then s else
          let v := s.kvVictim x
          ((s.advanceEpoch v.index).failPending v.index reKvFull).count ctKvFullEnds 0 1)

/-! ### Session commands of the mailbox (R304) -/

def sessionOwn (s : State) (c : Cmd) : List (Bool × Nat × Nat) :=
  lenIs c 4 ++ [((s.sessById (rd 4 c.pay 0)).isNone, stFieldRange, payOff 0)]

def execOpSessionQuery (q : Req) (s : State) : Ret :=
  .next (s.runOp q 0x0403 allPayloads sessionOwn fun s c =>
    match s.sessById (rd 4 c.pay 0) with
    | some x => .done s stOk 0 x.bytes
    | none => .refuse stFieldRange (payOff 0))

def execOpSessionEvict (q : Req) (s : State) : Ret :=
  .next (s.runOp q 0x0404 allPayloads sessionOwn fun s c =>
    match s.sessById (rd 4 c.pay 0) with
    | some x => .done (s.beginClose x.index none) stOk 0 []
    | none => .refuse stFieldRange (payOff 0))

/-! ### Connections (R192, R197, R199) -/

/-- Line rate, in the unit of a queue pair's send rate. -/
def lineRate : Nat := 1000000

/-- A queue pair's send rate now: it recovers by 5% of line rate for each 50 µs since its last cut. -/
def Qp.rateNow (q : Qp) (now : Nat) : Nat :=
  min lineRate (q.rate + lineRate / 20 * ((now - q.lastCutNs.getD now) / 50000))

def execCmReq (client : Nat) (ipv6 : Bool) (addr remoteQp : Nat) (s : State) : Ret :=
  .next (
    let e := s.clientEntry client
    let mine := (s.srv.qps.filter (fun q => q.2.client == client)).length
    if s.isLead && s.sliceRunning && 1 ≤ client && client ≤ 255 && ceValid e && cePrefixHas e ipv6 addr &&
        mine < ceMaxQps e && s.srv.qps.length < 2048 then
      let q : Qp := { client := client, ipv6 := ipv6, addr := addr, remote := remoteQp, rate := lineRate, lastCutNs := none
                      lastCnpNs := none, retries := 0 }
      (s.onSrv fun v => { v with qps := tset v.qps v.nextQp q, nextQp := v.nextQp + 1 }).emit (.cmAccept s.srv.nextQp)
    else if s.mainOn then s.emit (.cmReject client) else s)

def execCmDreq (qp : Nat) (s : State) : Ret := .next (if s.qpUp qp then s.endQp qp else s)

/-- INVALID_REQUEST_NAK: an opcode not accepted, or a SEND longer than its buffer, ends the queue pair. -/
def execInvalidRequestNak (qp : Nat) (_why : NakCause) (s : State) : Ret :=
  .next (if s.qpUp qp then (s.emit (.nak qp)).endQp qp else s)

/-- CNP_RECEIVED: the send rate halves, no more than once per 50 µs. -/
def execCnpReceived (qp : Nat) (s : State) : Ret :=
  .next (s.modQp qp fun q =>
    if q.lastCutNs.any (fun t => s.now < t + 50000) then q
    else { q with rate := q.rateNow s.now / 2, lastCutNs := some s.now })

/-- CE_MARKED_PACKET: a CNP, no more than one per queue pair per 50 µs. -/
def execCeMarkedPacket (qp : Nat) (s : State) : Ret :=
  .next (match tget s.srv.qps qp with
    | none => s
    | some q =>
      if q.lastCnpNs.any (fun t => s.now < t + 50000) then s
      else (s.modQp qp fun q => { q with lastCnpNs := some s.now }).emit (.cnp qp))

/-- LOCAL_ACK_TIMEOUT: the packet is sent again, up to the retry count of 7; then the queue pair ends. -/
def execLocalAckTimeout (qp : Nat) (s : State) : Ret :=
  .next (match tget s.srv.qps qp with
    | none => s
    | some q =>
      if 7 ≤ q.retries then s.endQp qp
      else (s.modQp qp fun q => { q with retries := q.retries + 1 }).emit (.resend qp (q.retries + 1)))

end Sys2Proof.Machine
end

