-- ==== Sys2Proof/Machine/Pause.lean ====
section
/-! DEFINITION. Pause images and restores (R149 to R152, R211), slice stops and drains (R304, R409, Table 13.5), aborts as they
arrive (R271) and the modules that a hard halt loses (R273). -/

namespace Sys2Proof.Machine

open Sys2Proof

/-! ### Pause images -/

/-- One chunk of a session written into its image, in a pool of a group: K4 form, positions at or beyond KV_LEN zero. -/
def State.imagePage (s : State) (img : PauseImg) (x : Sess) (g c : Nat) (q : Pool) : State :=
  let e := s.ent g x.index c
  s.reformPage (q.at e x.index) (q.isK8 e) (img.addr (s.plan.imageOff g q.layer c)) false q.heads q.dim
    (min 64 (x.kvLen - 64 * c))

/-- A session's whole image, and the bytes counted by group. -/
def State.fillImage (s : State) (img : PauseImg) (x : Sess) : State :=
  let gs := List.range s.plan.groups.length
  let chunks := List.range (ceilDiv x.kvLen 64)
  let s1 := chunks.foldl (fun (a : State) c => gs.foldl (fun (b : State) g =>
    (s.plan.pools g).foldl (fun (d : State) q => d.imagePage img x g c q) b) a) s
  gs.foldl (fun (a : State) g => a.count ctPauseFixed g (chunks.length * listSum ((s.plan.pools g).map (·.p4)))) s1

/-- Whether a step in flight on this module holds a session. -/
def State.inFlight (s : State) (x : Sess) : Bool :=
  x.held || s.steps.live.any fun t => (t.hb0.rows ++ t.hb1.rows).any fun r => r.session == x.id

/-- A session that has nothing to do, or tokens to prefill. -/
def Sess.atRest (x : Sess) : Sess := { x with state := if x.kvLen + 1 < x.n then .prefilling else .idle }

/-- A pause that finds no room in T3: it ends with PAUSE_SPACE (R149). -/
def State.pauseFails (s : State) (x : Sess) : State :=
  let s1 := match x.pauseReq with
    | some r => s.repError x r rePauseSpace
    | none => s
  (s1.putSess ({ x with pauseReq := none } : Sess).atRest).pushUpdate x.index

/-- The hint PIN T3 (Table 1.8). -/
def pinT3 : Nat := 2 + 4 * 3

/-! ### Stops and drains (R409) -/

/-- A stop without a client's request behind it. -/
def silentPause (s : State) (ttl : Nat) : ReqRec :=
  { qp := 0, tag := 0, mtype := 5, silent := true, startedNs := s.now, ttl := ttl }

/-- The slice is STOPPED: every module is told, the command completes with EV_DRAIN_DONE and the drain time in
milliseconds (log entry 65), and the stop brings what every stop brings. -/
def State.endDrain (s : State) (d : Drain) : State :=
  let s1 := (s.onSrv fun v => { v with sliceState := .stopped, drain := none }).tellStop
  let s2 := (s1.mbox.running.filter (fun r => r.opcode == 0x0402)).foldl (fun a r => a.finishRun r stOk 0 []) s1
  ((s2.event evDrainDone noUnit ((s.now - d.startNs) / 1000000)).settleCommit).settleStop

/-- A drain is over once no generation and no step is left and, for PAUSE_ALL, no pause in course. -/
def State.settleDrain (s0 : State) : State :=
  let s := s0.pruneSteps
  match s.srv.drain with
  | none => s
  | some d =>
    if s.srv.sliceState == .draining && s.isLead && s.steps.live.isEmpty && s.allSess.all (fun x =>
        x.generation.isNone && !x.held && (d.mode != 1 || x.state != .pausing)) then s.endDrain d
    else s

/-- Every generation ends at once with a reason; steps in flight still commit. -/
def State.endAllGens (s : State) (reason : Nat) : State :=
  (s.allSess.map (·.index)).foldl (fun a i => a.endGen i fun t x r => t.repDone x r reason) s

/-- PAUSE_ALL: every session that is neither paused nor on its way there is to be paused. -/
def State.pauseAll (s : State) : State :=
  (s.allSess.filter fun x => !x.closing && (x.state == .idle || x.state == .prefilling || x.state == .generating)).foldl
    (fun a x => (a.modSess x.index fun y =>
      { y with state := .pausing, pauseReq := some (silentPause s (s.setN setPauseTtlMax)) }).pushUpdate x.index) s

/-- Pauses not finished are abandoned, and their sessions stay IDLE. -/
def State.abandonPauses (s : State) : State :=
  (s.allSess.filter fun x => x.state == .pausing).foldl (fun a x =>
    let b := match x.pauseReq with
      | some r => a.repDone x r rdAbandoned
      | none => a
    ((b.freeImage x.index).modSess x.index fun y => ({ y with pauseReq := none, state := .idle } : Sess)).pushUpdate x.index) s

/-- OP_SLICE_STOP: a running slice drains by its mode; a second stop with MODE 2 makes a drain in course IMMEDIATE. -/
def execOpSliceStop (q : Req) (s : State) : Ret :=
  let t := s.runOpThen q 0x0402 allPayloads (fun _ c =>
    lenIs c 8 ++ [ (decide (2 < rd 4 c.pay 0), stFieldRange, payOff 0),
      (decide (3600000 < rd 4 c.pay 4), stFieldRange, payOff 4) ])
    (fun s c =>
      let mode := rd 4 c.pay 0
      let ms := rd 4 c.pay 4
      match s.srv.sliceState, s.srv.drain with
      | .draining, some d =>
        if mode = 2 then
          .long ((s.onSrv fun v => { v with drain := some { d with mode := 2, deadlineNs := none } }).endAllGens rdCancelled)
            [0x0402, c.slot] [] []
        else .refuse stBusy 0
      | .running, _ =>
        let s1 := s.onSrv fun v => { v with
          sliceState := .draining
          drain := some { mode := mode, port := c.port, slot := c.slot, startNs := s.now
                          deadlineNs := if ms = 0 || mode = 2 then none else some (s.now + ms * 1000000) } }
        let s2 := if mode = 1 then s1.pauseAll else if mode = 2 then s1.endAllGens rdCancelled else s1
        .long s2 [0x0402, c.slot] [] []
      | _, _ => .refuse stStateDenied 0) State.settleDrain
  .next (s.noteState t)

/-- DRAIN_DEADLINE: what is left of a FINISH drain ends with CANCELLED; pauses of a PAUSE_ALL drain are abandoned. -/
def execDrainDeadline (s : State) : Ret :=
  .next (match s.srv.drain with
    | none => s
    | some d =>
      if d.deadlineNs.any (fun t => t ≤ s.now) then
        let s1 := if d.mode = 1 then (s.endAllGens rdGenPaused).abandonPauses else s.endAllGens rdCancelled
        s.noteState ((s1.onSrv fun v => { v with drain := some { d with mode := 2, deadlineNs := none } }).settleDrain)
      else s)

/-! ### Pauses -/

/-- The image of a pausing session on its pages; without pages the pause fails. -/
def State.fixStarted (s s1 : State) (x : Sess) (o : Option (State × List Nat)) : State :=
  match o with
  | none => if s.isLead then s.noteState ((s1.pauseFails x).settleDrain) else s1
  | some (s2, pages) =>
    let img : PauseImg := { kvLen := x.kvLen, pages := pages, complete := false }
    (s2.onKv fun k => { k with images := tset k.images x.index img }).fillImage img x

/-- PAUSE_FIX_START: no step in flight holds a PAUSING session: its generation ends with GEN_PAUSED, and this module writes
its part of the image. -/
def execPauseFixStart (session : Nat) (s : State) : Ret :=
  .next (match s.sessById session with
    | none => s
    | some x0 =>
      if x0.state != .pausing || s.inFlight x0 || (tget s.kv.images x0.index).isSome then s else
        let s1 := if s.isLead then s.endGen x0.index fun t y r => t.repDone y r rdGenPaused else s
        match s1.sess? x0.index with
        | none => s1
        | some x => s.fixStarted s1 x (s1.mapOwn 3 pinT3 (ceilDiv (s.plan.imageBytes x.kvLen) pageBytes)))

/-- PAUSE_COMPLETE: this module has written its image; on the lead, every module has (log entry 68): the chunks are unmapped
and the pause completes. -/
def execPauseComplete (session : Nat) (s : State) : Ret :=
  .next (match s.sessById session with
    | none => s
    | some x => match tget s.kv.images x.index with
      | none => s
      | some img =>
        if x.state != .pausing || img.complete then s else
          let s1 := s.onKv fun k => { k with images := tset k.images x.index { img with complete := true } }
          if !s.isLead then s1 else
            let s2 := s1.unmapSession x.index
            let s3 := match x.pauseReq with
              | some r => s2.repDone x r rdPaused
              | none => s2
            let ttl := x.pauseReq.elim 1 (·.ttl)
            let z : Sess := { x with
              state := .paused, pauseReq := none, pauseUntilNs := some (s.now + ttl * 1000000000), path := [] }
            s.noteState (((s3.putSess z).pushUpdate z.index).settleDrain))

/-- PAUSE_EXPIRY: a pause's time to live has run out (R150, R211). -/
def execPauseExpiry (session : Nat) (s : State) : Ret :=
  .next (match s.sessById session with
    | none => s
    | some x =>
      if !s.isLead || x.state != .paused || !x.pauseUntilNs.any (fun t => t ≤ s.now) then s else
        ((s.freeSession x.index).replyFree x rpDone rdExpired x.n).event evPauseExpired noUnit x.id)

/-- RESTORE_COMPLETE: every restore of a RESUMING session has completed on every module; its image is no longer wanted. A
drain that pauses every session takes it in again. -/
def execRestoreComplete (session : Nat) (s : State) : Ret :=
  .next (match s.sessById session with
    | none => s
    | some x =>
      if !s.isLead || x.state != .resuming || !s.restoring x ||
          s.kv.moves.any (fun m => m.session == x.index) then s else
        let s1 := match x.resumeReq with
          | some r => s.repDone x r rdResumed
          | none => s
        let z := ({ x with resumeReq := none, lookedUp := decide (0 < x.kvLen), readyNs := s.now } : Sess).atRest
        let s2 := ((s1.freeImage x.index).putSess z).pushUpdate z.index
        if s.draining && s.srv.drain.any (fun d => d.mode == 1) then s2.pauseAll else s2)

/-! ### Aborts as they arrive -/

/-- STEP_ABORT: on the lead, the raising module's word; on another module, the lead's: an abort, a halt, or with no fault
named a stop (log entry 47). -/
def execStepAbort (port : Nat) (k : Packet) (s : State) : Ret :=
  .next (s.noteState (s.recvMsg port k mStepAbort fun s m =>
    m.entries.foldl (fun a e =>
      let first := rd 6 e 0
      let code := rd 2 e 6
      if a.isLead then (if a.sliceBusy then a.leadAbort first code m.src else a)
      else if m.src != a.plan.leadIndex then a
      else if code = 0 then
        if a.sliceBusy then
          ((a.onSrv fun v => { v with sliceState := .stopped, start := none }).settleCommit).settleStop else a
      else if code = fltStepLost then a.hardHalt
      else
        let b := a.applyAbort first code
        if softCode code then b.softHalt else b) s))

/-- LOST_MODULE_MARK: 1 ms after a hard halt. -/
def execLostModuleMark (s : State) : Ret :=
  .next (if s.now < s.srv.haltNs + 1000000 then s else s.markLost)

end Sys2Proof.Machine
end

