-- ==== Sys2Proof/Machine/StepOps.lean ====
section
/-! DEFINITION. Where steps stand on the module (R53, R54): which phases a tile and the module have completed. -/

namespace Sys2Proof.Machine

open Sys2Proof

/-- Whether a tile has completed a phase of a step. -/
def TileX.past (x : TileX) (n ph : Nat) : Bool :=
  decide (n < x.step) || (x.step == n && (decide (ph < x.phase) || (x.phase == ph && x.phaseDone)))

/-- The logical tiles that the main plan gives work. -/
def PlanObj.workTiles (p : PlanObj) : List Nat := (List.range 2304).filter p.hasWork

/-- A step has entered a phase on the module. -/
def State.enteredPhase (s : State) (n ph : Nat) : Bool :=
  s.left n || (s.step? n).any fun t => (tget t.enteredNs ph).isSome

/-- A step has left a phase on the module: every tile has completed it. -/
def State.leftPhase (s : State) (n ph : Nat) : Bool :=
  s.left n || (s.step? n).any fun t => (tget t.leftNs ph).isSome

/-- The steps in flight under the current weights generation that have entered PRE here and have not left a phase. -/
def State.oldStepsBefore (s : State) (ph : Nat) : List Step :=
  s.steps.live.filter fun t => t.entered && t.wGen == s.wts.curGen && !s.leftPhase t.seq ph

/-! ### Session tables and attention records (Tables 2.26 and 4.8) -/

def SRow.bytes (r : SRow) : Bytes :=
  le 4 r.session ++ le 2 r.epoch ++ le 2 r.rows ++ le 4 (r.firstRow + 65536 * b2n r.lastChunk) ++ le 4 r.adapter

def srowOf (b : Bytes) : SRow :=
  { session := rd 4 b 0, epoch := rd 2 b 4, rows := rd 2 b 6, firstRow := rd 2 b 8, lastChunk := bitOf (rd 4 b 8) 16
    adapter := rd 4 b 12 }

/-- A reserved bit of an entry that is set. -/
def srowRsv (b : Bytes) : Bool := bitsOf (rd 4 b 8) 31 17 != 0

def ARec.bytes (r : ARec) : Bytes :=
  le 4 r.kvLen ++ le 4 r.bucket ++ zeros 8 ++ (List.range 16).flatMap (fun i => le 2 (r.mask.getD i 0)) ++
    (List.range 16).flatMap (fun i => le 1 (r.depth.getD i 0))

def arecOf (b : Bytes) : ARec :=
  { kvLen := rd 4 b 0, bucket := rd 4 b 4 % 8, mask := (List.range 16).map fun i => rd 2 b (0x10 + 2 * i)
    depth := (List.range 16).map fun i => byteAt b (0x30 + i) }

def arecRsv (b : Bytes) : Bool := rd 4 b 4 / 8 != 0 || rd 8 b 8 != 0

/-- The tables of a step's two half-batches to every other module (R83, R136). -/
def State.sendTables (s : State) (n : Nat) : State :=
  match s.step? n with
  | none => s
  | some t => [(0, t.hb0), (1, t.hb1)].foldl (fun a h =>
      (a.sendAll mSessionTable h.1 n (h.2.rows.map SRow.bytes)).sendAll mAttnRecords h.1 n (h.2.recs.map ARec.bytes)) s

end Sys2Proof.Machine
end

