-- ==== Sys2Proof/Machine/KvOps.lean ====
section
/-! DEFINITION. Grant lists (R130, R131), commit notices (R134, R135) and the contact sheet's walker: lookups (R145),
insertions (R146) and evictions (R147). -/

namespace Sys2Proof.Machine

open Sys2Proof

/-! ### Steps and their sessions -/

def noRec : ARec := { kvLen := 0, bucket := 0, mask := [], depth := [] }

/-- A session's place in a step: half-batch, session-table entry and attention record. -/
def Step.find (t : Step) (id : Nat) : Option (Nat × SRow × ARec) :=
  [(0, t.hb0), (1, t.hb1)].findSome? fun h =>
    ((indexed h.2.rows).find? (fun r => r.2.session == id)).map fun r => (h.1, r.2, h.2.recs.getD r.1 noRec)

def Step.hb (t : Step) (h : Nat) : HalfBatch := if h = 0 then t.hb0 else t.hb1

/-- Positions of a half-batch, and of a step. -/
def HalfBatch.positions (b : HalfBatch) : Nat := listSum (b.rows.map (·.rows))
def Step.positions (t : Step) : Nat := t.hb0.positions + t.hb1.positions
def Step.rows (t : Step) : List SRow := t.hb0.rows ++ t.hb1.rows

/-- A message whose reserved fields are not zero (R166). -/
def State.badMsg (s : State) (port : Nat) (m : Msg) : State := s.badPacketAt port m.step

/-! ### GRANT_LIST -/

def grantRsv (b : Bytes) : Bool := rd 4 b 4 / 2 ^ 20 != 0 || rd 4 b 8 / 2 ^ 24 != 0 || rd 4 b 12 / 2 ^ 24 != 0

/-- A grant list on a module: in list order; one that finds another state than it requires aborts the step that carried
it. -/
def State.takeGrants (s : State) (gs : List Grant) (step : Nat) : State :=
  match State.applyGrants gs s with
  | (s1, true) => s1
  | (s1, false) => s1.stepFault fltKvGrant noUnit step

/-- Grants of the lead: sent to every other module and taken here. -/
def State.sendGrants (s : State) (gs : List Grant) (hb step : Nat) : State :=
  if gs.isEmpty then s else (s.sendAll mGrantList hb step (gs.map Grant.bytes)).takeGrants gs step

/-- GRANT_LIST as it arrives from the lead. -/
def execGrantList (port : Nat) (k : Packet) (s : State) : Ret :=
  .next (s.recvMsg port k mGrantList fun s m =>
    if m.entries.any grantRsv then s.badMsg port m
    else if s.isLead || (m.step != 0 && s.aborted m.step) then s
    else s.takeGrants (m.entries.map grantOf) m.step)

/-! ### The contact sheet (R144 to R147) -/

/-- The lineage of a session: weights generation, adapter handle and adapter generation. -/
def State.lineage (s : State) (x : Sess) : Nat × Nat × Nat := (s.wts.curGen, x.handle, x.handle / 2048)

/-- Children of a node, or of a lineage's root (parent 0). -/
def State.csChildren (s : State) (lin : Nat × Nat × Nat) (parent : Nat) : List CsNode :=
  s.kv.nodes.filter fun n => n.parent == parent && n.lineage == lin

/-- The nodes that match chunks of a token sequence from the root, at most `fuel` of them. -/
def State.csWalk (s : State) (lin : Nat × Nat × Nat) (toks : List Nat) : Nat → Nat → List CsNode
  | 0, _ => []
  | fuel + 1, parent =>
    if toks.length < 64 then [] else
      match (s.csChildren lin parent).find? (fun n => n.tokens == toks.take 64) with
      | some n => n :: s.csWalk lin (toks.drop 64) fuel n.id
      | none => []

/-- Length of the common prefix of two lists. -/
def commonPrefix : List Nat → List Nat → Nat
  | a :: r, b :: q => if a = b then commonPrefix r q + 1 else 0
  | _, _ => 0

/-- The walker's stamp of a use. -/
def State.csTouch (s : State) (ids : List Nat) : State :=
  s.onKv fun k => { k with nodes := k.nodes.map fun n => if ids.contains n.id then { n with used := s.now } else n }

/-- The child whose tokens agree longest with the prompt's next chunk, from 16 tokens up to `top`; the lowest slot on a tie. -/
def bestPartial (kids : List CsNode) (toks : List Nat) (top : Nat) : Option (CsNode × Nat) :=
  kids.foldl (fun best n =>
    let k := min top (commonPrefix n.tokens toks)
    if k < 16 then best else match best with
      | none => some (n, k)
      | some b => if b.2 < k || (b.2 == k && n.slots.headD 0 < b.1.slots.headD 0) then some (n, k) else best) none

/-- Fresh slots for a copy, one in each group; none where a group has no room. -/
def State.takeSlots (s : State) (gs : List Nat) : Option (State × List Nat) :=
  gs.foldl (fun a g => match a with
    | none => none
    | some (t, l) => (t.takeSlot g (t.kv.nodes.length + 1)).map fun r => (r.1, l ++ [r.2])) (some (s, []))

/-- CS_LOOKUP: a prefill that starts at position 0 takes the chunks that the sheet holds: SHARE for each matched chunk, and in a
plan of K8 groups alone a COPY of a partial one (log entry 113). -/
def execCsLookup (session : Nat) (s : State) : Ret :=
  .next (match s.sessById session with
  | none => s
  | some x =>
    if !s.isLead || x.state != .prefilling || x.kvLen != 0 || x.lookedUp || x.held || !s.sliceBusy then s else
    let done (t : State) (len : Nat) (path : List Nat) : State :=
      (t.modSess x.index fun y => { y with lookedUp := true, kvLen := len, path := path }).pushUpdate x.index
    let s1 := s.countGroups ctCsLookups 1
    if !s.kv.csEnable then done s1 0 [] else
    let gs := List.range s.plan.groups.length
    let lin := s.lineage x
    let hit := s.csWalk lin x.tokens ((x.n - 1) / 64) 0
    let m := hit.length
    let path := hit.map (·.id)
    let share := (indexed hit).flatMap fun h => gs.map fun g =>
      ({ session := x.id, chunk := h.1, group := g, action := gShare, slot := h.2.slots.getD g 0 } : Grant)
    let s2 := (share.foldl (fun a g => a.addRef g.group g.slot) s1).csTouch path
    let s3 := (s2.sendGrants share 0 0).countGroups ctCsHitChunks m
    let kids := s3.csChildren lin (path.getLast?.getD 0)
    match (if gs.all (fun g => !s.plan.groupK4 g) then
        bestPartial kids (x.tokens.drop (64 * m)) (x.n - 1 - 64 * m) else none) with
    | none => done s3 (64 * m) path
    | some (n, k) =>
      match s3.takeSlots gs with
      | none => done s3 (64 * m) path
      | some (s4, slots) =>
        let copy := gs.map fun g =>
          ({ session := x.id, chunk := m, group := g, action := gCopy, slot := slots.getD g 0
             frm := n.slots.getD g 0 } : Grant)
        done (((s4.csTouch [n.id]).sendGrants copy 0 0).countGroups ctCsCopy 1) (64 * m + k) path)

/-- Whether a session's chunk lies in a slot in every group, its data in place. -/
def State.chunkInSlots (s : State) (x : Sess) (c : Nat) : Bool :=
  (List.range s.plan.groups.length).all fun g =>
    let e := s.ent g x.index c
    e.valid && !e.ring && !s.moving g x.index c

/-- A free node, by eviction where none is free. -/
def State.csRoom (s : State) : Option State :=
  if s.kv.nodes.length < s.kv.csNodes then some s
  else match s.csEvict with
    | some t => if t.kv.nodes.length < t.kv.csNodes then some t else none
    | none => none

/-- The chunks of a session that now can stand in the sheet, in order (R146): each becomes a child of its path's last node,
takes the session's slots, and a SHARE grant for each slot goes out. -/
def State.csInsert (s : State) (i : Nat) : Nat → State
  | 0 => s
  | fuel + 1 =>
    match s.sess? i with
    | none => s
    | some x =>
      let lin := s.lineage x
      let hit := s.csWalk lin x.tokens (x.kvLen / 64) 0
      let c := hit.length
      if !s.kv.csEnable || x.kvLen < 64 * (c + 1) || !s.chunkInSlots x c then s else
        match s.csRoom with
        | none => s
        | some s1 =>
          let gs := List.range s.plan.groups.length
          let slots := gs.map fun g => (s.ent g i c).slot
          let n : CsNode := { id := s1.kv.nextNode, parent := (hit.map (·.id)).getLast?.getD 0, lineage := lin
                              tokens := (x.tokens.drop (64 * c)).take 64, slots := slots, used := s.now }
          let s2 := s1.onKv fun k => { k with nodes := k.nodes ++ [n], nextNode := k.nextNode + 1 }
          let s3 := (indexed slots).foldl (fun a p => a.addRef p.1 p.2) s2
          let s4 := (s3.sendGrants (gs.map fun g =>
            { session := x.id, chunk := c, group := g, action := gShare, slot := slots.getD g 0 }) 0 0).countGroups ctCsInsert 1
          s4.csInsert i fuel

/-! ### Commit notices (Table 4.7) -/

structure Notice where
  session : Nat
  epoch : Nat
  count : Nat
  step : Nat
  path : Nat
  newLen : Nat
  deriving DecidableEq, Repr

def Notice.bytes (c : Notice) : Bytes :=
  le 4 c.session ++ le 4 (c.epoch + c.count * 65536) ++ le 8 c.step ++ le 8 c.path ++ le 4 c.newLen ++ zeros 4

def noticeOf (b : Bytes) : Notice :=
  { session := rd 4 b 0, epoch := rd 2 b 4, count := bitsOf (rd 4 b 4) 20 16, step := rd 6 b 8, path := rd 8 b 16
    newLen := rd 4 b 24 }

def noticeRsv (b : Bytes) : Bool := rd 4 b 4 / 2 ^ 21 != 0 || rd 2 b 14 != 0 || rd 4 b 28 != 0

/-- Entry k of a PATH. -/
def pathAt (path k : Nat) : Nat := path / 16 ^ k % 16

/-- PATH is a root path of a record's tree: each row's mask has exactly the bits of the path up to it. -/
def pathOk (r : ARec) (count path : Nat) : Bool :=
  count != 0 && pathAt path 0 == 0 && (rangeFrom 1 (count - 1)).all fun k =>
    r.mask.getD (pathAt path k) 0 == (List.range (k + 1)).foldl (fun a j => a ||| 2 ^ pathAt path j) 0

/-- The address and the form of the page that holds a session's position, and the row's place in the chunk. -/
def State.kvPlace (s : State) (g : Nat) (q : Pool) (sess pos : Nat) : Nat × Bool × Nat :=
  let e := s.ent g sess (pos / 64)
  (q.at e sess, q.isK8 e, pos % 64)

/-- The key and value rows of every head of a pool copied from one position to another. -/
def State.copyKvPos (s : State) (g : Nat) (q : Pool) (sess src dst : Nat) : State :=
  let a := s.kvPlace g q sess src
  let b := s.kvPlace g q sess dst
  (List.range q.heads).foldl (fun (t : State) h => [0, 1].foldl (fun (u : State) k =>
    u.putKvRow b.1 b.2.1 q.heads q.dim (rowIdx h k b.2.2)
      ((u.kvRow a.1 a.2.1 q.heads q.dim (rowIdx h k a.2.2)).reform a.2.1 b.2.1 q.dim)) t) s

/-- The rows of a path brought together behind the committed length (R135 step 3). -/
def State.movePath (s : State) (sess kvLen count path : Nat) : State :=
  (rangeFrom 1 (count - 1)).foldl (fun (t : State) k =>
    if pathAt path k = k then t else
      (List.range s.plan.groups.length).foldl (fun (u : State) g =>
        (s.plan.pools g).foldl (fun (v : State) q => v.copyKvPos g q sess (kvLen + pathAt path k) (kvLen + k)) u) t) s

/-- A commit notice on a module: its epoch, its path, the moves and the new length (R135). -/
def State.applyCommit (s0 : State) (c : Notice) : State :=
  let s := s0.onKv fun k => { k with commits := k.commits.filter (· != (c.session, c.step)) }
  match s.sessById c.session with
  | none => s.countGroups ctKvStaleCommit 1
  | some x =>
    if c.epoch != x.epoch then s.countGroups ctKvStaleCommit 1
    else
      let land (t : State) : State := (t.modSess x.index fun y => { y with kvLen := c.newLen }).countGroups ctKvCommits 1
      if c.count = 0 then land s else
        match ((s.step? c.step).bind fun t => t.find c.session) with
        | some (_, _, r) =>
          if pathOk r c.count c.path then land (s.movePath x.index r.kvLen c.count c.path)
          else s.stepFault fltKvTree noUnit c.step
        | none => s.stepFault fltKvTree noUnit c.step

/-- COMMIT as it arrives from the lead. -/
def execCommit (port : Nat) (k : Packet) (s : State) : Ret :=
  .next (s.recvMsg port k mCommit fun s m =>
    if m.entries.any noticeRsv then s.badMsg port m
    else if s.isLead then s
    else (m.entries.foldl (fun a b => a.applyCommit (noticeOf b)) s).pruneSteps)

/-- A session's hold by a step released. -/
def State.releaseHold (s : State) (i step : Nat) : State :=
  s.modSess i fun y => { y with heldBy := y.heldBy.filter (fun h => h.1 != step), readyNs := s.now }

/-- The lead's commit notice for a session of a step: sent, applied here, and the hold released. -/
def State.sendCommit (s : State) (c : Notice) : State :=
  ((s.sendAll mCommit 0 c.step [c.bytes]).applyCommit c).releaseHold (c.session % 4096) c.step

end Sys2Proof.Machine
end

