-- ==== Sys2Proof/Machine/PlanCost.lean ====
section
/-! DEFINITION. What the plan checker and the composer cost work at: the operator costs of R451 (Table 2.29), the passes of a
LORA (R234), the cost of a session on an ATTN and the ATTN budgets (R142). Costs are cycles at 2.25 GHz. -/

namespace Sys2Proof.Machine

open Sys2Proof

/-- MACs per cycle of an operand pair (Table 1.4), by WFMT and AFMT; none where the pair is in no row. FP8 pairs with FP8
activations, which AFMT spells A8. -/
def pairRate (w a : Nat) : Option Nat :=
  match w, a with
  | 0, 0 => some 2304
  | 0, 1 => some 1152
  | 1, 1 => some 1152
  | 2, 1 => some 1152
  | 3, 2 => some 576
  | _, _ => none

def mmM (d : List Nat) : Nat := fld d 0x40 15 0
def mmN (d : List Nat) : Nat := fld d 0x40 31 16
def mmK (d : List Nat) : Nat := fld d 0x44 15 0

/-- Groups of rows that a descriptor runs: one, or for a VAR_ROWS MATMUL those of an expert that every position of its
half-batch is sent to (R80). -/
def PlanObj.rowGroups (p : PlanObj) (d : List Nat) : Nat :=
  if dVarRows d then ceilDiv (p.maxPositions / 2) (mmM d) else 1

/-- Cycles of a MATMUL; at the A8 rate in an MoE layer (R80). -/
def PlanObj.matmulCycles (p : PlanObj) (d : List Nat) : Nat :=
  let moe := dPhase d = 1 ∧ layerKind (p.layer (dLayer d)) = 1
  let a := fld d 0x44 23 20
  let r := (pairRate (fld d 0x44 19 16) (if moe ∧ a = 0 then 1 else a)).getD 1
  p.rowGroups d * ceilDiv (mmM d * mmN d * mmK d) r

/-- Cycles of a LORA: its passes by the handles allowed in a half-batch (R234). -/
def loraCycles (perHb : Nat) (d : List Nat) : Nat :=
  (ceilDiv (mmM d) 48 + perHb) * ceilDiv (48 * fld d 0x44 24 16 * (mmK d + mmN d)) 1152

def atHq (d : List Nat) : Nat := fld d 0x44 6 0
def atHkv (d : List Nat) : Nat := fld d 0x44 13 7
def atHdim (d : List Nat) : Nat := hdimOf (fld d 0x44 15 14)
def atK4 (d : List Nat) : Bool := fld d 0x44 16 16 = 1
def atTable (d : List Nat) : Bool := fld d 0x44 17 17 = 1
def atTree (d : List Nat) : Bool := fld d 0x44 18 18 = 1
def atRotary (d : List Nat) : Bool := fld d 0x44 20 19 = 1
def atPagetab (d : List Nat) : Nat := fld d 0x48 31 0
def atRows (d : List Nat) : Nat := fld d 0x4C 15 0
def atWindow (d : List Nat) : Nat := fld d 0x4C 31 16
def atScale (d : List Nat) : Word32 := w32 (fld d 0x50 31 0)
def atRope (d : List Nat) : Nat := fld d 0x54 31 0

/-- Tops of Table 4.10. -/
def bucketTops : List Nat := [4096, 16384, 65536, 131072, 262144, 524288, 1048576]

/-- The bucket of a length: the smallest whose top is not below it. -/
def bucketOf (len : Nat) : Nat := ((indexed bucketTops).find? (fun b => len ≤ b.2)).elim 6 (·.1)

/-- The charged length of a session with `r` rows on an ATTN (R141, R142). A PREFILL step runs in length-table form. -/
def chargedLen (d : List Nat) (verify : Bool) (kvLen r : Nat) : Nat :=
  let w := 64 * atWindow d
  if verify && !atTable d then
    let top := bucketTops.getD (bucketOf (kvLen + r)) 0
    if w = 0 then top else min top (w + 16)
  else if w = 0 then kvLen + r else min kvLen w + r

/-- Cycles of an ATTN for a session with `r` rows. -/
def attnCycles (d : List Nat) (verify : Bool) (kvLen r : Nat) : Nat :=
  let g := atHq d / atHkv d
  let qrows := 48 * ceilDiv (r * g) 48
  let l48 := 48 * ceilDiv (chargedLen d verify kvLen r) 48
  let a := ceilDiv (2 * atHkv d * qrows * l48 * atHdim d) 1152
  let v := ceilDiv (atHkv d * l48 * (4 * qrows + if atRotary d then 3 * atHdim d else 0)) 64
  max a v + 256

/-- The descriptors of a tile in a phase, with their places. -/
def PlanObj.tileProg (p : PlanObj) (ph t : Nat) : List (Nat × List Nat) :=
  (rangeFrom (p.progFirst ph t) (p.progCount ph t)).map fun i => (i, p.desc i)

/-- The tiles that have descriptors in a phase. -/
def PlanObj.phaseTiles (p : PlanObj) (ph : Nat) : List Nat := (List.range 2304).filter fun t => p.progCount ph t != 0

/-- The ATTN budget of a tile in a layer, the same for each of its ATTN descriptors (R142). -/
def PlanObj.attnBudget (p : PlanObj) (perHb layer tile : Nat) : Nat :=
  let ds := (p.tileProg (phaseOfLayer layer) tile).map (·.2)
  let array := listSum (ds.map fun d =>
    if dOpc d = opMatmul then p.matmulCycles d else if dOpc d = opLora then loraCycles perHb d else 0)
  let n := (ds.filter fun d => dOpc d == opAttn).length
  (layerResNs (p.layer layer) * 9 / 4 - array) / max n 1

/-- Every ATTN descriptor of a plan with its layer, its half-batch and its budget. -/
def PlanObj.attns (p : PlanObj) (perHb : Nat) : List (Nat × Nat × List Nat × Nat) :=
  (List.range p.nLayers).flatMap fun l => (p.phaseTiles (phaseOfLayer l)).flatMap fun t =>
    ((p.tileProg (phaseOfLayer l) t).filter fun e => dOpc e.2 == opAttn).map fun e =>
      (l, dHb e.2, e.2, p.attnBudget perHb l t)

/-- A session's cost on each ATTN of a half-batch, in the order of `attns`. -/
def attnCosts (as_ : List (Nat × Nat × List Nat × Nat)) (hb : Nat) (verify : Bool) (kvLen r : Nat) : List Nat :=
  (as_.filter fun a => a.2.1 == hb).map fun a => attnCycles a.2.2.1 verify kvLen r

/-- Each sum within its budget. -/
def withinBudgets (as_ : List (Nat × Nat × List Nat × Nat)) (hb : Nat) (sums : List Nat) : Bool :=
  ((as_.filter fun a => a.2.1 == hb).zip sums).all fun x => decide (x.2 ≤ x.1.2.2.2)

/-- Excess cycles of a half-batch over its budgets, by layer (R143). -/
def layerExcess (as_ : List (Nat × Nat × List Nat × Nat)) (hb : Nat) (sums : List Nat) (layer : Nat) : Nat :=
  (((as_.filter fun a => a.2.1 == hb).zip sums).filter fun x => x.1.1 == layer).foldl
    (fun m x => max m (x.2 - x.1.2.2.2)) 0

/-- Cycles at 2.25 GHz in nanoseconds, rounded up. -/
def cyclesNs (c : Nat) : Nat := ceilDiv (c * 4) 9

end Sys2Proof.Machine
end

