-- ==== Sys2Proof/Machine/Compose.lean ====
section
/-! DEFINITION. The step composer (R83, R84, R216 to R218): which sessions are ready, the kind of a step, the trees that verify
(R230), the chunks that a session's rows need (R128, R130, R147), the attention budget (R142, R143), and STEP_COMPOSE. -/

namespace Sys2Proof.Machine

open Sys2Proof

/-! ### Ready sessions (R216, R218) -/

/-- The length that a session's prefill goes to: through its last token with a generation pending, else through the one
before it. -/
def Sess.prefillTo (x : Sess) : Nat := if x.generation.isSome then x.n else x.n - 1

/-- What keeps a session out of every step: a close, an earlier step that holds it, an adapter not yet in the pool, and, while
the slice drains, the want of a generation. -/
def State.placeable (s : State) (x : Sess) : Bool :=
  !x.closing && !x.held && s.inPool x.handle && (s.srv.sliceState == .running || x.generation.isSome)

def State.readyPrefill (s : State) (x : Sess) : Bool :=
  s.placeable x && x.state == .prefilling && decide (x.kvLen < x.prefillTo) && (x.lookedUp || x.kvLen != 0)

/-- Ready to verify: GENERATING, with a pending token to root the tree. -/
def State.readyVerify (s : State) (x : Sess) : Bool :=
  s.placeable x && x.state == .generating && x.n == x.kvLen + 1

/-! ### Trees (R137, R230) -/

/-- The masks of a tree's rows. -/
def treeMasks (rows : List TreeRow) : List Nat :=
  (indexed rows).foldl (fun ms r => ms ++ [2 ^ r.1 + if r.1 = 0 then 0 else ms.getD r.2.parent 0]) []

/-- The branch whose outcome is the actual one. -/
def Sess.matchBranch (x : Sess) : Option Branch :=
  x.branches.find? fun b => b.epoch == x.epoch && b.rootOnly == x.rootOnly && b.token == x.lastTok &&
    (b.rootOnly || b.row == x.outRow)

def rootTree (token : Nat) : List TreeRow := [{ token := token, parent := 0, depth := 0 }]

/-- Whether a part of a branch for the session has come (R230's branch that is not complete). -/
def State.branchLate (s : State) (x : Sess) : Bool :=
  s.fab.asm.any fun a => a.msg == mDraftTree && rd 4 a.bytes 0 == x.id

/-- Positions that every group's page tables have room for. -/
def PlanObj.posRoom (p : PlanObj) : Nat := p.groups.foldl (fun a t => min a (64 * grChunks t)) (2 ^ 32)

/-- The tree that a session verifies next, cut to the positions that page tables can hold (log entry 110), and whether a branch
matched. -/
def State.nextTree (s : State) (x : Sess) : List TreeRow × Bool :=
  match x.matchBranch with
  | some b => (b.tree.take (max 1 (s.plan.posRoom - x.kvLen)), true)
  | none => (rootTree x.lastTok, false)

/-! ### Candidates -/

/-- A session that may be placed, with its rows. -/
structure Cand where
  x : Sess
  rows : Nat
  last : Bool
  tree : List TreeRow
  matched : Bool
  deriving DecidableEq, Repr

/-- A half-batch as it fills. -/
structure HbFill where
  pos : Nat := 0
  cands : List Cand := []
  handles : List Nat := []
  sums : List Nat := []
  closed : Bool := false
  grants : List Grant := []
  deriving DecidableEq, Repr

/-- A composition in course. -/
structure Comp where
  st : State
  a : HbFill := {}
  b : HbFill := {}
  left : List Cand := []
  short : List Nat := []

def State.cand (s : State) (verify : Bool) (x : Sess) : Cand :=
  if verify then
    let t := s.nextTree x
    { x := x, rows := t.1.length, last := false, tree := t.1, matched := t.2 }
  else
    let rest := x.prefillTo - x.kvLen
    let r := min s.plan.chunkPositions rest
    { x := x, rows := r, last := x.generation.isSome && r == rest, tree := [], matched := true }

/-- Whether a candidate's cost alone is beyond a budget of a half-batch (R143). -/
def costAlone (as_ : List (Nat × Nat × List Nat × Nat)) (hb : Nat) (verify : Bool) (c : Cand) : Bool :=
  !withinBudgets as_ hb (attnCosts as_ hb verify c.x.kvLen c.rows)

def addCosts (a b : List Nat) : List Nat := if a.isEmpty then b else List.zipWith (· + ·) a b

/-- A candidate fits a half-batch: positions, sessions, handles and attention cost (R51, R142, R143, R233). -/
def State.fits (s : State) (as_ : List (Nat × Nat × List Nat × Nat)) (verify : Bool) (hb : Nat) (f : HbFill) (c : Cand) :
    Bool :=
  let p := s.plan
  !f.closed && decide (f.pos + c.rows ≤ p.maxPositions / 2) && decide (f.cands.length < p.maxSessionsHb) &&
    (c.x.handle == 0 || f.handles.contains c.x.handle || decide (f.handles.length < s.adp.perHb)) &&
    (if costAlone as_ hb verify c then f.cands.isEmpty
      else withinBudgets as_ hb (addCosts f.sums (attnCosts as_ hb verify c.x.kvLen c.rows)))

/-! ### Chunks for a session's rows (R128, R130, R147) -/

/-- Ring entries that a session's chunks hold or wait for. -/
def State.ringBusy (s : State) (x : Sess) (g c0 : Nat) : List Nat :=
  ((rangeFrom (c0 - 7) 9).filterMap fun c =>
    let e := s.ent g x.index c
    if e.valid && e.ring then some e.slot else none) ++
  (s.kv.moves.filterMap fun m =>
    if m.group == g && m.session == x.index && m.action == gRestoreRing then some m.slot else none)

/-- The grants of one group: the ring chunks that have left the window are fixed, and the chunks of the rows are mapped, in a
ring entry within the window of a K4 group. None where no slot is free. -/
def State.groupGrants (s : State) (x : Sess) (rows kvAfter g : Nat) : Option (State × List Grant) :=
  let k4 := s.plan.groupK4 g
  let c0 := x.kvLen / 64
  let inWin (c : Nat) : Bool := k4 && decide (kvAfter ≤ 64 * c + 63 + 256)
  let old := (rangeFrom (c0 - 7) (c0 + 1 - (c0 - 7))).filter fun c =>
    let e := s.ent g x.index c
    e.valid && e.ring && !inWin c && !s.moving g x.index c
  let new := (rangeFrom c0 ((x.kvLen + rows - 1) / 64 + 1 - c0)).filter fun c =>
    !(s.ent g x.index c).valid && !s.moving g x.index c
  let fixed := old.foldl (fun (a : Option (State × List Grant)) c => match a with
    | none => none
    | some (t, gs) => (t.takeSlot g (t.kv.nodes.length + 1)).map fun r =>
      (r.1, gs ++ [{ session := x.id, chunk := c, group := g, action := gFix, slot := r.2 }])) (some (s, []))
  let freed := old.map fun c => (s.ent g x.index c).slot
  let busy := s.ringBusy x g c0
  (new.foldl (fun (a : Option (State × List Grant × List Nat)) c => match a with
    | none => none
    | some (t, gs, used) =>
      if inWin c then
        let order := (rangeFrom c 6).map (· % 6)
        let n := (order.find? fun r => !busy.contains r && !used.contains r).getD
          ((order.find? fun r => freed.contains r && !used.contains r).getD (c % 6))
        some (t, gs ++ [{ session := x.id, chunk := c, group := g, action := gRing, slot := n }], n :: used)
      else (t.takeSlot g (t.kv.nodes.length + 1)).map fun r =>
        (r.1, gs ++ [{ session := x.id, chunk := c, group := g, action := gMap, slot := r.2 }], used))
    (fixed.map fun f => (f.1, f.2, []))).map fun r => (r.1, r.2.1)

/-- The grants of every group, FIX_WINDOW ahead of RING in each. -/
def State.kvGrants (s : State) (x : Sess) (rows kvAfter : Nat) : Option (State × List Grant) :=
  (List.range s.plan.groups.length).foldl (fun (a : Option (State × List Grant)) g => match a with
    | none => none
    | some (t, gs) => (t.groupGrants x rows kvAfter g).map fun r => (r.1, gs ++ r.2)) (some (s, []))

/-! ### The loop of R84 -/

def State.deficit (s : State) (c : Nat) : Rat := tgetD s.srv.deficits c 0

/-- The deficits of the clients with a ready session topped up by their shares. -/
def State.topUp (s : State) (clients : List Nat) : State :=
  let cap : Rat := s.plan.maxPositions
  let share (c : Nat) : Nat := ceShare (s.clientEntry c)
  let total := listSum (clients.map share)
  clients.foldl (fun a c => a.onSrv fun v => { v with
    deficits := tset v.deficits c (min (tgetD v.deficits c 0 + cap * share c / total) (4 * cap)) }) s

/-- The client that is served next among fitting candidates, and its longest-waiting session. -/
def State.pick (s : State) (fit : List Cand) : Option Cand :=
  fit.foldl (fun best c => match best with
    | none => some c
    | some b =>
      let db := s.deficit b.x.client
      let dc := s.deficit c.x.client
      let better := if b.x.client = c.x.client then
          decide (c.x.readyNs < b.x.readyNs) || (c.x.readyNs == b.x.readyNs && decide (c.x.index < b.x.index))
        else decide (db < dc) || (db == dc && decide (c.x.client < b.x.client))
      if better then some c else best) none

/-- A candidate placed in a half-batch. -/
def HbFill.place (f : HbFill) (c : Cand) (costs : List Nat) (alone : Bool) (gs : List Grant) : HbFill :=
  { pos := f.pos + c.rows, cands := f.cands ++ [c]
    handles := if c.x.handle = 0 then f.handles else addNew f.handles c.x.handle
    sums := addCosts f.sums costs, closed := alone, grants := f.grants ++ gs }

/-- One turn of the loop for one class; none where nothing fits. -/
def Comp.turn (q : Comp) (as_ : List (Nat × Nat × List Nat × Nat)) (verify : Bool) (cls : Nat) : Option Comp :=
  let ok (hb : Nat) (f : HbFill) (c : Cand) : Bool := q.st.fits as_ verify hb f c
  let fit := q.left.filter fun c => c.x.cls == cls && (ok 0 q.a c || ok 1 q.b c)
  match q.st.pick fit with
  | none => none
  | some c =>
    let rest := q.left.filter fun y => y.x.index != c.x.index
    let hb := if !ok 1 q.b c then 0 else if !ok 0 q.a c then 1 else if q.b.pos < q.a.pos then 1 else 0
    match q.st.kvGrants c.x c.rows (if verify then c.x.kvLen else c.x.kvLen + c.rows) with
    | none => some { q with left := rest, short := q.short ++ [c.x.index] }
    | some (t, gs) =>
      let cap : Rat := q.st.plan.maxPositions
      let t1 := t.onSrv fun v => { v with
        deficits := tset v.deficits c.x.client (max (tgetD v.deficits c.x.client 0 - c.rows) (-4 * cap)) }
      let alone := costAlone as_ hb verify c
      let costs := attnCosts as_ hb verify c.x.kvLen c.rows
      some (if hb = 0 then { q with st := t1, a := q.a.place c costs alone gs, left := rest }
        else { q with st := t1, b := q.b.place c costs alone gs, left := rest })

def Comp.fill (q : Comp) (as_ : List (Nat × Nat × List Nat × Nat)) (verify : Bool) (cls : Nat) : Nat → Comp
  | 0 => q
  | fuel + 1 => match q.turn as_ verify cls with
    | none => q
    | some r => r.fill as_ verify cls fuel

/-! ### The step composed -/

/-- The tokens of a candidate's rows. -/
def Cand.tokens (c : Cand) : List Nat :=
  if c.tree.isEmpty then (c.x.tokens.drop c.x.kvLen).take c.rows else c.tree.map (·.token)

def HbFill.batch (f : HbFill) (p : PlanObj) (verify : Bool) : HalfBatch :=
  let firsts := f.cands.foldl (fun (a : List Nat × Nat) c => (a.1 ++ [a.2], a.2 + c.rows)) ([], 0)
  let table := (p.sec secDesc).any fun d => dOpc d == opAttn && !atTable d
  { rows := (f.cands.zip firsts.1).map fun c =>
      { session := c.1.x.id, epoch := c.1.x.epoch, rows := c.1.rows, firstRow := c.2, lastChunk := c.1.last
        adapter := c.1.x.handle }
    recs := f.cands.map fun c =>
      { kvLen := c.x.kvLen, bucket := if verify && table then bucketOf (c.x.kvLen + c.rows) else 0
        mask := if verify then (List.range 16).map fun i => (treeMasks c.tree).getD i 0 else List.replicate 16 0
        depth := if verify then (List.range 16).map fun i => ((c.tree[i]?).elim 0 (·.depth)) else List.replicate 16 0 } }

/-- What being placed does to a session: the hold, the tree, and its wait's end. -/
def State.holdCand (s : State) (n : Nat) (verify : Bool) (c : Cand) : State :=
  let s1 := s.modSess c.x.index fun y => { y with
    heldBy := y.heldBy ++ [(n, y.epoch)], waitingNs := none
    tree := c.tree, branches := if verify then [] else y.branches
    rootOnly := if verify then c.tree.length == 1 else y.rootOnly }
  let s2 := s1.onKv fun k => { k with commits := k.commits ++ [(c.x.id, n)] }
  let s3 := s2.touchPool c.x.handle
  if c.matched then s3
  else s3.count (if s.branchLate c.x then ctDraftLate else ctDraftMiss) (s.plan.proofModule c.x.index) 1

/-- A session left out for want of a KV slot (R147, R215). -/
def State.leaveOut (s : State) (i : Nat) : State :=
  (s.modSess i fun y => { y with waitingNs := some (y.waitingNs.getD s.now) }).countGroups ctKvWait 1

/-- Whether the lead may compose: the previous step has entered POST here or is gone, no abort waits for reports, and nothing
holds composition (R216, R271, R418). -/
def State.mayCompose (s : State) : Bool :=
  s.isLead && (s.srv.sliceState == .running || s.srv.sliceState == .draining) && s.pwr.state == .s0 &&
    s.fw.handover.isNone && s.steps.awaitClear.isNone &&
    (s.steps.composed == 0 || s.aborted s.steps.composed || s.enteredPhase s.steps.composed s.plan.postPhase)

/-- The kind of the next step (R217): none where no session is ready. -/
def State.nextKind (s : State) (ver pre : List Sess) : Option Bool :=
  if ver.isEmpty then (if pre.isEmpty then none else some false)
  else if pre.any (fun x => decide (x.cls < 2)) && decide (s.srv.prefillRun < s.setN setPrefillBurst) then some false
  else some true

/-- Counters of a step by its kind, and the run of PREFILL steps. -/
def State.countStep (s : State) (verify : Bool) (ver : List Sess) : State :=
  if verify then (s.count ctVerifySteps 0 1).onSrv fun v => { v with prefillRun := 0 }
  else
    let s1 := (s.count ctPrefillSteps 0 1).count ctDeferred 0 (b2n !ver.isEmpty)
    if ver.any (fun x => decide (x.cls < 2)) then s1.onSrv fun v => { v with prefillRun := v.prefillRun + 1 } else s1

/-- The step made of what was placed: recorded, its grants and tables sent, or held before PRE while the darkslide is closed
(R83, R261). -/
def Comp.finish (q : Comp) (verify : Bool) (ver : List Sess) : State :=
  let s := q.short.foldl (fun (a : State) i => a.leaveOut i) q.st
  let s1 := s.onSrv fun v => { v with kvShortage := !q.short.isEmpty }
  let placed := q.a.cands ++ q.b.cands
  if placed.isEmpty then s1 else
    let n := s.steps.composed + 1
    let held := s.wts.swap.any (·.closedNs.isSome)
    let t : Step :=
      { seq := n, verify := verify, hb0 := q.a.batch s.plan verify, hb1 := q.b.batch s.plan verify, held := held
        tokens := [(0, q.a.cands.flatMap Cand.tokens), (1, q.b.cands.flatMap Cand.tokens)], got := [0, 1, 2, 3] }
    let s2 := s1.onSteps fun x => { x with composed := n, live := x.live ++ [t] }
    let s3 := (placed.foldl (fun (a : State) c => a.holdCand n verify c) s2).countStep verify ver
    let s4 := (s3.sendGrants q.a.grants 0 n).sendGrants q.b.grants 1 n
    if held || s4.aborted n then s4 else s4.sendTables n

/-- The darkslide closes at the next composition after an accepted swap (R261). -/
def State.closeDarkslide (s : State) : State :=
  match s.wts.swap with
  | some r => if r.closedNs.isSome then s else
      (s.onWts fun w => { w with swap := some { r with closedNs := some s.now } }).onSrv fun v => { v with held := true }
  | none => s

/-- STEP_COMPOSE. The restores that wait for room are tried first; commits and adapter installs take their step boundary. -/
def execStepCompose (s : State) : Ret :=
  .next (if !s.mayCompose then s else
    let s1 := ((s.closeDarkslide).assignCommits (s.steps.composed + 1)).installPending
    let s2 := (s1.allSess.map (·.index)).foldl (fun (a : State) i => a.tryRestore i) s1
    let ver := s2.allSess.filter s2.readyVerify
    let pre := s2.allSess.filter s2.readyPrefill
    let s3 := match s2.nextKind ver pre with
      | none => s2
      | some verify =>
        let ready : List Sess := if verify then ver else pre
        let t := s2.topUp ((ready.map fun (y : Sess) => y.client).foldl addNew [])
        let as_ := t.plan.attns t.adp.perHb
        let q : Comp := { st := t, left := ready.map (t.cand verify) }
        let full := [0, 1, 2].foldl (fun (c : Comp) cls => c.fill as_ verify cls ready.length) q
        full.finish verify ver
    s.noteState s3.settleDrain)

end Sys2Proof.Machine
end

