-- ==== Sys2Proof/Machine/Weights.lean ====
section
/-! DEFINITION. Weights and tiers (chapter 7): shard writes by parts, inline or by DMA (R247 to R249, R302), verifies
(R250), chunk errors and their recovery (R252), digest sweeps (R253, R254), streamed fetches (R255 to R257), weight swaps
(R259 to R263), backing copies (R241), and the unload of a plan. -/

namespace Sys2Proof.Machine

open Sys2Proof

/-! ### OP_SHARD_WRITE (Tables 7.6, 7.7 and 9.11) -/

/-- The fields of an OP_SHARD_WRITE. -/
structure ShardCmd where
  kind : Nat
  coded : Bool
  dma : Bool
  repair : Bool
  id : Nat
  gen : Nat
  len : Nat
  total : Nat
  off : Nat
  part : Nat
  ranges : Nat
  deriving DecidableEq, Repr

def shardCmd (b : Bytes) : ShardCmd :=
  let w := rd 4 b 0
  { kind := w % 4, coded := bitOf w 2, dma := bitOf w 3, repair := bitOf w 4, id := rd 4 b 4, gen := rd 4 b 8
    len := rd 8 b 0x10, total := rd 8 b 0x18, off := rd 8 b 0x20, part := rd 8 b 0x28, ranges := rd 2 b 0x30 }

/-- A shard's index and data area: the least and the greatest length of the transmitted form. -/
def formRange (coded : Bool) (len : Nat) : Nat × Nat :=
  if coded then (dataStart len, dataStart len + len) else (len, len)

def formOk (coded : Bool) (len total : Nat) : Bool :=
  let r := formRange coded len
  r.1 ≤ total && total ≤ r.2 && (total - r.1) % 64 == 0

/-- Highest transmitted length of a WEIGHT shard: 4 GiB and its index. -/
def maxTotal : Nat := 2 ^ 32 + dataStart (2 ^ 32)

/-- Checks 5 and 6 of OP_SHARD_WRITE. -/
def shardWriteChecks (_ : State) (c : Cmd) : List (Bool × Nat × Nat) :=
  let x := shardCmd c.pay
  let range (i : Nat) : Nat × Nat × Nat := (rd 8 c.pay (0x40 + 16 * i), rd 4 c.pay (0x48 + 16 * i), rd 4 c.pay (0x4C + 16 * i))
  let rs := (List.range x.ranges).map range
  [ (decide (c.hdr.payloadLen < 0x40), stLenRange, 0x0C),
    (if x.dma then x.ranges == 0 || decide (248 < x.ranges) else x.ranges != 0, stLenRange, payOff 0x30),
    (!x.dma && (decide (x.part < 64) || decide (3968 < x.part)), stLenRange, payOff 0x28) ] ++
  lenIs c (0x40 + (if x.dma then 16 * x.ranges else x.part)) ++
  [ (x.part % 64 != 0, stLenRange, payOff 0x28),
    (x.dma && rs.any (fun r => r.2.1 == 0 || r.2.1 % 4096 != 0 || decide (2 ^ 30 < r.2.1)), stLenRange, payOff 0x48),
    (x.dma && listSum (rs.map (·.2.1)) != x.part, stLenRange, payOff 0x28),
    (if x.kind = 2 then x.len == 0 || x.len % 4096 != 0 || decide (2 ^ 32 < x.len) else x.len != 0, stLenRange,
      payOff 0x10),
    (if x.kind = 2 then !formOk x.coded x.len x.total
      else if x.kind = 1 then decide (x.total < 64) || x.total % 64 != 0 || decide (maxTotal < x.total)
      else x.total == 0 || decide (2 ^ 31 < x.total), stLenRange, payOff 0x18),
    (decide (x.total < x.off + x.part), stLenRange, payOff 0x28),
    (x.kind == 3, stFieldRange, payOff 0),
    (x.coded && x.kind != 2, stFieldRange, payOff 0),
    (x.repair && x.kind != 1, stFieldRange, payOff 0),
    (decide (32 ≤ rd 4 c.pay 0), stFieldRange, payOff 0),
    (if x.kind = 0 then x.id != 0 else x.id == 0 || x.id == 0xFFFFFFFF, stFieldRange, payOff 4),
    (if x.kind = 1 then x.gen == 0 || x.gen == 0xFFFFFFFF else x.gen != 0, stFieldRange, payOff 8),
    (rd 4 c.pay 0x0C != 0, stFieldRange, payOff 0x0C),
    (x.off % 64 != 0, stFieldRange, payOff 0x20),
    (!allZero (cut c.pay 0x32 14), stFieldRange, payOff 0x32),
    (x.dma && rs.any (fun r => r.1 % 4096 != 0), stFieldRange, payOff 0x40),
    (x.dma && rs.any (fun r => r.2.2 != 0), stFieldRange, payOff 0x4C) ]

/-- Whether a WEIGHT write's generation is refused (R250, R259). -/
def State.genRefused (s : State) (gen : Nat) : Option Nat :=
  let w := s.wts
  if w.curGen = 0 then (if w.firstGen != 0 && w.firstGen != gen then some stVersion else none)
  else if gen < w.curGen then some stVersion
  else if gen = w.curGen then none
  else if w.swap.any (fun r => r.newGen == gen) then some stStateDenied
  else if w.stagedGen != 0 && w.stagedGen != gen then some stStateDenied
  else none

/-- An empty copy for a write's target, WRITING. -/
def State.newCopy (s : State) (x : ShardCmd) (coded : Bool) (len : Nat) : ShardCopy :=
  let backing := x.kind == kWeight && (s.wts.curGen == 0 || x.gen == s.wts.curGen)
  { kind := x.kind, id := x.id, gen := x.gen, role := if x.kind = kWeight && !backing then roleStaged else roleBacking
    state := .writing, coded := coded, length := len, totalLen := x.total
    inT3 := backing && s.wts.t3InService, repair := x.repair }

/-- Room for a whole copy in its target. -/
def State.copyFits (s : State) (c : ShardCopy) : Bool :=
  if c.kind = kAdapter then s.storeUsed + pagesOf c.totalLen ≤ s.adp.storePages
  else if c.inT3 then pagesOf c.totalLen ≤ s.t3Free else pagesOf c.totalLen ≤ s.t2Free

/-- The copy that a write goes to, by Table 7.7, or the refusal. -/
def State.openCopy (s : State) (x : ShardCmd) (coded : Bool) (len : Nat) : (ShardCopy × Bool) ⊕ (Nat × Nat) :=
  let fresh := s.newCopy x coded len
  let start (t : State) : (ShardCopy × Bool) ⊕ (Nat × Nat) :=
    if t.copyFits fresh then .inl (fresh, true) else .inr (stNoSpace, 0)
  match s.copy? x.kind x.id x.gen with
  | none => if x.repair then .inr (stStateDenied, 0) else start s
  | some c =>
    let without : State := s.onWts fun w => { w with copies := w.copies.filter (fun y => !isCopy x.kind x.id x.gen y) }
    match c.state with
    | .empty => start without
    | .writing =>
      if c.totalLen != x.total then .inr (stFieldRange, payOff 0x18)
      else if c.coded != coded || c.length != len then .inr (stFieldRange, payOff 0x10)
      else .inl (c, false)
    | .verifying => .inr (stBusy, 0)
    | .verified => if x.repair && x.gen == s.wts.curGen then start without else .inr (stStateDenied, 0)
    | .failed => start without

/-- Bytes that arrive for a part of a copy. -/
def State.putPart (s : State) (c : ShardCopy) (off : Nat) (b : Bytes) : State :=
  (((s.putCopy { c with data := c.data ++ [(off, b)] }).count ctShardBytes 0 b.length).countBw
    (if c.inT3 then 3 else 2) bwBackground b.length).dataArrives

/-- Bytes that arrive for the plan staging region; another TOTAL_LEN starts it afresh. -/
def State.putPlanPart (s : State) (total off : Nat) (b : Bytes) : State :=
  let g := if s.wts.staging.state = .writing ∧ s.wts.staging.totalLen = total then s.wts.staging
    else { state := .writing, totalLen := total }
  (((s.onWts fun w => { w with staging := { g with parts := g.parts ++ [(off, b)] } }).count ctShardBytes 0 b.length).countBw
    2 bwBackground b.length).dataArrives

/-- A write whose target takes it: inline bytes land at once; a DMA part waits for its PCIe read. -/
def State.shardPart (s1 : State) (c : Cmd) (x : ShardCmd) (land : State → Bytes → State) : Act :=
  if x.dma then .long s1 (objCopy x.kind x.id x.gen) [x.off, x.part, x.total] []
  else .done (land s1 (cut c.pay 0x40 x.part)) stOk 0 []

/-- OP_SHARD_WRITE. -/
def execOpShardWrite (q : Req) (s : State) : Ret :=
  .next (s.runOp q 0x0202 allPayloads shardWriteChecks fun s c =>
    let x := shardCmd c.pay
    if x.dma && c.port != .h then .refuse stPortDenied (payOff 0) else
    s.objAct 0x0202 (objCopy x.kind x.id x.gen) (
      if x.kind = kPlan then
        if s.wts.checking.isSome then .refuse stBusy 0
        else State.shardPart (if x.dma then s.putPlanPart x.total 0 [] else s) c x fun t b => t.putPlanPart x.total x.off b
      else
        let open_ (s : State) (coded : Bool) (len : Nat) : Act :=
          match s.openCopy x coded len with
          | .inr r => .refuse r.1 r.2
          | .inl (k, fresh) =>
            State.shardPart (if x.dma && fresh then s.putCopy k else s) c x fun t b => t.putPart k x.off b
        if x.kind = kAdapter then open_ s x.coded x.len
        else match s.shardEnt x.id with
          | none => .refuse stFieldRange (payOff 4)
          | some e =>
            if !formOk (shCoded e.2) (shLength e.2) x.total then .refuse stLenRange (payOff 0x18)
            else if x.repair && s.sliceBusy then .refuse stStateDenied 0
            else match s.genRefused x.gen with
              | some st => .refuse st (payOff 8)
              | none =>
                let s1 := s.onWts fun w =>
                  if w.curGen = 0 then { w with firstGen := x.gen }
                  else if w.curGen < x.gen then { w with stagedGen := x.gen } else w
                open_ s1 (shCoded e.2) (shLength e.2)))

/-- The PCIe read of a shard-write or firmware part ends: its bytes count as written, or the command completes with
ST_INTERNAL and the failing range. A copy freed meanwhile ends the command with ST_STATE_DENIED. -/
def State.shardDmaDone (s : State) (r : Running) (result : Nat ⊕ Bytes) : State :=
  let kind := r.obj.getD 1 0
  let off := r.args.getD 0 0
  let len := r.args.getD 1 0
  let total := r.args.getD 2 0
  if kind = kPlan then
    if s.wts.staging.state != .writing || s.wts.staging.totalLen != total then s.finishRun r stStateDenied 0 []
    else match result with
      | .inl i => s.finishRun r stInternal i []
      | .inr b => (s.putPlanPart total off (fit len b)).finishRun r stOk 0 []
  else
    match s.copy? kind (r.obj.getD 2 0) (r.obj.getD 3 0) with
    | some c =>
      if c.state != .writing then s.finishRun r stStateDenied 0 []
      else match result with
        | .inl i => s.finishRun r stInternal i []
        | .inr b => (s.putPart c off (fit len b)).finishRun r stOk 0 []
    | none => s.finishRun r stStateDenied 0 []

/-! ### OP_SHARD_VERIFY (R250) -/

/-- The digest that a WEIGHT shard's map entry gives, where that is the expected one: of the first generation after a plan
load, and of a draft plan's shards in the generation that their load met. -/
def State.mapDigest (s : State) (e : PlanObj × List Nat) (gen : Nat) : Option Bytes :=
  let first := if s.wts.main = some e.1 then s.wts.firstGen
    else if s.wts.draftGen = 0 then s.wts.firstGen else s.wts.draftGen
  if gen = first then some (shDigest e.2) else none

def verifyBytes (c : CopyState) (chunk : Option Nat) : Bytes :=
  le 4 (c.code + 8 * b2n chunk.isSome) ++ le 4 (chunk.getD 0)

/-- OP_SHARD_VERIFY. -/
def execOpShardVerify (q : Req) (s : State) : Ret :=
  let own (_ : State) (c : Cmd) : List (Bool × Nat × Nat) :=
    let k := rd 4 c.pay 0 % 4
    lenIs c 0x40 ++
    [ (k == 0 || k == 3, stFieldRange, payOff 0), (decide (4 ≤ rd 4 c.pay 0), stFieldRange, payOff 0),
      (rd 4 c.pay 4 == 0 || rd 4 c.pay 4 == 0xFFFFFFFF, stFieldRange, payOff 4),
      (if k = 1 then rd 4 c.pay 8 == 0 || rd 4 c.pay 8 == 0xFFFFFFFF else rd 4 c.pay 8 != 0, stFieldRange, payOff 8),
      (rd 4 c.pay 0x0C != 0, stFieldRange, payOff 0x0C) ]
  .next (s.runOp q 0x0203 allPayloads own fun s c =>
    let k := rd 4 c.pay 0 % 4
    let id := rd 4 c.pay 4
    let gen := rd 4 c.pay 8
    let dg := cut c.pay 0x10 48
    let ent := if k = kWeight then s.shardEnt id else none
    if k = kWeight && s.wts.main.isNone then .refuse stStateDenied 0
    else if k = kWeight && ent.isNone then .refuse stFieldRange (payOff 4)
    else s.objAct 0x0203 (objCopy k id gen) (
      match s.copy? k id gen with
      | none => .refuse stStateDenied 0
      | some x => match x.state with
        | .empty => .refuse stStateDenied 0
        | .failed => .refuse stStateDenied 0
        | .verifying => .refuse stBusy 0
        | .verified => .done s stOk 0 (verifyBytes .verified none)
        | .writing =>
          if !covered x.totalLen x.data then .refuse stStateDenied 0 else
            let want := match ent with
              | some e => s.mapDigest e gen
              | none => none
            match want with
            | some d =>
              if !allZero dg && dg != d then .refuse stFieldRange (payOff 0x10)
              else .long (s.putCopy { x with state := .verifying }) (objCopy k id gen) [] d
            | none => .long (s.putCopy { x with state := .verifying }) (objCopy k id gen) [] dg))

/-- A shard VERIFIED: its digest is recorded; a shard of a generation that is or is to be current gets its home written;
a repaired one its working copy too; and once all are VERIFIED the generation is current. -/
def State.shardVerified (s : State) (c : ShardCopy) (narrow digest : Bytes) : State :=
  let s1 := (s.putCopy { c with state := .verified, narrow := narrow, digest := digest, marked := false }).count
    ctShardVerified 0 1
  if c.kind != kWeight then s1 else
    let cur := s.wts.curGen
    let s2 := if cur = 0 ∨ c.gen = cur then
        match s1.shardEnt c.id with
        | some e => s1.writeHome c.gen e
        | none => s1
      else s1
    let s3 := if c.gen = cur ∧ cur ≠ 0 then
        (s2.onWts fun w => { w with copies := w.copies.filter fun y =>
          !(y.kind == kWeight && y.id == c.id && y.gen == c.gen && y.role == roleWorking) }).makeWorking cur
      else s2
    if cur = 0 && s3.allVerified s3.wts.firstGen then s3.becomeCurrent s3.wts.firstGen else s3

/-- A verify ends. -/
def execShardVerifyDone (kind id gen : Nat) (s : State) : Ret :=
  .next (match s.mbox.running.find? (fun r => r.opcode == 0x0203 && r.obj == objCopy kind id gen) with
  | none => s
  | some r => match s.copy? kind id gen with
    | none => s.finishRun r stStateDenied 0 []
    | some c =>
      if c.state != .verifying then s.finishRun r stStateDenied 0 [] else
        let failed (st : Nat) (chunk : Option Nat) : State :=
          ((s.putCopy { c with state := .failed }).count ctShardFailed 0 1).finishRun r st 0 (verifyBytes .failed chunk)
        match develop c.coded c.length c.bytes with
        | .bad k st => failed st (some k)
        | .ok narrow =>
          let d := sha384 narrow
          if d != r.body then failed stDigestMismatch none
          else (s.shardVerified c narrow d).finishRun r stOk 0 (verifyBytes .verified none))

/-! ### Chunk errors and lost weights (R252, R254) -/

/-- A copy written anew as RAW chunks from a narrow form. -/
def ShardCopy.rawFrom (c : ShardCopy) (narrow digest : Bytes) : ShardCopy :=
  { c with coded := false, totalLen := narrow.length, data := [(0, narrow)], narrow := narrow, digest := digest
           state := .verified, marked := false }

/-- One copy put in place of the copy of its kind, shard, generation and role. -/
def State.replaceCopy (s : State) (c : ShardCopy) : State :=
  s.onWts fun w => { w with copies := w.copies.map fun y =>
    if y.kind = c.kind ∧ y.id = c.id ∧ y.gen = c.gen ∧ y.role = c.role then c else y }

/-- A shard that no copy of its generation gives any more: FLT_WEIGHT_LOST, and the slice halts at the end of the current
step; it cannot start before a REPAIR write. -/
def State.weightLost (s : State) (id gen chunk step : Nat) : State :=
  let s1 := s.onWts fun w => { w with copies := w.copies.map fun y =>
    if y.kind = kWeight ∧ y.id = id ∧ y.gen = gen then { y with marked := true } else y }
  let s2 := s1.fault fltWeightLost noUnit { args := [id, chunk], stepSeq := step }
  if step = 0 then s2.askHalt fltWeightLost 0 else s2.raiseAbort step fltWeightLost

/-- A chunk error in service: read once more, then from another copy of the generation; the copy that failed is repaired
from it. With none, the shard is lost. A copy that is not current is freed (R254). -/
def State.chunkError (s : State) (id gen role chunk step : Nat) : State :=
  let s1 := s.count ctChunkRetry 0 1
  let others := s1.wts.copies.filter fun y =>
    y.kind == kWeight && y.id == id && y.gen == gen && y.role != role && y.state == .verified && !y.marked
  match s1.wts.copies.find? (fun y => y.kind == kWeight && y.id == id && y.gen == gen && y.role == role) with
  | none => s1
  | some c =>
    if gen != s1.wts.curGen && role != roleWorking then
      (s1.onWts fun w => { w with copies := w.copies.filter (· != c) }).fault fltBackingDigest noUnit { args := [id, chunk] }
    else match others with
      | d :: _ =>
        ((s1.count ctChunkRecovered 0 1).replaceCopy (c.rawFrom d.narrow d.digest)).fault
          (if role = roleWorking then fltWeightDigest else fltBackingDigest) noUnit { args := [id, chunk] }
      | [] => s1.weightLost id gen chunk step

/-- A home weight page rewritten from the backing copy of the generation that it holds; the wait before its layer is REPAIR
stall, whose length is left open. -/
def State.repairHome (s : State) (page step : Nat) : State :=
  let hit := s.shardEnts.filter fun x =>
    !shardStreamed x && pageOf (shardBase x) ≤ page && page * pageBytes < shardBase x + shLength x.2
  let lost := hit.filter fun x => (s.narrowOf (shId x.2) (s.homeGen (s.shardPhase x))).isNone
  let s1 := (hit.foldl (fun a x => a.writeHome (a.homeGen (a.shardPhase x)) x) s).count ctRepair 0 (Config.unstated 35 [page])
  lost.foldl (fun a x => a.weightLost (shId x.2) (a.homeGen (a.shardPhase x)) 0 step) s1

/-! ### Digest sweeps (R253, R254) -/

/-- The shards of the current generation. -/
def State.beginSweep (s : State) : State :=
  if s.wts.curGen = 0 then s
  else s.onWts fun w => { w with sweep := some { done := 0, total := s.shardEnts.length, mismatch := 0, startNs := s.now } }

/-- A sweep falls due. -/
def execSweepPeriod (s : State) : Ret :=
  .next (if !s.l2Up then s
    else if s.wts.sweep.isSome then s.event evSweepLate noUnit
    else if s.wts.swap.isSome then s else s.beginSweep)

/-- OP_DIGEST_SWEEP. While a swap runs, a start waits for the darkslide. -/
def execOpDigestSweep (q : Req) (s : State) : Ret :=
  .next (s.runOp q 0x0206 allPayloads (fun _ c => lenIs c 4 ++
      [(decide (1 < rd 4 c.pay 0), stFieldRange, payOff 0)]) fun s c =>
    let s1 := if rd 4 c.pay 0 = 1 && s.wts.sweep.isNone then
        (if s.wts.swap.isSome then s.onWts fun w => { w with sweepAfterSwap := true } else s.beginSweep) else s
    let r := s1.wts.sweep.getD ⟨0, 0, 0, 0⟩
    .done s1 stOk 0 (le 4 r.done ++ le 4 r.total ++ le 4 r.mismatch ++ le 4 (b2n s1.wts.sweep.isSome)))

/-- Whether a copy still decodes to its recorded digest. -/
def copyGood (c : ShardCopy) : Bool :=
  !c.marked && (match develop c.coded c.length c.bytes with
    | .ok n => sha384 n == c.digest
    | .bad _ _ => false)

/-- One shard of a sweep: the state, and the mismatches found (Table 7.9). -/
def State.sweepShard (s : State) (x : PlanObj × List Nat) : State × Nat :=
  let id := shId x.2
  let cur := s.wts.curGen
  match s.copy? kWeight id cur with
  | none => (s, 0)
  | some b =>
    let work := s.wts.copies.find? fun y => y.kind == kWeight && y.id == id && y.gen == cur && y.role == roleWorking
    let homeOk := if shardStreamed x then work.all copyGood
      else sha384 (s.readRange (shardBase x) (shLength x.2)) == b.digest
    let backOk := copyGood b
    let clean := { args := [s.wts.sweepCleanS] : FaultCtx }
    let s1 := s.count ctSweepBytes 0 (2 * shLength x.2)
    if homeOk && backOk then (s1, 0)
    else if backOk then
      let s2 := if shardStreamed x then s1.replaceCopy { b with role := roleWorking, inT3 := false } else s1.writeHome cur x
      ((s2.count ctRepair 0 (Config.unstated 35 [id])).fault fltWeightDigest noUnit clean, 1)
    else if homeOk then
      let narrow := if shardStreamed x then (work.map ShardCopy.narrow).getD [] else s1.readRange (shardBase x) (shLength x.2)
      ((s1.replaceCopy (b.rawFrom narrow b.digest)).fault fltBackingDigest noUnit { args := [id] }, 1)
    else (s1.weightLost id cur 0 0, 2)

/-- The staged copies that no longer decode are freed. -/
def State.sweepStaged (s : State) : State × Nat :=
  let bad := s.wts.copies.filter fun c =>
    c.kind == kWeight && c.gen != s.wts.curGen && c.role == roleStaged && c.state == .verified && !copyGood c
  (bad.foldl (fun a c => (a.onWts fun w => { w with copies := w.copies.filter (· != c) }).fault fltBackingDigest noUnit
    { args := [c.id] }) s, bad.length)

/-- A sweep completes. -/
def execSweepDone (s : State) : Ret :=
  .next (match s.wts.sweep with
  | none => s
  | some r =>
    let st := s.shardEnts.foldl (fun (a : State × Nat) x => let b := a.1.sweepShard x; (b.1, a.2 + b.2)) (s, 0)
    let sg := st.1.sweepStaged
    let n := st.2 + sg.2
    let s1 := (sg.1.onWts fun w => { w with
      sweep := none, sweepCleanS := if n = 0 then s.clock.lifeS else w.sweepCleanS }).count ctSweepMismatch 0 n
    s1.event evSweepDone noUnit (s.now - r.startNs) n)

/-! ### Backing copies in T3 (R241) -/

/-- A shard's backing copy reaches T3; its T2 pages are free. -/
def execBackingCopyDone (id : Nat) (s : State) : Ret :=
  .next (match s.copy? kWeight id s.wts.curGen with
  | some c =>
    if s.wts.t3InService && c.state == .verified && c.role == roleBacking && !c.inT3 && pagesOf c.totalLen ≤ s.t3Free then
      (s.putCopy { c with inT3 := true }).countBw 3 bwBackground c.totalLen
    else s
  | none => s)

/-! ### Streamed fetches (R255 to R257) -/

/-- The streamed layers in order. -/
def PlanObj.streamedLayers (p : PlanObj) : List Nat := (List.range p.nLayers).filter fun l => layerStreamed (p.layer l)

/-- The half of the stream buffer that a streamed layer uses. -/
def PlanObj.halfOf (p : PlanObj) (layer : Nat) : Nat := p.streamedLayers.idxOf layer % 2

/-- STREAM_BYTES of a layer (Table 2.4). -/
def PlanObj.streamBytes (p : PlanObj) (layer : Nat) : Nat := fld64 (p.layer layer) 0x10

/-- T_L of a streamed layer's bytes: ceil(STREAM_BYTES × 10^9 / B), B = 81.92 × 10^12 × STREAM_BW_PCT / 100. -/
def PlanObj.streamNs (p : PlanObj) (layer : Nat) : Nat :=
  ceilDiv (p.streamBytes layer * 100 * 1000000000) (81920000000000 * p.streamBwPct)

/-- The step for which a layer is to be fetched next: the first in flight that has entered the phase before it. -/
def State.fetchStep (s : State) (layer : Nat) : Option Step :=
  s.steps.live.find? fun t => t.entered && (tget t.enteredNs layer).isSome && !s.leftPhase t.seq (phaseOfLayer layer) &&
    !(tvals s.wts.halves).any (fun h => h.layer == some layer && h.step == t.seq)

/-- A half is free once the layer that last used it has left the module. -/
def State.halfFree (s : State) (h : StreamHalf) : Bool :=
  match h.layer with
  | none => true
  | some l => s.aborted h.step || (h.fetched && s.leftPhase h.step (phaseOfLayer l))

/-- A layer's fetch starts once the phase before it is entered and its half is free. -/
def execStreamFetchStart (layer : Nat) (s : State) : Ret :=
  .next (if !s.wts.main.any (fun p => p.streamedLayers.contains layer) then s else
    let i := s.plan.halfOf layer
    match s.fetchStep layer with
    | none => s
    | some t =>
      if !s.halfFree (tgetD s.wts.halves i {}) then s else
        let h : StreamHalf := { layer := some layer, step := t.seq, startNs := s.now }
        s.onWts fun w => { w with halves := tset w.halves i h })

/-- Causes of Table 7.10 in order. -/
def causeDecode : Nat := 0
def causeLateStart : Nat := 3

/-- A fetch completes: the layer's descriptors may start, and the wait since the phase before it left the module is planned
wait up to T_L from the fetch's start, and stall beyond. -/
def execStreamFetchDone (layer tier cause : Nat) (s : State) : Ret :=
  .next (
    let i := s.plan.halfOf layer
    let h := tgetD s.wts.halves i {}
    if s.wts.main.isNone || h.layer != some layer || h.fetched || 7 ≤ cause then s else
      let s1 := s.onWts fun w => { w with halves := tset w.halves i { h with fetched := true } }
      let s2 := (if cause = causeDecode then s1.count ctChunkRetry 0 1 else s1).countBw 2 bwStream (s.plan.streamBytes layer)
      match s.step? h.step with
      | none => s2
      | some t => match tget t.leftNs layer with
        | none => s2
        | some f =>
          let due := max f (h.startNs + s.plan.streamNs layer)
          let planned := min s.now due - f
          let stall := s.now - due
          let s3 := s2.count ctStreamPlanned 0 planned
          if stall = 0 then s3 else
            let s4 := s3.stall ctStreamStall (tier * 8 + cause) stall layer 0 0 t.seq cause
            s4.onSteps fun x => { x with stalls := tmod x.stalls cause 0 (· + stall) })

/-! ### Weight swaps (R259 to R263) -/

/-- Another module's report of a generation: whether it holds every shard VERIFIED, and its manifest digest. No message
carries it, so both are left open (log entry 86). -/
def otherVerified (m gen : Nat) : Bool := Config.unstated 34 [m, gen] % 2 == 1
def otherManifest (m gen : Nat) : Bytes := le 48 (Config.unstated 33 [m, gen])

/-- MANIFEST of a generation over the slice. -/
def State.sliceManifest (s : State) (gen : Nat) : Bytes :=
  sha384 (s.sliceModules.flatMap fun m => if m = s.index then s.manifest gen else otherManifest m gen)

/-- The KV side of a swap (R153): KEEP moves the lineage roots; DISCARD unmaps every session's chunks on every module. -/
def State.swapKv (s : State) (discard : Bool) (gen : Nat) : State :=
  if discard then ((tkeys s.srv.sessions).foldl (fun a i => a.unmapSession i) s).kvDiscard else s.kvKeep gen

/-- A stopped sweep's successor starts once the darkslide is open. -/
def State.resumeSweep (s : State) : State :=
  if s.wts.sweepAfterSwap then (s.onWts fun w => { w with sweepAfterSwap := false }).beginSweep else s

/-- OP_WEIGHT_SWAP. -/
def execOpWeightSwap (q : Req) (s : State) : Ret :=
  let own (_ : State) (c : Cmd) : List (Bool × Nat × Nat) := lenIs c 0x40 ++
    [ (rd 4 c.pay 0 == 0 || rd 4 c.pay 0 == 0xFFFFFFFF, stFieldRange, payOff 0),
      (decide (1 < rd 4 c.pay 4), stFieldRange, payOff 4), (rd 8 c.pay 8 != 0, stFieldRange, payOff 8) ]
  .next (s.runOp q 0x0204 allPayloads own fun s c =>
    let gen := rd 4 c.pay 0
    let discard := rd 4 c.pay 4 = 1
    match firstFail
      [ (s.wts.main.isNone, stStateDenied, 0), (s.wts.swap.isSome, stBusy, 0),
        (decide (gen ≤ s.wts.curGen), stVersion, payOff 0),
        (!(s.allVerified gen && s.others.all fun m => otherVerified m gen), stStateDenied, payOff 0),
        (cut c.pay 0x10 48 != s.sliceManifest gen, stDigestMismatch, payOff 0x10) ] with
    | some (st, d) => .refuse st d
    | none =>
      let run : SwapRun := { newGen := gen, discard := discard, port := c.port, slot := c.slot, closedNs := none
                             writing := none, phase := 0, reports := [] }
      let s1 := s.onWts fun w => { w with
        swap := some run, sweep := none, sweepAfterSwap := w.sweepAfterSwap || w.sweep.isSome }
      if s.sliceRunning then .long s1 objSwap [] []
      else
        let s2 := (s1.finishSwapWrites).onWts fun w => { w with swap := none }
        .done (((s2.swapKv discard gen).count ctSwaps 0 1).resumeSweep) stOk 0 (le 8 0))

/-- A module's part in a swap: on the lead once the darkslide is closed; on another module, whose lead it is that closed it,
from the first phase on (log entry 86). -/
def State.swapHere (s : State) : Option SwapRun :=
  match s.wts.swap with
  | some r => if r.closedNs.isSome then some r else none
  | none =>
    if !s.isLead && s.wts.stagedGen != 0 && s.allVerified s.wts.stagedGen && s.sliceRunning then
      some { newGen := s.wts.stagedGen, discard := false, port := .h, slot := 0, closedNs := some s.now, writing := none
             phase := 0, reports := [] }
    else none

/-- The homes of a phase begin to be overwritten once the last step of the old generation has left the phase here. In S1
the tile clocks are gated and writes wait (R262). -/
def execHomePhaseWrite (phase : Nat) (s : State) : Ret :=
  .next (match s.swapHere with
  | none => s
  | some r =>
    if r.writing.isSome || r.phase != phase || s.plan.postPhase < phase || s.pwr.state != .s0 ||
        !(s.oldStepsBefore phase).isEmpty then s
    else s.onWts fun w => { w with swap := some { r with writing := some phase } })

/-- The homes of a phase are written. With POST the module switches its streamed tensors and reports. -/
def execHomePhaseWritten (phase : Nat) (s : State) : Ret :=
  .next (match s.wts.swap with
  | none => s
  | some r =>
    if r.writing != some phase then s else
      let s1 := ((s.writeHomes r.newGen phase).countBw 2 bwSwap 0).onWts fun w => { w with
        homeGens := tset w.homeGens phase r.newGen
        swap := some { r with writing := none, phase := phase + 1, reports := [] } }
      if phase != s.plan.postPhase then s1
      else if s.isLead then
        (s1.makeWorking r.newGen).onWts fun w => { w with
          swap := some { r with writing := none, phase := phase + 1, reports := [s.index] } }
      else (s1.becomeCurrent r.newGen).onWts fun w => { w with swap := none })

/-- A held step whose sessions' chunks KV_DISCARD has unmapped is taken back: no module knows it yet, and its sessions wait for
the next composition (DESIGN CHOICE, log entry 109). -/
def State.uncompose (s : State) (n : Nat) : State :=
  ((s.releaseFrom n).onSteps fun x => { x with live := x.live.filter (fun t => t.seq < n), composed := n - 1 }).onKv fun k =>
    { k with commits := k.commits.filter (fun c => c.2 < n) }

/-- Every module has written POST: the lead opens the darkslide. The generation is current, the held steps' tables go out
and the steps may enter PRE, KV_MODE takes effect, and the command completes with the hold. -/
def execDarkslideOpen (s : State) : Ret :=
  .next (match s.wts.swap with
  | none => s
  | some r =>
    if !s.isLead || r.phase ≤ s.plan.postPhase || r.writing.isSome then s else
      let hold := s.now - r.closedNs.getD s.now
      let s1 := (s.becomeCurrent r.newGen).onWts fun w => { w with swap := none }
      let s2 := (s1.count ctSwapHold 0 hold).count ctSwaps 0 1
      let s3 := (s2.onSrv fun v => { v with held := false }).swapKv r.discard r.newGen
      let freed := (s3.steps.live.filter (·.held)).map (·.seq)
      let s4 := if r.discard then freed.foldl (fun a n => a.uncompose n) s3
        else freed.foldl (fun a n => (a.modStep n fun t => { t with held := false }).sendTables n) s3
      (s4.finishAt r.port r.slot stOk 0 (le 8 hold)).resumeSweep)

/-! ### OP_PLAN_UNLOAD (R302) -/

/-- OP_PLAN_UNLOAD: the staged generation alone, or plan, next plan and every weight copy. -/
def execOpPlanUnload (q : Req) (s : State) : Ret :=
  .next (s.runOp q 0x0205 allPayloads (fun _ c => lenIs c 4 ++ [(decide (1 < rd 4 c.pay 0), stFieldRange, payOff 0)])
    fun s c =>
      if rd 4 c.pay 0 = 1 then (if s.wts.swap.isSome then .refuse stBusy 0 else .done s.freeStaged stOk 0 [])
      else if s.sliceBusy then .refuse stStateDenied 0
      else s.objAct 0x0205 objPlan (
        let s1 := ((s.kvDiscard).unloadPlan).onCfg fun x => { x with txnSlice := none }
        .done (s.noteState ((s1.endRemap).evalPorts)) stOk 0 []))

end Sys2Proof.Machine
end

