-- ==== Sys2Proof/Machine/MemErr.lean ====
section
/-! DEFINITION. Memory errors: corrected errors and leaky buckets (R346, R348), uncorrectable errors and failing block checks
by content (R347, R353, Table 11.3), retired frames (R349), agitation (R354, R355), and page moves (R44 to R46). -/

namespace Sys2Proof.Machine

open Sys2Proof

/-! ### Corrected errors (R346, R348) -/

/-- Threshold of a unit's leaky bucket (Table 11.4). -/
def bucketTop (u : UnitId) : Option Nat :=
  [none, some 8, some 16, some 64, some 64, some 8, some 16].getD u.kind none

/-- Bytes of a memory's word, whose address the rule of four addresses compares (Table 11.2). -/
def wordBytes (kind : Nat) : Nat := if kind = 3 then 32 else if kind = 4 then 64 else 8

/-- The threshold reached: the event once, a log record, and a transient of a classified unit. -/
def State.bucketFull (s : State) (u : UnitId) (level : Nat) : State :=
  let s1 := (s.modUnit u fun x => { x with thresholds := x.thresholds + 1 }).onInteg fun i =>
    { i with bucketFired := addNew i.bucketFired (UnitId.inst u) }
  let s2 := (s1.event evCeThreshold u level).log evCeThreshold u level
  s2.transient u

def State.fillBucket (s : State) (u : UnitId) : State :=
  match bucketTop u with
  | none => s
  | some top =>
    let n := tgetD s.integ.buckets (UnitId.inst u) 0 + 1
    let s1 := s.onInteg fun i => { i with buckets := tset i.buckets (UnitId.inst u) n }
    if top ≤ n && !s.integ.bucketFired.contains (UnitId.inst u) then s1.bucketFull u n else s1

/-- A unit whose frames are retired: segments, stacks and channels. -/
def frameUnit (u : UnitId) : Bool := u.kind == 2 || u.kind == 3 || u.kind == 4

/-- A frame retired (R349): FLT_MEM_DEGRADED where it takes its unit past 64 (DESIGN CHOICE, log entry 89). -/
def State.retireFrame (s : State) (u : UnitId) (tier f : Nat) : State :=
  if tier = 0 || s.frameRetired tier f || !s.frameExists tier f then s else
    let n := (s.unitX u).framesRetired + 1
    let s1 := (s.onMem fun m => { m with retired := m.retired ++ [(tier, f)] }).modUnit u fun x =>
      { x with framesRetired := n }
    let s2 := ((s1.event evFrameRetired u (frameBase tier f)).log evFrameRetired u (frameBase tier f)).count ctFramesRetired
      (UnitId.inst u) 1
    if n = 65 then s2.fault fltMemDegraded u else s2

/-- The addresses of a controller's last 64 corrected errors; four distinct words of one frame within 24 hours retire it. -/
def State.trackCe (s : State) (u : UnitId) (a : Nat) : State :=
  let l := ((a, s.clock.lifeS) :: tgetD s.mem.ceAddrs (UnitId.inst u) []).take 64
  let s1 := s.onMem fun m => { m with ceAddrs := tset m.ceAddrs (UnitId.inst u) l }
  let here := (l.filter fun x => frameOf x.1 == frameOf a && s.clock.lifeS ≤ x.2 + 86400).map fun x => x.1 / wordBytes u.kind
  if 4 ≤ (here.foldl addNew []).length then s1.retireFrame u (frameOf a).1 (frameOf a).2 else s1

/-- CE_DETECTED: the corrected word is what memory holds already; the error is counted. -/
def execCeDetected (unit : UnitId) (addr : Nat) (s : State) : Ret :=
  .next (if !unitExists unit then s else
    let s1 := (s.count ctCe (UnitId.inst unit) 1).fillBucket unit
    if frameUnit unit && viewUnit addr == unit then s1.trackCe unit addr else s1)

/-- LEAKY_BUCKET_LEAK: the level falls by one; below half the threshold the event may be raised again. -/
def execLeakyBucketLeak (unit : UnitId) (s : State) : Ret :=
  .next (match bucketTop unit with
  | none => s
  | some top =>
    let k := UnitId.inst unit
    let n := tgetD s.integ.buckets k 0 - 1
    s.onInteg fun i => { i with
      buckets := if n = 0 then tdel i.buckets k else tset i.buckets k n
      bucketFired := if 2 * n < top then without i.bucketFired k else i.bucketFired })

/-! ### What a block holds -/

/-- The mapped page that lies behind a physical view address. -/
def State.pageAt (s : State) (a : Nat) : Option (Nat × Page) :=
  s.mem.pages.find? fun e => e.2.base ≤ a && a < e.2.base + pageBytes

/-- The KV slot or ring page that a module-range address lies in: group, whether a ring page, and the slot; for a ring page
its session index times 8 plus the ring slot. -/
def PlanObj.kvPageAt (p : PlanObj) (a : Nat) : Option (Nat × Bool × Nat) :=
  (List.range p.groups.length).findSome? fun g => (p.pools g).findSome? fun q =>
    let off := a - q.base
    let ringOff := off - q.slots * q.p4
    if a < q.base then none
    else if off < q.slots * q.page then some (g, false, off / q.page)
    else if q.k4 && ringOff < 6 * grSessions (p.group g) * q.p8 then
      some (g, true, ringOff / (6 * q.p8) * 8 + ringOff / q.p8 % 6)
    else none

/-- The group and the session indices whose entries lie in the block at a module-range address. -/
def PlanObj.tableAt (p : PlanObj) (a : Nat) : Option (Nat × Nat × Nat) :=
  (List.range p.groups.length).findSome? fun g =>
    let t := p.group g
    if tnBase t ≤ a && a < tnBase t + tnBytes t then
      let b := (blockOf a * blockBytes - tnBase t) / 4
      some (g, b / grChunks t, (b + 1023) / grChunks t)
    else none

/-- Whether a session maps a KV page. -/
def State.mapsPage (s : State) (x : Sess) (g : Nat) (ring : Bool) (slot : Nat) : Bool :=
  (!ring || x.index == slot / 8) &&
    (List.range (min (grChunks (s.plan.group g)) (ceilDiv x.maxCtx 64 + 1))).any fun c =>
      let e := s.ent g x.index c
      e.valid && e.ring == ring && e.slot == (if ring then slot % 8 else slot)

/-- A session prefilled again from position 0: its chunks are unmapped in every group on every module. -/
def State.restartKv (s : State) (i : Nat) : State :=
  ((s.unmapSession i).modSess i Sess.unprefilled).pushUpdate i

/-- A sheet node with all its descendants. -/
def State.csBelow (s : State) (ids : List Nat) : List Nat :=
  (sortBy (fun a b => a.id ≤ b.id) s.kv.nodes).foldl (fun l n => if l.contains n.parent then addNew l n.id else l) ids

/-- Sheet nodes evicted with their descendants (DEDUCED for a node whose slot is hit, log entry 88). -/
def State.csDrop (s : State) (ids : List Nat) : State :=
  let all := s.csBelow ids
  let gone := s.kv.nodes.filter fun n => all.contains n.id
  let s1 := gone.foldl (fun a n => (indexed n.slots).foldl (fun b p => b.dropRef p.1 p.2) a) s
  (s1.onKv fun k => { k with nodes := k.nodes.filter fun n => !all.contains n.id }).countGroups ctCsEvict gone.length

/-- The outcome of a lost KV block. Only the lead maps and unmaps sessions, and no message tells it of another module's block:
elsewhere the step's abort is the whole outcome (log entry 87). -/
def State.kvLost (s : State) (a : Nat) : State :=
  if !s.isLead then s else
  match s.plan.kvPageAt a with
  | some (g, ring, slot) =>
    let s1 := if ring then s else
      s.csDrop ((s.kv.nodes.filter fun n => n.slots[g]? == some slot).map (·.id))
    ((s.allSess.filter fun x => s.mapsPage x g ring slot).map (·.index)).foldl (fun b i => b.restartKv i) s1
  | none => match s.plan.tableAt a with
    | some (_, lo, hi) =>
      ((s.allSess.filter fun x => lo ≤ x.index && x.index ≤ hi && x.state != .paused).map (·.index)).foldl
        (fun b i => b.restartKv i) s
    | none => s

/-- The outcome for a block that is found by its address (Table 11.3). -/
def State.rangeLost (s : State) (addr step : Nat) : State :=
  match s.pageAt addr with
  | none => s
  | some (page, e) =>
    if e.own then
      ((s.kv.images.filter fun m => m.2.pages.contains page).map (·.1)).foldl (fun a i => a.freeImage i) s
    else if e.home then s.repairHome page step
    else s.kvLost (page * pageBytes + (addr - e.base))

/-- Whether a block's loss aborts the step that reads it (Table 11.3). -/
def contentAborts (s : State) (addr : Nat) : Content → Bool
  | .range => !(s.pageAt addr).any (fun e => e.2.own)
  | _ => false

/-- The outcome by content (Table 11.3), beyond the step's abort. -/
def State.contentLost (s : State) (u : UnitId) (addr step : Nat) : Content → State
  | .range => s.rangeLost addr step
  | .copy kind id gen role chunk => if kind = kWeight then s.chunkError id gen role chunk step else s
  | .tokens session =>
    if s.isLead then (match s.sessById session with
      | some x => s.loseSession x.index
      | none => s) else s
  | .planObject =>
    ((s.onSrv fun v => { v with noStart := v.noStart ++ [fltSliceHalt] }).fault fltSliceHalt u).askHalt fltSliceHalt step
  | .adapterPool id gen => s.leavePool id gen
  | .adapterStore id _ => match s.adapter? id with
    | some a => (s.endBound id).removeAdapter a evAdapterRemoved
    | none => s
  | .sheetNode id => s.csDrop [id]
  | .cacheLine a => s.onFab fun f => { f with cache := f.cache.filter (fun l => l.addr != a) }
  | .task cmds => cmds.foldl (fun a c => a.finishAt c.1 c.2 stInternal 0 []) s
  | .flashCopy config b =>
    if !config then s
    else if b then s.onCfg fun c => { c with imageB := { c.imageB with valid := false } }
    else s.onCfg fun c => { c with imageA := { c.imageA with valid := false } }

/-- A lost block: its fault with unit and address, the abort of the step that read it, and what its content brings. -/
def State.blockLost (s : State) (code : Nat) (u : UnitId) (addr : Nat) (holds : Content) (step : Nat) : State :=
  let c : FaultCtx := { addr := addr, stepSeq := step }
  let s1 := if contentAborts s addr holds then s.stepFault code u step c else s.fault code u c
  s1.contentLost u addr step holds

/-! ### Uncorrectable errors (R347) -/

/-- POISON set in the sideband of a block. -/
def State.poison (s : State) (a : Nat) : State :=
  s.onMem fun m => { m with side := setSide m.side (blockOf a) { s.sideband a with poison := true } }

/-- A UE as its reader meets it: the block is poisoned; a read of a block already poisoned is a UE again. -/
def State.memUe (s : State) (u : UnitId) (addr : Nat) (holds : Content) (step : Nat) : State :=
  let s1 := if s.poisoned addr then s.count ctPoisonReads 0 1 else s.count ctUe (UnitId.inst u) 1
  let s2 := if 1 ≤ u.kind && u.kind ≤ 4 then s1.poison addr else s1
  let s3 := if frameUnit u && viewUnit addr == u then s2.retireFrame u (frameOf addr).1 (frameOf addr).2 else s2
  s3.blockLost fltMemUe u addr holds step

/-- UE_DETECTED: the unit is transient or permanent by the rewrite of the word (Table 11.10). -/
def execUeDetected (unit : UnitId) (addr : Nat) (holds : Content) (recurs : Bool) (step : Nat) (s : State) : Ret :=
  .next (if !unitExists unit then s else
    let s1 := s.memUe unit addr holds step
    if recurs then s1.permanent unit else s1.transient unit)

/-- PARITY_ERROR in control state: the step that uses it aborts. -/
def execParityError (unit : UnitId) (step : Nat) (s : State) : Ret :=
  .next (if !unitExists unit then s else s.stepFault fltMemUe unit step)

/-- BLOCK_CRC_FAIL: as a UE, with FLT_BLOCK_CRC in its place. -/
def execBlockCrcFail (unit : UnitId) (addr : Nat) (holds : Content) (step : Nat) (s : State) : Ret :=
  .next (if !unitExists unit then s else
    (s.count ctBlockCrcFail 0 1).blockLost fltBlockCrc unit addr holds step)

/-! ### Agitation (R354, R355) -/

/-- Words of a unit's lap: weight buffer, segment, stack, channel, X-die cache, flash sectors. -/
def State.lapSize (s : State) (u : UnitId) : Nat :=
  match u.kind with
  | 1 => pageBytes / 8
  | 2 => 0x8000000 / 8
  | 3 => 0x1000000000 / 32
  | 4 => if s.wts.t3InService then s.wts.t3Gib * 0x40000000 / 64 else 0
  | 6 => 0x4000000 / 8
  | 10 => 0x10000000 / 1024
  | _ => 0

/-- Whether agitation runs on a unit in the present power state. -/
def State.agitates (s : State) (u : UnitId) : Bool :=
  match s.pwr.state with
  | .s0 => s.lapSize u != 0
  | .s1 => u.kind != 1 && s.lapSize u != 0
  | .s5 => false
  | _ => u.kind == 10

/-- AGITATION_SCRUB: words read, and those of them written back corrected; at the lap's end the next begins. -/
def execAgitationScrub (unit : UnitId) (words corrected : Nat) (s : State) : Ret :=
  .next (if !s.agitates unit then s else
    let k := UnitId.inst unit
    let n := tgetD s.integ.lapWords k 0 + words
    let s1 := (s.count ctScrubWords k words).count ctScrubCorrected k corrected
    if s.lapSize unit ≤ n then
      (s1.onInteg fun i => { i with
        lapWords := tset i.lapWords k (n % s.lapSize unit), lapLate := without i.lapLate k
        lapStartS := tset i.lapStartS k s.clock.lifeS }).count ctLaps k (n / s.lapSize unit)
    else s1.onInteg fun i => { i with lapWords := tset i.lapWords k n })

/-- AGITATION_LAP_LATE: once for a lap. -/
def execAgitationLapLate (unit : UnitId) (s : State) : Ret :=
  .next (
    let k := UnitId.inst unit
    let start := tgetD s.integ.lapStartS k 0
    if s.lapSize unit = 0 || s.integ.lapLate.contains k ||
        10 * (s.clock.lifeS - start) ≤ 11 * s.setN setAgitationLap then s
    else (s.onInteg fun i => { i with lapLate := addNew i.lapLate k, lapsLate := i.lapsLate + 1 }).event evAgitationLate unit)

/-! ### Page moves (R44 to R46) -/

def hintPin (h : Nat) : Bool := h % 4 == 2
def hintPrefer (h : Nat) : Bool := h % 4 == 1

/-- Whether a tier holds the kind of a page (Table 7.1): home weights T0 and T1; dispatch buffers and the adapter cache T1;
every other page T1, T2 or T3. -/
def State.tierHolds (s : State) (page tier : Nat) (e : Page) : Bool :=
  if e.home then tier ≤ 1
  else match s.plan.tensorAt (page * pageBytes) with
    | some t => if tnKind t = 3 ∨ tnKind t = 6 then tier == 1 else tier != 0
    | none => tier != 0

/-- A home page's frame: its named tile's weight buffer, or T1 of the C-die that reads it. -/
def State.homeFrame (s : State) (page tier f : Nat) : Bool :=
  s.weightPlans.any fun p => match p.tensorAt (page * pageBytes) with
    | some t =>
      let off (d : Nat) : Nat := if s.wts.main = some p then 0 else s.plan.tilesUsed d
      if tier = 0 then tnHint t % 4 == 1 && tnHint t / 4 == 0 && f == s.ptileOf (tnTile t + off (tileDie (tnTile t)))
      else f / 1024 == (if tnHint t % 4 = 1 ∧ tnHint t / 4 = 0 then tileDie (tnTile t) else p.readerDie t page)
    | none => false

/-- Whether a page may be moved for room before another of its tier: NONE before PREFER, then the lower access rate. -/
def movesFirst (a b : Page) : Bool :=
  (!hintPrefer a.hint && hintPrefer b.hint) || (hintPrefer a.hint == hintPrefer b.hint && a.access ≤ b.access)

/-- Whether a page is the one to move down from its tier: the first among those that its engine may move. -/
def State.firstDown (s : State) (e : Page) : Bool :=
  s.mem.pages.all fun x =>
    x.2.tier != e.tier || hintPin x.2.hint || (x.2.home && e.tier == 1) ||
      (e.tier == 1 && (frameOf x.2.base).2 / 1024 != (frameOf e.base).2 / 1024) || movesFirst e x.2

/-- PAGE_MOVE_START: a move that a hint, an access rate, the need for room or a retired frame allows. -/
def execPageMoveStart (page tier frame : Nat) (s : State) : Ret :=
  .next (match tget s.mem.pages page with
  | none => s
  | some e =>
    let from_ := frameOf e.base
    let emptying := s.frameRetired from_.1 from_.2
    let up := tier < e.tier && (!hintPrefer e.hint || e.hint / 4 == tier)
    let down := tier == e.tier + 1 && s.firstDown e
    if !s.l2Up || hintPin e.hint || s.mem.moves.any (fun m => m.page == page) ||
        s.steps.lastEntered < tgetD s.mem.holdOff page 0 || !s.frameExists tier frame || s.frameUsed tier frame ||
        s.frameRetired tier frame || !s.tierHolds page tier e || (e.home && !s.homeFrame page tier frame) then s
    else if (if emptying then tier == e.tier else up || down) then
      s.onMem fun m => { m with moves := m.moves ++ [{ page := page, tier := tier, toBase := frameBase tier frame }] }
    else s)

/-- The cells of a frame carried to another: what the target held is gone. -/
def Memory.copyFrame (m : List Host.Cell) (src dst n : Nat) : List Host.Cell :=
  (m.filter fun c => src ≤ c.1 && c.1 < src + n).foldl (fun a c => Memory.set a (c.1 - src + dst) c.2) (Memory.clear m dst n)

/-- A page's bytes and sidebands in another frame. -/
def State.copyFrame (s : State) (src dst : Nat) : State :=
  s.onMem fun m => { m with
    cells := Memory.copyFrame m.cells src dst pageBytes
    side := (List.range 512).foldl (fun t b =>
      setSide t (blockOf dst + b) (tgetD m.side (blockOf src + b) {})) m.side }

/-- PAGE_MOVE_DONE: `dirtyAfter` counts the blocks written during the copy and during each recopy pass. A move still dirty after
the third recopy is abandoned and not tried for 1,024 steps; otherwise the mapping switches in one action. -/
def execPageMoveDone (page : Nat) (dirtyAfter : List Nat) (s : State) : Ret :=
  .next (match s.mem.moves.find? (fun m => m.page == page), tget s.mem.pages page with
  | some m, some e =>
    let s1 := s.onMem fun x => { x with moves := x.moves.filter (fun y => y.page != page) }
    if 4 ≤ dirtyAfter.length && (dirtyAfter.take 4).all (· != 0) then
      (s1.onMem fun x => { x with holdOff := tset x.holdOff page (s.steps.lastEntered + 1024) }).count ctMigrateAbandon 0 1
    else
      let s2 := s1.copyFrame e.base m.toBase
      ((s2.onMem fun x => { x with
        pages := tset x.pages page { e with base := m.toBase, tier := m.tier }, holdOff := tdel x.holdOff page }).countBw
          (max e.tier m.tier) bwBackground pageBytes)
  | _, _ => s)

end Sys2Proof.Machine
end

