-- ==== Sys2Proof/Machine/Security.lean ====
section
/-! DEFINITION. Lifecycle, owner record, debug levels and erases (R386 to R395), and the debug opcodes: trace, physical view and
scan (R48, R390, R396, R397). -/

namespace Sys2Proof.Machine

open Sys2Proof

/-! ### Erases (R392, R393) -/

/-- An erase is kept from starting by work on customer data or firmware in course (Table 12.9); a trial or a handover counts as
a firmware update (Table 13.13; DEDUCED for the rest, log entry 92). -/
def State.eraseBusy (s : State) : Bool :=
  s.sec.erasing.isSome || s.fw.trialBank.isSome || s.fw.handover.isSome ||
    [0x0201, 0x0202, 0x0203, 0x0301, 0x0302, 0x0303, 0x0801, 0x0802, 0x0803].any s.isRunning

/-- An erase begins: the objects go at once, the words of memory with its end. On the main rails ports M and D are not served
meanwhile (log entry 93); from S1 and S2 the module returns to S0 first. -/
def State.beginErase (s : State) (r : EraseRun) : State :=
  let t := s.eraseData
  let s1 := (t.onMem fun m => { m with cells := s.mem.cells, side := s.mem.side }).onSec fun c =>
    { c with erasing := some r, erasePending := true }
  if s.pwr.state == .s3 then s1 else
    let s2 := s1.onMbox fun m => { m with mServed := false, dServed := false }
    if s.pwr.state == .s0 then s2
    else s2.onPwr fun p => { p with change := some { target := .s0, from_ := p.change.bind (·.from_), foundNs := s.now
                                                     waitFade := false, byReach := false } }

def State.eraseMs (s : State) (r : EraseRun) : Nat := (s.now - r.startNs) / 1000000

def lifecycleOf (c : Nat) : Lifecycle :=
  match c with
  | 0 => .factory | 1 => .owned | 2 => .service | _ => .retired

/-- Steps 3 and 4 of R387: the owner record, and the fuses of Table 12.5. -/
def State.setLifecycle (s : State) (target ceiling : Nat) (owner : Bytes) : State :=
  let old := s.sec.lifecycle
  s.onSec fun c => { c with
    lifecycle := lifecycleOf target
    ownerId := if target = 1 then owner else []
    debugCeiling := if target = 1 then ceiling else 0
    narrowed := []
    factoryExit := c.factoryExit || (old == .factory && target != 3)
    serviceFuses := c.serviceFuses + b2n (old == .owned && target == 2)
    retireFuse := c.retireFuse || target == 3 }

/-- A debug level in force (R391). -/
def State.setDebug (s : State) (level : Nat) : State :=
  let old := s.sec.debug
  let s1 := s.onSec fun c => { c with
    debug := level
    trace := if level < old ∨ (old = 0 ∧ level = 1) then {} else c.trace }
  s1.event evDebugLevel noUnit old level

/-- What the erase was for, once it has completed. -/
def State.afterErase (s : State) (r : EraseRun) (ms : Nat) : State :=
  let tell (t : State) (pay : Bytes) : State := match r.port with
    | some p => t.finishAt p r.slot stOk 0 pay
    | none => t
  match r.why with
  | 0 => tell s (le 4 s.sec.debug ++ le 4 ms)
  | 1 =>
    let s1 := s.setLifecycle r.target r.ceiling r.owner
    let s2 := (tell s1 (le 4 r.target ++ le 4 ms)).event evLifecycle noUnit (lifecycleCode s.sec.lifecycle) r.target
    s2.onMbox fun m => { m with warmResetAt := some (s.now + 10000000) }
  | 2 => tell (s.setDebug r.target) (le 4 r.target ++ le 4 ms)
  | _ => s

/-- An erase's end. Without a failure the words are zero and ERASED is set; in S3 the words of T3 wait for the next S0 entry. A
word that did not hold its write keeps what it had. -/
def State.endErase (s : State) (r : EraseRun) (failed : Option UnitId) : State :=
  let keeps (a : Nat) : Bool := match failed with
    | some u => viewUnit a == u
    | none => false
  let later := s.pwr.state == .s3 && r.why != 3
  let s1 := s.onMem fun m => { m with
    cells := m.cells.filter (fun c => keeps c.1 || (later && decide (c.1 < t2Base)))
    side := m.side.filter (fun e => keeps (e.1 * blockBytes) || (later && decide (e.1 * blockBytes < t2Base))) }
  let s2 := if r.keep && r.why != 1 then s1 else s1.clearConfig
  let s3 := (s2.onSec fun c => { c with
      erasing := none, erased := failed.isNone, erasePending := later || failed.isSome }).onMbox fun m =>
    { m with mServed := true, dServed := s.mainOn && m.ready }
  match failed with
  | some u =>
    let s4 := s3.fault fltErase u { args := [UnitId.inst u] }
    match r.port with
    | some p => s4.finishAt p r.slot stInternal 0 []
    | none => s4
  | none => (s3.event evEraseDone noUnit (s.eraseMs r)).afterErase r (s.eraseMs r)

/-- ERASE_DONE. -/
def execEraseDone (failed : Option UnitId) (s : State) : Ret :=
  .next (match s.sec.erasing with
  | none => s
  | some r => if s.pwr.state == .s1 || s.pwr.state == .s2 then s else s.noteState (s.endErase r failed))

/-- OP_ERASE. -/
def execOpErase (q : Req) (s : State) : Ret :=
  let t := s.runOp q 0x0905 allPayloads (fun _ c => lenIs c 4 ++
      [ (bitsOf (rd 4 c.pay 0) 1 0 != 0 || rd 4 c.pay 0 / 8 != 0, stFieldRange, payOff 0) ]) fun s c =>
    if s.eraseBusy then .refuse stBusy 0
    else .long (s.beginErase { port := some c.port, slot := c.slot, startNs := s.now, why := 0, keep := bitOf (rd 4 c.pay 0) 2
                               target := 0, ceiling := 0, owner := [] }) [] [] []
  .next (s.noteState t)

/-! ### Lifecycle (R386, R387) -/

/-- A transition past its checks. -/
def State.lifecycleAct (s : State) (c : Cmd) (target ceiling : Nat) (owner : Bytes) : Act :=
  if s.sliceBusy then .refuse stStateDenied 0
  else if s.eraseBusy then .refuse stBusy 0
  else if s.sec.lifecycle == .owned && target == 2 && 32 ≤ s.sec.serviceFuses then .refuse stNoSpace 0
  else .long (s.beginErase { port := some c.port, slot := c.slot, startNs := s.now, why := 1, keep := false
                             target := target, ceiling := ceiling, owner := owner }) [] [] []

/-- Table 12.5, by OP_LIFECYCLE_SET. -/
def transitionOk (l : Lifecycle) (target : Nat) : Bool :=
  match l with
  | .factory => target == 2 || target == 3
  | .owned => target == 2 || target == 3
  | .service => target == 1 || target == 3
  | .retired => false

/-- OP_LIFECYCLE_SET. -/
def execOpLifecycleSet (q : Req) (s : State) : Ret :=
  let own (_ : State) (c : Cmd) : List (Bool × Nat × Nat) :=
    let w := rd 4 c.pay 0
    let t := w % 4
    let ceil := bitsOf w 3 2
    lenIs c 0x50 ++
    [ (t == 0 || (if t = 1 then ceil == 3 else ceil != 0) || w / 16 != 0, stFieldRange, payOff 0),
      (!allZero (cut c.pay 4 12), stFieldRange, payOff 4),
      (t != 3 && !allZero (cut c.pay 0x10 16), stFieldRange, payOff 0x10),
      (t != 1 && !allZero (cut c.pay 0x20 48), stFieldRange, payOff 0x20) ]
  let t := s.runOp q 0x0901 allPayloads own fun s c =>
    let target := rd 4 c.pay 0 % 4
    if !transitionOk s.sec.lifecycle target then .refuse stStateDenied 0
    else if target = 3 && cut c.pay 0x10 16 != serial then .refuse stFieldRange (payOff 0x10)
    else s.lifecycleAct c target (bitsOf (rd 4 c.pay 0) 3 2) (cut c.pay 0x20 48)
  .next (s.noteState t)

/-- OP_OWNERSHIP_TAKE: FACTORY to OWNED. -/
def execOpOwnershipTake (q : Req) (s : State) : Ret :=
  let t := s.runOp q 0x0902 allPayloads (fun _ c => lenIs c 0x40 ++
      [ (decide (2 < rd 4 c.pay 0), stFieldRange, payOff 0), (!allZero (cut c.pay 4 12), stFieldRange, payOff 4) ])
    fun s c => s.lifecycleAct c 1 (rd 4 c.pay 0) (cut c.pay 0x10 48)
  .next (s.noteState t)

/-! ### OP_RIGHTS_NARROW (R389) -/

/-- Opcodes that keep port M. -/
def keepsM (op : Nat) : Bool :=
  op / 256 == 0x00 || op / 256 == 0x09 || op == 0x0701 || op == 0x0702 || op == 0x0503

def narrowEntry (b : Bytes) (i : Nat) : Nat × Nat :=
  let w := rd 4 b (8 + 4 * i)
  (w % 65536, bitsOf w 18 16)

/-- OP_RIGHTS_NARROW. -/
def execOpRightsNarrow (q : Req) (s : State) : Ret :=
  let own (_ : State) (c : Cmd) : List (Bool × Nat × Nat) :=
    let n := rd 2 c.pay 0
    [ (decide (1006 < n), stLenRange, payOff 0) ] ++ lenIs c (8 + 4 * n) ++
    [ (rd 4 c.pay 0 / 2 ^ 18 != 0, stFieldRange, payOff 0), (rd 4 c.pay 4 != 0, stFieldRange, payOff 4) ] ++
    (List.range n).map fun i => (rd 4 c.pay (8 + 4 * i) / 2 ^ 19 != 0, stFieldRange, payOff (8 + 4 * i))
  .next (s.runOp q 0x0903 allPayloads own fun s c =>
    let n := rd 2 c.pay 0
    let ceil := bitsOf (rd 4 c.pay 0) 17 16
    let es := (List.range n).map fun i => (i, narrowEntry c.pay i)
    if s.sec.debugCeiling < ceil then .refuse stFieldRange (payOff 2)
    else match es.find? (fun e => (opInfo e.2.1).isNone || (bitOf e.2.2 1 && keepsM e.2.1)) with
    | some e => .refuse stFieldRange (payOff (8 + 4 * e.1))
    | none =>
      let put (t : Tbl Nat) (e : Nat × Nat × Nat) : Tbl Nat :=
        let m := e.2.2 &&& (((opInfo e.2.1).map OpInfo.ports).getD 0)
        if m = 0 then t else tmod t e.2.1 0 (fun x => x ||| m)
      .done ((s.onSec fun k => { k with debugCeiling := ceil, narrowed := es.foldl put k.narrowed }).event
        evRightsNarrowed noUnit n) stOk 0 [])

/-! ### OP_DEBUG_LEVEL_SET (R391) -/

/-- Whether a move is allowed. -/
def State.debugAllowed (s : State) (level : Nat) : Bool :=
  let owned := s.sec.lifecycle == .owned
  if level < s.sec.debug then true
  else match level with
    | 1 => !owned || 1 ≤ s.sec.debugCeiling
    | 2 => (!owned || s.sec.debugCeiling == 2) && s.sliceIdle && !s.sec.erasePending
    | _ => (s.sec.lifecycle == .factory || s.sec.lifecycle == .retired) && s.srv.sliceState == .noPlan && !s.sec.erasePending

/-- Whether a move erases first: down from D2 or D3 always, and up to D2 in OWNED and SERVICE. -/
def State.debugErases (s : State) (level : Nat) : Bool :=
  (level < s.sec.debug && 2 ≤ s.sec.debug) ||
    (s.sec.debug < level && level == 2 && (s.sec.lifecycle == .owned || s.sec.lifecycle == .service))

/-- OP_DEBUG_LEVEL_SET. -/
def execOpDebugLevelSet (q : Req) (s : State) : Ret :=
  let t := s.runOp q 0x0904 allPayloads (fun _ c => lenIs c 4 ++ [ (rd 4 c.pay 0 / 8 != 0, stFieldRange, payOff 0) ]) fun s c =>
    let level := rd 4 c.pay 0 % 4
    if level = s.sec.debug then .done s stOk 0 (le 4 level ++ le 4 0)
    else if !s.debugAllowed level then .refuse stStateDenied 0
    else if s.debugErases level then
      (if s.eraseBusy then .refuse stBusy 0
      else .long (s.beginErase { port := some c.port, slot := c.slot, startNs := s.now, why := 2
                                 keep := bitOf (rd 4 c.pay 0) 2, target := level, ceiling := 0, owner := [] }) [] [] [])
    else .done (s.setDebug level) stOk 0 (le 4 level ++ le 4 0)
  .next (s.noteState t)

/-! ### OP_TRACE_READ -/

def actionIs (n : Nat) (c : Cmd) : Bool := rd 4 c.pay 0 % 4 == n

/-- Checks of OP_TRACE_READ. -/
def traceChecks (_ : State) (c : Cmd) : List (Bool × Nat × Nat) :=
  let w := rd 4 c.pay 0
  lenIs c 12 ++
  [ (w % 4 == 0 && (byteAt c.pay 8 == 0 || decide (125 < byteAt c.pay 8)), stLenRange, payOff 8),
    (w % 4 == 3 || bitsOf w 7 2 != 0 || w / 65536 != 0, stFieldRange, payOff 0),
    (rd 4 c.pay 8 / 256 != 0, stFieldRange, payOff 9) ]

/-- OP_TRACE_READ, ACTION READ; ACTION 3, which no row has, is refused here. -/
def execTraceRead (q : Req) (s : State) : Ret :=
  .next (s.runOp q 0x0F01 (fun c => actionIs 0 c || actionIs 3 c) traceChecks fun s c =>
    let t := s.sec.trace
    let from_ := rd 4 c.pay 4
    let got := (t.recs.filter fun r => from_ ≤ rd 4 r 0).take (byteAt c.pay 8)
    let next := (got.getLast?.map fun r => rd 4 r 0 + 1).getD (max from_ t.seq)
    .done s stOk 0 (le 4 got.length ++ le 4 next ++ le 4 t.lost ++ zeros 4 ++ got.flatMap id))

/-- ACTION START: the kinds named are recorded from now on. -/
def execTraceStart (q : Req) (s : State) : Ret :=
  .next (s.runOp q 0x0F01 (actionIs 1) traceChecks fun s c =>
    .done (s.onSec fun k => { k with trace := { k.trace with running := true, kinds := bitsOf (rd 4 c.pay 0) 15 8 } }) stOk 0 [])

/-- ACTION STOP. -/
def execTraceStop (q : Req) (s : State) : Ret :=
  .next (s.runOp q 0x0F01 (actionIs 2) traceChecks fun s _ =>
    .done (s.onSec fun k => { k with trace := { k.trace with running := false } }) stOk 0 [])

/-! ### The physical view (R48, R396) -/

/-- Whether an address of the view is populated (Table 1.9). -/
def State.viewOk (s : State) (a : Nat) : Bool :=
  match viewTier a with
  | some 3 => s.frameExists 3 (a / pageBytes)
  | some _ => true
  | none => false

def physChecks (data : Bool) (_ : State) (c : Cmd) : List (Bool × Nat × Nat) :=
  let n := rd 2 c.pay 8
  lenIs c (if data then 0x10 + ceilDiv n 4 * 4 else 12) ++
  [ (decide (n < 8) || decide (4016 < n) || n % 8 != 0, stLenRange, payOff 8),
    (rd 8 c.pay 0 % 8 != 0, stFieldRange, payOff 0), (rd 2 c.pay 10 != 0, stFieldRange, payOff 10),
    (data && rd 4 c.pay 0x0C != 0, stFieldRange, payOff 0x0C) ]

def State.physOk (s : State) (a n : Nat) : Bool := (List.range (n / 8)).all fun i => s.viewOk (a + 8 * i)

/-- OP_PHYS_READ. A poisoned block is a UE. -/
def execOpPhysRead (q : Req) (s : State) : Ret :=
  .next (s.runOp q 0x0F02 allPayloads (physChecks false) fun s c =>
    let a := rd 8 c.pay 0
    let n := rd 2 c.pay 8
    if !s.physOk a n then .refuse stFieldRange (payOff 0)
    else match [a, a + n - 1].find? s.poisoned with
      | some b => .done (s.memUe (viewUnit b) b .range 0) stInternal 0 []
      | none => .done s stOk 0 (s.read a n))

/-- OP_PHYS_WRITE. The check values of the blocks are those of their bytes. -/
def execOpPhysWrite (q : Req) (s : State) : Ret :=
  .next (s.runOp q 0x0F03 allPayloads (physChecks true) fun s c =>
    let a := rd 8 c.pay 0
    let n := rd 2 c.pay 8
    if s.srv.sliceState == .starting || s.srv.sliceState == .running then .refuse stStateDenied 0
    else if !s.physOk a n then .refuse stFieldRange (payOff 0)
    else .done (s.write a (cut c.pay 0x10 n)) stOk 0 [])

/-! ### Scan (R396) -/

def scanBits (c : Cmd) : Nat := rd 4 c.pay 0x0C

/-- Checks of OP_SCAN by ACTION: 0 LIST, 1 CAPTURE, 2 SHIFT_OUT, 3 SHIFT_IN. -/
def scanChecks (_ : State) (c : Cmd) : List (Bool × Nat × Nat) :=
  let a := rd 4 c.pay 0 % 4
  lenIs c (0x10 + (if a = 3 then ceilDiv (ceilDiv (scanBits c) 8) 4 * 4 else 0)) ++
  [ (2 ≤ a && (scanBits c == 0 || decide (32064 < scanBits c)), stLenRange, payOff 0x0C),
    (rd 4 c.pay 0 / 4 != 0, stFieldRange, payOff 0),
    (a != 0 && decide (Config.scanChains ≤ rd 4 c.pay 4), stFieldRange, payOff 4),
    (2 ≤ a && decide (Config.scanLength (rd 4 c.pay 4) < rd 4 c.pay 8 + scanBits c), stFieldRange, payOff 8) ]

/-- A chain's bits: as captured or shifted in; what they were before, and what a capture takes, is not published. -/
def State.chainBits (s : State) (k : Nat) : List Bool :=
  (tget s.sec.scanChains k).getD ((List.range (Config.scanLength k)).map (Config.scanBit k))

/-- ACTION LIST. -/
def execScanList (q : Req) (s : State) : Ret :=
  .next (s.runOp q 0x0F04 (actionIs 0) scanChecks fun s _ =>
    .done s stOk 0 ((List.range (min 504 Config.scanChains)).flatMap fun k => le 4 k ++ le 4 (Config.scanLength k)))

/-- ACTION CAPTURE: a free value of the module's flip-flops; the first one stops every island clock. -/
def execScanCapture (q : Req) (s : State) : Ret :=
  .next (s.runOp q 0x0F04 (actionIs 1) scanChecks fun s c =>
    let k := rd 4 c.pay 4
    let bits := (List.range (Config.scanLength k)).map (Config.scanBit ((s.freeCtr + 1) * 65536 + k))
    .done ((s.drawn).onSec fun x => { x with scanStopped := true, scanChains := tset x.scanChains k bits }) stOk 0 [])

/-- ACTION SHIFT_OUT. -/
def execScanShiftOut (q : Req) (s : State) : Ret :=
  .next (s.runOp q 0x0F04 (actionIs 2) scanChecks fun s c =>
    .done s stOk 0 (padMul 4 (bytesOfBits (((s.chainBits (rd 4 c.pay 4)).drop (rd 4 c.pay 8)).take (scanBits c)))))

/-- ACTION SHIFT_IN. -/
def execScanShiftIn (q : Req) (s : State) : Ret :=
  .next (s.runOp q 0x0F04 (actionIs 3) scanChecks fun s c =>
    let k := rd 4 c.pay 4
    let off := rd 4 c.pay 8
    let old := s.chainBits k
    let new := (bitStream (c.pay.drop 0x10)).take (scanBits c)
    .done (s.onSec fun x => { x with
      scanChains := tset x.scanChains k (old.take off ++ new ++ old.drop (off + new.length)) }) stOk 0 [])

end Sys2Proof.Machine
end

