-- ==== Sys2Proof/Machine/TileOps.lean ====
section
/-! DEFINITION. What the operators of the tiles share: channels and their counts (R27 to R30), destinations and the fabric's
writes (R65, R173, R176), buffer space (R28), activation regions (R93, R94), live rows (R56, R82, R187), and the operator that a
tile's unit runs. -/

namespace Sys2Proof.Machine

open Sys2Proof

/-! ### Tiles and their units -/

def State.modTile (s : State) (l : Nat) (f : TileX → TileX) : State :=
  s.onTiles fun t => { t with x := tset t.x l (f (tgetD t.x l {})) }

/-- What a unit runs: 0 the array, 1 the vector unit, 2 the mover. -/
def TileX.unit (x : TileX) (u : Nat) : Option Nat := match u with
  | 0 => x.array
  | 1 => x.vector
  | _ => x.mover

def TileX.setUnit (x : TileX) (u : Nat) (d : Option Nat) : TileX := match u with
  | 0 => { x with array := d }
  | 1 => { x with vector := d }
  | _ => { x with mover := d }

def State.actOf (s : State) (l : Nat) : Nat := actBase (s.ptileOf l)

/-- A tile whose physical tile is under test runs nothing. -/
def State.tested (s : State) (l : Nat) : Bool := s.tiles.inTest.contains (s.ptileOf l)

/-! ### Channels (R29, R30) -/

/-- The number of a tile's channel, and of an island's. -/
def tileChan (l ch : Nat) : Nat := l * 64 + ch
def islandChan (u : UnitId) (ch : Nat) : Nat := UnitId.inst u * 64 + ch

def State.chan (s : State) (k : Nat) : Chan := tgetD s.tiles.chans k {}
def State.modChan (s : State) (k : Nat) (f : Chan → Chan) : State :=
  s.onTiles fun t => { t with chans := tset t.chans k (f (tgetD t.chans k {})) }

/-- The unit whose channel a number names, and its logical tile where it is a tile's. -/
def State.chanUnit (s : State) (k : Nat) : UnitId :=
  if k < 2304 * 64 then tileUnit (s.ptileOf (k / 64)) else ⟨k / 64 / 65536, k / 64 % 65536⟩
def chanTile (k : Nat) : Option Nat := if k < 2304 * 64 then some (k / 64) else none

/-- A fault of a channel's count: the tile and the channel are recorded. -/
def State.chanFault (s : State) (code k step : Nat) (layer : Option Nat := none) : State :=
  s.stepFault code (s.chanUnit k) step { logical := chanTile k, layer := layer, args := [k % 64] }

/-- Arrival marks raised; a count that would pass 65,535 is FLT_MARK_OVERFLOW. -/
def State.addMarks (s : State) (k n step : Nat) : State :=
  if n = 0 then s
  else if 65535 < (s.chan k).marks + n then s.chanFault fltMarkOverflow k step
  else s.modChan k fun c => { c with marks := c.marks + n, lastNs := s.now }

def State.addCredits (s : State) (k n step : Nat) : State :=
  if n = 0 then s
  else if 65535 < (s.chan k).credits + n then s.chanFault fltMarkOverflow k step
  else s.modChan k fun c => { c with credits := c.credits + n }

/-! ### Addresses and blocks -/

/-- A 4 KiB block on its way: data, exposure and A8 offset, and whether it holds a live row. -/
structure Blk where
  data : Bytes
  exp : Int := 0
  a8d : Nat := 0
  live : Bool := true
  deriving DecidableEq, Repr

def inBlocks (n : Nat) : Nat := ceilDiv n blockBytes

/-- Data lands in a block of memory; an empty mark carries none, and the block reads as rows that are not live. -/
def State.landBlock (s : State) (a : Nat) (b : Blk) : State :=
  if b.live then (s.writeBlock a b.data b.exp b.a8d).onTiles fun t => { t with empty := without t.empty (blockOf a) }
  else s.onTiles fun t => { t with empty := addNew t.empty (blockOf a) }

/-- Bytes as an operator reads them. -/
def State.readData (s : State) (a n : Nat) : Bytes :=
  (List.range n).map fun i => if s.tiles.empty.contains (blockOf (a + i)) then 0 else Memory.get s.mem.cells (a + i)

def State.blockAt (s : State) (a : Nat) : Blk :=
  let x := s.sideband a
  { data := s.readData a blockBytes, exp := x.exp, a8d := x.a8d, live := !s.tiles.empty.contains (blockOf a) }

/-- A module index and an address of this module, for a fabric address that an operator builds. -/
def State.isHere (s : State) (a : Nat) : Bool := fabMod a == s.index

/-- The island that serves a module-range address. -/
def State.islandOf (s : State) (a : Nat) : UnitId := viewUnit (s.phys (fabLocal a))

/-! ### Destinations (R65) -/

/-- A destination on this module. -/
def State.destHere (s : State) (d : Dest) : Bool :=
  (d.kind == 1 && d.dmod == s.index) || (d.kind == 2 && s.isHere d.addr)

/-- The module that a destination names. -/
def Dest.module (d : Dest) : Nat := if d.kind = 1 then d.dmod else fabMod d.addr

/-- Physical view address of a byte of a destination on this module. -/
def State.destAddr (s : State) (d : Dest) (off : Nat) : Nat :=
  if d.kind = 1 then s.actOf d.dtile + d.addr + off else s.phys (fabLocal d.addr + off)

/-- The channel that a destination's marks go to. -/
def State.destChan (s : State) (d : Dest) : Nat :=
  if d.kind = 1 then tileChan d.dtile d.dch else islandChan (s.islandOf d.addr) d.dch

/-- An access to an unmapped page aborts the step, naming the page and the unit (R47). -/
def State.rangeFault (s : State) (u : UnitId) (a step : Nat) : State :=
  s.stepFault fltRangeUnmapped u step { addr := a, args := [pageOf a] }

/-! ### The read cache's lines (R175, R176) -/

/-- Blocks of T2 that the read cache may hold. -/
def State.cacheLines (s : State) : Nat := s.fab.cachePages * 512

def State.dropLine (s : State) (a : Nat) : State :=
  s.onFab fun f => { f with cache := f.cache.filter fun c => c.addr != a }

/-- A line filled, the least recently used gone where there is no room. -/
def State.fillLine (s : State) (c : CacheLine) : State :=
  if s.cacheLines = 0 then s else
    s.onFab fun f =>
      let rest := f.cache.filter fun x => x.addr != c.addr
      { f with cache := rest.drop (rest.length + 1 - s.cacheLines) ++ [c] }

/-! ### The fabric's writes (R173) -/

/-- A packet of an operator's step. -/
def State.opPacket (s : State) (ty dest step addr : Nat) (data : Bytes := []) (exp : Int := 0) (a8d : Nat := 0) : Packet :=
  { s.mkPacket ty dest data exp a8d with stepSeq := step, addr := addr }

/-- A block sent to another module; an address outside the slice aborts the step (R50). An empty mark goes as a block of zeros
(DESIGN CHOICE, log entry 118). -/
def State.sendBlock (s : State) (u : UnitId) (step : Nat) (d : Dest) (off : Nat) (b : Blk) : State :=
  let m := d.module
  if !s.plan.inSlice m then s.stepFault fltFabricRange u step { addr := d.addr } else
    let a := fabLocal d.addr + off
    let k := s.opPacket ptWrite m step a (if b.live then fit blockBytes b.data else zeros blockBytes) b.exp b.a8d
    let s1 := if d.kind = 1 then s else s.dropLine (fabAddr m a)
    s1.sendPacket { k with dch := d.dch, dtile := if d.kind = 1 then d.dtile else 0 }

/-- The blocks of an output placed at a destination, on this module or another. -/
def State.putBlocks (s : State) (u : UnitId) (step : Nat) (d : Dest) (bs : List Blk) : State :=
  if s.destHere d then
    if d.kind = 2 && !s.mappedAll (fabLocal d.addr) (bs.length * blockBytes) then s.rangeFault u (fabLocal d.addr) step
    else (indexed bs).foldl (fun a e => a.landBlock (a.destAddr d (e.1 * blockBytes)) e.2) s
  else (indexed bs).foldl (fun a e => a.sendBlock u step d (e.1 * blockBytes) e.2) s

/-! ### Buffer space and credits (R28, log entry 116) -/

def Space.overlaps (f : Space) (a blocks : Nat) : Bool :=
  decide (f.addr < a + blocks * blockBytes) && decide (a < f.addr + f.blocks * blockBytes)

/-- Space that nothing fills. -/
def State.spaceFree (s : State) (a blocks : Nat) : Bool := s.tiles.full.all fun f => !f.overlaps a blocks

/-- Space given to a producer of this module ahead of its data. -/
def State.reserve (s : State) (k a blocks : Nat) : State :=
  s.onTiles fun t => { t with full := t.full ++ [{ chan := k, addr := a, blocks := blocks, src := s.index }] }

/-- Data with their marks fill the space, in the order of the marks. -/
def State.fillSpace (s : State) (k a blocks src : Nat) : State :=
  s.onTiles fun t => { t with
    full := t.full.filter (fun f => f.arrived || !(f.chan == k && f.addr == a)) ++
      [{ chan := k, addr := a, blocks := blocks, src := src, arrived := true }] }

/-- The first `n` marks of a channel belong to a descriptor: it reads the space that they filled. -/
def takeSpaces (k i : Nat) : List Space → Nat → List Space
  | [], _ => []
  | f :: r, n =>
    if n = 0 then f :: r
    else if f.chan = k ∧ f.arrived ∧ f.reader.isNone then { f with reader := some i } :: takeSpaces k i r (n - f.blocks)
    else f :: takeSpaces k i r n

/-- Credits to the module that a remote producer runs on. Which tile and channel of that module they are for, this module's plan
does not say: they are left open (log entry 116). -/
def State.sendCredit (s : State) (f : Space) (step : Nat) : State :=
  if f.src = s.index ∨ !s.plan.inSlice f.src then s else
    let k := s.opPacket ptCredit f.src step f.blocks
    s.sendPacket { k with dtile := Config.unstated 52 [f.src, f.addr] % 2304, dch := Config.unstated 53 [f.src, f.addr] % 64 }

/-- The space that a descriptor has read is free. -/
def State.freeReads (s : State) (i step : Nat) : State :=
  let gone := s.tiles.full.filter fun f => f.reader == some i
  gone.foldl (fun a f => a.sendCredit f step) (s.onTiles fun t => { t with full := t.full.filter fun f => f.reader != some i })

/-! ### Activation regions (R93, R94) -/

/-- A region in physical view: where it starts, its rows and columns, its form (0 A4, 1 A8, 2 BF16, 3 FP32), and whether its panels
carry the wide copy of a strip region. -/
structure Region where
  base : Nat
  rows : Nat
  width : Nat
  form : Nat
  strip : Bool := false
  deriving DecidableEq, Repr

def formBytes (f : Nat) : Nat := [16, 16, 32, 64].getD f 16
def stripBytes : Nat := 1536
def Region.panel (r : Region) : Nat := formBytes r.form * r.rows + if r.strip then stripBytes else 0
def Region.panels (r : Region) : Nat := ceilDiv r.width 16
def Region.bytes (r : Region) : Nat := r.panels * r.panel
/-- Byte offset of a row of a panel, and of a panel's wide copy. -/
def Region.at (r : Region) (p row : Nat) : Nat := p * r.panel + row * formBytes r.form
def Region.wideAt (r : Region) (p : Nat) : Nat := p * r.panel + formBytes r.form * r.rows

/-- Sixteen values of a row, and the dodged element: its place and its BF16 value (Table 3.7). -/
structure Grp where
  vals : List Fp
  dodged : Option (Nat × Nat) := none
  deriving DecidableEq, Repr

/-- A group slot as its FORM byte and its block's sideband decode it. -/
def slotGroup (b : Bytes) (x : Sideband) : Grp :=
  if byteAt b 15 = 0x7F then
    { vals := (List.range 16).map fun j => fromA4 (nibble b j) (byteAt b 8) x.exp
      dodged := if bitOf (byteAt b 11) 7 then some (byteAt b 11 % 16, rd 2 b 9) else none }
  else { vals := (List.range 16).map fun j => fromA8 (byteAt b j) (x.exp + x.a8d) }

/-- A group of a region. -/
def State.group (s : State) (r : Region) (row p : Nat) : Grp :=
  let a := r.base + r.at p row
  let b := s.readData a (formBytes r.form)
  match r.form with
  | 3 => { vals := (List.range 16).map fun j => f32 (w32 (rd 4 b (4 * j))) }
  | 2 => { vals := (List.range 16).map fun j => bf16 (rd 2 b (2 * j)) }
  | _ => slotGroup b (s.sideband a)

/-- The values of a row, the dodged ones put back: what the row stands for. -/
def Grp.whole (g : Grp) : List Fp := match g.dodged with
  | some (i, h) => g.vals.set i (bf16 h)
  | none => g.vals

def State.regionRow (s : State) (r : Region) (row : Nat) : List Fp :=
  ((List.range r.panels).flatMap fun p => (s.group r row p).whole).take r.width

/-- The row in FP32 words. -/
def State.regionWords (s : State) (r : Region) (row : Nat) : List Word32 := (s.regionRow r row).map Fp.to32

/-! ### What the plan says of a tile's regions -/

/-- The phase that a descriptor's layer table entry belongs to; none in PRE and POST. -/
def PlanObj.layerOf (p : PlanObj) (d : List Nat) : List Nat := if dPhase d = 1 then p.layer (dLayer d) else []
def stripN (l : List Nat) : Nat := fld l 8 15 0
def stripE (l : List Nat) : Nat := fld l 8 23 16
def promoteN (l : List Nat) : Nat := fld l 8 31 24
def dodgeCap (l : List Nat) : Nat := fld l 0xC 5 0

def mmW (d : List Nat) : Nat := fld d 0x44 19 16
def mmA (d : List Nat) : Nat := fld d 0x44 23 20
def mmO (d : List Nat) : Nat := fld d 0x44 27 24
def mmAccIn (d : List Nat) : Bool := fld d 0x44 28 28 = 1
def mmEmit (d : List Nat) : Bool := fld d 0x44 29 29 = 1
def mmAOff (d : List Nat) : Nat := fld d 0x48 19 0
def mmAcc (d : List Nat) : Nat := fld d 0x48 27 20

/-- The MATMUL whose operand region a strip region is (R109; of one phase, log entry 119). -/
def PlanObj.stripMatmul (p : PlanObj) (ph l off : Nat) : Option (List Nat) :=
  ((p.tileProg ph l).map (·.2)).find? fun d =>
    let size := mmK d / 16 * (16 * mmM d + stripBytes)
    dOpc d == opMatmul && dStripOk d && mmA d != 2 && stripN (p.layerOf d) != 0 &&
      decide (mmAOff d ≤ off ∧ off < mmAOff d + size)

/-- A region of a tile's activation buffer. -/
def State.tileRegion (s : State) (ph l off rows width form : Nat) : Region :=
  { base := s.actOf l + off, rows := rows, width := width, form := form
    strip := decide (form ≤ 1) && (s.plan.stripMatmul ph l off).isSome }

/-- Form of what a descriptor writes, where it writes an activation region. -/
def outForm (d : List Nat) : Option Nat :=
  let o := dOpc d
  if o = opMatmul then some (mmO d) else if o = opAttn then some 2
  else if o = opNorm then some (fld d 0x44 19 17) else if o = opElemwise then some (fld d 0x48 6 4)
  else if o = opCombine ∨ o = opEmbed then some (fld d 0x50 2 0) else none

/-- The form of an operand region that its reader does not name: that of the plan's operator which writes it, on any tile of the
module, or else the form given (log entry 121). -/
def PlanObj.formAt (p : PlanObj) (self ph l off dflt : Nat) : Nat :=
  let writes (d : List Nat) : Bool := (outForm d).isSome && [0, 1].any fun j =>
    let t := dDest d j
    dOutCred d j != 0 && t.kind == 1 && t.dmod == self && t.dtile == l && t.addr == off
  let here := (p.phaseTiles ph).flatMap fun t => (p.tileProg ph t).map (·.2)
  match here.find? writes with
  | some d => (outForm d).getD dflt
  | none => (((p.sec secDesc).find? writes).bind outForm).getD dflt

/-! ### The slice's tables for an MoE layer -/

/-- The descriptor of an opcode in a phase and half-batch, with its tile. -/
def PlanObj.descOf (p : PlanObj) (opc ph hb : Nat) : Option (Nat × List Nat) :=
  (p.phaseTiles ph).findSome? fun t =>
    ((p.tileProg ph t).find? fun e => dOpc e.2 == opc && dHb e.2 == hb).map fun e => (t, e.2)

/-- TOPK of a layer's ROUTE. -/
def PlanObj.topk (p : PlanObj) (layer : Nat) : Nat :=
  match (p.sec secDesc).find? fun d => dOpc d == opRoute && dPhase d == 1 && dLayer d == layer with
  | some d => fld d 0x44 15 11
  | none => 1

/-- Bytes of a packed row (R100). -/
def packedRow (xfmt width : Nat) : Nat := if xfmt = 0 then width / 16 * 9 else if xfmt = 1 then width else 2 * width

/-- WIDTH and XFMT of a layer's DISPATCH. -/
def PlanObj.dispForm (p : PlanObj) (layer hb : Nat) : Nat × Nat :=
  match p.descOf opDispatchOpc (phaseOfLayer layer) hb with
  | some (_, d) => (fld d 0x44 15 0, fld d 0x44 17 16)
  | none => (0, 0)

/-- The expert that a tile of this module serves in a layer. -/
def PlanObj.expertOfTile (p : PlanObj) (self layer l : Nat) : Option (List Nat) :=
  (p.sec secExpert).find? fun e => fld e 0 15 0 == layer && exOwner e == self &&
    decide (exFirstTile e ≤ l ∧ l < exFirstTile e + exTiles e)

/-- First descriptor of a tile's chain in a phase and half-batch (R187). -/
def PlanObj.chainFirst (p : PlanObj) (ph l hb : Nat) : Option Nat :=
  ((p.tileProg ph l).find? fun e => dVarRows e.2 && dHb e.2 == hb).map (·.1)

/-- A descriptor belongs to its tile's chain. -/
def PlanObj.inChain (p : PlanObj) (ph l i : Nat) : Bool :=
  match p.chainFirst ph l (dHb (p.desc i)) with
  | some f => f ≤ i
  | none => false

/-- The descriptors of a chain in program order. -/
def PlanObj.chainDescs (p : PlanObj) (ph l hb : Nat) : List Nat :=
  ((p.tileProg ph l).filter fun e => dHb e.2 == hb && p.inChain ph l e.1).map (·.1)

/-- The dispatch record of a layer. -/
def State.disp? (s : State) (step layer hb : Nat) : Option DispRec :=
  s.fab.disp.find? fun r => r.step == step && r.layer == layer && r.hb == hb

def State.disp (s : State) (step layer hb : Nat) : DispRec :=
  (s.disp? step layer hb).getD { step := step, layer := layer, hb := hb }

def State.putDisp (s : State) (r : DispRec) : State :=
  s.onFab fun f => { f with
    disp := f.disp.filter (fun q => !(q.step == r.step && q.layer == r.layer && q.hb == r.hb)) ++ [r] }

/-! ### The operator that a unit runs -/

/-- A run: the tile, the descriptor and its index, its step, its phase and that phase's layer code. -/
structure Run where
  tile : Nat
  idx : Nat
  d : List Nat
  t : Step
  ph : Nat
  code : Nat
  deriving DecidableEq, Repr

/-- The descriptor of an opcode that has started on its unit of a tile and has not done its work. -/
def State.run? (s : State) (l opc unit : Nat) : Option Run :=
  let x := s.tileX l
  match x.unit unit with
  | none => none
  | some i =>
    let d := s.plan.desc i
    if dOpc d != opc || s.tested l || s.wts.main.isNone || !x.queue.any (fun q => q.desc == i && q.started && !q.executed) then
      none
    else (s.step? x.step).map fun t =>
      { tile := l, idx := i, d := d, t := t, ph := x.phase, code := s.plan.layerCode x.phase }

/-- A descriptor's work is done. -/
def State.executed (s : State) (r : Run) : State :=
  s.modTile r.tile fun x => { x with
    queue := x.queue.map fun q => if q.desc = r.idx ∧ q.started then { q with executed := true } else q }

def State.runUnit (s : State) (r : Run) : UnitId := tileUnit (s.ptileOf r.tile)

/-- Operator inputs: a poisoned block among them is a UE (R347), and an unmapped page aborts the step (R47). Ranges are of the
physical view and of the module range. -/
def State.withInputs (s : State) (r : Run) (phys range : List (Nat × Nat)) (f : State → State) : State :=
  match range.find? fun x => !s.mappedAll x.1 x.2 with
  | some x => s.rangeFault (s.runUnit r) x.1 r.t.seq
  | none =>
    let blocks (x : Nat × Nat) : List Nat := (rangeFrom (blockOf x.1) (blockOf (x.1 + x.2 - 1) + 1 - blockOf x.1)).map (· * blockBytes)
    let bad := (phys.flatMap blocks ++ (range.flatMap blocks).map s.phys).find? s.poisoned
    match bad with
    | some a => s.memUe (viewUnit a) a .range r.t.seq
    | none =>
      let touched := range.flatMap fun x => rangeFrom (pageOf x.1) (pageOf (x.1 + x.2 - 1) + 1 - pageOf x.1)
      f (s.onMem fun m => { m with
        pages := m.pages.map fun e => if touched.contains e.1 then (e.1, { e.2 with access := e.2.access + 1 }) else e })

/-- An operator's command: nothing where its descriptor has not started. -/
def State.operate (s : State) (l opc unit : Nat) (f : State → Run → State) : State :=
  match s.run? l opc unit with
  | none => s
  | some r => f s r

/-! ### Live rows -/

def Run.half (r : Run) : HalfBatch := r.t.hb (dHb r.d)

/-- A row's session entry, attention record, and place within the session. -/
def HalfBatch.row (b : HalfBatch) (r : Nat) : Option (SRow × ARec × Nat) :=
  ((b.rows.zip (b.recs ++ List.replicate b.rows.length noRec)).find? fun e =>
    decide (e.1.firstRow ≤ r ∧ r < e.1.firstRow + e.1.rows)).map fun e => (e.1, e.2, r - e.1.firstRow)

/-- The current group of a chain: its slots. -/
def State.chainGroup (s : State) (l hb : Nat) : List Nat := (tgetD (s.tileX l).chain hb []).headD []

def State.chained (s : State) (r : Run) : Bool := s.plan.inChain r.ph r.tile r.idx

/-- A row is kept: the keep mask has its bit, in a block that is not read as empty. -/
def State.kept (s : State) (r : Run) (row : Nat) : Bool :=
  !dMasked r.d || bitOf (byteAt (s.readData (s.actOf r.tile + dMaskBlk r.d * blockBytes + row / 8) 1) 0) (row % 8)

/-- Live rows before the keep mask. -/
def State.liveRows (s : State) (r : Run) (cap : Nat) : List Nat :=
  if s.chained r then List.range (min cap (s.chainGroup r.tile (dHb r.d)).length) else List.range (min cap r.half.positions)

/-- The rows that a run computes. -/
def State.runRows (s : State) (r : Run) (cap : Nat) : List Nat := (s.liveRows r cap).filter (s.kept r)

/-- The session that a row belongs to. -/
def State.rowSession (s : State) (r : Run) (row : Nat) : Option Nat :=
  if s.chained r then
    match (s.chainGroup r.tile (dHb r.d))[row]? with
    | none => none
    | some slot => ((s.disp r.t.seq (dLayer r.d) (dHb r.d)).landed.find? fun x => x.slot == slot).map (·.session)
  else (r.half.row row).map fun e => e.1.session

end Sys2Proof.Machine
end

