-- ==== Sys2Proof/Machine/Expert.lean ====
section
/-! DEFINITION. Expert traffic (R183 to R190, R269): slot rows as they land at the owner, arrival lists, chains and their groups,
dispatch regions and BUF_FREE, and returns. Each is one operation, for a packet and for a slot that crosses no link. -/

namespace Sys2Proof.Machine

open Sys2Proof

def PlanObj.slotsOf (p : PlanObj) (layer : Nat) : Nat := rsSlots ((p.resvOfLayer layer).getD [])

/-- DCH_EXP and the tile of a layer's DISPATCH in a half-batch. -/
def PlanObj.dchExp (p : PlanObj) (layer hb : Nat) : Nat :=
  (p.descOf opDispatchOpc (phaseOfLayer layer) hb).elim 0 fun e => fld e.2 0x50 7 0
def PlanObj.dispTile (p : PlanObj) (layer hb : Nat) : Nat := (p.descOf opDispatchOpc (phaseOfLayer layer) hb).elim 0 (·.1)

/-- The index of a layer's DISPATCH in a half-batch. -/
def PlanObj.dispIdx (p : PlanObj) (layer hb : Nat) : Nat :=
  ((p.tileProg (phaseOfLayer layer) (p.dispTile layer hb)).find? fun e => dOpc e.2 == opDispatchOpc && dHb e.2 == hb).elim 0 (·.1)

/-- The experts of a layer that a module owns. -/
def PlanObj.ownExperts (p : PlanObj) (self layer : Nat) : List (List Nat) :=
  (p.sec secExpert).filter fun e => fld e 0 15 0 == layer && exOwner e == self

def expertTiles (e : List Nat) : List Nat := rangeFrom (exFirstTile e) (exTiles e)

/-! ### Arrival lists (R186) -/

/-- A tile is in a phase of a step. -/
def TileX.inPhase (x : TileX) (step ph : Nat) : Bool := x.step == step && x.phase == ph && !x.phaseDone

/-- The list of an expert: the slots that landed for it, ascending, in 2,048 entries. -/
def DispRec.listBytes (r : DispRec) (expert : Nat) : Bytes :=
  let l := sortBy (fun a b => decide (a ≤ b)) ((r.landed.filter fun x => x.expert == expert).map (·.slot))
  (l ++ List.replicate (2048 - l.length) 0xFFFF).flatMap (le 2)

/-- Where the list of a half-batch lies in the activation buffer. -/
def listOff (hb : Nat) : Nat := 0xFE000 + 0x1000 * hb

/-- An expert tile gets its list and its mark. A list that is complete before the tile is in the layer waits for its entry. -/
def State.giveList (s : State) (r : DispRec) (l : Nat) : State :=
  match s.plan.expertOfTile s.index r.layer l with
  | none => s
  | some e =>
    let s1 := s.landBlock (s.actOf l + listOff r.hb) { data := r.listBytes (exExpert e) }
    s1.addMarks (tileChan l (s.plan.dchExp r.layer r.hb)) 1 r.step

/-- The tiles of this module that run chains in a layer and half-batch. -/
def State.chainTiles (s : State) (layer hb : Nat) : List Nat :=
  ((s.plan.ownExperts s.index layer).flatMap expertTiles).filter fun l =>
    (s.plan.chainFirst (phaseOfLayer layer) l hb).isSome

/-! ### Dispatch regions and BUF_FREE (R189) -/

/-- The layers whose reservation names the same buffer as a layer's. -/
def PlanObj.sharing (p : PlanObj) (layer : Nat) : List Nat :=
  let base := rsBase ((p.resvOfLayer layer).getD [])
  ((p.sec secResv).filter fun e => rsBase e == base).map rsLayer

/-- The previous use of a dispatch region: the latest earlier layer, in step and layer order, with the same buffer. -/
def State.prevUse (s : State) (step layer hb : Nat) : Option (Nat × Nat) :=
  let ls := s.plan.sharing layer
  match (ls.filter fun l => decide (l < layer)).getLast? with
  | some l => some (step, l)
  | none =>
    let before := s.fab.disp.filter fun r => decide (r.step < step) && r.hb == hb && ls.contains r.layer
    if before.isEmpty then none else some (listMax (before.map (·.step)), listMax ls)

/-- The region is free: BUF_FREE of the previous use has come from every module. -/
def State.regionFree (s : State) (step layer hb : Nat) : Bool :=
  match s.prevUse step layer hb with
  | none => true
  | some (n, l) => s.sliceModules.all fun m => (s.disp n l hb).freed.contains m

/-- BUF_FREE of a module recorded; the last one ends the wait of a DISPATCH whose layer is entered. -/
def State.noteFree (s : State) (m step layer hb : Nat) : State :=
  let r := s.disp step layer hb
  let s1 := s.putDisp { r with freed := addNew r.freed m }
  if r.freed.contains m || !s.sliceModules.all (fun x => (addNew r.freed m).contains x) then s1 else
    s1.steps.live.foldl (fun a t => (s.plan.sharing layer).foldl (fun b l =>
      match tget t.enteredNs (phaseOfLayer l) with
      | some t0 =>
        if b.prevUse t.seq l hb == some (step, layer) && (b.disp t.seq l hb).sent.isNone then
          b.stall ctDispatchWait 0 (b.now - t0) l (b.plan.dispTile l hb) (b.plan.dispIdx l hb) t.seq
        else b
      | none => b) a) s1

/-- BUF_FREE to every module once every chain of the layer and half-batch has completed here. -/
def State.checkFree (s : State) (step layer hb : Nat) : State :=
  let r := s.disp step layer hb
  if !r.listed || r.freeSent || !(s.chainTiles layer hb).all (fun l => r.chainsDone.contains l) then s else
    let s1 := s.putDisp { r with freeSent := true }
    let s2 := s1.others.foldl (fun a m => a.sendPacket (a.opPacket ptBufFree m step (layer + 65536 * hb))) s1
    s2.noteFree s2.index step layer hb

/-- A tile's chain of a layer and half-batch has completed. -/
def State.chainDone (s : State) (l step layer hb : Nat) : State :=
  let r := s.disp step layer hb
  (s.putDisp { r with chainsDone := addNew r.chainsDone l }).checkFree step layer hb

/-! ### Landing (R185, R186) -/

/-- Layer, half-batch and slot of an address in a dispatch buffer: the first layer with that buffer whose lists of the step are
not built yet (log entry 122). -/
def State.slotOf (s : State) (step addr : Nat) : Option (Nat × Nat × Nat) :=
  (s.plan.sec secResv).findSome? fun e =>
    let layer := rsLayer e
    let f := s.plan.dispForm layer 0
    let row := packedRow f.2 f.1
    if addr < rsBase e ∨ rsBase e + rsPages e * pageBytes ≤ addr ∨ row = 0 ∨ rsSlots e = 0 then none else
      let k := (addr - rsBase e) / row
      let hb := k / rsSlots e
      if 1 < hb ∨ (s.disp step layer hb).listed then none else some (layer, hb, k % rsSlots e)

/-- A part of a slot row lands, with its source, session and epoch. -/
def State.landSlot (s : State) (u : UnitId) (src expert session epoch step addr : Nat) (data : Bytes) : State :=
  if !s.mappedAll addr data.length then s.rangeFault u addr step else
  match s.slotOf step addr with
  | none => s.rangeFault u addr step
  | some (layer, hb, slot) =>
    let s1 := s.writeRange addr data
    let r := s1.disp step layer hb
    let f := s1.plan.dispForm layer hb
    let had := ((r.landed.find? fun x => x.slot == slot).map (·.bytes)).getD 0
    let x : Landed := { slot := slot, expert := expert, src := src, session := session, epoch := epoch, bytes := had + data.length }
    let s2 := s1.putDisp { r with landed := r.landed.filter (fun y => y.slot != slot) ++ [x] }
    if x.bytes = packedRow f.2 f.1 then s2.count ctSlotsLanded 0 1 else s2

/-- DISPATCH_END of a module recorded; with all of them the arrival lists are built. -/
def State.noteEnd (s : State) (m step layer hb : Nat) : State :=
  let r := s.disp step layer hb
  let r1 := { r with ends := addNew r.ends m }
  if r.listed || !s.sliceModules.all (fun x => r1.ends.contains x) then s.putDisp r1 else
    let r2 := { r1 with listed := true }
    let s1 := s.putDisp r2
    let tiles := ((s1.plan.ownExperts s1.index layer).flatMap expertTiles).filter fun l =>
      (s1.tileX l).inPhase step (phaseOfLayer layer)
    (tiles.foldl (fun a l => a.giveList r2 l) s1).checkFree step layer hb

/-! ### A chain's groups (R187) -/

/-- The groups that a tile runs: of M slots each, those whose number modulo TILES is the tile's place, from the list that lies in
its activation buffer. -/
def State.groupsOf (s : State) (l layer hb m : Nat) : List (List Nat) :=
  match s.plan.expertOfTile s.index layer l with
  | none => []
  | some e =>
    let b := s.readData (s.actOf l + listOff hb) 4096
    let slots := ((List.range 2048).map fun i => rd 2 b (2 * i)).takeWhile (· != 0xFFFF)
    ((indexed (chunksOf m slots)).filter fun g => g.1 % exTiles e == l - exFirstTile e).map (·.2)

/-- A packed row as the slots of Table 3.7 in A4, or byte for byte: one group of it. -/
def unpackGroup (xfmt : Nat) (b : Bytes) (p : Nat) : Bytes :=
  if xfmt = 0 then cut b (9 * p) 9 ++ zeros 6 ++ [0x7F] else if xfmt = 1 then cut b (16 * p) 16 else cut b (32 * p) 32

/-- The current group's rows copied from the dispatch buffer into the staging region. -/
def State.stage (s : State) (l layer hb : Nat) (d : List Nat) (slots : List Nat) : State :=
  let f := s.plan.dispForm layer hb
  let row := packedRow f.2 f.1
  let e := (s.plan.resvOfLayer layer).getD []
  let g : Region := s.tileRegion (phaseOfLayer layer) l (mmAOff d) (mmM d) f.1 (if f.2 = 2 then 2 else f.2)
  let rows := slots.map fun k => s.readRange (rsBase e + (hb * rsSlots e + k) * row) row
  let panel (p : Nat) : Bytes := (List.range (mmM d)).flatMap fun i =>
    match rows[i]? with
    | some b => unpackGroup f.2 b p
    | none => zeros (formBytes g.form)
  let area := (List.range g.panels).flatMap fun p => fit g.panel (panel p)
  (indexed (chunksOf blockBytes area)).foldl (fun a b => a.landBlock (g.base + b.1 * blockBytes) { data := b.2 }) s

/-! ### Returns (R188, R190, R269) -/

/-- WIDTH and bytes of a return row of a layer's COMBINE. -/
def PlanObj.returnRow (p : PlanObj) (layer hb : Nat) : Nat :=
  (p.descOf opCombine (phaseOfLayer layer) hb).elim 0 fun e => fld e.2 0x44 15 0 * (if fld e.2 0x44 17 16 = 0 then 2 else 4)

/-- When every sent slot is resolved, the mark on DCH_EXP of the DISPATCH's tile. -/
def State.checkResolved (s : State) (step layer hb : Nat) : State :=
  let r := s.disp step layer hb
  match r.sent with
  | none => s
  | some sent =>
    if r.marked || !sent.all (fun k => r.resolved.contains k) then s else
      (s.putDisp { r with marked := true }).addMarks (tileChan (s.plan.dispTile layer hb) (s.plan.dchExp layer hb)) 1 step

/-- The record of this module's own dispatch that a return belongs to, with its slot: the return region is the DISPATCH_BUF tensor
at the address, and the layer the first whose slot is sent and unresolved. -/
def State.returnOf (s : State) (step addr : Nat) : Option (DispRec × Nat × Nat) :=
  match s.plan.tensorAt addr with
  | none => none
  | some t => s.fab.disp.findSome? fun r =>
    let row := s.plan.returnRow r.layer r.hb
    let n := s.plan.slotsOf r.layer
    if r.step ≠ step ∨ tnKind t ≠ 6 ∨ row = 0 ∨ n = 0 then none else
      let k := (addr - tnBase t) / row
      if k / n = r.hb ∧ (r.sent.getD []).contains (k % n) ∧ !r.resolved.contains (k % n) then some (r, k % n, tnBase t) else none

/-- FLT_LATE_RETURN at most once a second, with the count since the last one. -/
def State.lateReturn (s : State) : State :=
  let s1 := (s.count ctLateReturn 0 1).onSteps fun x => { x with lateReturns := x.lateReturns + 1 }
  let quiet := match s.steps.lateReturnNs with
    | some t => decide (t + 1000000000 ≤ s.now)
    | none => true
  if quiet then
    (s1.fault fltLateReturn noUnit { args := [s1.steps.lateReturns] }).onSteps fun x => { x with
      lateReturns := 0, lateReturnNs := some s.now }
  else s1

/-- A return lands, or is dropped by its epoch; its slot is resolved once it has landed whole or is dropped. -/
def State.landReturn (s : State) (u : UnitId) (session epoch step addr : Nat) (data : Bytes) : State :=
  if !s.mappedAll addr data.length then s.rangeFault u addr step else
  match s.returnOf step addr with
  | none => s
  | some (r, slot, base) =>
    let stale := match s.sessById session with
      | some x => x.epoch != epoch
      | none => true
    if stale then
      ((s.putDisp { r with resolved := addNew r.resolved slot }).lateReturn).checkResolved step r.layer r.hb
    else
      let n := tgetD r.returns slot 0 + data.length
      let whole := decide (s.plan.returnRow r.layer r.hb ≤ n)
      let r1 := { r with
        returns := tset r.returns slot n, base := base
        resolved := if whole then addNew r.resolved slot else r.resolved, order := if whole then r.order ++ [slot] else r.order }
      let s1 := (s.writeRange addr data).putDisp r1
      if whole then (s1.count ctReturnsLanded 0 1).checkResolved step r.layer r.hb else s1

/-- A chain's output row goes back to the module that sent its slot. -/
def State.sendReturn (s : State) (u : UnitId) (step layer hb : Nat) (addr slot : Nat) (row : Bytes) : State :=
  match (s.disp step layer hb).landed.find? fun x => x.slot == slot with
  | none => s
  | some x =>
    let a := fabLocal addr + (hb * s.plan.slotsOf layer + slot) * row.length
    (indexed (chunksOf 4096 row)).foldl (fun (b : State) c =>
      if x.src = b.index then b.landReturn u x.session x.epoch step (a + 4096 * c.1) c.2
      else b.sendPacket { b.opPacket ptReturn x.src step (a + 4096 * c.1) c.2 with session := x.session, epoch := x.epoch }) s

end Sys2Proof.Machine
end

