-- ==== Sys2Proof/Machine/Convert.lean ====
section
/-! DEFINITION. The edge converter (R95 to R99, R105 to R109, R114, R115): an operator's output rows in its format, block by block,
with exposures, dodged elements, rows in A8 form and the wide copy, and where an operator's output goes. -/

namespace Sys2Proof.Machine

open Sys2Proof

/-- What a conversion needs beside the values: the region it fills, the dodge capacity, whether each block takes its own exposure,
the rows that a fallback writes in A8 form, and the first row of the strip row group. -/
structure ConvSpec where
  reg : Region
  cap : Nat := 0
  perBlock : Bool := false
  a8 : List Nat := []
  wide : Nat := 0
  deriving DecidableEq, Repr

/-- A converted output with what the conversion counts. -/
structure Converted where
  blocks : List Blk
  sat : Nat
  nonfinite : Nat
  dodged : Nat
  overflow : Nat
  deriving DecidableEq, Repr

/-- Sixteen values of a live row. -/
structure Cell where
  row : Nat
  p : Nat
  xs : List Fp
  deriving DecidableEq, Repr

def cellsOf (vals : List (Nat × List Word32)) : List Cell :=
  vals.flatMap fun v => (indexed (chunksOf 16 (v.2.map f32))).map fun c =>
    { row := v.1, p := c.1, xs := c.2 ++ List.replicate (16 - c.2.length) (Fp.num 0 0) }

/-- The dodged place of a cell, where the layer dodges. -/
def ConvSpec.dodge (q : ConvSpec) (c : Cell) : Option Nat := if q.reg.form = 0 ∧ 0 < q.cap then dodgePlace c.xs else none

/-- The rows whose dodged elements pass the capacity in some span of 1,024 columns (R107). -/
def ConvSpec.overflows (q : ConvSpec) (cs : List Cell) : List Nat :=
  let rows := ((cs.map (·.row)).foldl addNew []).filter fun r => !q.a8.contains r
  rows.filter fun r => (List.range (ceilDiv q.reg.panels 64)).any fun j =>
    decide (q.cap < (cs.filter fun c => c.row == r && c.p / 64 == j && (q.dodge c).isSome).length)

/-- The cell's elements less the dodged one, which a row in A8 form keeps. -/
def ConvSpec.kept (q : ConvSpec) (a8 : List Nat) (c : Cell) : List Fp :=
  if a8.contains c.row then c.xs else match q.dodge c with
    | some i => c.xs.set i (Fp.num 0 0)
    | none => c.xs

def ConvSpec.blockOf (q : ConvSpec) (c : Cell) : Nat := q.reg.at c.p c.row / blockBytes

/-- The largest magnitude that a block's exposure comes from. -/
def ConvSpec.mag (q : ConvSpec) (a8 : List Nat) (cs : List Cell) (b : Nat) : Fp :=
  maxMag ((cs.filter fun c => !q.perBlock || q.blockOf c == b).flatMap (q.kept a8))

/-- EXP and A8D of a block (R95, R107). -/
def ConvSpec.exposure (q : ConvSpec) (a8 : List Nat) (cs : List Cell) (b : Nat) : Int × Nat :=
  let m := q.mag a8 cs b
  match q.reg.form with
  | 0 => if m.isZero then (0, 0) else (expA4 m, if a8.isEmpty then 0 else (expA8 m - expA4 m).toNat)
  | 1 => (if m.isZero then 0 else expA8 m, 0)
  | _ => (0, 0)

/-- A cell's bytes with the conversions that saturated and that met a non-finite value, and whether it has a dodged element. -/
def ConvSpec.cell (q : ConvSpec) (a8 : List Nat) (e : Int) (a8d : Nat) (c : Cell) : Bytes × Nat × Nat × Nat :=
  let a8Form (e : Int) : Bytes × Nat × Nat × Nat :=
    let cs := c.xs.map fun x => toA8 x e
    (cs.map fun x => BitVec.ofNat 8 x.code, (cs.filter (·.sat)).length, (cs.filter (·.nonfinite)).length, 0)
  match q.reg.form with
  | 3 => ((c.xs.map fun x => le 4 x.to32.toNat).flatMap id, 0, 0, 0)
  | 2 =>
    let cs := c.xs.map toBf16
    (cs.flatMap fun x => le 2 x.code, 0, (cs.filter (·.nonfinite)).length, 0)
  | 1 => a8Form e
  | _ =>
    if a8.contains c.row then a8Form (e + a8d) else
      let d := q.dodge c
      let g := toA4 c.xs e d
      let out : Bytes := match d with
        | some i => le 2 (toBf16 (c.xs.getD i (Fp.num 0 0))).code ++ le 1 (i + 128)
        | none => zeros 3
      (packNibbles g.codes ++ le 1 g.scale ++ out ++ zeros 3 ++ [0x7F], b2n g.sat, b2n g.nonfinite, b2n d.isSome)

/-- A panel's wide copy (R109): the strip row group's values in BF16, before narrowing. -/
def ConvSpec.wideCopy (q : ConvSpec) (cs : List Cell) (p : Nat) : Bytes :=
  (rangeFrom q.wide 48).flatMap fun r => match cs.find? fun c => c.row == r && c.p == p with
    | some c => c.xs.flatMap fun x => le 2 (toBf16 x).code
    | none => zeros 32

/-- The conversion of an output: every row of the region's capacity, those that are not live as zero; a block that holds no live
row is an empty mark (R56). -/
def ConvSpec.convert (q : ConvSpec) (vals : List (Nat × List Word32)) : Converted :=
  let cs := cellsOf vals
  let ovf := if q.reg.form = 0 ∧ 0 < q.cap then q.overflows cs else []
  let a8 := q.a8 ++ ovf
  let done := cs.map fun c => let x := q.exposure a8 cs (q.blockOf c); (c, q.cell a8 x.1 x.2 c)
  let area := (List.range q.reg.panels).flatMap fun p =>
    ((List.range q.reg.rows).flatMap fun r => match done.find? fun c => c.1.row == r && c.1.p == p with
      | some c => c.2.1
      | none => zeros (formBytes q.reg.form)) ++ (if q.reg.strip then q.wideCopy cs p else [])
  let wideRow (c : Cell) : Bool := q.reg.strip && decide (q.wide ≤ c.row ∧ c.row < q.wide + 48)
  let live (b : Nat) : Bool := cs.any fun c => q.blockOf c == b ||
    (wideRow c && (q.reg.wideAt c.p + 32 * (c.row - q.wide)) / blockBytes == b)
  { blocks := (indexed (chunksOf blockBytes area)).map fun b =>
      let x := q.exposure a8 cs b.1
      { data := fit blockBytes b.2, exp := x.1, a8d := x.2, live := live b.1 }
    sat := listSum (done.map fun c => c.2.2.1), nonfinite := listSum (done.map fun c => c.2.2.2.1)
    dodged := listSum (done.map fun c => c.2.2.2.2), overflow := ovf.length }

/-- The counters of a conversion, by layer (R118). -/
def State.countConv (s : State) (code : Nat) (c : Converted) : State :=
  ((((s.count ctSat code c.sat).count ctNonfinite code c.nonfinite).count ctDodgeElements code c.dodged).count
    ctDodgeOverflow code c.overflow)

/-! ### Fallback rows (R115, R116) -/

def a8Key (step layer : Nat) : Nat := step * 1024 + layer

/-- The rows of a run that fall back to A8 form: of sessions that disagreed in this step and layer, or are promoted for it. -/
def State.a8Of (s : State) (r : Run) (rows : List Nat) : List Nat :=
  if dPhase r.d != 1 then [] else
    let here := tgetD s.tiles.a8Rows (a8Key r.t.seq (dLayer r.d)) []
    rows.filter fun i => match s.rowSession r i with
      | none => false
      | some id => here.contains id || (s.sessById id).any fun x => x.promo.contains (dLayer r.d)

/-- First row of a half-batch's strip row group (R109). -/
def stripFirst (seq positions : Nat) : Nat := 48 * (seq % max 1 (ceilDiv positions 48))

/-! ### Where an output goes -/

/-- The outputs of a descriptor that are in use (R66). -/
def outsUsed (d : List Nat) : List Nat := [0, 1].filter fun j => dOutCred d j != 0 && (dDest d j).kind != 0

/-- The conversion that a destination asks for: a strip region on this module takes the wide copy. -/
def State.convSpec (s : State) (r : Run) (t : Dest) (form rows width : Nat) (live : List Nat) : ConvSpec :=
  let here := t.kind == 1 && s.destHere t
  let reg : Region := if here then s.tileRegion r.ph t.dtile t.addr rows width form
    else { base := 0, rows := rows, width := width, form := form }
  { reg := reg, cap := dodgeCap (s.plan.layerOf r.d), a8 := if form = 0 then s.a8Of r live else []
    perBlock := (s.tileX r.tile).reexposed.contains (dLayer r.d) && dPhase r.d == 1
    wide := stripFirst r.t.seq r.half.positions }

/-- A return destination: a RANGE of a chain (R188). -/
def State.returns (s : State) (r : Run) (t : Dest) : Bool := t.kind == 2 && s.chained r

/-- An output converted and placed: at each destination in use; the rows of a chain's return go to the modules that sent their
slots. What it counts is counted once. -/
def State.emitRows (s : State) (r : Run) (form rows width : Nat) (vals : List (Nat × List Word32)) : State :=
  let live := vals.map (·.1)
  (indexed (outsUsed r.d)).foldl (fun a e =>
    let t := dDest r.d e.2
    let q := a.convSpec r t form rows width live
    let c := q.convert vals
    let b := if e.1 = 0 then a.countConv r.code c else a
    if b.returns r t then
      vals.foldl (fun (x : State) v => match (x.chainGroup r.tile (dHb r.d))[v.1]? with
        | none => x
        | some slot => x.sendReturn (x.runUnit r) r.t.seq (dLayer r.d) (dHb r.d) t.addr slot
            (v.2.flatMap fun w => if form = 2 then le 2 (toBf16 (f32 w)).code else le 4 w.toNat)) b
    else b.putBlocks (b.runUnit r) r.t.seq t c.blocks) s

/-- Raw bytes placed at each destination in use. -/
def State.emitBytes (s : State) (r : Run) (b : Bytes) (live : Nat → Bool := fun _ => true) : State :=
  (outsUsed r.d).foldl (fun a j => a.putBlocks (a.runUnit r) r.t.seq (dDest r.d j)
    ((indexed (chunksOf blockBytes b)).map fun c => { data := fit blockBytes c.2, live := live c.1 })) s

end Sys2Proof.Machine
end

