-- ==== Sys2Proof/Machine/Sampling.lean ====
section
/-! DEFINITION. The sampling unit's arithmetic (R220, R222, R228) and the proof engine's trees and branches (R225 to R227), over
lists of FP32 words by token id. -/

namespace Sys2Proof.Machine

open Sys2Proof

/-! ### Uniform draws (R222) -/

/-- The uniform that random bits spell: the spec gives no conversion, so its value is free. -/
def uniformOf (ws : List Word32) : Word32 := Config.unstatedWord 50 ws

/-- The k-th uniform of a row: from the module's random source, or for a seeded generation from Philox with counter (position,
k). How position and k fill the four counter words is left open, so the low words take them (log entry 114). -/
def State.uniform (s : State) (g : GenParams) (pos k : Nat) : Word32 :=
  if g.seed = 0 then uniformOf [w32 (Config.random (s.freeCtr + k))]
  else
    let c := philox g.seed { c0 := pos % 2 ^ 32, c1 := pos / 2 ^ 32, c2 := k, c3 := 0 }
    uniformOf [w32 c.c0, w32 c.c1, w32 c.c2, w32 c.c3]

/-! ### The processed distribution (R220) -/

def negInf : Word32 := f32Inf true

/-- Step 1: biases. -/
def addBias (bias : List (Nat × Word32)) (z : List Word32) : List Word32 :=
  bias.foldl (fun l b => match l[b.1]? with
    | some x => l.set b.1 (fadd x b.2)
    | none => l) z

/-- Step 2: the repetition penalty, once for each token of the window. -/
def penalise (r : Word32) (window : List Nat) (z : List Word32) : List Word32 :=
  if r = f32One then z else
    (window.foldl addNew []).foldl (fun l t => match l[t]? with
      | some x => l.set t (if flt f32Zero x then fdiv x r else fmul x r)
      | none => l) z

/-- A NaN logit counts as −∞. -/
def nanLow (x : Word32) : Word32 := if (f32 x).isNan then negInf else x

/-- Softmax (R102). -/
def softmax (z : List Word32) : List Word32 :=
  let m := vecMax z
  let es := z.map fun x => fexp (fsub x m)
  let sum := vecSum es
  es.map fun e => fdiv e sum

/-- Token ids by falling probability, ties to the lower id. -/
def byProb (p : List Word32) : List (Nat × Word32) :=
  sortBy (fun a b => flt b.2 a.2 || (!flt a.2 b.2 && decide (a.1 ≤ b.1))) (indexed p)

/-- Every probability below a bound dropped; ties at it are kept. -/
def dropBelow (bound : Word32) (p : List Word32) : List Word32 := p.map fun x => if flt x bound then f32Zero else x

def keepTopK (k : Nat) (p : List Word32) : List Word32 :=
  if k = 0 then p else match (byProb p)[k - 1]? with
    | some b => dropBelow b.2 p
    | none => p

/-- The probability at which the running mass, from the most probable token on, reaches a bound. -/
def massBound (bound : Word32) : List (Nat × Word32) → Word32 → Option Word32
  | [], _ => none
  | e :: r, acc => let a := fadd acc e.2; if fle bound a then some e.2 else massBound bound r a

def keepTopP (b : Word32) (p : List Word32) : List Word32 :=
  if b = f32One then p else match massBound b (byProb p) f32Zero with
    | some x => dropBelow x p
    | none => p

def keepMinP (b : Word32) (p : List Word32) : List Word32 :=
  if (f32 b).isZero then p else dropBelow (fmul b (vecMax p)) p

def normalise (p : List Word32) : List Word32 := let s := vecSum p; p.map fun x => fdiv x s

/-- Logits after steps 1 and 2, NaN as −∞. -/
def GenParams.logits (g : GenParams) (window : List Nat) (z : List Word32) : List Word32 :=
  (penalise g.repPenalty window (addBias g.bias z)).map nanLow

def GenParams.greedy (g : GenParams) : Bool := (f32 g.temperature).isZero

/-- Steps 3 to 6: p. A greedy generation forms it at temperature 1. -/
def GenParams.dist (g : GenParams) (l : List Word32) : List Word32 :=
  let z := if g.greedy then l else l.map fun x => fdiv x g.temperature
  normalise (keepMinP g.minP (keepTopP g.topP (keepTopK g.topK (softmax z))))

/-- The highest entry, the lower id on a tie. -/
def argMax (l : List Word32) : Nat :=
  ((indexed l).foldl (fun (b : Nat × Word32) e => if flt b.2 e.2 then e else b) (0, l.headD negInf)).1

/-- Running sums in ascending token id. -/
def runSums : List Word32 → Word32 → List Word32
  | [], _ => []
  | x :: r, a => let b := fadd a x; b :: runSums r b

/-- Step 7: the token at which the running sum first exceeds u × Σp. Where rounding lets none exceed it, the spec states no
token, and it is free. -/
def drawFrom (p : List Word32) (u : Word32) : Nat :=
  let ss := runSums p f32Zero
  let top := fmul u (ss.getLast?.getD f32Zero)
  ((indexed ss).find? fun e => flt top e.2).elim (Config.unstated 51 (p.map BitVec.toNat) % max 1 p.length) (·.1)

/-- Every logit −∞: the row has no token. -/
def noToken (l : List Word32) : Bool := l.all fun x => x == negInf

/-! ### Rows of a session (R228) -/

/-- A row as the unit sees it: its logits, and the tokens before what it predicts. -/
structure SampRow where
  z : List Word32
  window : List Nat
  pos : Nat
  deriving DecidableEq, Repr

/-- A q list as a probability by token. -/
def qOf (q : List (Nat × Word32)) (t : Nat) : Word32 := ((q.find? (fun e => e.1 == t)).map (·.2)).getD f32Zero

/-- normalise(max(0, p − q)); p unchanged where the sum is 0. -/
def residual (p : List Word32) (q : List (Nat × Word32)) : List Word32 :=
  let d := (indexed p).map fun e => fmax f32Zero (fsub e.2 (qOf q e.1))
  if (f32 (vecSum d)).isZero then p else normalise d

/-- q with a token taken out, normalised. -/
def qWithout (q : List (Nat × Word32)) (t : Nat) : List (Nat × Word32) :=
  let r := q.filter fun e => e.1 != t
  let s := vecSum (r.map (·.2))
  r.map fun e => (e.1, fdiv e.2 s)

/-- One row's decision: a child accepted (its row), or the token drawn at the end; with the number of draws taken. -/
def decideRow (s : State) (g : GenParams) (pos : Nat) : List (Nat × Nat) → List Word32 → List (Nat × Word32) → Nat →
    (Nat ⊕ Nat) × Nat
  | [], p, _, k => (.inr (drawFrom p (s.uniform g pos k)), k + 1)
  | (row, x) :: r, p, q, k =>
    if flt (s.uniform g pos k) (fmin32 f32One (fdiv (p.getD x f32Zero) (qOf q x))) then (.inl row, k + 1)
    else decideRow s g pos r (residual p q) (qWithout q x) (k + 1)
where
  /-- The lesser of two words. -/
  fmin32 (a b : Word32) : Word32 := if flt b a then b else a

/-- What acceptance decides: the path, the emitted tokens with their log-probabilities; none where a row has no token. -/
structure Accept where
  path : List Nat
  items : List (Nat × Word32)
  st : State
  deriving DecidableEq, Repr

/-- The children of a row in row order, with their tokens. -/
def childrenOf (tree : List TreeRow) (v : Nat) : List (Nat × Nat) :=
  ((indexed tree).filter fun r => r.1 != 0 && r.2.parent == v).map fun r => (r.1, r.2.token)

/-- Recursive rejection sampling over a tree from row v (R228), at most `fuel` rows deep. -/
def acceptFrom (g : GenParams) (tree : List TreeRow) (rows : List SampRow) : Nat → Nat → Accept → Option Accept
  | 0, _, a => some a
  | fuel + 1, v, a =>
    let r := rows.getD v ⟨[], [], 0⟩
    let l := g.logits r.window r.z
    if noToken l then none else
      let p := g.dist l
      let item (t : Nat) : Nat × Word32 := (t, if g.logprobs then fln (p.getD t f32Zero) else f32Zero)
      let kids := childrenOf tree v
      if g.greedy then
        let t := argMax l
        let b := { a with path := a.path ++ [v], items := a.items ++ [item t] }
        match kids.find? fun c => c.2 == t with
        | some c => acceptFrom g tree rows fuel c.1 b
        | none => some b
      else
        let d := decideRow a.st g r.pos kids p ((tree[v]?).elim [] (·.q)) 0
        let st := if g.seed = 0 then { a.st with freeCtr := a.st.freeCtr + d.2 } else a.st
        match d.1 with
        | .inl c =>
          acceptFrom g tree rows fuel c
            { path := a.path ++ [v], items := a.items ++ [item (((tree[c]?).elim 0 (·.token)))], st := st }
        | .inr t => some { path := a.path ++ [v], items := a.items ++ [item t], st := st }

/-- PATH of an outcome. -/
def packPath (path : List Nat) : Nat := (indexed path).foldl (fun a e => a + e.2 * 16 ^ e.1) 0

/-! ### Trees (R225, R226) -/

/-- q of a draft row: the session's steps 1 to 6 on the draft's logits, its 256 most probable tokens, normalised. -/
def draftQ (g : GenParams) (window : List Nat) (z : List Word32) : List (Nat × Word32) :=
  let p := g.dist (g.logits window z)
  let top := ((byProb p).filter fun e => flt f32Zero e.2).take 256
  let s := vecSum (top.map (·.2))
  top.map fun e => (e.1, fdiv e.2 s)

/-- A row of a tree as it grows: its row, π, and the tokens of q not yet drawn. -/
structure Grow where
  row : TreeRow
  pi : Word32
  undrawn : List (Nat × Word32)
  deriving DecidableEq, Repr

def Grow.mass (x : Grow) : Word32 := vecSum (x.undrawn.map (·.2))

/-- The row to expand: depth below D, undrawn mass above 0, the largest π × m, the lower row on a tie. -/
def growNext (d : Nat) (rows : List Grow) : Option (Nat × Grow) :=
  ((indexed rows).filter fun r => decide (r.2.row.depth < d) && flt f32Zero r.2.mass).foldl (fun best r => match best with
    | none => some r
    | some b => if flt (fmul b.2.pi b.2.mass) (fmul r.2.pi r.2.mass) then some r else best) none

/-- A token drawn from the undrawn ones, renormalised; a greedy session takes the most probable. -/
def State.drawUndrawn (s : State) (g : GenParams) (u : List (Nat × Word32)) : Nat × State :=
  if g.greedy then ((u.headD (0, f32Zero)).1, s)
  else
    let l := sortBy (fun a b => decide (a.1 ≤ b.1)) u
    let q := normalise (l.map (·.2))
    ((l.getD (drawFrom q (uniformOf [w32 (Config.random s.freeCtr)]) % max 1 l.length) (0, f32Zero)).1,
      { s with freeCtr := s.freeCtr + 1 })

/-- A tree grown row by row while it has fewer than B rows; each new row's q comes from the next of the draft's logits. -/
def growTree (g : GenParams) (d b : Nat) : Nat → List Grow → List (List (Nat × Word32)) → State →
    List Grow × List (List (Nat × Word32)) × State
  | 0, rows, zs, s => (rows, zs, s)
  | fuel + 1, rows, zs, s =>
    if b ≤ rows.length then (rows, zs, s) else
      match growNext d rows with
      | none => (rows, zs, s)
      | some (v, x) =>
        let (t, s1) := s.drawUndrawn g x.undrawn
        let child : Grow :=
          { row := { token := t, parent := v, depth := x.row.depth + 1, q := zs.headD [] }
            pi := fmul x.pi (qOf x.row.q t), undrawn := zs.headD [] }
        let cut : Grow := { x with undrawn := x.undrawn.filter fun e => e.1 != t }
        growTree g d b fuel (rows.set v cut ++ [child]) zs.tail s1

/-- A tree with its root's token (R226). -/
def buildTree (g : GenParams) (d b root : Nat) (zs : List (List (Nat × Word32))) (s : State) :
    List TreeRow × List (List (Nat × Word32)) × State :=
  let q := zs.headD []
  let r := growTree g d b b [{ row := { token := root, parent := 0, depth := 0, q := q }, pi := f32One, undrawn := q }]
    zs.tail s
  (r.1.map (·.row), r.2.1, r.2.2)

/-! ### Branches (R227) -/

/-- π of each row of a tree. -/
def treePi (tree : List TreeRow) : List Word32 :=
  (indexed tree).foldl (fun ps r => ps ++ [if r.1 = 0 then f32One else
    fmul (ps.getD r.2.parent f32Zero) (qOf ((tree[r.2.parent]?).elim [] (·.q)) r.2.token)]) []

/-- The outcomes to prepare for: the highest-scoring rows with their most probable token that is no child; after a root-only
step, the most probable tokens at the root. -/
def branchOutcomes (tree : List TreeRow) (n : Nat) : List (Nat × Nat) :=
  match tree with
  | [r] => (r.q.take n).map fun e => (0, e.1)
  | _ =>
    let pis := treePi tree
    let scored := (indexed tree).filterMap fun r =>
      let kids := (childrenOf tree r.1).map (·.2)
      let mass := vecSum ((r.2.q.filter fun e => kids.contains e.1).map (·.2))
      (r.2.q.find? fun e => !kids.contains e.1).map fun t => (fmul (pis.getD r.1 f32Zero) (fsub f32One mass), r.1, t.1)
    ((sortBy (fun a b => flt b.1 a.1 || (!flt a.1 b.1 && decide (a.2.1 ≤ b.2.1))) scored).take n).map (·.2)

end Sys2Proof.Machine
end

