-- ==== Sys2Proof/Machine/StepMsgs.lean ====
section
/-! DEFINITION. The messages of a step (Table 5.12): session tables and attention records as they arrive (R83, R137), session
descriptors (R194), generation parameters, promotions (R116), draft trees (R227, R230), outcomes and what the lead makes of
them (R134, R205, R223, R228, R229), step reports and the stall window (R85, R258), draft steps (R224 to R227) and sampling
rows (R219, R220). -/

namespace Sys2Proof.Machine

open Sys2Proof

/-! ### SESSION_TABLE and ATTN_RECORDS -/

/-- A step that a module hears of: recorded, and what it replaces let go: the lead places a session again only once its earlier
notices are settled, and at most two steps are in flight (R267). -/
def State.hearStep (s : State) (n : Nat) : State :=
  if (s.step? n).isSome then s else
    let s1 := s.onSteps fun x => { x with
      live := sortBy (fun a b => decide (a.seq ≤ b.seq))
        ({ seq := n, verify := false } :: x.live.filter fun t => !(t.leftPost && decide (t.seq + 1 < n)))
      composed := max x.composed n }
    s1.onKv fun k => { k with commits := k.commits.filter fun c => decide (n ≤ c.2 + 1) }

/-- Whether a module takes a step's tables: they come from the lead, for a step that is neither aborted nor over. -/
def State.takesStep (s : State) (n : Nat) : Bool := !s.isLead && s.sliceBusy && n != 0 && !s.aborted n && !s.left n

def Step.putHb (t : Step) (h : Nat) (b : HalfBatch) (part : Nat) : Step :=
  if h = 0 then { t with hb0 := b, got := addNew t.got part } else { t with hb1 := b, got := addNew t.got part }

/-- SESSION_TABLE. -/
def execSessionTable (port : Nat) (k : Packet) (s : State) : Ret :=
  .next (s.recvMsg port k mSessionTable fun s m =>
    if m.entries.any srowRsv then s.badMsg port m
    else if !s.takesStep m.step then s
    else
      let rows := m.entries.map srowOf
      let s1 := (s.hearStep m.step).modStep m.step fun t => t.putHb m.hb { t.hb m.hb with rows := rows } m.hb
      s1.onKv fun k => { k with
        commits := k.commits.filter (fun c => !(c.2 < m.step && rows.any fun r => r.session == c.1)) ++
          rows.map fun r => (r.session, m.step) })

def bitCount (x : Nat) : Nat := ((List.range 16).filter fun i => bitOf x i).length

/-- R137 for a VERIFY record of a session with `n` rows. -/
def recOk (r : ARec) (n : Nat) : Bool :=
  let m (i : Nat) : Nat := r.mask.getD i 0
  decide (n ≤ 16) && m 0 == 1 && (List.range 16).all (fun i =>
    if n ≤ i then m i == 0 && r.depth.getD i 0 == 0
    else bitOf (m i) 0 && bitOf (m i) i && decide (m i < 2 ^ (i + 1)) &&
      (List.range (i + 1)).all (fun j => !bitOf (m i) j || (m i ||| m j) == m i) && r.depth.getD i 0 + 1 == bitCount (m i))

/-- A PREFILL record has no masks. -/
def recPrefill (r : ARec) : Bool := r.mask.all (· == 0) && r.depth.all (· == 0)

/-- The tree that a sampling or proof module verifies with: the branch that matches its own last outcome and the record's shape,
or the root alone. -/
def Sess.takeTree (x : Sess) (r : ARec) (rows : Nat) : Sess :=
  let t := match x.matchBranch with
    | some b => if (List.range rows).all (fun i => (treeMasks (b.tree.take rows)).getD i 0 == r.mask.getD i 0) then b.tree.take rows
      else rootTree x.lastTok
    | none => rootTree x.lastTok
  { x with tree := t, branches := [], rootOnly := rows == 1 }

/-- ATTN_RECORDS. Every record is checked before PRE. -/
def execAttnRecords (port : Nat) (k : Packet) (s : State) : Ret :=
  .next (s.recvMsg port k mAttnRecords fun s m =>
    if m.entries.any arecRsv then s.badMsg port m
    else if !s.takesStep m.step then s
    else
      let recs := m.entries.map arecOf
      let s1 := (s.hearStep m.step).modStep m.step fun t =>
        let u := t.putHb m.hb { t.hb m.hb with recs := recs } (2 + m.hb)
        { u with verify := t.verify || recs.any fun r => !recPrefill r }
      match s1.step? m.step with
      | none => s1
      | some t =>
        let pairs := [(t.hb0, t.got.contains 0 && t.got.contains 2), (t.hb1, t.got.contains 1 && t.got.contains 3)]
        let bad := t.rows.length < recs.length || pairs.any fun h =>
          h.2 && (h.1.rows.zip h.1.recs).any fun e => t.verify && !recOk e.2 e.1.rows
        if bad then s1.stepFault fltKvTree noUnit m.step
        else if !t.verify then s1
        else ((t.hb m.hb).rows.zip recs).foldl (fun (a : State) e =>
          a.modSess (e.1.session % 4096) fun x => if x.id = e.1.session then x.takeTree e.2 e.1.rows else x) s1)

/-! ### SESSION_UPDATE and GEN_PARAMS -/

/-- A descriptor applied on a module (R194); one whose MAX_CTX is zero is a close (log entry 45). A length that the module's own
outcomes do not give ends in a token that no message has told it (log entry 73). -/
def State.takeUpdate (s : State) (b : Bytes) : State :=
  let id := rd 4 b 0
  let w := rd 4 b 4
  let i := id % 4096
  if rd 4 b 20 = 0 then (match s.sess? i with
    | some x => if x.id = id then s.dropSession i else s
    | none => s)
  else
    let old := (s.sess? i).filter fun x => x.id == id
    let s1 := if old.isNone && (s.sess? i).isSome then s.dropSession i else s
    let base : Sess := old.getD { index := i, use := id / 4096, client := rd 4 b 8, cls := bitsOf w 20 19
                                  maxCtx := rd 4 b 20, adapterId := bitsOf w 31 21 }
    (s1.putSess { base with
      epoch := bitsOf w 15 0, state := sessStateOf (bitsOf w 18 16), kvLen := rd 4 b 12, n := rd 4 b 16
      tracker := w32 (rd 4 b 24), handle := rd 4 b 28
      lastTok := if base.n = rd 4 b 16 then base.lastTok
        else Config.unstated 30 [id, rd 4 b 16 - 1] % max 1 s.plan.vocab
      branches := if base.epoch = bitsOf w 15 0 then base.branches else [] }).dataArrives

/-- SESSION_UPDATE. -/
def execSessionUpdate (port : Nat) (k : Packet) (s : State) : Ret :=
  .next (s.recvMsg port k mSessionUpdate fun s m =>
    if s.isLead then s else m.entries.foldl (fun a b => a.takeUpdate b) s)

/-- GEN_PARAMS: a new generation's parameters on the session's sampling or proof module. -/
def execGenParams (port : Nat) (k : Packet) (s : State) : Ret :=
  .next (s.recvMsg port k mGenParams fun s m =>
    let b := m.entries.flatMap id
    match s.sessById (rd 4 b 0) with
    | some x =>
      if s.isLead then s else s.putSess { x with gen := some (genParamsAt (b.drop 16) 0), rootOnly := true, tree := [], branches := [] }
    | none => s)

/-! ### PROMOTION (R116, R117) -/

/-- A promotion recorded, for the steps that enter PRE from now on; the session's epoch plays no part. -/
def State.notePromotion (s : State) (id layer : Nat) : State :=
  match s.sessById id with
  | some x => s.onSrv fun v => { v with
      promoNext := if v.promoNext.contains (x.index, layer) then v.promoNext else v.promoNext ++ [(x.index, layer)] }
  | none => s

/-- PROMOTION. -/
def execPromotion (port : Nat) (k : Packet) (s : State) : Ret :=
  .next (s.recvMsg port k mPromotion fun s m =>
    if m.entries.any fun b => rd 8 b 8 != 0 then s.badMsg port m
    else m.entries.foldl (fun a b => a.notePromotion (rd 4 b 0) (rd 2 b 4)) s)

/-! ### DRAFT_TREE (R226, R227, R230) -/

/-- The q lists after a branch's rows: row and N, then N entries. -/
def parseQs : Nat → List Bytes → List (Nat × List (Nat × Word32))
  | 0, _ => []
  | _, [] => []
  | fuel + 1, h :: r =>
    let n := bitsOf (rd 4 h 0) 24 16
    (rd 4 h 0 % 16, (r.take n).map fun e => (rd 4 e 0, w32 (rd 4 e 4))) :: parseQs fuel (r.drop n)

/-- A branch as its message spells it: session, and the branch. -/
def parseBranch (es : List Bytes) : Nat × Branch :=
  let h := es.headD []
  let o := es.getD 1 []
  let n := bitsOf (rd 4 h 4) 20 16
  let qs := parseQs es.length (es.drop (2 + n))
  (rd 4 h 0,
    { row := rd 4 o 0 % 16, token := rd 4 o 4, rootOnly := bitOf (rd 4 o 0) 4, epoch := rd 2 h 4
      tree := (indexed ((es.drop 2).take n)).map fun e =>
        { token := rd 4 e.2 0, parent := rd 4 e.2 4 % 16, depth := rd 4 e.2 4 / 16 % 16
          q := ((qs.find? fun q => q.1 == e.1).map (·.2)).getD [] } })

/-- A branch as its message. -/
def branchEntries (id : Nat) (b : Branch) : List Bytes :=
  [le 4 id ++ le 2 b.epoch ++ le 2 b.tree.length, le 4 (b.row + 16 * b2n b.rootOnly) ++ le 4 b.token] ++
    b.tree.map (fun r => le 4 r.token ++ le 4 (r.parent + 16 * r.depth)) ++
    (indexed b.tree).flatMap fun r =>
      if (childrenOf b.tree r.1).isEmpty then [] else
        (le 4 (r.1 + r.2.q.length * 65536) ++ zeros 4) :: r.2.q.map fun e => le 4 e.1 ++ le 4 e.2.toNat

/-- A branch held for a session. A stale one, by its epoch or by the step whose outcome it assumes, is discarded (R268; what STEP
names, DESIGN CHOICE, log entry 107). -/
def State.takeBranch (s : State) (id step : Nat) (b : Branch) : State :=
  match s.sessById id with
  | some x => if x.epoch != b.epoch || (step != 0 && (s.aborted step || s.left step)) then s
    else s.putSess { x with branches := x.branches ++ [b] }
  | none => s

/-- DRAFT_TREE. -/
def execDraftTree (port : Nat) (k : Packet) (s : State) : Ret :=
  .next (s.recvMsg port k mDraftTree fun s m =>
    let b := parseBranch m.entries
    if m.entries.length < 2 + b.2.tree.length || b.2.tree.isEmpty then s.badMsg port m
    else s.takeBranch b.1 m.step b.2)

/-! ### Outcomes on the lead (R134, R205, R223, R229) -/

/-- Why a generation ends at its k-th emitted token of a step, if it does. -/
def Sess.stopsAt (x : Sess) (k token : Nat) : Option Nat :=
  match x.generation, x.gen with
  | some _, some g =>
    if g.stops.contains token then some rdStop
    else if g.maxTokens ≤ x.emitted + k then some rdMaxTokens
    else if x.maxCtx ≤ x.n + k then some rdContext else none
  | _, _ => if x.maxCtx ≤ x.n + k then some rdContext else none

/-- COUNT after trimming, and the reason (R223). -/
def Sess.trim (x : Sess) (items : List (Nat × Word32)) : Nat × Option Nat :=
  match (indexed items).findSome? fun e => (x.stopsAt (e.1 + 1) e.2.1).map fun r => (e.1 + 1, some r) with
  | some r => r
  | none => (items.length, none)

/-- Emitted tokens joined to a session, their reply, and the generation's end. -/
def State.joinTokens (s : State) (i step : Nat) (items : List (Nat × Word32)) (why : Option Nat) (row : Nat) : State :=
  match s.sess? i with
  | none => s
  | some x =>
    let k := items.length
    let y : Sess := { x with
      tokens := x.tokens ++ items.map (·.1), n := x.n + k, emitted := x.emitted + k, outRow := row
      lastTok := ((items.getLast?).map (·.1)).getD x.lastTok
      state := if x.state = .prefilling then (if x.generation.isSome then .generating else .idle) else x.state }
    let s1 := s.putSess y
    let s2 := match x.generation with
      | some r => (s1.replyTo y r rpTokens x.n (step % 2 ^ 32) items).count ctTokensEmitted (x.client * 256 + x.cls) k
      | none => s1
    let s3 := s2.csInsert i (y.kvLen / 64 + 1)
    match why with
    | some reason => (s3.endGen i fun t z r => t.repDone z r reason).pushUpdate i
    | none => s3.pushUpdate i

/-- What the lead makes of an outcome (R228): commit notices, tokens, the tracker, and the generation's end. A stale one sends no
token; its commit notice is dropped everywhere (R268). A COUNT of 0 says that a row had no token (log entry 106). -/
def State.leadOutcome (s : State) (id epoch path step : Nat) (items : List (Nat × Word32)) : State :=
  match s.sessById id, (s.step? step).bind fun t => (t.find id).map fun e => (t, e) with
  | some x, some (t, _, row, r) =>
    if !x.heldBy.any (fun h => h.1 == step) then s else
    let i := x.index
    if items.isEmpty then
      let s1 := if epoch = x.epoch then s.endGen i fun a y q => a.repError y q reNoToken else s
      ((s1.releaseHold i step).onKv fun k => { k with commits := k.commits.filter (· != (id, step)) }).settleDrain
    else
      let cut := x.trim items
      let k := cut.1
      let note : Notice :=
        if t.verify then { session := id, epoch := row.epoch, count := k, step := step, path := path % 16 ^ k
                           newLen := r.kvLen + k }
        else { session := id, epoch := row.epoch, count := 0, step := step, path := 0, newLen := r.kvLen + row.rows }
      let s1 := s.sendCommit note
      if epoch != x.epoch || row.epoch != x.epoch then s1.settleDrain
      else if t.verify then
        let s2 := (s1.count ctAcceptHist (k - 1) 1).modSess i fun y => { y with
          tracker := if 1 < row.rows then trackerNext y.tracker k else y.tracker, tree := [] }
        (s2.joinTokens i step (items.take k) cut.2 (pathAt path (k - 1))).settleDrain
      else if x.n = r.kvLen + row.rows then (s1.joinTokens i step (items.take k) cut.2 0).settleDrain
      else ((s1.csInsert i (r.kvLen / 64 + row.rows)).pushUpdate i).settleDrain
  | _, _ => s

/-- An outcome as the session's sampling and proof modules keep it: what the next branches are matched against. -/
def State.noteOutcome (s : State) (id epoch path : Nat) (items : List (Nat × Word32)) : State :=
  match s.sessById id with
  | some x => if x.epoch != epoch || s.isLead || items.isEmpty then s else
      s.putSess { x with n := x.n + items.length, outRow := pathAt path (items.length - 1), lastTok := (items.getLast?.map (·.1)).getD x.lastTok, tree := [] }
  | none => s

/-- OUTCOME as it arrives on the lead or on the proof module. -/
def execOutcome (port : Nat) (k : Packet) (s : State) : Ret :=
  .next (s.recvMsg port k mOutcome fun s m =>
    let h := m.entries.headD []
    let items := (m.entries.drop 2).map fun e => (rd 4 e 0, w32 (rd 4 e 4))
    if m.entries.length < 2 || items.length != bitsOf (rd 4 h 4) 20 16 || decide (16 < items.length) then s.badMsg port m
    else if s.isLead then s.noteState (s.leadOutcome (rd 4 h 0) (rd 2 h 4) (rd 8 (m.entries.getD 1 []) 0) m.step items)
    else s.noteOutcome (rd 4 h 0) (rd 2 h 4) (rd 8 (m.entries.getD 1 []) 0) items)

/-- An outcome sent from the sampling unit to the lead and to the session's proof module. -/
def State.sendOutcome (s : State) (x : Sess) (epoch step path : Nat) (items : List (Nat × Word32)) : State :=
  let es := [le 4 x.id ++ le 2 epoch ++ le 2 items.length, le 8 path] ++ items.map fun e => le 4 e.1 ++ le 4 e.2.toNat
  let proof := s.plan.proofModule x.index
  let s1 := if proof = s.plan.leadIndex ∨ proof = s.index then s else s.sendMsg proof mOutcome 0 step es
  let s2 := s1.noteOutcome x.id epoch path items
  if s.isLead then s2.leadOutcome x.id epoch path step items else s2.sendLead mOutcome 0 step es

/-! ### Step reports (R85, R258) -/

/-- Engine time, positions and steps charged to a client (R85). -/
def State.charge (s : State) (client ns pos : Nat) : State :=
  s.onSrv fun v => { v with accounting := tmod v.accounting client (0, 0, 0) fun a =>
    ((a.1 + ns) % 2 ^ 64, (a.2.1 + pos) % 2 ^ 64, (a.2.2 + 1) % 2 ^ 64) }

/-- Every client of a step charged by its sessions' shares of the positions. -/
def State.chargeStep (s : State) (t : Step) (ns : Nat) : State :=
  let parts := t.rows.filterMap fun r => (s.sessById r.session).map fun x => (x.client, x.cls, ns * r.rows / t.positions, r.rows)
  let clients := (parts.map (·.1)).foldl addNew []
  let s1 := clients.foldl (fun (a : State) c =>
    let mine := parts.filter fun p => p.1 == c
    a.charge c (listSum (mine.map fun p => p.2.2.1)) (listSum (mine.map fun p => p.2.2.2))) s
  if t.verify then s1
  else parts.foldl (fun (a : State) p => a.count ctTokensPrefilled (p.1 * 256 + p.2.1) p.2.2.2) s1

/-- The prefill rows of a step that are not sampled: their commits, once the step has left POST in the slice. -/
def State.commitPrefill (s : State) (t : Step) : State :=
  if t.verify then s else
    ([t.hb0, t.hb1].flatMap fun h => (h.rows.zip h.recs).filter fun e => !e.1.lastChunk).foldl (fun (a : State) e =>
      match a.sessById e.1.session with
      | none => a
      | some x =>
        let b := a.sendCommit { session := x.id, epoch := e.1.epoch, count := 0, step := t.seq, path := 0
                                newLen := e.2.kvLen + e.1.rows }
        ((b.csInsert x.index (e.2.kvLen / 64 + e.1.rows)).modSess x.index Sess.settled).pushUpdate x.index) s

/-- A step has left POST in the slice: every module has reported. -/
def State.stepDone (s : State) (r : StepRep) : State :=
  let s1 := s.onSrv fun v => { v with reports := v.reports.filter fun q => q.seq != r.seq }
  match s.step? r.seq with
  | none => s1
  | some t =>
    let ns := s.now - tgetD t.enteredNs 0 s.now
    let s2 := (s1.chargeStep t ns).onSrv fun v => { v with
      windowStall := v.windowStall + r.stallNs, windowTime := v.windowTime + ns, windowCount := v.windowCount + 1
      causeShares := if r.stallNs = 0 then v.causeShares else tmod v.causeShares r.cause 0 (· + r.stallNs) }
    s2.commitPrefill t

/-- A module's step report on the lead. -/
def State.noteReport (s : State) (m n stall cause : Nat) : State :=
  if (s.step? n).isNone then s else
    let old := (s.srv.reports.find? fun r => r.seq == n).getD { seq := n, from_ := [], stallNs := 0, cause := 0 }
    let r : StepRep := { old with
      from_ := addNew old.from_ m, stallNs := max old.stallNs stall, cause := if old.stallNs < stall then cause else old.cause }
    let s1 := s.onSrv fun v => { v with reports := v.reports.filter (fun q => q.seq != n) ++ [r] }
    if s.sliceModules.all (fun x => r.from_.contains x) then (s1.stepDone r).settleDrain else s1

/-- STEP_REPORT. -/
def execStepReport (port : Nat) (k : Packet) (s : State) : Ret :=
  .next (s.recvMsg port k mStepReport fun s m =>
    let e := m.entries.headD []
    if m.entries.length != 1 || rd 4 e 4 / 16 != 0 || rd 8 e 8 != 0 then s.badMsg port m
    else if s.isLead then s.noteState (s.noteReport m.src m.step (rd 4 e 0) (rd 4 e 4)) else s)

/-- STREAM_STALL_WINDOW: after 1,024 steps the stalls are compared with the budget, and the live interactive limit moves. -/
def execStreamStallWindow (s : State) : Ret :=
  .next (
    let v := s.srv
    if !s.isLead || v.windowCount < 1024 then s else
      let budget := s.setN setStallBudget * v.windowTime
      let stall := v.windowStall * 1000000
      let s1 := s.onSrv fun v => { v with windowStall := 0, windowTime := 0, windowCount := 0, causeShares := [] }
      if budget < stall then
        let lim := max 1 (v.interLimit - s.setN setLimitStep)
        let cause := (v.causeShares.foldl (fun (b : Nat × Nat) e => if b.2 < e.2 then e else b) (0, 0)).1
        (s1.onSrv fun v => { v with interLimit := lim }).event evStreamLimit noUnit lim cause
      else if 2 * stall ≤ budget then
        s1.onSrv fun w => { w with interLimit := max v.interLimit (min (v.interLimit + 1) (s.setN setInterLimit)) }
      else s1)

/-! ### SAMPLING_ROW (R219, R220) -/

/-- A token of a session's sequence: the lead's record has it; what another module knows of it no message says (log entry
73). -/
def State.tokenAt (s : State) (x : Sess) (pos : Nat) : Nat :=
  if s.isLead then x.tokens.getD pos 0 else Config.unstated 30 [x.id, pos] % max 1 s.plan.vocab

/-- The logits of a row from its ranges, where they cover the vocabulary. -/
def coverLogits (vocab : Nat) (ranges : List (Nat × List Word32)) : Option (List Word32) :=
  let l := sortBy (fun a b => decide (a.1 ≤ b.1)) ranges
  let z := l.foldl (fun (a : Option (List Word32)) r => match a with
    | none => none
    | some z => if r.1 = z.length then some (z ++ r.2) else none) (some [])
  z.filter fun z => z.length == vocab

/-- The tokens of the window before what a tree row predicts: those of the row's path at its end (R220). -/
def State.windowOf (s : State) (x : Sess) (g : GenParams) (kvLen : Nat) (path : List Nat) : List Nat :=
  if g.repWindow = 0 then [] else
    let want := g.repWindow - min g.repWindow path.length
    let from_ := kvLen - min kvLen want
    (rangeFrom from_ (kvLen - from_)).map (s.tokenAt x) ++ path.drop (path.length - min g.repWindow path.length)

/-- Tokens from a tree's root to a row. -/
def treePath (tree : List TreeRow) : Nat → Nat → List Nat
  | 0, _ => []
  | fuel + 1, v => match tree[v]? with
    | none => []
    | some r => (if v = 0 then [] else treePath tree fuel r.parent) ++ [r.token]

/-- The rows of a session whose logits the unit needs: all of a tree, or the last row of a prompt. -/
def sampledRows (verify : Bool) (row : SRow) : List Nat := if verify then List.range row.rows else [row.rows - 1]

/-- A session's gauge of tokens per second over its last 64 VERIFY steps (Table 6.12). -/
def State.noteRate (s : State) (i count ns : Nat) : State :=
  match s.sess? i with
  | none => s
  | some x =>
    let l := ((count, ns) :: x.rateLog).take 64
    (s.putSess { x with rateLog := l }).gauge ctSessionRate x.id
      (listSum (l.map (·.1)) * 1000000000 / max 1 (listSum (l.map (·.2))))

/-- Every row of a session in a step has landed: the unit decides, and its outcome goes out. -/
def State.sampleSession (s : State) (x : Sess) (t : Step) (row : SRow) (r : ARec) (zs : List (List Word32)) : State :=
  let g := x.gen.getD {}
  let tree := if t.verify then (if x.tree.length = row.rows then x.tree else rootTree x.lastTok)
    else rootTree (s.tokenAt x (r.kvLen + row.rows - 1))
  let base := if t.verify then r.kvLen else r.kvLen + row.rows - 1
  let rows := (indexed zs).map fun z =>
    { z := z.2, window := s.windowOf x g base (treePath tree 17 z.1), pos := base + ((tree[z.1]?).elim 0 (·.depth)) : SampRow }
  let s0 := s.onSrv fun v => { v with logits := v.logits.filter fun l => !(l.session == x.id && l.step == t.seq) }
  match acceptFrom g tree rows 17 0 { path := [], items := [], st := s0 } with
  | none => s0.sendOutcome x row.epoch t.seq 0 []
  | some a =>
    let b := if t.verify then a.st.noteRate x.index a.items.length (s.now - tgetD t.enteredNs 0 s.now) else a.st
    b.sendOutcome x row.epoch t.seq (packPath a.path) a.items

/-- SAMPLING_ROW: the ranges that other modules' SAMPLE descriptors sent land beside this module's; with the last range of a
session's last row the unit decides. -/
def execSamplingRow (session row : Nat) (remote : List (Nat × List Word32)) (s : State) : Ret :=
  .next (match s.sessById session with
  | none => s
  | some x =>
    if s.plan.sampleModule x.index != s.index then s else
    match s.steps.live.findSome? fun t => (t.find session).map fun e => (t, e) with
    | none => s
    | some (t, _, e, r) =>
      if !(sampledRows t.verify e).contains row || !t.entered then s else
        let old := (s.srv.logits.find? fun l => l.session == session && l.step == t.seq && l.row == row).getD
          { session := session, step := t.seq, row := row, ranges := [] }
        let s1 := s.onSrv fun v => { v with
          logits := v.logits.filter (fun l => !(l.session == session && l.step == t.seq && l.row == row)) ++
            [{ old with ranges := old.ranges ++ remote }] }
        let zs := (sampledRows t.verify e).map fun i =>
          (s1.srv.logits.find? fun l => l.session == session && l.step == t.seq && l.row == i).bind fun l =>
            coverLogits s.plan.vocab l.ranges
        if zs.all (·.isSome) then s.noteState (s1.sampleSession x t e r (zs.map fun z => z.getD [])) else s1)

/-! ### DRAFT_STEP (R224 to R227) -/

/-- Branches built one after another from the draft's logits. -/
def State.buildBranches (s : State) (x : Sess) (g : GenParams) (rootOnly : Bool) :
    List (Nat × Nat) → List (List (Nat × Word32)) → List Branch × State
  | [], _ => ([], s)
  | o :: r, zs =>
    let b := buildTree g x.depthLimit x.budget o.2 zs s
    let rest := b.2.2.buildBranches x g rootOnly r b.2.1
    ({ row := o.1, token := o.2, rootOnly := rootOnly, epoch := x.epoch, tree := b.1 } :: rest.1, rest.2)

/-- DRAFT_STEP: the proof engine runs the draft for a session. `logits` are the draft's logits in the order in which it computes
them: the root's of a root-only step, then those of each branch's rows as they are made. The branches go to the lead and to the
session's sampling module. -/
def execDraftStep (session : Nat) (logits : List (List Word32)) (s : State) : Ret :=
  .next (match s.sessById session with
  | none => s
  | some x =>
    match x.gen with
    | none => s
    | some g =>
      if s.wts.draft.isNone || s.plan.proofModule x.index != s.index || x.state != .generating || !s.sliceBusy then s else
        let step := (s.steps.live.filter fun t => (t.find session).isSome).foldl (fun m t => max m t.seq) 0
        let win := s.windowOf x g x.kvLen [x.lastTok]
        let zs := logits.map (draftQ g win)
        let lone := x.tree.length ≤ 1
        let tree := if lone then [{ token := x.lastTok, parent := 0, depth := 0, q := zs.headD [] }] else x.tree
        let outs := branchOutcomes tree (s.setN setDraftAhead)
        let made := s.buildBranches x g lone outs (if lone then zs.tail else zs)
        let dests := (addNew [s.plan.leadIndex] (s.plan.sampleModule x.index)).filter (· != s.index)
        let s1 := made.1.foldl (fun (a : State) b =>
          dests.foldl (fun (c : State) d => c.sendMsg d mDraftTree 0 step (branchEntries x.id b)) a) made.2
        made.1.foldl (fun (a : State) b => a.takeBranch x.id step b) s1)

end Sys2Proof.Machine
end

