-- ==== Sys2Proof/Machine/ArrayOps.lean ====
section
/-! DEFINITION. The matrix array: weight operands (R91, R92), accumulators, MATMUL (R68, R101, R106) and LORA (R69, R234), and what a
MATMUL samples for the test strip (R110) and the shadow vote (R358). -/

namespace Sys2Proof.Machine

open Sys2Proof

/-! ### Weights (R91, R92) -/

/-- Bytes of a MATMUL's weight operand. -/
def weightBytes (w k n : Nat) : Nat :=
  match w with
  | 0 => k * n * 9 / 16
  | 1 => k * n * 7 / 16
  | 2 => k * n
  | _ => 2 * k * n

/-- A weight at a row and a column, from the operand's bytes. -/
def weightIn (b : Bytes) (w k n row col : Nat) : Fp :=
  let i := (col / 48 * (k / 16) + row / 16) * 48 + col % 48
  let j := row % 16
  match w with
  | 0 => (e2m1 (nibble (cut b (8 * i) 8) j)).mul (e4m3 (byteAt b (k * n / 2 + i)))
  | 1 => (int3 (rd 6 b (6 * i) / 8 ^ j)).mul (e4m3 (byteAt b (k * n * 3 / 8 + i)))
  | 2 => e4m3 (byteAt b (16 * i + j))
  | _ => bf16 (rd 2 b (32 * i + 2 * j))

/-- A byte of a streamed tensor, as the stream buffer holds it for a weights generation (R255). -/
def State.streamRead (s : State) (gen a n : Nat) : Bytes :=
  match s.shardEnts.find? fun x => decide (shardBase x ≤ a ∧ a < shardBase x + shLength x.2) with
  | some x => cut ((s.narrowOf (shId x.2) gen).getD []) (a - shardBase x) n
  | none => zeros n

def PlanObj.streamedAt (p : PlanObj) (a : Nat) : Bool := (p.tensorAt a).any tnStreamed

/-- The bytes of a MATMUL's weights. -/
def State.weightsOf (s : State) (r : Run) : Bytes :=
  let a := fld64 r.d 0x50
  let n := weightBytes (mmW r.d) (mmK r.d) (mmN r.d)
  if s.plan.streamedAt a then s.streamRead r.t.wGen a n else s.readRange a n

/-! ### Accumulators (R68; blocks of 48 by 48 in row order, log entry 117) -/

def accAddr (s : State) (l base n row col : Nat) : Nat :=
  accBase (s.ptileOf l) + 9216 * (base + row / 48 * (n / 48) + col / 48) + (row % 48 * 48 + col % 48) * 4

def State.accWord (s : State) (l base n row col : Nat) : Word32 := w32 (rd 4 (s.read (accAddr s l base n row col) 4) 0)

/-- A row of the accumulators. -/
def State.accRow (s : State) (l base n row : Nat) : List Word32 := (List.range n).map (s.accWord l base n row)

def State.putAccRow (s : State) (l base n row : Nat) (ws : List Word32) : State :=
  (indexed ws).foldl (fun a w => a.write (accAddr s l base n row w.1) (le 4 w.2.toNat)) s

/-- The accumulator blocks that a MATMUL or LORA names. -/
def accBlocks (d : List Nat) : List Nat :=
  rangeFrom (if dOpc d = opLora then fld d 0x4C 11 4 else mmAcc d) (ceilDiv (mmM d) 48 * (mmN d / 48))

/-! ### MATMUL -/

/-- The operand row as the array reads it: its values in reduction order, and the dodged elements by column. -/
def State.operandRow (s : State) (g : Region) (row : Nat) : List Fp × List (Nat × Nat) :=
  let gs := (List.range g.panels).map fun p => (p, s.group g row p)
  ((gs.flatMap fun x => x.2.vals).take g.width, gs.filterMap fun x => x.2.dodged.map fun d => (16 * x.1 + d.1, d.2))

/-- The side list of a row: at most the layer's DODGE_CAP elements of each span of 1,024 columns (R106). -/
def sideList (cap k : Nat) (ds : List (Nat × Nat)) : List (Nat × Nat) :=
  (List.range (ceilDiv k 1024)).flatMap fun j => (ds.filter fun d => d.1 / 1024 == j).take cap

/-- The side list's bytes, span by span. -/
def sideBytes (cap k : Nat) (ds : List (Nat × Nat)) : Bytes :=
  (List.range (ceilDiv k 1024)).flatMap fun j =>
    let es := (ds.filter fun d => d.1 / 1024 == j).take cap
    es.flatMap (fun d => le 4 (d.2 + d.1 * 2 ^ 16 + 2 ^ 31)) ++ zeros (4 * (cap - es.length))

/-- The A operand's region of a MATMUL or LORA. -/
def State.operand (s : State) (r : Run) (off form : Nat) : Region := s.tileRegion r.ph r.tile off (mmM r.d) (mmK r.d) form

def State.mmRegion (s : State) (r : Run) : Region := s.operand r (mmAOff r.d) (mmA r.d)

/-- The sums of one output row (R101). -/
def State.mmRow (s : State) (r : Run) (wb : Bytes) (row : Nat) (cols : List Nat) : List Word32 :=
  let x := s.operandRow (s.mmRegion r) row
  let ds := sideList (dodgeCap (s.plan.layerOf r.d)) (mmK r.d) x.2
  let w (k c : Nat) : Fp := weightIn wb (mmW r.d) (mmK r.d) (mmN r.d) k c
  cols.map fun c => arrayDot ((indexed x.1).map fun a => (a.2, w a.1 c)) (ds.map fun d => (bf16 d.2, w d.1 c))

/-- The product in the accumulators, added or overwritten, and the side list of a layer that dodges. -/
def State.mmCompute (s : State) (r : Run) (rows : List Nat) : State :=
  let wb := s.weightsOf r
  let n := mmN r.d
  let cap := dodgeCap (s.plan.layerOf r.d)
  rows.foldl (fun a i =>
    let y := s.mmRow r wb i (List.range n)
    let z := if mmAccIn r.d then List.zipWith fadd (a.accRow r.tile (mmAcc r.d) n i) y else y
    let b := a.putAccRow r.tile (mmAcc r.d) n i z
    if cap = 0 ∨ dVarRows r.d then b else
      b.write (b.actOf r.tile + fld r.d 0x4C 19 0 + i * (ceilDiv (mmK r.d) 1024 * cap * 4))
        (sideBytes cap (mmK r.d) (s.operandRow (s.mmRegion r) i).2)) s

/-- The rows of a MATMUL's output. -/
def State.mmVals (s : State) (r : Run) (rows : List Nat) : List (Nat × List Word32) :=
  rows.map fun i => (i, s.accRow r.tile (mmAcc r.d) (mmN r.d) i)

/-- The output converted from the accumulators and placed. -/
def State.mmSend (s : State) (r : Run) (rows : List Nat) : State :=
  s.emitRows r (mmO r.d) (mmM r.d) (mmN r.d) (s.mmVals r rows)

/-! ### Sampling (R110, R358) -/

/-- The C-dies in use. -/
def PlanObj.usedDies (p : PlanObj) : List Nat := (List.range 16).filter fun c => p.tilesUsed c != 0

/-- `k` distinct elements of a list, drawn uniformly. -/
def State.drawSome (s : State) : Nat → List Nat → State × List Nat
  | 0, _ => (s, [])
  | k + 1, l =>
    match l[s.draw (max 1 l.length)]? with
    | none => (s, [])
    | some x => let r := s.drawn.drawSome k (without l x); (r.1, x :: r.2)

/-- The column blocks of the strip row group that a run samples. -/
def State.drawStrip (s : State) (r : Run) : State × List Nat :=
  let n := stripN (s.plan.layerOf r.d)
  let p := r.half.positions
  if !dStripOk r.d || n = 0 || p = 0 then (s, []) else
    let c := mmN r.d / 48
    let u := s.draw n
    let off := s.drawn.draw (max 1 c)
    let k := min c ((ceilDiv p 48 * c + u) / n)
    (s.drawn.drawn, (List.range k).map fun i => (off + i) % c)

/-- The accumulator blocks of a run, counted from its first, that hold a live row. -/
def liveBlocks (d : List Nat) (rows : List Nat) : List Nat :=
  ((rows.map (· / 48)).foldl addNew []).flatMap fun g => rangeFrom (g * (mmN d / 48)) (mmN d / 48)

def State.drawShadow (s : State) (r : Run) (rows : List Nat) : State × List Nat :=
  let n := s.setN setShadowRate
  let bs := liveBlocks r.d rows
  if !dShadowOk r.d || n = 0 || s.plan.usedDies.length < 3 || bs.isEmpty then (s, []) else
    s.drawn.drawSome (min bs.length ((bs.length + s.draw n) / n)) bs

/-- The first and the second checker of a tile (R359). -/
def PlanObj.checkers (p : PlanObj) (l : Nat) : Nat × Nat :=
  let after (d : Nat) : Nat := (((rangeFrom (d + 1) 15).map (· % 16)).find? fun c => c != tileDie l && p.tilesUsed c != 0).getD d
  let d1 := after (tileDie l)
  let d2 := after d1
  let on (d : Nat) : Nat := d * 144 + tileIn l % max 1 (p.tilesUsed d)
  (on d1, on d2)

/-- A run's output: sent at once, or held while a sampled block waits for its judge or its vote (R112, R360). -/
def State.mmOutput (s : State) (r : Run) (rows : List Nat) : State :=
  if !mmEmit r.d then s else
    let a := s.drawStrip r
    let b := a.1.drawShadow r rows
    if a.2.isEmpty && b.2.isEmpty then b.1.mmSend r rows else
      let h : Held := { desc := r.idx, rows := rows, strip := a.2.map fun c => (c, []), shadow := b.2.map fun k => { block := k }
                        startNs := s.now }
      (b.1.modTile r.tile fun x => { x with held := x.held ++ [h] }).onTiles fun t => { t with
        shadowPending := t.shadowPending ++ b.2.map fun k =>
          { checker := (s.plan.checkers r.tile).1, tile := r.tile, desc := r.idx, block := k } }

/-- The weights' addresses, where a mapped page holds them. -/
def State.mmRange (s : State) (r : Run) : List (Nat × Nat) :=
  let a := fld64 r.d 0x50
  if s.plan.streamedAt a then [] else [(a, weightBytes (mmW r.d) (mmK r.d) (mmN r.d))]

/-- MATMUL. -/
def execMatmul (tile : Nat) (s : State) : Ret :=
  .next (s.operate tile opMatmul 0 fun s r =>
    let g := s.mmRegion r
    s.withInputs r [(g.base, g.bytes)] (s.mmRange r) fun s =>
      let rows := s.runRows r (mmM r.d)
      ((s.mmCompute r rows).mmOutput r rows).executed r)

/-! ### LORA (R69, R234; the layout of an adapter's part, log entry 84) -/

/-- LORA descriptors of a module for one target, in order of layer, half-batch HB0 first, and tile: each holds A and B of its own
columns, at the adapter's rank. -/
def PlanObj.loras (p : PlanObj) : List (Nat × Nat × Nat × Nat × Nat) :=
  sortBy (fun a b => decide (a.1 < b.1 ∨ (a.1 = b.1 ∧ (a.2.1 < b.2.1 ∨ (a.2.1 = b.2.1 ∧ a.2.2.1 ≤ b.2.2.1)))))
    (((List.range p.nLayers).flatMap fun l => (p.phaseTiles (phaseOfLayer l)).flatMap fun t =>
      ((p.tileProg (phaseOfLayer l) t).filter fun e => dOpc e.2 == opLora && dHb e.2 == 0).map fun e =>
        (fld e.2 0x4C 3 0, l, t, mmK e.2, mmN e.2)))

/-- Bytes of A (K by r) and of B (r by N) in W4, the rank padded to whole panels and groups. -/
def loraPad (r : Nat) : Nat := ceilDiv r 48 * 48
def loraA (r k : Nat) : Nat := weightBytes 0 k (loraPad r)
def loraB (r n : Nat) : Nat := weightBytes 0 (loraPad r) n

/-- Where a tile's A lies in an adapter's part. -/
def PlanObj.loraOff (p : PlanObj) (ranks : List Nat) (target layer tile : Nat) : Nat :=
  listSum ((p.loras.filter fun e => decide (e.1 < target ∨ (e.1 = target ∧ (e.2.1 < layer ∨ (e.2.1 = layer ∧ e.2.2.1 < tile))))).map
    fun e => let r := ranks.getD e.1 0; if r = 0 then 0 else loraA r e.2.2.2.1 + loraB r e.2.2.2.2)

/-- The adapter product of one row, added into its accumulators. -/
def State.loraRow (s : State) (r : Run) (row : Nat) : State :=
  let target := fld r.d 0x4C 3 0
  let h := (((s.rowSession r row).bind fun id => r.half.rows.find? fun e => e.session == id).map (·.adapter)).getD 0
  match if h = 0 then none else s.adapter? (h % 2048) with
  | none => s
  | some ad =>
    let rank := ad.ranks.getD target 0
    if rank = 0 then s else
      let k := mmK r.d
      let n := mmN r.d
      let b := s.partBytes ad.id (h / 2048)
      let off := s.plan.loraOff ad.ranks target (dLayer r.d) r.tile
      let wa := cut b off (loraA rank k)
      let wbs := cut b (off + loraA rank k) (loraB rank n)
      let x := s.operandRow (s.operand r (fld r.d 0x50 19 0) 1) row
      let u := (List.range rank).map fun j => arrayDot ((indexed x.1).map fun a => (a.2, weightIn wa 0 k (loraPad rank) a.1 j))
        (x.2.map fun d => (bf16 d.2, weightIn wa 0 k (loraPad rank) d.1 j))
      let m := maxMag (u.map f32)
      let e := if m.isZero then 0 else expA8 m
      let q := u.map fun w => toA8 (f32 w) e
      let base := fld r.d 0x4C 11 4
      let y := (List.range n).map fun c => fadd (s.accWord r.tile base n row c)
        (arrayDot ((indexed q).map fun z => (fromA8 z.2.code e, weightIn wbs 0 (loraPad rank) n z.1 c)) [])
      ((s.putAccRow r.tile base n row y).count ctSat r.code (q.filter (·.sat)).length).count ctNonfinite r.code
        (q.filter (·.nonfinite)).length

/-- LORA. -/
def execLora (tile : Nat) (s : State) : Ret :=
  .next (s.operate tile opLora 0 fun s r =>
    let g := s.operand r (fld r.d 0x50 19 0) 1
    s.withInputs r [(g.base, g.bytes)] [] fun s =>
      ((s.runRows r (mmM r.d)).foldl (fun a i => a.loraRow r i) s).executed r)

end Sys2Proof.Machine
end

