-- ==== Sys2Proof/Machine/AttnOps.lean ====
section
/-! DEFINITION. KV_APPEND (R133) and ATTN (R136 to R140): positions and masks, rotation, scores, probabilities and outputs. -/

namespace Sys2Proof.Machine

open Sys2Proof

/-! ### Rotation (R139) -/

/-- The angles θ_j of a ROPE tensor. -/
def State.ropeAngles (s : State) (id d : Nat) : List Word32 :=
  let a := ((s.plan.tensor id).map tnBase).getD 0
  (List.range (d / 2)).map fun j => w32 (rd 4 (s.readRange (a + 4 * j) 4) 0)

/-- sin and cos of p × θ. -/
def sinCosAt (p : Nat) (t : Word32) : Word32 × Word32 :=
  match f32 t with
  | .num m e => sinCos (p * m) e
  | _ => (f32Nan, f32Nan)

/-- A vector rotated at a position. -/
def rotate (th : List Word32) (p : Nat) (x : List Word32) : List Word32 :=
  let h := th.length
  let sc := th.map (sinCosAt p)
  let lo := (indexed sc).map fun e => fma (x.getD e.1 0) e.2.2 (fneg (fmul (x.getD (e.1 + h) 0) e.2.1))
  let hi := (indexed sc).map fun e => fma (x.getD (e.1 + h) 0) e.2.2 (fmul (x.getD e.1 0) e.2.1)
  lo ++ hi

/-! ### Positions and masks (R138) -/

/-- The position of a session's row i. -/
def rowPos (verify tree : Bool) (r : ARec) (i : Nat) : Nat := r.kvLen + if verify && tree then r.depth.getD i 0 else i

/-- Whether row i attends step row j. -/
def rowAttends (verify tree : Bool) (r : ARec) (i j : Nat) : Bool :=
  if verify && tree then bitOf (r.mask.getD i 0) j else decide (j ≤ i)

/-- Whether row i attends the key at a storage position. -/
def keyAttended (d : List Nat) (verify : Bool) (r : ARec) (i q : Nat) : Bool :=
  let pi := rowPos verify (atTree d) r i
  let pq := if q < r.kvLen then q else rowPos verify (atTree d) r (q - r.kvLen)
  (decide (q < r.kvLen) || rowAttends verify (atTree d) r i (q - r.kvLen)) &&
    (atWindow d == 0 || decide (pi < pq + 64 * atWindow d) || q == r.kvLen + i)

/-! ### Groups and heads (R120, R123) -/

/-- The ATTN of a tile in a phase. -/
def PlanObj.attnOn (p : PlanObj) (ph l : Nat) : Option (List Nat) :=
  ((p.tileProg ph l).map (·.2)).find? fun d => dOpc d == opAttn

/-- The first head of a tile within a slot. -/
def PlanObj.headBase (p : PlanObj) (ph l : Nat) : Nat :=
  listSum ((p.phaseTiles ph).map fun t => if t < l then ((p.attnOn ph t).map atHkv).getD 0 else 0)

def PlanObj.poolOf (p : PlanObj) (g layer : Nat) : Option Pool := (p.pools g).find? fun q => q.layer == layer

/-! ### KV_APPEND -/

def kaHkv (d : List Nat) : Nat := fld d 0x48 6 0
def kaDim (d : List Nat) : Nat := hdimOf (fld d 0x48 8 7)
def kaTab (d : List Nat) : Nat := fld d 0x4C 31 0
def kaRows (d : List Nat) : Nat := fld d 0x50 15 0

/-- A row whose chunk is not mapped or is shared. -/
def State.appendBad (s : State) (r : Run) (g row : Nat) : Bool :=
  match r.half.row row with
  | none => false
  | some (e, a, i) => let m := s.ent g (e.session % 4096) ((a.kvLen + i) / 64); !m.valid || m.shared

/-- One row's keys and values written into its page. -/
def State.appendRow (s : State) (r : Run) (g : Nat) (q : Pool) (attn : List Nat) (th : List Word32) (row : Nat) : State :=
  if s.appendBad r g row then s else
  match r.half.row row with
  | none => s
  | some (e, a, i) =>
    let sess := e.session % 4096
    let pos := a.kvLen + i
    let m := s.ent g sess (pos / 64)
    let d := kaDim r.d
    let k8 := q.isK8 m
    let at_ := q.at m sess
    let h0 := s.plan.headBase r.ph r.tile
    let reg (off : Nat) : Region := s.tileRegion r.ph r.tile off (kaRows r.d) (kaHkv r.d * d) 2
    let ks := s.regionWords (reg (fld r.d 0x40 19 0)) row
    let vs := s.regionWords (reg (fld r.d 0x44 19 0)) row
    ((List.range (kaHkv r.d)).flatMap fun h => [(h, 0), (h, 1)]).foldl (fun (t : State) hk =>
      let v := ((if hk.2 = 0 then ks else vs).drop (hk.1 * d)).take d
      let x := if hk.2 = 0 ∧ atRotary attn then rotate th (rowPos r.t.verify (atTree attn) a i) v else v
      let c := kvConvert k8 (x.map f32)
      ((t.putKvRow at_ k8 q.heads d (rowIdx (h0 + hk.1) hk.2 (pos % 64)) c.1).count ctSat r.code c.2.1).count ctNonfinite
        r.code c.2.2) (s.count ctKvAppendRows g 1)

/-- KV_APPEND. -/
def execKvAppend (tile : Nat) (s : State) : Ret :=
  .next (s.operate tile opKvAppend 2 fun s r =>
    let g := s.plan.groupOfTab (kaTab r.d)
    match s.plan.poolOf g (dLayer r.d), s.plan.attnOn r.ph r.tile with
    | some q, some attn =>
      let n := kaRows r.d * kaHkv r.d * kaDim r.d * 2
      let at_ (off : Nat) : Nat × Nat := (s.actOf r.tile + off, n)
      s.withInputs r [at_ (fld r.d 0x40 19 0), at_ (fld r.d 0x44 19 0)] [] fun s =>
        let th := if atRotary attn then s.ropeAngles (atRope attn) (kaDim r.d) else []
        let rows := s.runRows r (kaRows r.d)
        let t := rows.foldl (fun (a : State) i => a.appendRow r g q attn th i) s
        if rows.any (s.appendBad r g) then
          t.stepFault fltKvUnmapped (s.runUnit r) r.t.seq { logical := some r.tile, layer := some (dLayer r.d) }
        else t.executed r
    | _, _ => s.executed r)

/-! ### ATTN -/

/-- A head's keys or values at a storage position. -/
def State.kvValues (s : State) (g : Nat) (q : Pool) (sess head k pos : Nat) : List Fp :=
  let m := s.ent g sess (pos / 64)
  let k8 := q.isK8 m
  (s.kvRow (q.at m sess) k8 q.heads q.dim (rowIdx head k (pos % 64))).values k8 q.dim

/-- A vector to A8 at the exposure of its own maximum: its values, and the conversions that met a non-finite value. -/
def a8Vector (x : List Fp) : List Fp × Nat :=
  let m := maxMag x
  let e := if m.isZero then 0 else expA8 m
  let cs := x.map fun v => toA8 v e
  (cs.map fun c => fromA8 c.code e, (cs.filter (·.nonfinite)).length)

/-- One query head of one row: its output, and what it counts as NONFINITE. -/
def State.attnHead (s : State) (r : Run) (g : Nat) (q : Pool) (sess : Nat) (a : ARec) (i n head : Nat) (x : List Word32) :
    List Word32 × Nat :=
  let qa := a8Vector (x.map f32)
  let idx := List.range (a.kvLen + n)
  let on (p : Nat) : Bool := keyAttended r.d r.t.verify a i p
  let sc := idx.map fun p => if on p then
      some (fmul (atScale r.d) (arrayDot (qa.1.zip (s.kvValues g q sess head 0 p)) [])) else none
  if sc.any fun v => v.any fun w => (f32 w).isNan then (List.replicate q.dim f32Nan, qa.2 + 1) else
    let m := vecMax (sc.filterMap id)
    let ps := sc.map fun v => match v with
      | some w => some (toA8 (f32 (fexp (fsub w m))) (-8))
      | none => none
    let val (c : Option Conv) : Fp := match c with
      | some k => fromA8 k.code (-8)
      | none => Fp.num 0 0
    let den := vecSum (ps.map fun c => (val c).to32)
    let vs := idx.map fun p => if on p then s.kvValues g q sess head 1 p else List.replicate q.dim (Fp.num 0 0)
    ((List.range q.dim).map fun j => fdiv (arrayDot ((ps.zip vs).map fun e => (val e.1, e.2.getD j (Fp.num 0 0))) []) den,
      qa.2 + (ps.filter fun c => c.any (·.nonfinite)).length)

/-- One row: every query head, with the KV head that it uses. -/
def State.attnRow (s : State) (r : Run) (g : Nat) (q : Pool) (th : List Word32) (row : Nat) : List Word32 × Nat :=
  match r.half.row row with
  | none => ([], 0)
  | some (e, a, i) =>
    let reg := s.tileRegion r.ph r.tile (fld r.d 0x40 19 0) (atRows r.d) (atHq r.d * q.dim)
      (s.plan.formAt s.index r.ph r.tile (fld r.d 0x40 19 0) 2)
    let x := s.regionWords reg row
    let h0 := s.plan.headBase r.ph r.tile
    let outs := (List.range (atHq r.d)).map fun h =>
      let v := (x.drop (h * q.dim)).take q.dim
      let y := if atRotary r.d then rotate th (rowPos r.t.verify (atTree r.d) a i) v else v
      s.attnHead r g q (e.session % 4096) a i e.rows (h0 + h * atHkv r.d / atHq r.d) y
    (outs.flatMap (·.1), listSum (outs.map (·.2)))

/-- The chunks that a half-batch's rows read in a group: session and chunk. -/
def Run.chunks (r : Run) : List (Nat × Nat) :=
  (r.half.rows.zip r.half.recs).flatMap fun e => (List.range (ceilDiv (e.2.kvLen + e.1.rows) 64)).map fun c => (e.1.session % 4096, c)

/-- ATTN. A chunk that is not mapped aborts the step as for KV_APPEND (DEDUCED, log entry 123). -/
def execAttn (tile : Nat) (s : State) : Ret :=
  .next (s.operate tile opAttn 0 fun s r =>
    let g := s.plan.groupOfTab (atPagetab r.d)
    match s.plan.poolOf g (dLayer r.d) with
    | none => s.executed r
    | some q =>
      let ents := r.chunks.map fun c => (c.1, s.ent g c.1 c.2)
      if ents.any fun e => !e.2.valid then
        s.stepFault fltKvUnmapped (s.runUnit r) r.t.seq { logical := some r.tile, layer := some (dLayer r.d) }
      else
        let qb := atRows r.d * atHq r.d * q.dim * 2
        s.withInputs r [(s.actOf r.tile + fld r.d 0x40 19 0, qb)]
            (ents.map fun e => (q.at e.2 e.1, if q.isK8 e.2 then q.p8 else q.p4)) fun s =>
          let th := if atRotary r.d then s.ropeAngles (atRope r.d) q.dim else []
          let outs := (s.runRows r (atRows r.d)).map fun i => (i, s.attnRow r g q th i)
          let s1 := s.count ctNonfinite r.code (listSum (outs.map fun o => o.2.2))
          (s1.emitRows r 2 (atRows r.d) (atHq r.d * q.dim) (outs.map fun o => (o.1, o.2.1))).executed r)

end Sys2Proof.Machine
end

