-- ==== Sys2Proof/Machine/VectorOps.lean ====
section
/-! DEFINITION. The vector unit's operators: NORM and ELEMWISE (R72, R102), ROUTE and SKIP_GATE (R73, R183), COMBINE (R190). -/

namespace Sys2Proof.Machine

open Sys2Proof

/-! ### NORM -/

/-- A row normalised: KIND 0 by the mean square, KIND 1 by mean and variance. -/
def normRow (kind : Nat) (eps : Word32) (gamma x : List Word32) : List Word32 :=
  let n := f32OfNat x.length
  let mean (l : List Word32) : Word32 := fdiv (vecSum l) n
  let sq (l : List Word32) : List Word32 := l.map fun v => fmul v v
  let y := if kind = 0 then x else let m := mean x; x.map fun v => fsub v m
  let r := fdiv f32One (fsqrt (fadd (mean (sq y)) eps))
  List.zipWith (fun v g => fmul (fmul v r) g) y gamma

/-- The elements of a PARAM tensor, in its format (row order; log entry 124). -/
def State.paramWords (s : State) (id n : Nat) : List Word32 :=
  match s.plan.tensor id with
  | none => []
  | some t => (List.range n).map fun j =>
    if tnFmt t = 3 then w32 (rd 2 (s.readRange (tnBase t + 2 * j) 2) 0 * 65536) else w32 (rd 4 (s.readRange (tnBase t + 4 * j) 4) 0)

def nmWidth (d : List Nat) : Nat := fld d 0x44 15 0
def nmRows (d : List Nat) : Nat := fld d 0x50 15 0

/-- The module-range bytes of a tensor. -/
def PlanObj.tensorRange (p : PlanObj) (id : Nat) : List (Nat × Nat) :=
  match p.tensor id with
  | some t => [(tnBase t, tnBytes t)]
  | none => []

/-- NORM. -/
def execNorm (tile : Nat) (s : State) : Ret :=
  .next (s.operate tile opNorm 1 fun s r =>
    let off := fld r.d 0x40 19 0
    let g := s.tileRegion r.ph tile off (nmRows r.d) (nmWidth r.d) (s.plan.formAt s.index r.ph tile off 3)
    s.withInputs r [(g.base, g.bytes)] (s.plan.tensorRange (fld r.d 0x4C 31 0)) fun s =>
      let gamma := s.paramWords (fld r.d 0x4C 31 0) (nmWidth r.d)
      let vals := (s.runRows r (nmRows r.d)).map fun i =>
        (i, normRow (fld r.d 0x44 16 16) (w32 (fld r.d 0x48 31 0)) gamma (s.regionWords g i))
      (s.emitRows r (fld r.d 0x44 19 17) (nmRows r.d) (nmWidth r.d) vals).executed r)

/-! ### ELEMWISE -/

/-- FUNC of two elements. -/
def elemFunc (f : Nat) (a b : Word32) : Word32 :=
  match f with
  | 0 => fadd a b
  | 1 => fmul a b
  | 2 => fsilu a
  | 3 => fgelu a
  | 4 => fmul (fsilu a) b
  | _ => a

/-- FUNC with a second operand. -/
def elemTwo (f : Nat) : Bool := f == 0 || f == 1 || f == 4

def elWidth (d : List Nat) : Nat := fld d 0x4C 15 0
def elRows (d : List Nat) : Nat := fld d 0x4C 31 16

/-- ELEMWISE. -/
def execElemwise (tile : Nat) (s : State) : Ret :=
  .next (s.operate tile opElemwise 1 fun s r =>
    let f := fld r.d 0x48 3 0
    let reg (off : Nat) : Region := s.tileRegion r.ph tile off (elRows r.d) (elWidth r.d) (fld r.d 0x48 9 7)
    let a := reg (fld r.d 0x40 19 0)
    let b := reg (fld r.d 0x44 19 0)
    s.withInputs r ((a.base, a.bytes) :: if elemTwo f then [(b.base, b.bytes)] else []) [] fun s =>
      let vals := (s.runRows r (elRows r.d)).map fun i =>
        let x := s.regionWords a i
        (i, List.zipWith (elemFunc f) x (if elemTwo f then s.regionWords b i else x))
      (s.emitRows r (fld r.d 0x48 6 4) (elRows r.d) (elWidth r.d) vals).executed r)

/-! ### ROUTE -/

def rtExperts (d : List Nat) : Nat := fld d 0x44 10 0
def rtTopk (d : List Nat) : Nat := fld d 0x44 15 11
def rtRows (d : List Nat) : Nat := fld d 0x48 15 0

/-- The scores of a row's logits: softmax or sigmoid, where a NaN logit counts as −∞. -/
def routeScores (sigmoid : Bool) (z : List Word32) : List Word32 :=
  let y := z.map fun v => if (f32 v).isNan then f32Inf true else v
  if sigmoid then y.map fsigmoid else
    let m := vecMax y
    let e := y.map fun v => fexp (fsub v m)
    let t := vecSum e
    e.map fun v => fdiv v t

/-- The experts of a row in descending score, a tie to the lower number; one whose logit is NaN comes after every other (DEDUCED,
log entry 125). -/
def routeOrder (z sc : List Word32) : List Nat :=
  let low (i : Nat) : Bool := (f32 (z.getD i 0)).isNan || (f32 (sc.getD i 0)).isNan
  sortBy (fun i j => if low i then low j && decide (i ≤ j) else low j || flt (sc.getD j 0) (sc.getD i 0) ||
    (!flt (sc.getD i 0) (sc.getD j 0) && decide (i ≤ j))) (List.range z.length)

/-- A row's choices with their weights; none where every logit is NaN. -/
def routeRow (sigmoid renorm : Bool) (k : Nat) (z : List Word32) : List (Nat × Word32) :=
  if z.all fun v => (f32 v).isNan then [] else
    let sc := routeScores sigmoid z
    let top := ((routeOrder z sc).take k).map fun i => (i, sc.getD i 0)
    let t := vecSum (top.map (·.2))
    if renorm then top.map fun e => (e.1, fdiv e.2 t) else top

/-- A slot list entry (Table 5.9). -/
def slotEntry (e : Nat × Word32) : Bytes := le 4 (e.1 + 32768) ++ le 4 e.2.toNat

/-- ROUTE. -/
def execRoute (tile : Nat) (s : State) : Ret :=
  .next (s.operate tile opRoute 1 fun s r =>
    let g := s.tileRegion r.ph tile (fld r.d 0x40 19 0) (rtRows r.d) (rtExperts r.d) 3
    let k := rtTopk r.d
    s.withInputs r [(g.base, g.bytes)] [] fun s =>
      let rows := s.runRows r (rtRows r.d)
      let picks := rows.map fun i =>
        (i, routeRow (fld r.d 0x44 16 16 = 1) (fld r.d 0x44 17 17 = 1) k (s.regionWords g i))
      let bytes := (List.range (rtRows r.d)).flatMap fun i =>
        let es := ((picks.find? fun p => p.1 == i).map (·.2)).getD []
        es.flatMap slotEntry ++ zeros (8 * (k - es.length))
      let s1 := s.count ctRouteNan 0 ((picks.filter fun p => p.2.isEmpty).length)
      let live (b : Nat) : Bool := rows.any fun i =>
        decide (i * k * 8 < (b + 1) * blockBytes ∧ b * blockBytes < (i + 1) * k * 8)
      (s1.emitBytes r bytes live).executed r)

/-! ### SKIP_GATE -/

/-- SKIP_GATE: the mask of the kept rows; the score of a row is the first column of its FP32 row (log entry 126). -/
def execSkipGate (tile : Nat) (s : State) : Ret :=
  .next (s.operate tile opSkipGate 1 fun s r =>
    let n := fld r.d 0x48 15 0
    let g := s.tileRegion r.ph tile (fld r.d 0x40 19 0) n 16 3
    let th := w32 (fld r.d 0x44 31 0)
    s.withInputs r [(g.base, g.bytes)] [] fun s =>
      let rows := s.runRows r n
      let keep := rows.filter fun i =>
        let v := (s.regionWords g i).headD 0
        (f32 v).isNan || fle th v
      let mask := (List.range 512).map fun b => BitVec.ofNat 8
        (listSum ((List.range 8).map fun j => if keep.contains (8 * b + j) then 2 ^ j else 0))
      let s1 := s.modStep r.t.seq fun t => { t with kept := t.kept ++ [(dLayer r.d, dHb r.d, !keep.isEmpty)] }
      (s1.emitBytes r (fit blockBytes mask) (fun _ => !rows.isEmpty)).executed r)

/-! ### COMBINE -/

def cbWidth (d : List Nat) : Nat := fld d 0x44 15 0
def cbRows (d : List Nat) : Nat := fld d 0x4C 31 16
def slotOff (d : List Nat) : Nat := fld d 0x48 19 0

/-- A slot list's entry as it lies in the activation buffer: expert and weight where it is valid. -/
def State.slotAt (s : State) (l off slot : Nat) : Option (Nat × Word32) :=
  let b := s.readData (s.actOf l + off + 8 * slot) 8
  if bitOf (rd 4 b 0) 15 then some (rd 4 b 0 % 1024, w32 (rd 4 b 4)) else none

/-- The rows that this module dispatches and combines (R184). -/
def State.inShare (s : State) (row : Nat) : Bool := row % max 1 s.sliceModules.length == s.plan.rank s.index

/-- The values of a return, as it lies in the return region. -/
def State.returnVals (s : State) (rec : DispRec) (fmt width slot : Nat) : List Word32 :=
  let row := width * (if fmt = 0 then 2 else 4)
  let b := s.readRange (rec.base + (rec.hb * s.plan.slotsOf rec.layer + slot) * row) row
  (List.range width).map fun j => if fmt = 0 then w32 (rd 2 b (2 * j) * 65536) else w32 (rd 4 b (4 * j))

/-- One row: the residual, and each return times its weight, in the order in which the returns landed (R190; each product rounded,
log entry 127). -/
def State.combineRow (s : State) (rec : DispRec) (d : List Nat) (l topk row : Nat) (res : List Word32) : List Word32 :=
  let mine := rec.order.filter fun k => k / max 1 topk == row
  mine.foldl (fun y k => match s.slotAt l (slotOff d) k with
    | some e => List.zipWith (fun a v => fadd a (fmul e.2 v)) y (s.returnVals rec (fld d 0x44 17 16) (cbWidth d) k)
    | none => y) res

/-- COMBINE: rows outside this module's share are zero. -/
def execCombine (tile : Nat) (s : State) : Ret :=
  .next (s.operate tile opCombine 1 fun s r =>
    let off := fld r.d 0x40 19 0
    let g := s.tileRegion r.ph tile off (cbRows r.d) (cbWidth r.d) (s.plan.formAt s.index r.ph tile off 3)
    let rec_ := s.disp r.t.seq (dLayer r.d) (dHb r.d)
    let k := s.plan.topk (dLayer r.d)
    s.withInputs r [(g.base, g.bytes), (s.actOf tile + slotOff r.d, cbRows r.d * k * 8)] [] fun s =>
      let vals := (s.runRows r (cbRows r.d)).map fun i =>
        (i, if s.inShare i then s.combineRow rec_ r.d tile k i (s.regionWords g i) else List.replicate (cbWidth r.d) f32Zero)
      (s.emitRows r (fld r.d 0x50 2 0) (cbRows r.d) (cbWidth r.d) vals).executed r)

end Sys2Proof.Machine
end

