-- ==== Sys2Proof/Machine/MoverOps.lean ====
section
/-! DEFINITION. The mover's operators but for COLLECTIVE: DISPATCH (R100, R184 to R186), MOVE (R76, R174 to R176), FABRIC_RED (R177,
R178), MCAST (R179), EMBED and SAMPLE (R77, R219). -/

namespace Sys2Proof.Machine

open Sys2Proof

/-! ### DISPATCH -/

/-- A row packed in XFMT at exposure 0 (R100): its bytes and what its conversions count. -/
def packRow (xfmt : Nat) (xs : List Fp) : Bytes × Nat × Nat :=
  match xfmt with
  | 0 =>
    let gs := (chunksOf 16 xs).map fun g => toA4 g 0
    (gs.flatMap fun g => packNibbles g.codes ++ le 1 g.scale, (gs.filter (·.sat)).length, (gs.filter (·.nonfinite)).length)
  | 1 =>
    let cs := xs.map fun x => toA8 x 0
    (cs.map fun c => BitVec.ofNat 8 c.code, (cs.filter (·.sat)).length, (cs.filter (·.nonfinite)).length)
  | _ =>
    let cs := xs.map toBf16
    (cs.flatMap fun c => le 2 c.code, 0, (cs.filter (·.nonfinite)).length)

/-- One slot's row on its way to its owner; one that this module owns crosses no link. -/
def State.sendSlot (s : State) (r : Run) (row slot expert owner : Nat) (b : Bytes) : State :=
  let layer := dLayer r.d
  let e := (s.plan.resvOfLayer layer).getD []
  let a := rsBase e + (dHb r.d * rsSlots e + slot) * b.length
  let q := (r.half.row row).map (·.1)
  let id := (q.map (·.session)).getD 0
  let ep := (q.map (·.epoch)).getD 0
  (indexed (chunksOf 4096 b)).foldl (fun (t : State) c =>
    if owner = t.index then t.landSlot (t.runUnit r) t.index expert id ep r.t.seq (a + 4096 * c.1) c.2
    else t.sendPacket { t.opPacket ptDispatch owner r.t.seq (a + 4096 * c.1) c.2 with dtile := expert, session := id, epoch := ep })
    (s.count ctSlotsSent 0 1)

/-- DISPATCH: the live rows of this module's share, slot by slot, then DISPATCH_END to every module. -/
def execDispatch (tile : Nat) (s : State) : Ret :=
  .next (s.operate tile opDispatchOpc 2 fun s r =>
    let layer := dLayer r.d
    let hb := dHb r.d
    let rows := fld r.d 0x4C 31 16
    let width := fld r.d 0x44 15 0
    let k := s.plan.topk layer
    let g := s.tileRegion r.ph tile (fld r.d 0x40 19 0) rows width 2
    s.withInputs r [(g.base, g.bytes), (s.actOf tile + slotOff r.d, rows * k * 8)] [] fun s =>
      let mine := (s.runRows r rows).filter s.inShare
      let slots := mine.flatMap fun i => (List.range k).filterMap fun c =>
        (s.slotAt tile (slotOff r.d) (i * k + c)).bind fun e => (s.plan.expert layer e.1).map fun x => (i, i * k + c, e.1, exOwner x)
      let s1 := s.putDisp { s.disp r.t.seq layer hb with sent := some (slots.map (·.2.1)) }
      let s2 := slots.foldl (fun (a : State) x =>
        let p := packRow (fld r.d 0x44 17 16) (a.regionRow g x.1)
        ((a.sendSlot r x.1 x.2.1 x.2.2.1 x.2.2.2 p.1).count ctSat r.code p.2.1).count ctNonfinite r.code p.2.2) s1
      let s3 := s2.others.foldl (fun a m => a.sendPacket (a.opPacket ptDispatchEnd m r.t.seq (layer + 65536 * hb))) s2
      ((s3.noteEnd s3.index r.t.seq layer hb).checkResolved r.t.seq layer hb).executed r)

/-! ### MOVE -/

def mvSrc (d : List Nat) : Nat := fld64 d 0x40
def mvLen (d : List Nat) : Nat := fld d 0x48 31 0
def mvRange (d : List Nat) : Bool := fld d 0x4C 0 0 = 1

/-- One block of an operator's output. -/
def State.putAt (s : State) (r : Run) (i : Nat) (b : Blk) : State :=
  (outsUsed r.d).foldl (fun a j =>
    let t := dDest r.d j
    if a.destHere t then a.landBlock (a.destAddr t (i * blockBytes)) b
    else a.sendBlock (a.runUnit r) r.t.seq t (i * blockBytes) b) s

/-- Whether the local pages of a descriptor's destinations are mapped. -/
def State.destsMapped (s : State) (d : List Nat) (n : Nat) : Bool :=
  (outsUsed d).all fun j =>
    let t := dDest d j
    !(s.destHere t && t.kind == 2) || s.mappedAll (fabLocal t.addr) n

/-- A source's blocks on this module: of the tile, or of the module range. -/
def State.srcBlocks (s : State) (r : Run) (src len : Nat) (range : Bool) : List Blk :=
  (List.range (inBlocks len)).map fun i =>
    s.blockAt (if range then s.phys (fabLocal src + i * blockBytes) else s.actOf r.tile + src + i * blockBytes)

/-- The inputs of such a source. -/
def State.srcInputs (s : State) (r : Run) (src len : Nat) (range : Bool) (f : State → State) : State :=
  if range then s.withInputs r [] [(fabLocal src, len)] f else s.withInputs r [(s.actOf r.tile + src, len)] [] f

/-- A remote read: a block in the cache is served from it, another is asked of its owner (R174, R175). -/
def State.readRemote (s : State) (r : Run) (i a : Nat) : State :=
  match s.fab.cache.find? fun c => c.addr == a with
  | some c =>
    ((s.fillLine c).count ctCacheHits 0 1).putAt r i { data := c.data, exp := c.exp, a8d := c.a8d }
  | none =>
    let s1 := (s.count ctRemoteReads 0 1).onFab fun f => { f with
      reads := f.reads ++ [{ tile := r.tile, desc := r.idx, block := i, addr := a }] }
    s1.sendPacket (s1.opPacket ptReadReq (fabMod a) r.t.seq (fabLocal a))

/-- A MOVE's remote reads that have not come. -/
def State.reading (s : State) (tile idx : Nat) : Bool := s.fab.reads.any fun q => q.tile == tile && q.desc == idx

/-- MOVE: a copy, from this module or another, or the invalidation of cached lines. -/
def execMove (tile : Nat) (s : State) : Ret :=
  .next (s.operate tile opMove 2 fun s r =>
    let src := mvSrc r.d
    let n := inBlocks (mvLen r.d)
    let unit := s.runUnit r
    if mvRange r.d && (outsUsed r.d).isEmpty then
      let hit (c : CacheLine) : Bool := decide (src ≤ c.addr ∧ c.addr < src + mvLen r.d)
      ((s.onFab fun f => { f with cache := f.cache.filter fun c => !hit c }).count ctCacheInvalidated 0
        (s.fab.cache.filter hit).length).executed r
    else if !s.destsMapped r.d (mvLen r.d) then s.rangeFault unit (fabLocal (dDest r.d 0).addr) r.t.seq
    else if !mvRange r.d || s.isHere src then
      s.srcInputs r src (mvLen r.d) (mvRange r.d) fun s =>
        ((indexed (s.srcBlocks r src (mvLen r.d) (mvRange r.d))).foldl (fun a b => a.putAt r b.1 b.2) s).executed r
    else if s.reading tile r.idx then s
    else if !s.plan.inSlice (fabMod src) then s.stepFault fltFabricRange unit r.t.seq { addr := src }
    else
      let s1 := (List.range n).foldl (fun a i => a.readRemote r i (src + i * blockBytes)) s
      if s1.reading tile r.idx then s1 else s1.executed r)

/-! ### FABRIC_RED -/

/-- Elements of a block reduced (R177). -/
def reduceWord (op : Nat) (t v : Word32) : Word32 :=
  if op = 2 then (if (f32 t).isNan || (f32 v).isNan then f32Nan else fmax t v) else fadd t v

def reduceBlock (op : Nat) (t v : Bytes) : Bytes :=
  if op = 1 then (List.range 2048).flatMap fun i =>
    let h (b : Bytes) : Word32 := w32 (rd 2 b (2 * i) * 65536)
    le 2 (toBf16 (f32 (fadd (h t) (h v)))).code
  else (List.range 1024).flatMap fun i => le 4 (reduceWord op (w32 (rd 4 t (4 * i))) (w32 (rd 4 v (4 * i)))).toNat

/-- Time of a block on its reduction unit in ns: 64 segment cycles in T1, 128 ns in T2 (Table of R178). -/
def State.redNs (s : State) (u : UnitId) : Nat := if u.kind = 2 then ceilDiv 6400 (pointRow (s.point (u.index / 16))).2.2.1 else 128

/-- The owner applies a block, and its island raises the mark. -/
def State.applyRed (s : State) (u : UnitId) (step op dch addr : Nat) (data : Bytes) : State :=
  match s.phys? addr with
  | none => s.rangeFault u addr step
  | some a =>
    let isl := viewUnit a
    if s.poisoned a then s.memUe isl a .range step else
    let k := UnitId.inst isl
    let busy := tgetD s.fab.redBusy k 0
    let s1 := (s.count ctRedWait 0 (busy - s.now)).onFab fun f => { f with
      redBusy := tset f.redBusy k (max busy s.now + s.redNs isl) }
    ((s1.landBlock a { data := reduceBlock op (s1.readData a blockBytes) data }).count ctRedBlocks 0 1).addMarks
      (islandChan isl dch) 1 step

/-- FABRIC_RED. -/
def execFabricRed (tile : Nat) (s : State) : Ret :=
  .next (s.operate tile opFabricRed 2 fun s r =>
    let t := dDest r.d 0
    let op := fld r.d 0x4C 3 1
    let m := fabMod t.addr
    if !s.plan.inSlice m then s.stepFault fltFabricRange (s.runUnit r) r.t.seq { addr := t.addr } else
      s.srcInputs r (mvSrc r.d) (mvLen r.d) (mvRange r.d) fun s =>
        ((indexed (s.srcBlocks r (mvSrc r.d) (mvLen r.d) (mvRange r.d))).foldl (fun (a : State) b =>
          let addr := fabLocal t.addr + b.1 * blockBytes
          if m = a.index then a.applyRed (a.runUnit r) r.t.seq op t.dch addr b.2.data
          else (a.dropLine (fabAddr m addr)).sendPacket
            { a.opPacket ptRed m r.t.seq addr b.2.data b.2.exp b.2.a8d with opx := op, dch := t.dch }) s).executed r)

/-! ### MCAST -/

/-- A rectangle in a packet's SESSION field (Table 5.3). -/
def rectCode (r : Rect) : Nat := moduleAt r.x r.y r.z + (r.dx - 1) * 2 ^ 9 + (r.dy - 1) * 2 ^ 12 + (r.dz - 1) * 2 ^ 16
def rectOf (c : Nat) : Rect :=
  let o := c % 512
  { x := coordX o, y := coordY o, z := coordZ o, dx := bitsOf c 11 9 + 1, dy := bitsOf c 15 12 + 1, dz := bitsOf c 17 16 + 1 }

/-- The module of a rectangle nearest a module. -/
def Rect.nearest (r : Rect) (m : Nat) : Nat :=
  let c (v lo n : Nat) : Nat := max lo (min v (lo + n - 1))
  moduleAt (c (coordX m) r.x r.dx) (c (coordY m) r.y r.dy) (c (coordZ m) r.z r.dz)

/-- A multicast block lands here, and its mark is raised. -/
def State.landMcast (s : State) (u : UnitId) (k : Packet) : State :=
  match s.phys? k.addr with
  | none => s.rangeFault u k.addr k.stepSeq
  | some a =>
    let s1 := s.landBlock a { data := k.data, exp := k.exp, a8d := k.a8d }
    let ch := islandChan (viewUnit a) k.dch
    ((s1.count ctMcastBlocks 0 1).fillSpace ch a 1 k.src).addMarks ch 1 k.stepSeq

/-- Logical ports that a block goes on by, by the port that it came in on; none at the entry module (R179). -/
def mcastPorts (came : Option Nat) : List Nat :=
  match came with
  | none => [4, 5, 2, 3, 0, 1]
  | some p =>
    let on := [1, 0, 3, 2, 5, 4].getD p 0
    if 4 ≤ p then [on, 2, 3, 0, 1] else if 2 ≤ p then [on, 0, 1] else [on]

/-- A multicast block at a module: on towards the entry module, or landed and forwarded along the tree. `came` is the logical port
by which it came. -/
def State.mcastAt (s : State) (u : UnitId) (came : Option Nat) (k : Packet) : State :=
  let r := rectOf k.session
  if s.index != k.dest && !r.has s.index then
    match hopPort s.index k.dest with
    | some q => s.sendOn (s.physOf q) k
    | none => s
  else
    let outs := (mcastPorts (if s.index = k.dest then none else came)).filter fun q =>
      let m := s.index
      r.has (behindPort m q) && decide (hopPort m (behindPort m q) = some q)
    outs.foldl (fun a q => a.sendOn (a.physOf q) k) (s.landMcast u k)

/-- MCAST. -/
def execMcast (tile : Nat) (s : State) : Ret :=
  .next (s.operate tile opMcastOpc 2 fun s r =>
    let t := dDest r.d 0
    let c (off : Nat) : Nat × Nat × Nat := (fld r.d off 7 0, fld r.d off 15 8, fld r.d off 23 16)
    let o := c 0x50
    let e := c 0x54
    let rect : Rect := { x := o.1, y := o.2.1, z := o.2.2, dx := e.1, dy := e.2.1, dz := e.2.2 }
    let entry := rect.nearest s.index
    s.srcInputs r (mvSrc r.d) (mvLen r.d) (mvRange r.d) fun s =>
      ((indexed (s.srcBlocks r (mvSrc r.d) (mvLen r.d) (mvRange r.d))).foldl (fun (a : State) b =>
        let addr := fabLocal t.addr + b.1 * blockBytes
        let a1 := rect.modules.foldl (fun (x : State) m => x.dropLine (fabAddr m addr)) a
        let k := { a1.opPacket ptMcast entry r.t.seq addr b.2.data b.2.exp b.2.a8d with
          dch := t.dch, session := rectCode rect, detour := false, via := 0 }
        if entry = a1.index then a1.mcastAt (a1.runUnit r) none k
        else match hopPort a1.index entry with
          | some q => a1.sendOn (a1.physOf q) k
          | none => a1) s).executed r)

/-! ### EMBED -/

/-- A row's token: the lead's record; elsewhere what the module knows of the session's sequence. -/
def State.rowToken (s : State) (r : Run) (row : Nat) : Nat :=
  if s.isLead then (tgetD r.t.tokens (dHb r.d) []).getD row 0 else
    match r.half.row row with
    | none => 0
    | some (e, a, i) => match s.sessById e.session with
      | none => Config.unstated 30 [e.session, a.kvLen + i] % max 1 s.plan.vocab
      | some x =>
        if r.t.verify then
          (if x.tree.length = e.rows ∧ s.plan.sampleModule x.index = s.index then ((x.tree[i]?).elim 0 (·.token))
          else Config.unstated 30 [x.id, a.kvLen + i] % max 1 s.plan.vocab)
        else s.tokenAt x (a.kvLen + i)

/-- One element of an embedding table's row, in its format, rows in order (log entry 124). -/
def State.tableWord (s : State) (t : List Nat) (row width j : Nat) : Word32 :=
  let a := tnBase t
  let i := row * width + j
  let byte (o : Nat) : Nat := byteAt (s.readRange (a + o) 1) 0
  let n := tnRows t * tnCols t
  match tnFmt t with
  | 0 => ((e2m1 (byte (i / 2) / 16 ^ (i % 2))).mul (e4m3 (byte (n / 2 + i / 16)))).to32
  | 1 => ((int3 (rd 6 (s.readRange (a + i / 16 * 6) 6) 0 / 8 ^ (i % 16))).mul (e4m3 (byte (n * 3 / 8 + i / 16)))).to32
  | 2 => (e4m3 (byte i)).to32
  | 3 => w32 (rd 2 (s.readRange (a + 2 * i) 2) 0 * 65536)
  | _ => w32 (rd 4 (s.readRange (a + 4 * i) 4) 0)

/-- EMBED: the table's first row is the entry VOCAB_LO (log entry 124). -/
def execEmbed (tile : Nat) (s : State) : Ret :=
  .next (s.operate tile opEmbed 2 fun s r =>
    let lo := fld r.d 0x44 19 0
    let width := fld r.d 0x4C 15 0
    let rows := fld r.d 0x4C 31 16
    s.withInputs r [] (s.plan.tensorRange (fld r.d 0x40 31 0)) fun s =>
      let tab := (s.plan.tensor (fld r.d 0x40 31 0)).getD []
      let vals := (s.runRows r rows).map fun i =>
        let tok := s.rowToken r i
        (i, if lo ≤ tok ∧ tok < lo + fld r.d 0x48 19 0 then (List.range width).map (s.tableWord tab (tok - lo) width)
          else List.replicate width f32Zero)
      (s.emitRows r (fld r.d 0x50 2 0) rows width vals).executed r)

/-! ### SAMPLE -/

/-- The rows of a session that are sampled, where the step's kind asks for any (R219). -/
def sampledOf (verify : Bool) (e : SRow) : List Nat := if verify || e.lastChunk then sampledRows verify e else []

/-- A row's logits at its session's sampling unit: this module's, or another's. -/
def State.sendLogits (s : State) (r : Run) (id row lo : Nat) (z : List Word32) : State :=
  let m := s.plan.sampleModule (id % 4096)
  if m = s.index then
    s.onSrv fun v =>
      let hit (l : RowLogits) : Bool := l.session == id && l.step == r.t.seq && l.row == row
      let old := (v.logits.find? hit).getD { session := id, step := r.t.seq, row := row, ranges := [] }
      { v with logits := v.logits.filter (fun l => !hit l) ++ [{ old with ranges := old.ranges ++ [(lo, z)] }] }
  else s.emit (.logits m id r.t.seq row lo z)

/-- SAMPLE. -/
def execSample (tile : Nat) (s : State) : Ret :=
  .next (s.operate tile opSample 2 fun s r =>
    let lo := fld r.d 0x44 19 0
    let n := fld r.d 0x48 19 0
    let rows := fld r.d 0x4C 15 0
    let g := s.tileRegion r.ph tile (fld r.d 0x40 19 0) rows n 3
    s.withInputs r [(g.base, g.bytes)] [] fun s =>
      let live := s.runRows r rows
      let jobs := r.half.rows.flatMap fun e => ((sampledOf r.t.verify e).filter fun i => live.contains (e.firstRow + i)).map fun i =>
        (e.session, i, e.firstRow + i)
      (jobs.foldl (fun (a : State) j => a.sendLogits r j.1 j.2.1 lo (a.regionWords g j.2.2)) s).executed r)

end Sys2Proof.Machine
end

