-- ==== Sys2Proof/Machine/Collective.lean ====
section
/-! DEFINITION. COLLECTIVE (R75, R180 to R182): the group, the way of each block along the lines of its stages, room, and results.
Which way a segment goes and what a receiver makes of it follow from the block that it carries and the neighbour that it came
from (log entry 128). -/

namespace Sys2Proof.Machine

open Sys2Proof

/-! ### The operands (Table 2.16) -/

/-- A collective: KIND, EFMT, ROOT, COUNT, its axes with more than one member in stage order (0 x, 1 y, 2 z), the slice's rectangle,
and the members in rank order. -/
structure Coll where
  kind : Nat
  efmt : Nat
  root : Nat
  count : Nat
  axes : List Nat
  rect : Rect
  members : List Nat
  deriving DecidableEq, Repr

def coordOn (a m : Nat) : Nat := if a = 0 then coordX m else if a = 1 then coordY m else coordZ m
def Rect.originOn (r : Rect) (a : Nat) : Nat := if a = 0 then r.x else if a = 1 then r.y else r.z
def Rect.extentOn (r : Rect) (a : Nat) : Nat := if a = 0 then r.dx else if a = 1 then r.dy else r.dz

/-- The collective that a descriptor asks for on a module. -/
def PlanObj.coll (p : PlanObj) (self : Nat) (d : List Nat) : Coll :=
  let on (a : Nat) : Bool := bitOf (fld d 0x40 5 3) a
  let kind := fld d 0x40 2 0
  { kind := kind, efmt := fld d 0x40 7 6, root := fld d 0x40 16 8, count := fld d 0x44 31 0, rect := p.rect
    axes := (if kind = 1 then [0, 1, 2] else [2, 1, 0]).filter fun a => on a && decide (1 < p.rect.extentOn a)
    members := p.modules.filter fun m => [0, 1, 2].all fun a => on a || coordOn a m == coordOn a self }

def Coll.n (c : Coll) : Nat := c.members.length
def Coll.elem (c : Coll) : Nat := [4, 2, 1].getD c.efmt 1
/-- Blocks of one member's data as they travel: partial sums are FP32 whatever EFMT is. -/
def Coll.per (c : Coll) : Nat :=
  match c.kind with
  | 0 => inBlocks (c.count * 4)
  | 2 => inBlocks (c.count / max 1 c.n * 4)
  | _ => inBlocks (c.count * c.elem)
/-- Block indices of the whole collective. -/
def Coll.keys (c : Coll) : Nat := if c.kind = 1 ∨ c.kind = 2 then c.n * c.per else c.per
/-- The member that a block comes from, or for a scatter the one that it goes to. -/
def Coll.whose (c : Coll) (k : Nat) : Nat := if c.kind = 3 then c.root else c.members.getD (k / max 1 c.per) 0
/-- Bytes of the result on this member. -/
def Coll.resultBytes (c : Coll) : Nat :=
  c.elem * (match c.kind with
    | 1 => c.n * c.count
    | 2 => c.count / max 1 c.n
    | _ => c.count)

/-! ### Lines -/

def Coll.pos (c : Coll) (a m : Nat) : Nat := coordOn a m - c.rect.originOn a
def Coll.top (c : Coll) (a : Nat) : Nat := c.rect.extentOn a - 1

/-- The neighbour on an axis: one up or one down; none past an end. -/
def Coll.next (c : Coll) (a : Nat) (up : Bool) (m : Nat) : Option Nat :=
  let w := if a = 0 then 1 else if a = 1 then 8 else 128
  if up then (if c.pos a m < c.top a then some (m + w) else none) else (if 0 < c.pos a m then some (m - w) else none)

/-- The lower half of an ALL_REDUCE's blocks reduces upwards and returns downwards. -/
def Coll.upwards (c : Coll) (k : Nat) : Bool := decide (2 * k < c.per)

/-- A module's way in the tree from a block's origin: on the last axis on which it differs, onwards; on later axes, both ways. -/
def Coll.treeOn (c : Coll) (o m : Nat) : List Nat → List Nat
  | [] => []
  | a :: r =>
    let onward := if r.any fun b => c.pos b m != c.pos b o then [] else if c.pos a m = c.pos a o then [true, false]
      else [decide (c.pos a o < c.pos a m)]
    onward.filterMap (fun up => c.next a up m) ++ c.treeOn o m r

/-- A scatter's way on the first axis on which a module is not where the block's target is. -/
def Coll.towards (c : Coll) (t m : Nat) : List Nat → Option Nat
  | [] => none
  | a :: r => if c.pos a m = c.pos a t then c.towards t m r else c.next a (decide (c.pos a m < c.pos a t)) m

/-- A module takes part in a scatter's block on an axis: on the axes before it, it is where the target is. -/
def Coll.scatterFrom (c : Coll) (t m : Nat) : List Nat → List Nat
  | [] => []
  | a :: r =>
    let p := c.pos a m
    let q := c.pos a t
    (if p ≤ q then (c.next a false m).toList else []) ++ (if q ≤ p then (c.next a true m).toList else []) ++
      if p = q then c.scatterFrom t m r else []

/-- Neighbours to which a module sends a block. -/
def Coll.dests (c : Coll) (m k : Nat) : List Nat :=
  match c.kind with
  | 0 => c.axes.flatMap fun a => (c.next a (c.upwards k) m).toList ++ (c.next a (!c.upwards k) m).toList
  | 2 => (c.towards (c.whose k) m c.axes).toList
  | _ => c.treeOn (c.whose k) m c.axes

/-! ### Values -/

/-- A block with its exposure. -/
abbrev Seg := Bytes × Int

/-- Elements as FP32 bytes. -/
def toFp32 (efmt : Nat) (b : Bytes) : Bytes :=
  if efmt = 0 then b else (chunksOf 2 b).flatMap fun h => le 4 (rd 2 h 0 * 65536)

/-- FP32 bytes in EFMT (R98). -/
def fromFp32 (efmt : Nat) (b : Bytes) : Bytes :=
  if efmt = 0 then b else (chunksOf 4 b).flatMap fun w => le 2 (toBf16 (f32 (w32 (rd 4 w 0)))).code

/-- A member's own block. -/
def Coll.own (c : Coll) (data : Bytes) (exps : List Int) (k : Nat) : Seg :=
  let b := k % max 1 c.per
  match c.kind with
  | 0 => (fit 4096 (toFp32 c.efmt (cut data (1024 * b * c.elem) (1024 * c.elem))), 0)
  | 2 =>
    let m := c.count / max 1 c.n
    (fit 4096 (toFp32 c.efmt (cut data ((k / max 1 c.per * m + 1024 * b) * c.elem) (min 1024 (m - 1024 * b) * c.elem))), 0)
  | _ => (fit 4096 (cut data (4096 * b) 4096), exps.getD b 0)

def CollRec.seg (r : CollRec) (src k : Nat) : Option Seg := (r.segs.find? fun x => x.1 == src && x.2.1 == k).map fun x => x.2.2

/-- The stages of an ALL_REDUCE block on a module: the sum once it is here, and what goes to neighbours. -/
def Coll.reduceOn (c : Coll) (r : CollRec) (m k : Nat) (cur : Seg) : List Nat → Option Seg × List (Nat × Seg)
  | [] => (some cur, [])
  | a :: rest =>
    let fwd := c.next a (c.upwards k) m
    let back := c.next a (!c.upwards k) m
    let part : Option Seg := match back with
      | none => some cur
      | some q => (r.seg q k).map fun x => (reduceBlock 0 x.1 cur.1, 0)
    match part with
    | none => (none, [])
    | some x =>
      let out := fwd.toList.map fun q => (q, x)
      let total := match fwd with
        | none => some x
        | some q => r.seg q k
      match total with
      | none => (none, out)
      | some y =>
        let z := c.reduceOn r m k y rest
        (z.1, out ++ back.toList.map (fun q => (q, y)) ++ z.2)

/-- A block on a module: its value where the result needs it here, and what goes to neighbours now. -/
def Coll.block (c : Coll) (r : CollRec) (m : Nat) (own : Seg) (k : Nat) : Option Seg × List (Nat × Seg) :=
  match c.kind with
  | 0 => c.reduceOn r m k own c.axes
  | 2 =>
    let from_ := c.scatterFrom (c.whose k) m c.axes
    if from_.all fun q => (r.seg q k).isSome then
      let v := ((r.segs.filter fun x => x.2.1 == k && from_.contains x.1).map fun x => x.2.2.1).foldl (reduceBlock 0) own.1
      (some (v, 0), (c.dests m k).map fun q => (q, (v, 0)))
    else (none, [])
  | _ =>
    match if c.whose k = m then some own else (r.segs.find? fun x => x.2.1 == k).map fun x => x.2.2 with
    | none => (none, [])
    | some v => (some v, (c.dests m k).map fun q => (q, v))

/-- Whether the result on a member holds a block. -/
def Coll.needs (c : Coll) (m k : Nat) : Bool := c.kind != 2 || c.whose k == m

/-- The result as blocks, from the blocks that it needs in ascending index. An FP8 block carries the EXP of the block that its first
byte lies in. -/
def Coll.result (c : Coll) (vs : List Seg) : List Blk :=
  let whole (l : List Seg) : Bytes := l.flatMap (·.1)
  let bytes := match c.kind with
    | 0 => fromFp32 c.efmt ((whole vs).take (4 * c.count))
    | 2 => fromFp32 c.efmt ((whole vs).take (4 * (c.count / max 1 c.n)))
    | _ => (chunksOf (max 1 c.per) vs).flatMap fun l => (whole l).take (c.count * c.elem)
  let expAt (o : Nat) : Int :=
    let q := c.count * c.elem
    ((vs.getD (o / max 1 q * c.per + o % max 1 q / 4096) ([], 0))).2
  (indexed (chunksOf blockBytes bytes)).map fun b =>
    { data := fit blockBytes b.2, exp := if c.kind = 1 ∨ c.kind = 3 then expAt (b.1 * blockBytes) else 0 }

/-! ### The instance (R180) -/

/-- ADDR of an instance less the block index: layer code, half-batch and ordinal. -/
def State.collKey (s : State) (r : Run) : Nat :=
  let ord := ((s.plan.tileProg r.ph r.tile).filter fun e => dOpc e.2 == opCollective && dHb e.2 == dHb r.d && decide (e.1 < r.idx)).length
  r.code + dHb r.d * 2 ^ 16 + ord * 2 ^ 17

def State.coll? (s : State) (step key tile : Nat) : Option CollRec :=
  s.fab.colls.find? fun c => c.step == step && c.key == key && c.tile == tile

def State.putColl (s : State) (c : CollRec) : State :=
  s.onFab fun f => { f with
    colls := f.colls.filter (fun x => !(x.step == c.step && x.key == c.key && x.tile == c.tile)) ++ [c] }

/-- Room that a neighbour has granted for a tile's segments of a step. -/
def State.collRoomOf (s : State) (step tile m : Nat) : Nat :=
  listSum ((s.fab.collRoom.filter fun e => e.1 == step && e.2.1 == tile && e.2.2.1 == m).map (·.2.2.2))

def State.addCollRoom (s : State) (step tile m n : Nat) : State :=
  let rest := s.fab.collRoom.filter fun e => !(e.1 == step && e.2.1 == tile && e.2.2.1 == m)
  s.onFab fun f => { f with collRoom := rest ++ [(step, tile, m, s.collRoomOf step tile m + n)] }

def State.useCollRoom (s : State) (step tile m : Nat) : State :=
  s.onFab fun f => { f with collRoom := (f.collRoom.map fun e =>
    if e.1 = step ∧ e.2.1 = tile ∧ e.2.2.1 = m then (e.1, e.2.1, e.2.2.1, e.2.2.2 - 1) else e).filter fun e => e.2.2.2 != 0 }

/-- At its start a member grants each neighbour room for the segments that come from it. -/
def State.grantRoom (s : State) (r : Run) (c : Coll) : State :=
  (c.members.filter (· != s.index)).foldl (fun (a : State) m =>
    let n := ((List.range c.keys).filter fun k => (c.dests m k).contains a.index).length
    if n = 0 then a else
      a.sendPacket { a.opPacket ptCredit m r.t.seq n with dtile := r.tile, dch := dOutCh r.d 0 }) s

/-- A segment sent where its neighbour has granted room. -/
def State.sendSeg (s : State) (r : Run) (kind k : Nat) (x : Nat × Seg) : State :=
  let key := s.collKey r
  match s.coll? r.t.seq key r.tile with
  | none => s
  | some inst =>
    if inst.sent.contains (x.1, k) || s.collRoomOf r.t.seq r.tile x.1 = 0 then s else
      let s1 := (s.putColl { inst with sent := inst.sent ++ [(x.1, k)] }).useCollRoom r.t.seq r.tile x.1
      s1.sendPacket { s1.opPacket ptColl x.1 r.t.seq (key + k * 2 ^ 23) x.2.1 x.2.2 with dtile := r.tile, opx := kind }

/-- What has come lets a member send and, in the end, write its result. -/
def State.collAdvance (s : State) (r : Run) : State :=
  let key := s.collKey r
  match s.coll? r.t.seq key r.tile with
  | none => s
  | some inst =>
    if inst.startNs.isNone then s else
      let c := s.plan.coll s.index r.d
      let src := s.srcBlocks r (fld64 r.d 0x48) (c.count * c.elem) (fld r.d 0x50 0 0 = 1)
      let data := (src.flatMap (·.data)).take (c.count * c.elem)
      let exps := src.map (·.exp)
      let bs := (List.range c.keys).map fun k => (k, c.block inst s.index (c.own data exps k) k)
      let s1 := bs.foldl (fun (a : State) b => b.2.2.foldl (fun (x : State) e => x.sendSeg r c.kind b.1 e) a) s
      let inst1 := (s1.coll? r.t.seq key r.tile).getD inst
      let want := bs.filter fun b => c.needs s.index b.1
      let unsent := (List.range c.keys).any fun k => (c.dests s.index k).any fun m => !inst1.sent.contains (m, k)
      if unsent || want.any (fun b => b.2.1.isNone) then s1 else
        let out := c.result (want.map fun b => b.2.1.getD ([], 0))
        let s2 := (outsUsed r.d).foldl (fun (a : State) j => a.putBlocks (a.runUnit r) r.t.seq (dDest r.d j) out) s1
        let slack := inst.lastNs - inst.startNs.getD inst.lastNs
        ((s2.onFab fun f => { f with
            colls := f.colls.filter fun x => !(x.step == inst.step && x.key == inst.key && x.tile == inst.tile) }).onPwr fun p =>
          { p with slackSum := p.slackSum + slack }).executed r

/-- COLLECTIVE: the member starts its instance, grants room, and sends what it can; segments and room that come later carry it
on. -/
def execCollective (tile : Nat) (s : State) : Ret :=
  .next (s.operate tile opCollective 2 fun s r =>
    let c := s.plan.coll s.index r.d
    let key := s.collKey r
    let inst := (s.coll? r.t.seq key tile).getD { step := r.t.seq, key := key, tile := tile }
    if inst.startNs.isSome then s.collAdvance r else
      s.srcInputs r (fld64 r.d 0x48) (c.count * c.elem) (fld r.d 0x50 0 0 = 1) fun s =>
        ((s.putColl { inst with startNs := some s.now }).grantRoom r c).collAdvance r)

/-! ### What comes from neighbours -/

/-- A running COLLECTIVE of a tile goes on. -/
def State.collGo (s : State) (tile : Nat) : State := s.operate tile opCollective 2 fun s r => s.collAdvance r

/-- A segment received for its instance. -/
def State.takeSeg (s : State) (k : Packet) : State :=
  let key := k.addr % 2 ^ 23
  let inst := (s.coll? k.stepSeq key k.dtile).getD { step := k.stepSeq, key := key, tile := k.dtile }
  (s.putColl { inst with segs := inst.segs ++ [(k.src, k.addr / 2 ^ 23, fit 4096 k.data, k.exp)], lastNs := s.now }).collGo k.dtile

/-- Whether a channel of a tile is that of a COLLECTIVE's output, on which neighbours grant room. -/
def PlanObj.collChannel (p : PlanObj) (tile ch : Nat) : Bool :=
  (List.range (p.nLayers + 2)).any fun ph => (p.tileProg ph tile).any fun e => dOpc e.2 == opCollective && dOutCh e.2 0 == ch

/-- Credits received: room for a COLLECTIVE's segments, or credits of a channel. -/
def State.takeCredit (s : State) (k : Packet) : State :=
  if s.plan.collChannel k.dtile k.dch then
    (s.addCollRoom k.stepSeq k.dtile k.src (k.addr % 65536)).collGo k.dtile
  else s.addCredits (tileChan k.dtile k.dch) (k.addr % 65536) k.stepSeq

end Sys2Proof.Machine
end

