-- ==== Sys2Proof/Machine/Descriptors.lean ====
section
/-! DEFINITION. The descriptor engine: readiness (R26, R29), the start of an operator and of a phase (R54, R266), completion (R28,
R63), chains (R187), what a held output waits for, and the time limits of R30 and R55. -/

namespace Sys2Proof.Machine

open Sys2Proof

/-! ### The program that a tile takes next (R53, R63) -/

/-- The first phase from `ph` on in which a tile has work. -/
def PlanObj.workFrom (p : PlanObj) (l ph : Nat) : Option Nat :=
  ((List.range (p.nLayers + 2)).filter fun q => decide (ph ≤ q)).find? fun q => p.progCount q l != 0

/-- A step whose tables are here and which may enter PRE. -/
def State.mayEnter (s : State) (t : Step) : Bool :=
  !t.held && !s.aborted t.seq && [0, 1, 2, 3].all fun i => t.got.contains i

/-- Step and phase of the tile's next program: the rest of its step, or the next step's. -/
def State.nextPhase (s : State) (l : Nat) : Option (Nat × Nat) :=
  let x := s.tileX l
  let rest := (s.step? x.step).bind fun t => (s.plan.workFrom l (x.phase + 1)).map fun ph => (t.seq, ph)
  match rest with
  | some r => some r
  | none => match s.steps.live.find? fun t => decide (x.step < t.seq) with
    | none => none
    | some t => if s.mayEnter t then (s.plan.workFrom l 0).map fun ph => (t.seq, ph) else none

/-- No row of either half-batch is kept in a layer (R82). -/
def Step.noneKept (t : Step) (layer : Nat) : Bool := [0, 1].all fun h => t.kept.contains (layer, h, false)

/-- The phase after an MoE layer waits for the layer's reserved time (R55), unless no row was kept. -/
def State.floorMet (s : State) (t : Step) (ph : Nat) : Bool :=
  decide (ph < 2) || layerKind (s.plan.layer (ph - 2)) != 1 || t.noneKept (ph - 2) ||
    s.tiles.reserveMet.contains (a8Key t.seq (ph - 2))

/-- The queue filled to its 64 entries. -/
def TileX.refill (x : TileX) : TileX :=
  let n := 64 - x.queue.length
  { x with queue := x.queue ++ (x.toRead.take n).map fun i => { desc := i }, toRead := x.toRead.drop n }

/-- A tile between phases takes its next program; lists that came before it was in the layer are given to it now. -/
def State.takeProgram (s : State) (l : Nat) : State :=
  let x := s.tileX l
  if !x.phaseDone then s else
    match s.nextPhase l with
    | none => s
    | some (n, ph) =>
      match s.step? n with
      | none => s
      | some t =>
        if !s.floorMet t ph then s else
          let s1 := s.modTile l fun y => ({ y with
            step := n, phase := ph, phaseDone := false, toRead := rangeFrom (s.plan.progFirst ph l) (s.plan.progCount ph l)
            reexposed := if y.step = n then y.reexposed else [], chain := [] } : TileX).refill
          (s1.fab.disp.filter fun r => r.step == n && phaseOfLayer r.layer == ph && r.listed).foldl
            (fun a r => a.giveList r l) s1

/-! ### Inputs and outputs of a descriptor -/

/-- The source in the module range of an operator that copies (R65). -/
def rangeSrc (d : List Nat) : Option Nat :=
  let o := dOpc d
  if o = opMove ∨ o = opFabricRed ∨ o = opMcastOpc then (if mvRange d then some (mvSrc d) else none)
  else if o = opCollective ∧ fld d 0x50 0 0 = 1 then some (fld64 d 0x48) else none

/-- The channel of an input: the tile's, or for the first one of a source in the module range the island's. A MOVE alone may read
another module (R174). -/
def State.inChan (s : State) (l : Nat) (d : List Nat) (k : Nat) : Nat :=
  match if k = 0 then rangeSrc d else none with
  | some a => if dOpc d != opMove || s.isHere a then islandChan (s.islandOf a) (dInCh d k) else tileChan l (dInCh d k)
  | none => tileChan l (dInCh d k)

/-- A chain's first descriptor takes the mark of its list on its first run only. -/
def State.rerun (s : State) (l ph i k : Nat) (d : List Nat) : Bool :=
  s.plan.chainFirst ph l (dHb d) == some i && dInCh d k == s.plan.dchExp (dLayer d) (dHb d) &&
    (tget (s.tileX l).chain (dHb d)).isSome

/-- Channels and marks that a descriptor needs. -/
def State.inputs (s : State) (l ph i : Nat) : List (Nat × Nat) :=
  let d := s.plan.desc i
  (List.range 4).filterMap fun k =>
    if dInMarks d k = 0 ∨ s.rerun l ph i k d then none else some (s.inChan l d k, dInMarks d k)

/-- Bytes of an output at a destination. -/
def State.outBytes (s : State) (ph : Nat) (d : List Nat) (t : Dest) : Nat :=
  let o := dOpc d
  let region (form rows width : Nat) : Nat :=
    (if t.kind = 1 ∧ s.destHere t then s.tileRegion ph t.dtile t.addr rows width form
      else { base := 0, rows := rows, width := width, form := form : Region }).bytes
  if o = opMatmul then region (mmO d) (mmM d) (mmN d)
  else if o = opAttn then region 2 (atRows d) (atHq d * atHdim d)
  else if o = opNorm then region (fld d 0x44 19 17) (nmRows d) (nmWidth d)
  else if o = opElemwise then region (fld d 0x48 6 4) (elRows d) (elWidth d)
  else if o = opCombine then region (fld d 0x50 2 0) (cbRows d) (cbWidth d)
  else if o = opEmbed then region (fld d 0x50 2 0) (fld d 0x4C 31 16) (fld d 0x4C 15 0)
  else if o = opRoute then rtRows d * rtTopk d * 8
  else if o = opSkipGate then blockBytes
  else if o = opMove then mvLen d
  else if o = opCollective then (s.plan.coll s.index d).resultBytes
  else 0

/-- Whether an output of a descriptor is a return of its chain. -/
def State.isReturn (s : State) (l ph i : Nat) (t : Dest) : Bool := t.kind == 2 && s.plan.inChain ph l i

/-- Credits of an output (log entry 116). On this module they are there once the consumer's tile is in the phase and the space is
free; a DISPATCH's is that of its region (R189); those of returns and of a reduction's target are granted at the run. -/
def State.creditHere (s : State) (l n ph i j : Nat) : Bool :=
  let d := s.plan.desc i
  let t := dDest d j
  let need := dOutCred d j
  if need = 0 ∨ s.isReturn l ph i t then true
  else if dOpc d = opDispatchOpc then s.regionFree n (dLayer d) (dHb d)
  else if s.destHere t then
    dOpc d == opFabricRed || ((t.kind == 2 || (s.tileX t.dtile).inPhase n ph) && s.spaceFree (s.destAddr t 0) need)
  else decide (need ≤ (s.chan (tileChan l (dOutCh d j))).credits)

/-- Credits are counted on the tile's channel where the consumer is another module's. -/
def State.remoteCredit (s : State) (l ph i j : Nat) : Bool :=
  let d := s.plan.desc i
  dOutCred d j != 0 && dOpc d != opDispatchOpc && !s.isReturn l ph i (dDest d j) && !s.destHere (dDest d j)

/-! ### Other conditions of readiness -/

/-- The KV chunks that a descriptor reads or writes have no data move in course (R132). -/
def State.chunksStill (s : State) (t : Step) (d : List Nat) : Bool :=
  let o := dOpc d
  if o != opAttn && o != opKvAppend then true else
    let g := s.plan.groupOfTab (if o = opAttn then atPagetab d else kaTab d)
    let r : Run := { tile := 0, idx := 0, d := d, t := t, ph := 0, code := 0 }
    r.chunks.all fun c => !s.moving g c.1 c.2

/-- An ATTN waits for the KV_APPENDs before it in program order (R133). -/
def State.appendsDone (s : State) (x : TileX) (i : Nat) : Bool :=
  let d := s.plan.desc i
  dOpc d != opAttn || x.queue.all fun q =>
    let e := s.plan.desc q.desc
    !(decide (q.desc < i) && dOpc e == opKvAppend && dHb e == dHb d && kaTab e == atPagetab d)

/-- A held output's accumulators are kept (R112). -/
def State.accFree (s : State) (x : TileX) (d : List Nat) : Bool :=
  (dOpc d != opMatmul && dOpc d != opLora) ||
    x.held.all fun h => (accBlocks (s.plan.desc h.desc)).all fun b => !(accBlocks d).contains b

/-- A MATMUL of streamed weights waits for its layer's fetch (R255, R256). -/
def State.weightsHere (s : State) (n : Nat) (d : List Nat) : Bool :=
  dOpc d != opMatmul || !s.plan.streamedAt (fld64 d 0x50) ||
    (let h := tgetD s.wts.halves (s.plan.halfOf (dLayer d)) {}
     h.layer == some (dLayer d) && h.step == n && h.fetched)

/-- References still to be made go before younger vector work, and a checker's blocks before its own array's (R112, R359). -/
def State.checksFirst (s : State) (l : Nat) (x : TileX) (i unit : Nat) : Bool :=
  let d := s.plan.desc i
  let vector := unit == 1 || dOpc d == opAttn
  let refs := x.held.any fun h => decide (h.desc < i) && h.strip.any (fun b => b.2.isEmpty) && !x.queue.any fun q => q.desc == h.desc
  (vector && refs) || (unit == 0 && s.tiles.shadowPending.any fun j => j.checker == l)

/-- The units that a descriptor takes are free. -/
def TileX.free (x : TileX) (d : List Nat) : Bool :=
  (x.unit (dUnit d)).isNone && (dOpc d != opAttn || x.vector.isNone)

def State.ready (s : State) (l i : Nat) : Bool :=
  let x := s.tileX l
  let d := s.plan.desc i
  match s.step? x.step with
  | none => false
  | some t =>
    x.free d && (s.inputs l x.phase i).all (fun e => decide (e.2 ≤ (s.chan e.1).marks)) &&
      s.creditHere l x.step x.phase i 0 && s.creditHere l x.step x.phase i 1 && s.chunksStill t d && s.appendsDone x i &&
      s.accFree x d && s.weightsHere x.step d && !s.checksFirst l x i (dUnit d)

/-! ### A step's and a phase's entry (R54) -/

/-- Excess of a phase over the ATTN budgets of its half-batches (R143), in nanoseconds. -/
def State.excessNs (s : State) (t : Step) (ph : Nat) : Nat :=
  if ph = 0 ∨ ph = s.plan.postPhase then 0 else
    let as_ := s.plan.attns s.adp.perHb
    listSum ([(0, t.hb0), (1, t.hb1)].map fun h =>
      let sums := (h.2.rows.zip h.2.recs).foldl (fun a e => addCosts a (attnCosts as_ h.1 t.verify e.2.kvLen e.1.rows)) []
      cyclesNs (layerExcess as_ h.1 sums (ph - 1)))

/-- The extensions of a step's layers, counted for the group of each layer's ATTN. -/
def State.countOver (s : State) (t : Step) : State :=
  (List.range s.plan.nLayers).foldl (fun (a : State) l =>
    let ns := a.excessNs t (phaseOfLayer l)
    let g := (a.plan.attnOf l).elim 0 fun d => a.plan.groupOfTab (atPagetab d)
    a.stall ctAttnOver g ns l 0 0 t.seq) s

/-- The first step under a new weights generation ends every promotion and empties the read cache (R116, R176); otherwise the
promotions heard of since the last step take effect. -/
def State.takePromotions (s : State) : State :=
  if s.wts.curGen ≠ s.steps.lastGen then
    let s1 := s.onSrv fun v => { v with
      sessions := v.sessions.map (fun e => (e.1, { e.2 with promo := [] })), promoCounts := [], promoNext := [] }
    (s1.onFab fun f => { f with cache := [] }).onSteps fun x => { x with lastGen := s.wts.curGen }
  else
    (s.srv.promoNext.foldl (fun (a : State) e => a.modSess e.1 fun y => { y with promo := addNew y.promo e.2 }) s).onSrv
      fun v => { v with promoNext := [] }

/-- Dispatch records that no later step can still look back to. -/
def State.pruneDisp (s : State) (n : Nat) : State :=
  s.onFab fun f => { f with disp := f.disp.filter fun r => !(f.disp.any fun q =>
    q.layer == r.layer && q.hb == r.hb && decide (r.step < q.step ∧ q.step + 2 ≤ n)) }

/-- A step enters PRE: it captures its generations and settings. -/
def State.enterStep (s : State) (t : Step) : State :=
  let s1 := (s.modStep t.seq fun u => { u with
    entered := true, wGen := s.wts.curGen, pGen := s.plan.planGen, cGen := s.cfg.gen, cfg := s.cfg.run }).onSteps fun x =>
      { x with lastEntered := t.seq }
  let s2 := (s1.takePromotions).onPwr fun p => { p with prefs := p.prefsNext }
  let s3 := if t.seq % 1024 != 0 then s2 else
    s2.onMem fun m => { m with pages := m.pages.map fun e => (e.1, { e.2 with access := 0 }) }
  (s3.pruneDisp t.seq).countOver t

/-- The first descriptor of a phase on the module enters it: the C-dies' budget is shared (R332). -/
def State.enterPhase (s : State) (l n ph : Nat) : State :=
  match s.step? n with
  | none => s
  | some t =>
    if (tget t.enteredNs ph).isSome then s else
      let s1 := if t.entered then s else s.enterStep t
      ((s1.modStep n fun u => { u with enteredNs := tset u.enteredNs ph s.now }).traceRec trPhaseEnter (s.plan.layerCode ph)
        l 0 n 0).shareBudget ph

/-! ### The start of an operator -/

/-- The number by which a descriptor's reads are known. -/
def readerId (l i : Nat) : Nat := l * 2 ^ 32 + i

/-- Marks subtracted and the spaces that they filled taken; credits subtracted, or space given on this module. -/
def State.subtract (s : State) (l ph i : Nat) : State :=
  let d := s.plan.desc i
  let s1 := (s.inputs l ph i).foldl (fun (a : State) e =>
    (a.modChan e.1 fun c => { c with marks := c.marks - e.2 }).onTiles fun t => { t with
      full := takeSpaces e.1 (readerId l i) t.full e.2 }) s
  [0, 1].foldl (fun (a : State) j =>
    let t := dDest d j
    if a.remoteCredit l ph i j then a.modChan (tileChan l (dOutCh d j)) fun c => { c with credits := c.credits - dOutCred d j }
    else if dOutCred d j = 0 || t.kind = 0 || a.isReturn l ph i t || dOpc d = opFabricRed || !a.destHere t then a
    else a.reserve (a.destChan t) (a.destAddr t 0) (dOutCred d j)) s1

/-- The groups of a chain at its first run: a tile with none runs once with no row. The current group's rows are staged. -/
def State.stageRun (s : State) (l ph i : Nat) : State :=
  let d := s.plan.desc i
  let h := dHb d
  if s.plan.chainFirst ph l h != some i then s else
    let s1 := if (tget (s.tileX l).chain h).isSome then s else
      let gs := s.groupsOf l (dLayer d) h (mmM d)
      s.modTile l fun x => { x with chain := tset x.chain h (if gs.isEmpty then [[]] else gs) }
    s1.stage l (dLayer d) h d (s1.chainGroup l h)

/-- A COMBINE's slack: from its other inputs to its returns (R334). -/
def State.noteSlack (s : State) (l ph i : Nat) : State :=
  let d := s.plan.desc i
  if dOpc d != opCombine then s else
    let k := tileChan l (s.plan.dchExp (dLayer d) (dHb d))
    let t0 := ((s.step? (s.tileX l).step).bind fun t => tget t.enteredNs ph).getD s.now
    let own := ((s.inputs l ph i).filter fun e => e.1 != k).foldl (fun m e => max m (s.chan e.1).lastNs) t0
    s.onPwr fun p => { p with slackSum := p.slackSum + ((s.chan k).lastNs - own) }

/-- An operator starts. -/
def State.startDesc (s : State) (l i : Nat) : State :=
  let x := s.tileX l
  let d := s.plan.desc i
  let s1 := ((s.enterPhase l x.step x.phase).noteSlack l x.phase i).subtract l x.phase i
  let s2 := s1.modTile l fun y =>
    let z := { y with queue := y.queue.map fun (q : QEnt) => if q.desc = i then { q with started := true } else q }
    let w := z.setUnit (dUnit d) (some i)
    if dOpc d = opAttn then { w with vector := some i } else w
  (s2.stageRun l x.phase i).traceRec trDescStart (s.plan.layerCode x.phase) l i x.step 0

/-- The oldest ready descriptor of a unit that is free. -/
def State.startOn (s : State) (l unit : Nat) : State :=
  let x := s.tileX l
  if (x.unit unit).isSome then s else
    match x.queue.find? fun q => !q.started && dUnit (s.plan.desc q.desc) == unit && s.ready l q.desc with
    | none => s
    | some q => s.startDesc l q.desc

/-- Tiles run operators in S0 alone, on physical tiles that are in service. -/
def State.tileRuns (s : State) (l : Nat) : Bool :=
  s.wts.main.isSome && s.pwr.state == .s0 && !s.tested l && !s.unitOut (tileUnit (s.ptileOf l)) && !s.tiles.depleted.contains l

/-- DESCRIPTOR_START: a tile that is between phases takes its next program, and each free unit starts its oldest ready
descriptor. -/
def execDescriptorStart (tile : Nat) (s : State) : Ret :=
  .next (if !s.tileRuns tile then s else [0, 1, 2].foldl (fun (a : State) u => a.startOn tile u) (s.takeProgram tile))

/-! ### Completion -/

/-- The marks of an output on this module, a mark for each block; another module raises those of what it lands. -/
def State.raiseMarks (s : State) (l n ph i : Nat) : State :=
  let d := s.plan.desc i
  (outsUsed d).foldl (fun (a : State) j =>
    let t := dDest d j
    let k := inBlocks (a.outBytes ph d t)
    if k = 0 || a.isReturn l ph i t || !a.destHere t then a
    else (a.fillSpace (a.destChan t) (a.destAddr t 0) k a.index).addMarks (a.destChan t) k n) s

/-- A chain's run of a group is over when none of its descriptors is left: the next group's run is read in, or the chain is
complete. -/
def State.advanceChain (s : State) (l i : Nat) : State :=
  let x := s.tileX l
  let h := dHb (s.plan.desc i)
  let ds := s.plan.chainDescs x.phase l h
  let left := x.queue.any (fun q => ds.contains q.desc) || x.toRead.any (fun q => ds.contains q) ||
    x.held.any fun q => ds.contains q.desc
  if !s.plan.inChain x.phase l i || left then s else
    let rest := (tgetD x.chain h []).drop 1
    let s1 := s.modTile l fun y => { y with chain := tset y.chain h rest }
    if rest.isEmpty then s1.chainDone l x.step (dLayer (s.plan.desc i)) h
    else s1.modTile l fun y => ({ y with toRead := ds ++ y.toRead } : TileX).refill

/-- An output is out: its marks, the space that its operator read, and its chain. -/
def State.finishDesc (s : State) (l n ph i : Nat) : State :=
  ((s.raiseMarks l n ph i).freeReads (readerId l i) n).advanceChain l i

/-- The descriptor that a unit runs is done: its entry and its units are free. -/
def TileX.retire (x : TileX) (i : Nat) : TileX :=
  let clear (u : Option Nat) : Option Nat := if u = some i then none else u
  ({ x with queue := x.queue.filter fun q => !(q.desc == i && q.started)
            array := clear x.array, vector := clear x.vector, mover := clear x.mover } : TileX).refill

/-- DESCRIPTOR_COMPLETE: a held output is sent when its judges have settled it (R112, R360). -/
def execDescriptorComplete (tile unit : Nat) (s : State) : Ret :=
  .next (let x := s.tileX tile
    match x.unit unit with
    | none => s
    | some i =>
      if !x.queue.any fun q => q.desc == i && q.started && q.executed then s else
        let s1 := (s.modTile tile fun y => y.retire i).traceRec trDescDone (s.plan.layerCode x.phase) tile i x.step 0
        if x.held.any fun h => h.desc == i then s1 else s1.finishDesc tile x.step x.phase i)

/-! ### Held outputs -/

/-- The run whose output is held. -/
def State.heldRun (s : State) (l : Nat) (h : Held) : Option Run :=
  let x := s.tileX l
  (s.step? x.step).map fun t =>
    { tile := l, idx := h.desc, d := s.plan.desc h.desc, t := t, ph := x.phase, code := s.plan.layerCode x.phase }

/-- A held output is sent. -/
def State.release (s : State) (r : Run) (h : Held) : State :=
  let s1 := (s.mmSend r h.rows).modTile r.tile fun x => { x with held := x.held.filter fun q => q.desc != h.desc }
  s1.finishDesc r.tile r.t.seq r.ph r.idx

def State.putHeld (s : State) (l : Nat) (h : Held) : State :=
  s.modTile l fun x => { x with held := x.held.map fun q => if q.desc = h.desc then h else q }

/-! ### Phase boundaries (R53, R54) -/

/-- A tile has no more work in a step. -/
def State.tileDone (s : State) (l n : Nat) : Bool :=
  let x := s.tileX l
  decide (n < x.step) || (x.step == n && x.phaseDone && (s.plan.workFrom l (x.phase + 1)).isNone)

/-- The step has left a phase on the module. -/
def State.leavePhase (s : State) (l n ph : Nat) : State :=
  if s.leftPhase n ph || !(s.plan.phaseTiles ph).all (fun t => (s.tileX t).past n ph) then s else
    (s.modStep n fun u => { u with leftNs := tset u.leftNs ph s.now }).traceRec trPhaseLeave (s.plan.layerCode ph) l 0 n 0

/-- The step has left POST on the module: its stall goes to the lead (R258), and what it held is let go. -/
def State.leaveStep (s : State) (n : Nat) : State :=
  if s.left n || !s.plan.workTiles.all (fun l => s.tileDone l n) then s else
    let s1 := (s.modStep n fun u => { u with leftPost := true }).onSteps fun x => { x with
      leftUpTo := max x.leftUpTo n, stalls := [] }
    let s2 := (s1.learnStep).onPwr fun p => { p with slackSteps := p.slackSteps + 1 }
    let s3 := s2.onTiles fun t => { t with
      a8Rows := t.a8Rows.filter (fun e => e.1 / 1024 != n), reserveMet := t.reserveMet.filter fun k => k / 1024 != n }
    let stall := min (listSum (tvals s.steps.stalls)) (2 ^ 32 - 1)
    let cause := (s.steps.stalls.foldl (fun (b : Nat × Nat) e => if b.2 < e.2 then e else b) (0, 0)).1
    let s4 := if s3.isLead then s3.noteReport s3.index n stall cause
      else s3.sendLead mStepReport 0 n [le 4 stall ++ le 4 cause ++ zeros 8]
    (s4.pruneSteps).takeNext

/-- The first channel of a tile whose count is not zero. -/
def State.residue (s : State) (l : Nat) : Option Nat :=
  ((List.range 64).map (tileChan l)).find? fun k => (s.chan k).marks != 0 || (s.chan k).credits != 0

/-- PHASE_BOUNDARY: a tile that has completed its descriptors of a phase; counts left are a fault (R30), and causes for a swap are
settled (R34). -/
def execPhaseBoundary (tile : Nat) (s : State) : Ret :=
  .next (let x := s.tileX tile
    if x.phaseDone || !x.queue.isEmpty || !x.toRead.isEmpty || !x.held.isEmpty then s else
      match s.residue tile with
      | some k => s.noteState (s.chanFault fltMarkResidue k x.step (some (s.plan.layerCode x.phase)))
      | none =>
        let s1 := (s.modTile tile fun y => { y with phaseDone := true }).onTiles fun t => { t with
          full := t.full.filter fun f => chanTile f.chan != some tile }
        s.noteState (((s1.boundary tile).leavePhase tile x.step x.phase).leaveStep x.step))

/-! ### Time limits -/

/-- Reserved time of a phase of a step with its extension. -/
def State.reservedNs (s : State) (t : Step) (ph : Nat) : Nat := s.plan.resNs ph + s.excessNs t ph

/-- MOE_RESERVE_EXPIRY. -/
def execMoeReserveExpiry (s : State) : Ret :=
  .next (
    let due := s.steps.live.flatMap fun t => (List.range s.plan.nLayers).filterMap fun l =>
      match tget t.enteredNs (phaseOfLayer l) with
      | some t0 => if layerKind (s.plan.layer l) = 1 ∧ t0 + s.reservedNs t (phaseOfLayer l) ≤ s.now then some (a8Key t.seq l) else none
      | none => none
    s.onTiles fun t => { t with reserveMet := due.foldl addNew t.reserveMet })

/-- The channel that an unstarted descriptor waits for: the first that lacks marks, else an output's. -/
def State.lacking (s : State) (l ph i : Nat) : Nat :=
  let d := s.plan.desc i
  match (s.inputs l ph i).find? fun e => decide ((s.chan e.1).marks < e.2) with
  | some e => e.1
  | none => tileChan l (dOutCh d (if s.creditHere l (s.tileX l).step ph i 0 then 1 else 0))

/-- MARK_TIMEOUT: measured from the phase's entry on the module, or from its last replay (R55, R361). -/
def execMarkTimeout (tile : Nat) (s : State) : Ret :=
  .next (let x := s.tileX tile
    match x.queue.find? (fun q => !q.started), s.step? x.step with
    | some q, some t =>
      match (match tget t.replayNs x.phase with
        | some a => some a
        | none => tget t.enteredNs x.phase) with
      | none => s
      | some t0 =>
        if s.now ≤ t0 + s.reservedNs t x.phase + 100000 then s
        else s.noteState (s.chanFault fltMarkTimeout (s.lacking tile x.phase q.desc) x.step (some (s.plan.layerCode x.phase)))
    | _, _ => s)

/-! ### A grant's data move is done (R132) -/

/-- GRANT_MOVE_DONE: descriptors that waited for the chunk are ready; a FIX_WINDOW may let the chunk into the contact sheet. -/
def execGrantMoveDone (group session chunk : Nat) (s : State) : Ret :=
  .next (match s.kv.moves.find? fun m => m.group == group && m.session == session % 4096 && m.chunk == chunk with
  | none => s
  | some m =>
    let waits (l : Nat) : Bool :=
      let x := s.tileX l
      x.queue.any fun q => !q.started && (match s.step? x.step with
        | none => false
        | some t => !s.chunksStill t (s.plan.desc q.desc))
    let s1 := s.finishMove m
    let s2 := match ((tkeys s.tiles.x).filter waits).head? with
      | none => s1
      | some l =>
        let x := s.tileX l
        let t0 := ((s.step? x.step).bind fun t => tget t.enteredNs x.phase).getD s.now
        s1.stall ctKvGrant group (s.now - max m.startNs t0) (s.plan.layerCode x.phase) l 0 x.step
    if m.action = gFix && s2.isLead then
      match s2.sess? m.session with
      | some y => s2.csInsert m.session (y.kvLen / 64 + 1)
      | none => s2
    else s2)

end Sys2Proof.Machine
end

