-- ==== Sys2Proof/Machine/Firmware.lean ====
section
/-! DEFINITION. Firmware banks and field update (R412 to R422): bundle headers and bodies, activation in its three modes, the
live handover, trials and their ends, and the DMA reads of firmware and shard parts. -/

namespace Sys2Proof.Machine

open Sys2Proof

/-! ### Bundles -/

def BankState.code : BankState → Nat
  | .empty => 0 | .writing => 1 | .staged => 2 | .trial => 3 | .active => 4 | .failed => 5

/-- FW_VERSION of a bank's bundle; zero where it is EMPTY. The shipped bundle has no header here (log entry 40). -/
def Bank.version (b : Bank) : Nat :=
  if b.state == .empty then 0 else if b.header.isEmpty then Config.fwVersion.toNat else rd 4 b.header 8

/-- The lowest of a bundle's three SVNs. -/
def Bank.lowSvn (b : Bank) : Nat :=
  if b.header.isEmpty then
    min (Config.shippedSvn 0).toNat (min (Config.shippedSvn 1).toNat (Config.shippedSvn 2).toNat)
  else min (rd 2 b.header 0x0C) (min (rd 2 b.header 0x0E) (rd 2 b.header 0x10))

/-- The bank in a state, A before B. -/
def State.bankIn (s : State) (x : BankState) : Option Bool :=
  if s.fw.bankA.state == x then some false else if s.fw.bankB.state == x then some true else none

/-- The bank that is neither ACTIVE nor TRIAL: the one that ACTIVE_BANK does not name (log entry 94). -/
def State.inactiveBank (s : State) : Bool := !s.fw.activeB

/-! ### OP_FW_HEADER and OP_FW_CHUNK (R415, R416) -/

/-- OP_FW_HEADER. -/
def execOpFwHeader (q : Req) (s : State) : Ret :=
  .next (s.runOp q 0x0801 allPayloads (fun _ c => lenIs c 512) fun s c =>
    s.objAct 0x0801 objFirmware (match s.headerCheck c.pay with
      | some (st, off) => .refuse st (payOff off)
      | none =>
        if (s.bankIn .trial).isSome then .refuse stStateDenied 0
        else
          let b := s.inactiveBank
          let s1 := s.putBank b { state := .writing, header := c.pay }
          .done (s1.onFw fun f => { f with trialBank := if f.trialBank = some b then none else f.trialBank })
            stOk 0 (le 4 (b2n b))))

/-- Checks 5 and 6 of OP_FW_CHUNK. -/
def fwChunkChecks (s : State) (c : Cmd) : List (Bool × Nat × Nat) :=
  let dma := bitOf (rd 4 c.pay 0) 0
  let n := rd 2 c.pay 4
  let off := rd 4 c.pay 8
  let part := rd 4 c.pay 12
  let image := match s.bankIn .writing with
    | some b => rd 4 (s.bank b).header 0x20
    | none => off + part
  let rs := (List.range n).map fun i => (rd 8 c.pay (0x40 + 16 * i), rd 4 c.pay (0x48 + 16 * i), rd 4 c.pay (0x4C + 16 * i))
  [ (decide (c.hdr.payloadLen < 0x40), stLenRange, 0x0C),
    (if dma then n == 0 || decide (248 < n) else n != 0, stLenRange, payOff 4),
    (!dma && (decide (part < 64) || decide (3968 < part)), stLenRange, payOff 12) ] ++
  lenIs c (0x40 + (if dma then 16 * n else part)) ++
  [ (part % 64 != 0, stLenRange, payOff 12),
    (dma && rs.any (fun r => r.2.1 == 0 || r.2.1 % 4096 != 0 || decide (2 ^ 30 < r.2.1)), stLenRange, payOff 0x48),
    (dma && listSum (rs.map (·.2.1)) != part, stLenRange, payOff 12),
    (decide (image < off + part), stLenRange, payOff 12),
    (decide (2 ≤ rd 4 c.pay 0), stFieldRange, payOff 0),
    (rd 2 c.pay 6 != 0, stFieldRange, payOff 6),
    (off % 64 != 0, stFieldRange, payOff 8),
    (!allZero (cut c.pay 0x10 48), stFieldRange, payOff 0x10),
    (dma && rs.any (fun r => r.1 % 4096 != 0), stFieldRange, payOff 0x40),
    (dma && rs.any (fun r => r.2.2 != 0), stFieldRange, payOff 0x4C) ]

/-- Body bytes programmed: those that complete the body bring the digest's verdict. The state after, and the status. -/
def State.fwPart (s : State) (b : Bool) (off : Nat) (bytes : Bytes) : State × Nat :=
  let x := s.bank b
  let y := { x with parts := x.parts ++ [(off, bytes)] }
  if covered (rd 4 x.header 0x20) y.parts then
    if sha384 y.body == cut x.header 0x40 48 then
      ((s.putBank b { y with state := .staged }).event evFwStaged noUnit (b2n b) y.version, stOk)
    else (s.putBank b { y with state := .failed }, stDigestMismatch)
  else (s.putBank b y, stOk)

def State.fwChunkBytes (s : State) (b : Bool) (n : Nat) : Bytes := le 4 n ++ le 4 (s.bank b).state.code

/-- OP_FW_CHUNK. -/
def execOpFwChunk (q : Req) (s : State) : Ret :=
  .next (s.runOp q 0x0802 allPayloads fwChunkChecks fun s c =>
    let off := rd 4 c.pay 8
    let part := rd 4 c.pay 12
    match s.bankIn .writing with
    | none => .refuse stStateDenied 0
    | some b =>
      if bitOf (rd 4 c.pay 0) 0 then
        if c.port != .h then .refuse stPortDenied (payOff 0)
        else s.objAct 0x0802 objFirmware (.long s objFirmware [off, part, b2n b] [])
      else s.objAct 0x0802 objFirmware (
        let r := s.fwPart b off (cut c.pay 0x40 part)
        .done r.1 r.2 0 (r.1.fwChunkBytes b part)))

/-- The DMA read of a firmware part ends. -/
def State.fwDmaDone (s : State) (r : Running) (result : Nat ⊕ Bytes) : State :=
  let b := r.args.getD 2 0 == 1
  let len := r.args.getD 1 0
  if (s.bank b).state != .writing then s.finishRun r stStateDenied 0 []
  else match result with
    | .inl i => s.finishRun r stInternal i []
    | .inr x =>
      let o := s.fwPart b (r.args.getD 0 0) (fit len x)
      o.1.finishRun r o.2 0 (o.1.fwChunkBytes b len)

/-- DMA_READ_DONE: of a shard-write part or a firmware part, also where its host slot was reset meanwhile (R290). -/
def execDmaReadDone (port : MPort) (slot : Nat) (result : Nat ⊕ Bytes) (s : State) : Ret :=
  .next (match s.mbox.running.find? (fun r => r.port == port && r.slot == slot &&
      (r.opcode == 0x0202 || r.opcode == 0x0802)) with
  | none => s
  | some r => if r.opcode == 0x0202 then s.shardDmaDone r result else s.fwDmaDone r result)

/-! ### Activation (R417) -/

def modeIs (n : Nat) (c : Cmd) : Bool := c.hdr.payloadLen != 8 || rd 4 c.pay 0 == n || decide (2 < rd 4 c.pay 0)

def activateChecks (_ : State) (c : Cmd) : List (Bool × Nat × Nat) :=
  let t := rd 2 c.pay 4
  lenIs c 8 ++
    [ (decide (2 < rd 4 c.pay 0), stFieldRange, payOff 0),
      (t != 0 && (decide (t < 60) || decide (3600 < t)), stFieldRange, payOff 4),
      (rd 2 c.pay 6 != 0, stFieldRange, payOff 6) ]

def confirmS (c : Cmd) : Nat := if rd 2 c.pay 4 = 0 then 600 else rd 2 c.pay 4

/-- TRIAL_BANK, TRIAL_STARTS and the trial window set by an activation. -/
def State.setTrial (s : State) (b : Bool) (window : Nat) : State :=
  s.onFw fun f => { f with trialBank := some b, trialStarts := 3, trialConfirmS := window }

/-- EV_FW_ACTIVATED: the bank and MODE, and the bundle's version. -/
def State.activated (s : State) (b : Bool) (mode : Nat) : State :=
  s.event evFwActivated noUnit (b2n b + 256 * mode) (s.bank b).version

def State.activateBytes (s : State) (b : Bool) (blackoutUs : Nat) : Bytes := le 4 (s.bank b).version ++ le 4 blackoutUs

/-- OP_FW_ACTIVATE, MODE AT_RESET. -/
def execFwActivateAtReset (q : Req) (s : State) : Ret :=
  .next (s.runOp q 0x0803 (modeIs 0) activateChecks fun s c =>
    match s.bankIn .staged with
    | none => .refuse stStateDenied 0
    | some b => s.objAct 0x0803 objFirmware
        (.done ((s.setTrial b (confirmS c)).activated b 0) stOk 0 (s.activateBytes b 0)))

/-- OP_FW_ACTIVATE, MODE WARM: the reset follows 10 ms after its completion. -/
def execFwActivateWarm (q : Req) (s : State) : Ret :=
  .next (s.runOp q 0x0803 (modeIs 1) activateChecks fun s c =>
    match s.bankIn .staged with
    | none => .refuse stStateDenied 0
    | some b =>
      if s.sliceBusy then .refuse stStateDenied 0
      else s.objAct 0x0803 objFirmware
        (.done (((s.setTrial b (confirmS c)).activated b 1).onMbox fun m =>
          { m with warmResetAt := some (s.now + 10000000) }) stOk 0 (s.activateBytes b 0)))

/-- Whether the bundle's link protocol is accepted with every card that a trained port has (Tables 13.4 and 13.9). -/
def State.linksAccept (s : State) (b : Bool) : Bool :=
  let h := (s.bank b).header
  allPorts.all fun p => !(s.portX p).trained || (match (s.portX p).card with
    | none => true
    | some c =>
      if h.isEmpty then cdMajor c == 1 && Config.linkMinorMin.toNat ≤ cdMinor c && cdMinorMin c ≤ Config.linkMinor.toNat
      else cdMajor c == byteAt h 0x14 && byteAt h 0x16 ≤ cdMinor c && cdMinorMin c ≤ byteAt h 0x15)

/-- Whether L2 of the bundle takes over live: its handover block and the lowest version it takes over from. -/
def State.handsOver (s : State) (b : Bool) : Bool :=
  let h := (s.bank b).header
  if h.isEmpty then s.handoverAbi == Config.handoverAbi.toNat
  else rd 2 h 0x18 == s.handoverAbi && rd 4 h 0x1C ≤ s.fwVersion

/-- Another module of the slice in handover or on trial. No message of the spec tells a module of it: a free value (log entry
95). -/
def State.otherInTrial (s : State) : Bool :=
  s.wts.main.isSome && !s.others.isEmpty && Config.unstated 41 [s.freeCtr] % 2 == 1

/-- OP_FW_ACTIVATE, MODE LIVE: the handover begins. -/
def execFwActivateLive (q : Req) (s : State) : Ret :=
  .next (s.runOp q 0x0803 (modeIs 2) activateChecks fun s c =>
    match s.bankIn .staged with
    | none => .refuse stStateDenied 0
    | some b =>
      if s.pwr.state != .s0 then .refuse stStateDenied 0
      else if !s.handsOver b || !s.linksAccept b then .refuse stVersion 0
      else if s.otherInTrial || s.srv.held then .refuse stBusy 0
      else s.objAct 0x0803 objFirmware
        (.long (((s.setTrial b (confirmS c)).drawn).onFw fun f =>
          { f with handover := some { port := c.port, slot := c.slot, bank := b, mode := 2
                                      blackoutNs := none, back := false } }) objFirmware [] []))

/-! ### The live handover (R418) -/

/-- Whether the blackout may start: no step in flight before its end on the module, and no other command running. -/
def State.quiet (s : State) (h : Handover) : Bool :=
  s.steps.live.all (·.leftPost) && s.mbox.running.all fun r => !h.back && r.port == h.port && r.slot == h.slot

/-- The blackout starts: READY falls, and neither image runs. -/
def execHandoverBlackout (s : State) : Ret :=
  .next (match s.fw.handover with
  | none => s
  | some h =>
    if h.blackoutNs.isSome || !s.quiet h then s
    else s.noteState ((s.onMbox fun m => { m with ready := false }).onFw fun f =>
      { f with handover := some { h with blackoutNs := some s.now } }))

/-- The new L2 runs: READY, LAST_RESET 5, resynchronised transports, and the command's end; the trial starts. A hand back
brings the old L2 again. -/
def execHandoverDone (s : State) : Ret :=
  .next (match s.fw.handover.bind (fun h => h.blackoutNs.map fun t => (h, t)) with
  | none => s
  | some (h, t0) =>
    let s1 := (s.onMbox fun m => { m with ready := true, lastReset := 5 }).onSec fun c =>
      { c with resync := [.doe, .mctp0, .mctp1], spdm := [] }
    let s2 := s1.onClock fun c => { c with heartbeatNs := s.now }
    let s3 := if h.back then s2.onFw fun f => { f with runningB := h.bank, handover := none }
      else
        let a := s2.putBank h.bank { s2.bank h.bank with state := .trial }
        let b := a.onFw fun f => { f with runningB := h.bank, handover := none, trialFromNs := some s.now, trialLive := true }
        (b.activated h.bank 2).finishAt h.port h.slot stOk 0 (b.activateBytes h.bank ((s.now - t0) / 1000))
    s3.raiseIrq irqState)

/-! ### Trials (R419) -/

/-- OP_HEALTH_CONFIRM: the trial bank becomes ACTIVE, the old one STAGED; a migrated configuration goes to flash (R422). -/
def execOpHealthConfirm (q : Req) (s : State) : Ret :=
  .next (s.runOp q 0x0804 allPayloads (fun _ c => lenIs c 4 ++ [(decide (1 < rd 4 c.pay 0), stFieldRange, payOff 0)])
    fun s c =>
    match s.fw.trialBank with
    | none => .refuse stStateDenied 0
    | some b =>
      if s.fw.trialFromNs.isNone then .refuse stStateDenied 0 else
        let s1 := (s.putBank b { s.bank b with state := .active }).putBank (!b)
          { s.bank (!b) with state := if (s.bank (!b)).state == .active then .staged else (s.bank (!b)).state }
        let low := (s.bank b).lowSvn
        let s2 := s1.onFw fun f => { f with
          activeB := b, trialBank := none, trialFromNs := none, trialLive := false
          minSvn := if rd 4 c.pay 0 = 1 then max f.minSvn low else f.minSvn }
        let s3 := if s2.cfg.migrated then (s2.writeConfig).onCfg fun g => { g with migrated := false } else s2
        .done (s3.event evFwConfirmed noUnit) stOk 0 (le 4 s3.fw.minSvn))

/-- A WARM reset into the old bank that waits for the slice (Table 13.11): at once where the slice allows it. -/
def State.fallbackReset (s : State) : State :=
  if s.fw.fallbackDue && s.sliceIdle then (s.onFw fun f => { f with fallbackDue := false }).warmReset 2 else s

/-- A fallback: the trial bank is FAILED; a live trial is handed back live, another one ends by a WARM reset, whose moment its
caller settles. -/
def State.fallBack (s : State) (trigger : Nat) : State :=
  match s.fw.trialBank with
  | none => s
  | some b =>
    let live := s.fw.trialLive
    let s1 := (s.putBank b { s.bank b with state := .failed }).onFw fun f => { f with
      trialBank := none, trialFromNs := none, trialLive := false, fallbackDue := !live
      handover := if live then some { port := .m, slot := 0, bank := !b, mode := 2, blackoutNs := none
                                      back := true } else f.handover }
    s1.fault fltFwFallback noUnit { args := [trigger] }

/-- TRIAL_WINDOW_EXPIRY: a trial that nobody confirmed falls back; a fallback that waits for the slice takes place. -/
def execTrialWindowExpiry (s : State) : Ret :=
  .next (match s.fw.trialFromNs with
  | some t => if t + s.fw.trialConfirmS * 1000000000 ≤ s.now then (s.fallBack 1).fallbackReset else s
  | none => s.fallbackReset)

/-- HEARTBEAT_WATCHDOG: HEARTBEAT still for 2 s. A trial bank falls back; a running slice halts hard (Table 13.11). -/
def execHeartbeatWatchdog (s : State) : Ret :=
  .next (if s.l2Up && !s.fw.safelight && !(s.fw.handover.any fun h => h.blackoutNs.isSome) &&
      s.clock.heartbeatNs + 2000000000 ≤ s.now then
    let s1 := if s.sliceBusy then s.hardHalt else s
    let s2 := s1.fault fltFwWatchdog
    ((if s2.fw.trialFromNs.isSome then s2.fallBack 3 else s2).onFw fun f =>
      { f with fallbackDue := false, handover := none }).warmReset 2
  else s)

/-- OP_FW_ABORT's completion. -/
def State.fwBytes (s : State) : Bytes :=
  let f := s.fw
  let left := match f.trialFromNs with
    | some t => f.trialConfirmS - (s.now - t) / 1000000000
    | none => 0
  le 4 (f.bankA.state.code + 8 * f.bankB.state.code + 64 * b2n f.activeB + 128 * b2n (f.trialBank.getD false) +
    256 * b2n f.trialFromNs.isSome) ++ le 4 left ++ le 4 f.bankA.version ++ le 4 f.bankB.version

/-- A WRITING or STAGED bank emptied. -/
def State.emptyBank (s : State) : State :=
  match s.bankIn .writing, s.bankIn .staged with
  | some b, _ => s.putBank b {}
  | none, some b => (s.putBank b {}).onFw fun f => { f with trialBank := if f.trialBank = some b then none else f.trialBank }
  | none, none => s

/-- OP_FW_ABORT: a query, the emptying of a bank, or the fallback of a trial. A WARM reset that it brings follows its
completion. -/
def execOpFwAbort (q : Req) (s : State) : Ret :=
  .next (s.runOpThen q 0x0805 allPayloads (fun _ c => lenIs c 4 ++ [(decide (1 < rd 4 c.pay 0), stFieldRange, payOff 0)])
    (fun s c =>
    if rd 4 c.pay 0 = 1 then .done s stOk 0 s.fwBytes
    else s.objAct 0x0805 objFirmware (
      let s1 := if s.fw.trialFromNs.isSome then s.fallBack 2 else s.emptyBank
      .done s1 stOk 0 s1.fwBytes)) State.fallbackReset)

/-- SCHEDULED_WARM_RESET: 10 ms after a lifecycle transition or a WARM activation; or a fallback's reset once the slice has
left its states (log entry 96). -/
def execScheduledWarmReset (s : State) : Ret :=
  .next (match s.mbox.warmResetAt with
  | some t => if t ≤ s.now then s.warmReset 2 else s
  | none => s.fallbackReset)

end Sys2Proof.Machine
end

