-- ==== Sys2Proof/Machine/Islands.lean ====
section
/-! DEFINITION. Islands and slow tiles (R31 to R33, R36): droop stretches and stops, and the slowness windows. -/

namespace Sys2Proof.Machine

open Sys2Proof

/-- Units that are islands: tiles, S-die segments, stacks and X-die blocks. -/
def isIsland (u : UnitId) : Bool := (u.kind == 1 || u.kind == 2 || u.kind == 3 || u.kind == 6) && unitExists u

/-- A 32-bit counter of an island that stays at its top (R33). -/
def State.countIsland (s : State) (ct : Nat) (u : UnitId) : State :=
  s.gauge ct (UnitId.inst u) (satTo 0xFFFFFFFF (s.counter ct (UnitId.inst u) + 1))

def State.island (s : State) (u : UnitId) : Island := tgetD s.tiles.islands (UnitId.inst u) {}

/-- A period that is nominal and runs is not listed. -/
def State.putIsland (s : State) (u : UnitId) (x : Island) : State :=
  s.onTiles fun t => { t with
    islands := if x = {} then tdel t.islands (UnitId.inst u) else tset t.islands (UnitId.inst u) x }

/-- DROOP_TRIP: a fall of 8% stops the island's clock, one of 4% stretches it; the whole stretch is sixteen sixteenths. -/
def execDroopTrip (unit : UnitId) (fallPermille : Nat) (s : State) : Ret :=
  .next (if !s.mainOn || !isIsland unit then s
  else if 80 ≤ fallPermille then (s.putIsland unit { droop16 := 16, stopped := true }).countIsland ctDroopStops unit
  else if 40 ≤ fallPermille then
    (s.putIsland unit { s.island unit with droop16 := 16 }).countIsland ctDroopStretches unit
  else s)

/-- DROOP_RECOVERY: one step of the restore: a stopped island restarts at the stretched period, another one gives back a
sixteenth of the stretch (log entry 105). -/
def execDroopRecovery (unit : UnitId) (s : State) : Ret :=
  .next (let x := s.island unit
    if x.stopped then s.putIsland unit { x with stopped := false }
    else s.putIsland unit { x with droop16 := x.droop16 - 1 })

/-- SLOWNESS_WINDOW: a mean above 1.15 times the peers' in two windows in a row makes the tile persistently slow. -/
def execSlownessWindow (tile meanNs peerMeanNs : Nat) (s : State) : Ret :=
  .next (if !s.works tile then s
  else if 115 * peerMeanNs < 100 * meanNs then
    if tgetD s.tiles.slowWindows tile 0 = 0 then s.onTiles fun t => { t with slowWindows := tset t.slowWindows tile 1 }
    else (s.onTiles fun t => { t with slowWindows := tdel t.slowWindows tile }).addCause (s.ptileOf tile) 3
  else s.onTiles fun t => { t with slowWindows := tdel t.slowWindows tile })

end Sys2Proof.Machine
end

