-- ==== Sys2Proof/Machine/Mailbox.lean ====
section
/-! DEFINITION. The identity opcodes of group 0x00 (R299), the register block's writes (R280 to R283), the transports
of ports M and D (R291, R292), and the resets of the host slots (R290). -/

namespace Sys2Proof.Machine

open Sys2Proof

/-! ### OP_IDENTIFY, OP_STATUS, OP_RIGHTS_READ (R299) -/

/-- OP_IDENTIFY: the 80 identity bytes. -/
def execOpIdentify (q : Req) (s : State) : Ret :=
  .next (s.runOp q 0x0001 allPayloads noPayload fun s _ => .done s stOk 0 s.identityBytes)

/-- OP_STATUS: Table 9.8. -/
def execOpStatus (q : Req) (s : State) : Ret :=
  .next (s.runOp q 0x0002 allPayloads noPayload fun s _ => .done s stOk 0 s.statusBytes)

/-- The OP_RIGHTS_READ completion: a 16-bit COUNT, then one 4-byte entry per opcode that the owner has narrowed, with
the ports still allowed (DEDUCED: the entries follow COUNT directly, log entry 41). -/
def State.rightsBytes (s : State) : Bytes :=
  le 2 s.sec.narrowed.length ++ s.sec.narrowed.flatMap fun e =>
    let ports := ((opInfo e.1).map OpInfo.ports).getD 0
    le 4 (e.1 + (ports &&& (7 - e.2 % 8)) * 65536)

/-- OP_RIGHTS_READ. -/
def execOpRightsRead (q : Req) (s : State) : Ret :=
  .next (s.runOp q 0x0003 allPayloads noPayload fun s _ => .done s stOk 0 s.rightsBytes)

/-! ### Resets of the host slots (R282, R290) -/

/-- The acts of R290 with their cause. READY reads 0 until the slots are zero again: both changes raise IRQ_STATE. -/
def State.resetHost (s : State) (cause : Nat) : State :=
  let s1 := (s.resetHostSlots).onMbox fun m => { m with lastReset := cause }
  if s.mbox.ready then (s1.raiseIrq irqState).raiseIrq irqState else s1

/-- RESET_KEY in [31:8] and RESET_KIND in [7:0] of BAR0 0x060. -/
def resetWord (kind : Nat) (w : Word32) : Bool := w.toNat == 0x4E5A52 * 256 + kind

/-- A write of RESET_KIND MAILBOX; without the key, or of another kind, it is ignored. -/
def execMailboxReset (word : Word32) (s : State) : Ret :=
  .next (if s.endpoint && resetWord 0x01 word then s.resetHost 3 else s)

/-- A write of RESET_KIND WARM, honoured in every lifecycle state. -/
def execWarmReset (word : Word32) (s : State) : Ret :=
  .next (if s.endpoint && resetWord 0x02 word then s.warmReset 2 else s)

/-- A function-level reset, a hot reset or a loss of the PCIe link. LAST_RESET names the first two. -/
def execPcieLinkReset (kind : PcieReset) (s : State) : Ret :=
  .next (if s.endpoint then s.resetHost (match kind with
    | .flr => 4 | .hot => 4 | .linkLoss => s.mbox.lastReset) else s)

/-! ### Registers (R280, R281) -/

/-- BAR0 0x050 is RW1C: a 1 clears the cause, a 0 leaves it. -/
def execIrqClear (word : Word32) (s : State) : Ret :=
  .next (if s.endpoint then
    s.onMbox fun m => { m with irqCause := m.irqCause &&& ~~~(word.setWidth 4) } else s)

/-- A write to a BAR0 word without behaviour of its own: IRQ_MASK and the MSI-X table store it (reserved bits of 0x054
read zero); every other address is read-only or reserved, and the write is discarded. -/
def execRegisterWrite (off : Nat) (word : Word32) (s : State) : Ret :=
  .next (if !s.endpoint then s
    else if off = 0x054 then s.onMbox fun m => { m with irqMask := word.setWidth 4 }
    else if 0x1000 ≤ off ∧ off < 0x1400 ∧ off % 4 = 0 then
      s.msixWrite ((off - 0x1000) / 4) word
    else s)

/-- A host write to a slot whose OWNER is 1: discarded whole and counted, the count staying at its top (R287). -/
def execSlotWriteDenied (slot _off : Nat) (_data : Bytes) (s : State) : Ret :=
  .next (if s.endpoint && slot < 64 && (s.slot .h slot).owner then
    s.onMbox fun m => { m with slotWriteDenied := satTo 0xFFFFFFFF (m.slotWriteDenied + 1) } else s)

/-- HEARTBEAT rises by one while the firmware runs. -/
def execHeartbeat (s : State) : Ret :=
  .next (if (s.l2Up || s.fw.safelight) && !(s.fw.handover.any fun h => h.blackoutNs.isSome) then
    s.onClock fun c => { c with heartbeat := c.heartbeat + 1, heartbeatNs := c.timeNs } else s)

/-- The silent rewrite of PROGRESS and DONE_US of a slot that holds a long command (R286). -/
def execProgressRewrite (port : MPort) (slot progress : Nat) (s : State) : Ret :=
  .next (match s.runningAt port slot with
    | some _ => s.interim port slot (progress % 65536) false
    | none => s)

/-! ### Ports M and D (R291, R292) -/

/-- A WRITE slot message: posted, refused as busy, or out of range, with its WRITE_ACK. -/
def execSlotMsgWrite (path : MPath) (slot : Nat) (image : SlotImage) (s : State) : Ret :=
  let len := bitsOf image.word0C.toNat 15 0
  .next (if !s.mbox.mServed then s
    else if 8 ≤ slot ∨ 4032 < len ∨ image.payload.length < len then s.emit (.writeAck path slot 2)
    else if (s.slot .m slot).owner then s.emit (.writeAck path slot 1)
    else (s.post .m slot { image with payload := image.payload.take len } path).emit (.writeAck path slot 0))

/-- A READ slot message: the 64-byte header and PAYLOAD_LEN payload bytes. -/
def execSlotMsgRead (path : MPath) (slot : Nat) (s : State) : Ret :=
  .next (if s.mbox.mServed && slot < 8 then
    let x := s.slot .m slot
    s.emit (.readReply path slot (x.image (min x.payloadLen 4032))) else s)

/-- A shift of the MBOX_ACCESS register: the slot is shifted out, and with WRITE the shifted-in image is posted into a
slot that the port side holds. -/
def execMboxAccess (slot : Nat) (write : Bool) (image : SlotImage) (s : State) : Ret :=
  .next (if s.pwr.state = .s5 ∨ 2 ≤ slot then s else
    let s1 := s.emit (.jtag slot ((s.slot .d slot).image 4032))
    if write then s1.post .d slot image .i3c0 else s1)

end Sys2Proof.Machine
end

