-- ==== Sys2Proof/Machine/Startup.lean ====
section
/-! DEFINITION. Start-up (R399 to R401): the cold start, the stages of Table 13.1, and what each brings: the ROM's bank
(R413), the running configuration (R315, R422), T3 (R238, R251, R434), the checker test (R356, R357), the state table
(R366), an erase that is due (R393), READY and S0 idle. -/

namespace Sys2Proof.Machine

open Sys2Proof

/-! ### Cold start -/

/-- What the standby domain held is gone: the fault store, the event ring, the export's positions and every counter (log entry
97). -/
def State.standbyLost (s : State) : State :=
  let s1 := s.onInteg fun i => { i with
    faults := [], faultSeq := 1, events := [], eventSeq := 1, series := [], receiver := none, pldmSent := none, pldmPos := 0
    collectors := [], checkerFail := 0, noStartCheckers := false, selftest := none, buckets := []
    bucketFired := [], lapWords := [], lapLate := [], lapsLate := 0 }
  let s2 := s1.onPins fun p => { p with
    stbyOk := false, thermtripN := true, leakWet := false, leakN := true, trayLeakN := true, alertN := true
    strapSampled := false, recoveryN := true, ppsEdgeNs := none, ppsLostRaised := false, coolantEvNs := none }
  s2.onCounters fun _ => []

/-- COLD_START: VSB comes within its limits, t0. -/
def execColdStart (pwrEn dimmPwrOk : Bool) (s : State) : Ret :=
  .next (if s.pwr.state != .s5 then s else
    let s1 := s.standbyLost
    let s2 := (s1.onClock fun c => { c with boot := (c.boot + 1) % 65536 }).onPins fun p =>
      { p with pwrEn := pwrEn, dimmPwrOk := dimmPwrOk }
    s.noteState (s2.startUp 0))

/-! ### The running configuration (R315, R422) -/

/-- The copies that this firmware reads: valid, and of no higher FORMAT. -/
def State.readable (s : State) (i : CfgImage) : Bool := i.valid && i.format ≤ s.cfgFormat

/-- The newest readable copy. -/
def State.cfgSource (s : State) : Option CfgImage :=
  let a := s.cfg.imageA
  let b := s.cfg.imageB
  if s.readable a && (!s.readable b || b.gen ≤ a.gen) then some a else if s.readable b then some b else none

/-- An image's entries after a migration to the running CFG_FORMAT; its table lies inside L2 (a free value). -/
def migrate (t : Tbl Bytes) : Tbl Bytes := t.map fun e => (e.1, Config.migratedValue e.1 e.2)

/-- The running configuration from an image's entries: values of unknown keys are kept aside, values out of range fall back with
EV_CFG_DEFAULTED. -/
def State.runFrom (s : State) (entries : Tbl Bytes) : State :=
  let ok (e : Nat × Bytes) : Bool := (settingRow e.1).any fun r => e.2.length == r.size && s.valueOk r e.2
  let known := entries.filter fun e => (settingRow e.1).isSome
  let s1 := s.onCfg fun c => { c with
    gen := 1, prevGen := 1, prevRun := []
    run := (known.filter ok).foldl (fun t e => tset t e.1 { value := e.2, src := 1 }) []
    unknown := entries.filter fun e => (settingRow e.1).isNone }
  (known.filter fun e => !ok e).foldl (fun a e => a.event evCfgDefaulted noUnit e.1) s1

/-- The fields that hold a setting in effect until a later event, at the running values. -/
def State.settingsInEffect (s : State) : State :=
  let s1 := s.onKv fun k => { k with csEnable := s.setN setCsEnable == 1, csNodes := s.setN setCsNodes }
  let s2 := s1.onAdp fun a => { a with storePages := s.setN setStorePages, perHb := s.setN setAdaptersPerHb }
  let s3 := s2.onFab fun f => { f with cachePages := s.setN setCachePages }
  let s4 := s3.onSrv fun v => { v with interLimit := s.setN setInterLimit }
  s4.onPwr fun p => { p with rampLimit := s4.effCap }

/-- The running configuration built at start-up. -/
def State.loadConfig (s : State) : State :=
  let s1 := match s.cfgSource with
    | none => (s.onCfg fun c => { c with
        gen := 1, prevGen := 1, prevRun := [], run := [], unknown := [], migrated := false }).fault fltCfgImage
    | some i =>
      if i.format < s.cfgFormat then
        ((s.runFrom (migrate i.entries)).onCfg fun c => { c with migrated := true }).event evCfgMigrated noUnit
          (i.format + 65536 * s.cfgFormat) Config.migratedDefaults
      else (s.runFrom i.entries).onCfg fun c => { c with migrated := false }
  s1.settingsInEffect

/-! ### The stages -/

/-- FLT_START_STAGE for every unit that a stage fails with; stacks and X-die blocks keep slices from starting (R401). -/
def State.stageFaults (s : State) (stage : Nat) (failing : List UnitId) : State :=
  (failing.foldl (fun a u => a.fault fltStartStage u { args := [stage, UnitId.inst u] }) s).onFw fun f => { f with
    stageFailed := (if stage = 3 then [] else f.stageFailed) ++ failing.filter fun u => u.kind == 3 || u.kind == 6 }

/-- Stage 1: the ROM derives and locks the UDS, and selects a bank or enters safelight mode. -/
def State.romStage (s : State) : State :=
  let s1 := s.onSec fun c => { c with udsLocked := true }
  let s2 := if s.pins.recoveryN then s1.romSelect else (s1.dropWriting).enterSafelight
  let s3 := if Config.identityBad then s2.fault fltIdentity else s2
  s3.onFw fun f => { f with stage := if f.safelight then 12 else 2 }

/-- Stage 2: Shuid runs, port M is served, and S3 is reached; PWR_EN high is an S3 exit request. -/
def State.shuidStage (s : State) : State :=
  let s1 := ((s.onMbox fun m => { m with mServed := true }).onPins fun p => { p with stbyOk := true }).loadConfig
  let s2 := s1.onFw fun f => { f with stage := 3 }
  if s.pins.pwrEn then s2.s3Exit else s2

/-- Stage 4: a running trial bank whose L2 fails falls back (log entry 98). -/
def State.l2Stage (s : State) (failing : List UnitId) : State :=
  if !failing.isEmpty && s.fw.trialBank == some s.fw.runningB then
    let b := s.fw.runningB
    ((((s.putBank b { s.bank b with state := .failed }).onFw fun f => { f with trialBank := none }).fault fltFwFallback noUnit
      { args := [4] }).warmReset 2)
  else s.onFw fun f => { f with stage := 5 }

/-- Every port starts a full training; in RETIRED ports stay idle (R387, R402). -/
def State.trainPorts (s : State) : State :=
  if s.sec.lifecycle == .retired then s else
    allPorts.foldl (fun a p => (a.modPort p fun x => { x with training := true, state := .training }).emit
      (.training p true)) s

/-! ### T3 (R238, R251, R434, R439) -/

/-- Homes and working copies reloaded from the T3 copies that S3 kept; a digest sweep starts at once. -/
def State.reloadT3 (s : State) : State :=
  let s1 := (List.range (s.plan.postPhase + 1)).foldl (fun a ph => a.writeHomes s.wts.curGen ph) s
  ((s1.makeWorking s.wts.curGen).onWts fun w => { w with t3Retained := false }).beginSweep

/-- Stage 8: T3 is in service where its population, its supplies and its training allow. -/
def State.t3Stage (s : State) (failing : List UnitId) : State :=
  let out (t : State) : State := t.onWts fun w => { w with
    t3InService := false, t3Gib := 0, t3Rate := 0, t3Retained := false
    copies := w.copies.filter fun c => !c.inT3 }
  let cap := s.wts.dimms.headD 0
  if s.wts.dimms.all (· == 0) then out s
  else if !s.pins.dimmPwrOk then (out s).fault fltT3Power
  else if s.wts.dimms.length != 16 || s.wts.dimms.any (· != cap) || !([128, 256, 512].contains cap) then
    (out s).fault fltT3Population
  else if failing.any (fun u => u.kind == 4) then out s
  else
    let s1 := s.onWts fun w => { w with t3InService := true, t3Gib := 16 * cap, t3Rate := w.dimmRate }
    if s1.wts.t3Retained then s1.reloadT3 else s1

/-! ### Checkers and the history (R356, R357, R366) -/

/-- The row of Table 11.6 that a unit's checker stands in (log entry 99). -/
def checkerRow (u : UnitId) : Nat := if u.kind = 7 then 3 else if u.kind = 6 then 2 else if u.kind = 1 then 4 else
  if u.kind = 8 then 6 else 1

/-- Neither copy of the state table is valid: every unit starts anew, every frame is good, and every tile is to be tested before
READY. -/
def State.tableLost (s : State) : State :=
  let s1 := (s.fault fltHistory).onInteg fun i => { i with
    units := [], tableValid := false, selftest := some { port := .m, slot := 0, kind := 2, waiting := List.range 2560 } }
  let s2 := (s1.onMem fun m => { m with retired := [] }).onTiles fun t => { t with map := [], causes := [], depleted := [] }
  (List.range 16).foldl (fun a d => a.startTests d) s2

/-- Stage 9: the checker test, the health history, and an erase that is due. -/
def State.checkStage (s : State) (failing : List UnitId) : State :=
  let bad := failing.filter fun u => u.kind != 10
  let s1 := if failing.any (fun u => u.kind == 10) then s.tableLost else s
  let hold := s1.integ.noStartCheckers
  let s2 := if bad.isEmpty then (s1.checkerResult none).onInteg fun i => { i with noStartCheckers := hold }
    else bad.foldl (fun a u => a.checkerResult (some (checkerRow u, u))) s1
  if s2.sec.erasePending then
    s2.beginErase { port := none, slot := 0, startNs := s.now, why := 3, keep := true, target := 0, ceiling := 0, owner := [] }
  else s2

/-- Stage 10: READY, once an erase and the tests of a lost state table are over; a trial starts (R419). -/
def State.readyStage (s : State) : State :=
  if s.sec.erasing.isSome || s.integ.selftest.any (fun r => !s.integ.tableValid && !r.waiting.isEmpty) then s else
    let trial := s.fw.trialBank == some s.fw.runningB && (s.bank s.fw.runningB).state == .trial
    let s1 := (s.onMbox fun m => { m with ready := true, dServed := true }).onInteg fun i => { i with tableValid := true }
    s1.onFw fun f => { f with
      stage := 11, trialFromNs := if trial then some s.now else f.trialFromNs, trialLive := if trial then false else f.trialLive }

/-- Stage 11: S0 idle; an OP_POWER_STATE_SET that asked for S0 completes. -/
def State.idleStage (s : State) : State :=
  let s1 := s.onFw fun f => { f with stage := 12 }
  match s1.pwr.change with
  | some r => if r.target == .s0 then s1.endChange r else s1
  | none => s1

/-- A stage's completion with the units that failed in it. -/
def State.completeStage (s : State) (stage : Nat) (failing : List UnitId) : State :=
  let s0 := if stage = 9 then s else s.stageFaults stage failing
  match stage with
  | 1 => s0.romStage
  | 2 => s0.shuidStage
  | 3 =>
    if s.fw.t1Ns.isNone then s
    else ((s0.onPwr fun p => { p with state := .s0 }).onPins fun p => { p with mainOk := true }).onFw fun f =>
      { f with stage := 4 }
  | 4 => s0.l2Stage failing
  | 5 => (s0.trainPorts).onFw fun f => { f with stage := 6 }
  | 6 => s0.onFw fun f => { f with stage := 7 }
  | 7 => s0.onFw fun f => { f with stage := 8 }
  | 8 => (s0.t3Stage failing).onFw fun f => { f with stage := 9 }
  | 9 => (s0.checkStage failing).onFw fun f => { f with stage := 10 }
  | 10 => s0.readyStage
  | 11 => s0.idleStage
  | _ => s

/-- STARTUP_STAGE: the stage in course completes. -/
def execStartupStage (stage : Nat) (failing : List UnitId) (s : State) : Ret :=
  .next (if s.fw.stage != stage || s.pwr.state == .s5 then s else s.noteState (s.completeStage stage failing))

end Sys2Proof.Machine
end

