-- ==== Sys2Proof/Machine/PinOps.lean ====
section
/-! DEFINITION. Pins, power input and sensors (chapter 14): the power sideband, resets, straps, the MRDIMM supplies, leaks, the
thermal trip, the input's limits, PPS and the coolant. -/

namespace Sys2Proof.Machine

open Sys2Proof

/-! ### PWR_EN (R431) -/

/-- A rising edge: an S3 exit request in S3; it withdraws an S3 entry that waits. -/
def execPwrEnRise (s : State) : Ret :=
  .next (let s1 := s.onPins fun p => { p with pwrEn := true }
    if s.pwr.state == .s3 then s1.s3Exit else s1.onPwr fun p => { p with s3Deferred := false })

/-- A falling edge in S0, S1 or S2: as OP_POWER_STATE_SET with TARGET 3 and FADE_FIRST 1. While S3 is not allowed it waits, and
EV_S3_DEFERRED reports it once; it waits for a change in course too (log entry 103). POWER_STATE_ENTERED takes it up. -/
def execPwrEnFall (s : State) : Ret :=
  .next (let s1 := s.onPins fun p => { p with pwrEn := false }
    if !s.mainOn then s1
    else if s.sliceIdle && s.pwr.change.isNone then
      s1.onPwr fun p => { p with change := some { target := .s3, from_ := none, foundNs := s.now, waitFade := p.fade.isSome
                                                  byReach := false } }
    else
      let s2 := s1.onPwr fun p => { p with s3Deferred := true }
      if s.pwr.s3Deferred || s.sliceIdle then s2 else s2.event evS3Deferred)

/-! ### Resets and straps (R432, R433) -/

/-- A low pulse on MOD_RESET_N: at its end, when it lasted 10 µs or longer, t0 of a WARM reset; the straps are sampled anew. -/
def execModResetN (lowNs : Nat) (s : State) : Ret :=
  .next (if lowNs < 10000 || s.pwr.state == .s5 then s
  else (s.onPins fun p => { p with strapSampled := false }).warmReset 1)

/-- PERST_N: the acts of R290 on the host slots, and LAST_RESET 4. -/
def execPerstN (s : State) : Ret := .next (if s.endpoint then s.resetHost 4 else s)

/-- STRAP_SAMPLE: slot number, I3C address and RECOVERY_N, once. -/
def execStrapSample (slotId : Nat) (recoveryN : Bool) (s : State) : Ret :=
  .next (if s.pins.strapSampled || s.pwr.state == .s5 then s else
    (s.onPins fun p => { p with
      strapSampled := true, slotStrap := slotId, i3cAddr := 0x50 + slotId % 16, recoveryN := recoveryN }).gauge
        ctSlotStrap 0 slotId)

/-- A later change of a strap is ignored and reported. -/
def execStrapChange (s : State) : Ret := .next (if s.pins.strapSampled then s.event evStrapChanged else s)

/-! ### The MRDIMM supplies (R434) -/

/-- T3 copies of weights whose homes stand: new RAW copies in T2. -/
def ShardCopy.toT2 (c : ShardCopy) : ShardCopy := { c.rawFrom c.narrow c.digest with inT3 := false }

/-- Every block of a T3 page is lost: what it held takes the outcome of Table 11.3, and its reader meets a UE (log entry
102). -/
def State.t3PageLost (s : State) (base : Nat) : State :=
  (List.range 512).foldl (fun a b => (a.poison (base + b * blockBytes)).rangeLost (base + b * blockBytes) 0) s

/-- The pauses in course fail with ST_NO_SPACE (Table 14.11). -/
def State.failPauses (s : State) : State :=
  (s.allSess.filter (fun x => x.state == .pausing)).foldl (fun a x => a.pauseFails x) s

/-- DIMM_PWR_OK falls. In S3 no T3 copy is reloaded; with T3 in service, T3 is out of service until the next start-up. -/
def execDimmPwrOkFall (s : State) : Ret :=
  .next (let s1 := s.onPins fun p => { p with dimmPwrOk := false }
    if !s.mainOn then s1.onWts fun w => { w with
      t3Retained := false, copies := if w.t3Retained then w.copies.filter (fun c => !c.inT3) else w.copies }
    else if !s.wts.t3InService then s1
    else
      let bases := (s.mem.pages.filter (fun e => e.2.base < t2Base)).map (·.2.base)
      let s2 := (s1.fault fltT3Power).onWts fun w => { w with
        t3InService := false, copies := w.copies.map fun c => if c.inT3 then c.toT2 else c }
      let s3 := if s.isLead then s2.failPauses else s2
      bases.foldl (fun a b => a.t3PageLost b) s3)

/-! ### Trips (R429, R445, R446) -/

/-- The main rails go off without a drain: S3 through no command. A bank left WRITING is EMPTY, and a live handover is over
(Table 14.11). -/
def State.trip (s : State) : State :=
  if s.mainOn then ((s.railsOff false).dropWriting).onFw fun f => { f with stage := 3, t1Ns := none, handover := none }
  else if s.pwr.state == .s3 then s.onFw fun f => { f with t1Ns := none }
  else s

/-- A trip with its fault and its counter. -/
def State.tripWith (s : State) (code counter a0 : Nat) : State :=
  if s.pwr.state == .s5 then s else s.noteState (((s.count counter 0 1).fault code noUnit { args := [a0] }).trip)

/-- Input below 38.0 V for 100 µs. -/
def execInputUndervoltage (lowestMv : Nat) (s : State) : Ret :=
  .next (if lowestMv < 38000 then s.tripWith fltInputUv ctUvTrips lowestMv else s)

/-- Input above 62.5 V for 100 µs. -/
def execInputOvervoltage (highestMv : Nat) (s : State) : Ret :=
  .next (if 62500 < highestMv then s.tripWith fltInputOv ctOvTrips highestMv else s)

/-- A sensor reaches its trip temperature: THERMTRIP_N falls. -/
def execThermalTrip (sensor : Nat) (s : State) : Ret :=
  .next ((s.onPins fun p => { p with thermtripN := s.pwr.state == .s5 && p.thermtripN }).tripWith fltThermalTrip
    ctThermalTrips sensor)

/-- Every sensor is 10 °C or more below its throttle temperature: THERMTRIP_N is released. -/
def execThermtripRelease (s : State) : Ret := .next (s.onPins fun p => { p with thermtripN := true })

/-- The carrier's leak sensor becomes wet. -/
def execCarrierLeak (s : State) : Ret :=
  .next (if s.pwr.state == .s5 then s else
    (s.onPins fun p => { p with leakWet := true, leakN := false }).tripWith fltLeak ctLeakTrips 0)

/-- TRAY_LEAK_N stays low for 1 ms. -/
def execTrayLeakN (s : State) : Ret :=
  .next (if s.pwr.state == .s5 then s else
    (s.onPins fun p => { p with trayLeakN := false }).tripWith fltLeak ctLeakTrips 1)

/-- Input below 30.0 V for 10 ms: VSB is lost, and the module is in S5. -/
def execVsbLoss (s : State) : Ret :=
  .next (if s.pwr.state == .s5 then s else
    let s1 := ((s.railsOff false).dropWriting).unloadPlan
    let s2 := (s1.standbyLost).onMbox fun m => { ({} : Mbox) with msix := m.msix }
    let s3 := s2.onFw fun f => { f with stage := 0, t1Ns := none, handover := none, safelight := false, trialFromNs := none }
    (s3.onPwr fun p => { p with state := .s5, energyMj := 0, energyUj := 0 }).onSec fun c =>
      { c with debug := 0, scanStopped := false, spdm := [], resync := [], udsLocked := false, erasing := none })

/-! ### Time and coolant (R437, R443, R450) -/

/-- A rising edge of PPS_IN: counted; outside 999 ms to 1,001 ms after the edge before it, it is rejected and not latched. -/
def execPpsEdge (s : State) : Ret :=
  .next (if s.pwr.state == .s5 then s else
    let off := match s.pins.ppsEdgeNs with
      | some t => decide (s.now - t < 999000000) || decide (1001000000 < s.now - t)
      | none => false
    let s1 := (s.onPins fun p => { p with ppsEdgeNs := some s.now, ppsLostRaised := false }).count ctPpsEdges 0 1
    if off then s1.count ctPpsRejected 0 1 else s1.gauge ctPpsLastNs 0 (s.now - s.clock.startNs))

/-- 3 s without an edge, following at least one. -/
def execPpsLost (s : State) : Ret :=
  .next (match s.pins.ppsEdgeNs with
  | some t =>
    if t + 3000000000 ≤ s.now && !s.pins.ppsLostRaised then
      (s.onPins fun p => { p with ppsLostRaised := true }).event evPpsLost
    else s
  | none => s)

/-- An inlet above 40 °C for 10 s: the event at most once per minute. -/
def execCoolantHigh (inletMilliC : Int) (s : State) : Ret :=
  .next (if s.pwr.state == .s5 then s else
    let s1 := s.gauge ctCoolantIn 0 (gaugeInt inletMilliC)
    let quiet := match s.pins.coolantEvNs with
      | some t => decide (t + 60000000000 ≤ s.now)
      | none => true
    if 40000 < inletMilliC && quiet then
      (s1.onPins fun p => { p with coolantEvNs := some s.now }).event evCoolantHigh
    else s1)

end Sys2Proof.Machine
end

