-- ==== Sys2Proof/Machine/Links.lean ====
section
/-! DEFINITION. Tensor links (R155 to R167, R401 to R407, R410, R411): flits, fast retrains, ports that go down, training,
neighbour cards, and the opcodes of group 0x0A (R423, R441, R442). -/

namespace Sys2Proof.Machine

open Sys2Proof

/-! ### Widths (R161) -/

/-- Failed lanes of a half: A is 0 to 16, B is 17 to 33 (R157). -/
def halfFails (failed : List Nat) (b : Bool) : Nat := (failed.filter fun l => l < 34 && decide (17 ≤ l) == b).length

/-- Port width by halves with at most one failed lane. -/
def widthOf (failed : List Nat) : Nat := 16 * (b2n (halfFails failed false ≤ 1) + b2n (halfFails failed true ≤ 1))

/-- A port with its failed lanes: the spares in use, and its width. -/
def Port.laned (x : Port) (failed : List Nat) : Port :=
  { x with failedLanes := failed, width := widthOf failed, sparesA := halfFails failed false == 1
           sparesB := halfFails failed true == 1 }

/-- FLT_LINK_DEGRADED where a port's width has become 16. -/
def State.noteWidth (s : State) (p : Nat) (old : Nat) : State :=
  if (s.portX p).width = 16 ∧ old ≠ 16 then s.fault fltLinkDegraded (portUnit p) { args := [p, 16] } else s

/-! ### A port down (R162, R410) -/

/-- A slice that loses a port halts hard: on the lead and everywhere (R162, R273). -/
def State.loseSlice (s : State) : State :=
  let n := (s.steps.live.map (·.seq)).foldl min (s.steps.composed + 1)
  let s1 := s.raiseAbort n fltStepLost
  if s.isLead then s1 else s1.hardHalt

/-- A neighbour that left: pause images of the slice lose their part; with the lead every session is gone (R410). -/
def State.departed (s : State) (p : Nat) : State :=
  let e := s.plan.neighbour (s.logicalOf p)
  if s.wts.main.isNone || !nbExpected e then s
  else if nbIndex e == s.plan.leadIndex then (tkeys s.srv.sessions).foldl (fun a i => a.dropSession i) s
  else s.freeImages

/-- A port goes down. -/
def State.takeDown (s : State) (p : Nat) : State :=
  let x := s.portX p
  if !x.trained then s else
    let left := x.leavingNs.any fun t => s.now ≤ t + 1000000000
    let carried := s.portUp p
    let s1 := s.modPort p fun y => { y with
      trained := false, training := false, fast := none, card := none, width := 0, departed := left, leavingNs := none
      awaitMarker := false, markerIn := false }
    let s2 := if left then (s1.event evNbDeparted (portUnit p) p).departed p
      else s1.fault fltLinkDown (portUnit p) { args := [p] }
    let s3 := if carried && s.sliceBusy && !left then s2.loseSlice else s2
    s3.evalPorts

/-- PORT_DOWN, by any of the causes of R162. A fast retrain suspends the watch for valid flits. -/
def execPortDown (port : Nat) (cause : DownCause) (s : State) : Ret :=
  .next (if cause = .noFlit ∧ (s.portX port).fast.isSome then s else s.noteState (s.takeDown port))

/-! ### Flits (R158, R160) -/

/-- A fast retrain starts. -/
def State.startFast (s : State) (p : Nat) : State :=
  if !(s.portX p).trained || (s.portX p).fast.isSome then s else
    ((s.modPort p fun x => { x with fast := some s.now, refusals := 0, retrains := x.retrains + 1 }).count ctRetrains p 1).emit
      (.training p false)

/-- FCRC over bytes 0x000 to 0x003 and 0x008 to 0x127. -/
def flitGood (f : FlitIn) : Bool :=
  !f.uncorrectable && crc32c (le 4 f.word0.toNat ++ f.payload) == f.fcrc.toNat && bitsOf f.word0.toNat 26 25 != 3

/-- A discarded flit: counted, NAKed; the sixteenth refusal in a row of the same SEQ brings a fast retrain. -/
def State.refuseFlit (s : State) (p : Nat) : State :=
  let x := s.portX p
  let s1 := ((s.modPort p fun y => { y with refusals := y.refusals + 1 }).count ctFlitDropped p 1).emit (.flitNak p x.rxLast)
  if 16 ≤ x.refusals + 1 then s1.startFast p else s1

/-- ACK and NAK of a flit: the replay store is freed up to the ACK, and a NAK resends from the flit after it. -/
def State.takeAck (s : State) (p ack : Nat) (nak : Bool) : State :=
  let x := s.portX p
  let n := (ack + 4096 - x.acked) % 4096
  let s1 := if n ≤ x.replay then s.modPort p fun y => { y with acked := ack, replay := y.replay - n } else s
  if nak then (s1.count ctReplays p 1).emit (.flitResend p ((ack + 1) % 4096)) else s1

/-- Buffer releases in an IDLE or LINK_CTRL payload: one 16-bit count per buffer (R167). -/
def State.takeReleases (s : State) (p : Nat) (b : Bytes) : State :=
  s.modPort p fun x => { x with room := (indexed x.room).map fun r => min (bufferSize r.1) (r.2 + rd 2 b (2 * r.1)) }

/-- FLIT_RECEIVED. Its packets arrive as commands of their own. -/
def execFlitReceived (port : Nat) (f : FlitIn) (s : State) : Ret :=
  .next (let x := s.portX port
    if !s.mainOn || !x.trained || x.fast.isSome then s else
    let s0 := f.corrected.foldl (fun a c => a.count ctFecCorrected (port * 64 + c.1) c.2) s
    if !flitGood f then s0.refuseFlit port else
      let w := f.word0.toNat
      let s1 := s0.takeAck port (bitsOf w 23 12) (bitOf w 24)
      if bitsOf w 26 25 = 1 then
        if bitsOf w 11 0 = (x.rxLast + 1) % 4096 then
          (s1.modPort port fun y => { y with rxLast := bitsOf w 11 0, refusals := 0 }).count ctFlitsRx port 1
        else if (bitsOf w 11 0 + 4096 - x.rxLast) % 4096 < 2049 then s1.emit (.flitNak port x.rxLast)
        else s1
      else s1.takeReleases port f.payload)

/-! ### Retrains and training (R161, R402) -/

/-- FAST_RETRAIN_DONE: each lane that fails is replaced by its half's spare. -/
def execFastRetrainDone (port : Nat) (failing : List Nat) (restored : Bool) (s : State) : Ret :=
  .next (let x := s.portX port
    if x.fast.isNone then s else
    let fresh := (failing.filter fun l => l < 34 && !x.failedLanes.contains l)
    let s1 := s.modPort port fun y => { (y.laned (x.failedLanes ++ fresh)) with fast := none }
    let spared := fresh.filter fun l => halfFails (x.failedLanes ++ fresh) (decide (17 ≤ l)) == 1
    let s2 := spared.foldl (fun a l => a.event evLaneSpared (portUnit port) l) s1
    let s3 := s2.noteWidth port x.width
    if widthOf (x.failedLanes ++ fresh) = 0 then s.noteState (s3.takeDown port)
    else if restored then s3
    else
      let fails := (x.retrainFails.filter fun t => s.now < t + 1000000000) ++ [s.now]
      let s4 := s3.modPort port fun y => { y with retrainFails := fails }
      if 3 ≤ fails.length then s.noteState (s4.takeDown port) else s4)

/-- A full training starts on a port. -/
def State.startTraining (s : State) (p : Nat) : State :=
  if !s.mainOn || s.sec.lifecycle == .retired then s else
    (s.modPort p fun x => { x with training := true, state := if x.trained then x.state else .training }).emit
      (.training p true)

/-- LINK_TRAINING_DONE: a trained port starts its flit numbers and buffers anew, and sends its card at once. -/
def execLinkTrainingDone (port : Nat) (failing : List Nat) (s : State) : Ret :=
  .next (let x := s.portX port
    if !x.training || !s.mainOn then s else
    let bad := failing.filter (· < 34)
    if widthOf bad = 0 then
      s.noteState (((s.modPort port fun y => { y with training := false }).takeDown port).modPort port fun y => { y with state := .down })
    else
      let s1 := s.modPort port fun y => { (y.laned bad) with
        trained := true, training := false, txSeq := 0, acked := 4095, replay := 0, rxLast := 4095, refusals := 0
        retrainFails := [], fast := none, room := ({} : Port).room, cardNs := s.now }
      s.noteState (((s1.noteWidth port x.width).evalPorts).sendCard port))

/-- LINK_TRAINING_RETRY: every 1 s while a far end is detected. -/
def execLinkTrainingRetry (port : Nat) (s : State) : Ret :=
  .next (if (s.portX port).trained then s else s.startTraining port)

/-- HELD_IDLE_RETRAIN: a port held idle trains once every 10 s; its outcome stands meanwhile. -/
def execHeldIdleRetrain (port : Nat) (s : State) : Ret :=
  .next (if (s.portX port).state == .heldIdle then s.startTraining port else s)

/-! ### Cards (R403, R404, R406, R411) -/

/-- A LINK_MGMT packet as it arrives: its buffer room released, a malformed one counted. -/
def State.linkArrive (s : State) (port : Nat) (k : Packet) (rule : State → State) : State :=
  if !s.mainOn || !(s.portX port).trained || k.type != ptLink then s else
    let s1 := s.emit (.release port (bufferOf k) (flitPayloads k))
    if badPacket k then s1.badPacketAt port 0 else rule s1

/-- NEIGHBOUR_CARD: a card whose data CRC checks. It re-evaluates every port; one that takes a port of a running slice out of
traffic halts the slice (Table 13.13). -/
def execNeighbourCard (port : Nat) (k : Packet) (s : State) : Ret :=
  .next (if byteAt k.data 0 != 1 || k.len != 128 then s else
    let t := s.linkArrive port k fun s =>
      if crc32c k.data != k.dcrc.toNat then s else
      let x := s.portX port
      let s1 := s.modPort port fun y => { y with
        card := some k.data, cardNs := s.now, departed := false
        leavingNs := if cdLeaving k.data then some s.now else none }
      let s2 := if x.card.isNone then s1.event evNbArrived (portUnit port) port else s1
      let s3 := if x.logical.isSome && x.card != some k.data then s2.endRemap else s2
      let s4 := s3.evalPorts
      if s.sliceBusy && s.portUp port && !s4.portUp port && !cdLeaving k.data then s4.loseSlice else s4
    s.noteState t)

/-- CARD_SEND: every 1 s, and within 1 ms of a field's change. -/
def execCardSend (port : Nat) (s : State) : Ret := .next (if s.mainOn then s.sendCard port else s)

/-- CARD_ABSENT: no card within 100 ms of training. -/
def execCardAbsent (port : Nat) (s : State) : Ret :=
  .next (if s.mainOn && (s.portX port).trained && (s.portX port).card.isNone then s.evalPorts else s)

/-- LINK_MGMT: any other KIND is discarded. -/
def execLinkMgmt (port : Nat) (k : Packet) (s : State) : Ret :=
  .next (if (byteAt k.data 0 == 1 && k.len == 128) || (byteAt k.data 0 == 2 && k.len == 16) then s
  else s.linkArrive port k id)

/-! ### Group 0x0A (Table 13.12) -/

/-- OP_NEIGHBOUR_READ. -/
def execOpNeighbourRead (q : Req) (s : State) : Ret :=
  .next (s.runOp q 0x0A01 allPayloads noPayload fun s _ => .done s stOk 0 (allPorts.flatMap fun p =>
    let x := s.portX p
    le 4 (p + 8 * s.logicalOf p + 64 * x.outcome.code + 1024 * b2n x.card.isSome) ++
      le 4 (if x.card.isSome then (s.now - x.cardNs) / 1000000 else 0) ++ zeros 8 ++ fit 128 (x.card.getD [])))

def LinkState.code : LinkState → Nat
  | .down => 0 | .training => 1 | .heldIdle => 2 | .mgmtOnly => 3 | .up => 4 | .lowPower => 5

/-- OP_LINK_STATUS. -/
def execOpLinkStatus (q : Req) (s : State) : Ret :=
  .next (s.runOp q 0x0A02 allPayloads noPayload fun s _ => .done s stOk 0 (allPorts.flatMap fun p =>
    let x := s.portX p
    le 4 (p + 8 * x.state.code + 64 * (if x.trained then x.width else 0) + 4096 * b2n x.sparesA + 8192 * b2n x.sparesB) ++
      le 4 x.retrains ++ le 4 (if x.state == .up then (s.now - x.upNs) / 1000000 else 0) ++ zeros 4))

/-- OP_LINK_RETRAIN. -/
def execOpLinkRetrain (q : Req) (s : State) : Ret :=
  let t := s.runOp q 0x0A03 allPayloads (fun _ c => lenIs c 4 ++
      [(bitsOf (rd 4 c.pay 0) 7 6 != 0 || rd 4 c.pay 0 / 512 != 0, stFieldRange, payOff 0)]) fun s c =>
    let ps := allPorts.filter fun p => bitOf (rd 4 c.pay 0) p
    if bitOf (rd 4 c.pay 0) 8 then
      if s.sliceBusy && ps.any (fun p => (s.portX p).outcome == .matched || (s.portX p).outcome == .remapped) then
        .refuse stStateDenied 0
      else
        let s1 := ps.foldl (fun a p =>
          (a.modPort p fun x => { x with trained := false, card := none, fast := none, state := .training }).startTraining p) s
        .done s1.evalPorts stOk 0 []
    else .done (ps.foldl (fun a p => a.startFast p) s) stOk 0 []
  .next (s.noteState t)

/-! ### Lane margin (R441, R442) -/

def laneTop (iface : Nat) : Nat := if iface = 0 then 34 else if iface = 1 then 4 else 8
def indexTop (iface : Nat) : Nat := if iface = 0 then 6 else if iface = 1 then 2 else 1

/-- OP_LANE_MARGIN. -/
def execOpLaneMargin (q : Req) (s : State) : Ret :=
  let own (_ : State) (c : Cmd) : List (Bool × Nat × Nat) :=
    let w := rd 4 c.pay 0
    let win := rd 4 c.pay 4
    let mask := rd 8 c.pay 8
    lenIs c 16 ++
    [ (w % 4 == 3, stFieldRange, payOff 0), (decide (indexTop (w % 4) ≤ bitsOf w 4 2), stFieldRange, payOff 0),
      (w / 32 != 0, stFieldRange, payOff 0),
      (win % 65536 == 0 || decide (10000 < win % 65536), stFieldRange, payOff 4), (win / 65536 != 0, stFieldRange, payOff 6),
      (mask == 0 || decide (2 ^ laneTop (w % 4) ≤ mask), stFieldRange, payOff 8) ]
  .next (s.runOp q 0x0A04 allPayloads own fun s c =>
    let i := rd 4 c.pay 0 % 4
    let x := bitsOf (rd 4 c.pay 0) 4 2
    if s.pins.margins.any (fun m => m.2.2.1 == i && m.2.2.2.1 == x) then .refuse stBusy 0
    else .long (s.onPins fun p => { p with margins := p.margins ++ [(c.port, c.slot, i, x, rd 8 c.pay 8)] }) [] [] [])

/-- A lane's entry; a lane that is not trained reports LOCK 0 and zero measurements. -/
def laneBytes (trained : Bool) (readings : List LaneReading) (lane : Nat) : Bytes :=
  match (if trained then readings.find? (fun r => r.lane == lane) else none) with
  | none => le 4 (lane + 64 * 3) ++ zeros 28
  | some r =>
    if r.role = 3 then le 4 (lane + 64 * 3) ++ zeros 28
    else le 4 (lane + 64 * (r.role % 4) + 256 * b2n r.lock + 65536 * (r.snrQ8 % 65536)) ++
      le 4 (r.eyeLo % 65536 + 65536 * (r.eyeMid % 65536)) ++ le 4 (r.eyeHi % 65536 + 65536 * (r.eyeW % 65536)) ++
      le 4 (r.ctle % 65536) ++ le 8 r.symErr ++ le 8 r.symbols

/-- LANE_MARGIN_DONE: the window ends, and the command is handed back. -/
def execLaneMarginDone (iface index : Nat) (lanes : List LaneReading) (s : State) : Ret :=
  .next (match s.pins.margins.find? (fun m => m.2.2.1 == iface && m.2.2.2.1 == index) with
  | none => s
  | some m =>
    let sel := (List.range (laneTop iface)).filter (bitOf m.2.2.2.2)
    let up := iface != 0 || (s.portX index).trained
    (s.onPins fun p => { p with margins := p.margins.filter fun y => !(y.2.2.1 == iface && y.2.2.2.1 == index) }).finishAt
      m.1 m.2.1 stOk 0 (le 4 sel.length ++ zeros 4 ++ sel.flatMap (laneBytes up lanes)))

end Sys2Proof.Machine
end

