-- ==== Sys2Proof/Machine/Packets.lean ====
section
/-! DEFINITION. The fabric's data packets as they arrive (R164 to R190): writes, remote reads, reductions, multicasts, expert
traffic, collectives and credits. -/

namespace Sys2Proof.Machine

open Sys2Proof

/-- A packet's data checked by their CRC-32C (R173). Data that fail land nowhere: a block CRC failure on the port that brought
them (R353). -/
def State.checked (s : State) (port : Nat) (k : Packet) (f : State → State) : State :=
  if k.len = 0 ∨ crc32c k.data = k.dcrc.toNat then f s
  else (s.count ctBlockCrcFail 0 1).stepFault fltBlockCrc (portUnit port) k.stepSeq { addr := k.addr }

/-- A data packet of a type and its rule. -/
def State.dataPacket (s : State) (port ty : Nat) (k : Packet) (rule : State → Packet → State) : State :=
  s.noteState (s.arrive port k (fun x => x.type == ty) fun a x => a.checked port x fun b => rule b x)

/-- Offsets of an activation buffer, which a WRITE to a tile carries (log entry 130). -/
def tileOffset (a : Nat) : Bool := decide (a < 0x100000)

/-- A written block: landed, its space known, and its mark raised on the channel of the tile or the island. -/
def State.landWrite (s : State) (u : UnitId) (k : Packet) : State :=
  let d : Dest := if tileOffset k.addr then { addr := k.addr, kind := 1, dch := k.dch, dtile := k.dtile, dmod := s.index }
    else { addr := fabAddr s.index k.addr, kind := 2, dch := k.dch, dtile := 0, dmod := 0 }
  if d.kind = 2 && !s.mapped k.addr then s.rangeFault u k.addr k.stepSeq else
    let a := s.destAddr d 0
    let c := s.destChan d
    ((s.landBlock a { data := fit blockBytes k.data, exp := k.exp, a8d := k.a8d }).fillSpace c a 1 k.src).addMarks c 1 k.stepSeq

/-- WRITE. -/
def execWritePacket (port : Nat) (k : Packet) (s : State) : Ret :=
  .next (s.dataPacket port ptWrite k fun s k => s.landWrite (portUnit port) k)

/-- The owner answers a remote read with the block, its EXP and A8D. -/
def State.answerRead (s : State) (u : UnitId) (k : Packet) : State :=
  match s.phys? k.addr with
  | none => s.rangeFault u k.addr k.stepSeq
  | some a =>
    if s.poisoned a then s.memUe (viewUnit a) a .range k.stepSeq else
      let b := s.blockAt a
      s.sendPacket (s.opPacket ptReadRsp k.src k.stepSeq k.addr (fit blockBytes b.data) b.exp b.a8d)

/-- READ_REQ. -/
def execReadReq (port : Nat) (k : Packet) (s : State) : Ret :=
  .next (s.dataPacket port ptReadReq k fun s k => s.answerRead (portUnit port) k)

/-- A remote read's block: it fills a line and lands at every MOVE that waits for it; a MOVE with no block to come is done. -/
def State.takeRead (s : State) (k : Packet) : State :=
  let a := fabAddr k.src k.addr
  let hits := s.fab.reads.filter fun r => r.addr == a
  let s1 := (s.fillLine { addr := a, exp := k.exp, a8d := k.a8d, data := k.data }).onFab fun f => { f with
    reads := f.reads.filter fun r => r.addr != a }
  hits.foldl (fun (b : State) q => b.operate q.tile opMove 2 fun c r =>
    if r.idx != q.desc then c else
      let e := c.putAt r q.block { data := fit blockBytes k.data, exp := k.exp, a8d := k.a8d }
      if e.reading q.tile q.desc then e else e.executed r) s1

/-- READ_RSP. -/
def execReadRsp (port : Nat) (k : Packet) (s : State) : Ret :=
  .next (s.dataPacket port ptReadRsp k fun s k => s.takeRead k)

/-- RED: the owner's reduction unit applies the block. -/
def execRedPacket (port : Nat) (k : Packet) (s : State) : Ret :=
  .next (s.dataPacket port ptRed k fun s k => s.applyRed (portUnit port) k.stepSeq k.opx k.dch k.addr (fit blockBytes k.data))

/-- MCAST: on towards the entry module, or landed and forwarded along the tree. -/
def execMcastPacket (port : Nat) (k : Packet) (s : State) : Ret :=
  .next (s.dataPacket port ptMcast k fun s k =>
    s.mcastAt (portUnit port) (some (s.logicalOf port)) { k with data := fit blockBytes k.data })

/-- DISPATCH: a slot row lands with its source, session and epoch. -/
def execDispatchPacket (port : Nat) (k : Packet) (s : State) : Ret :=
  .next (s.dataPacket port ptDispatch k fun s k =>
    s.landSlot (portUnit port) k.src k.dtile k.session k.epoch k.stepSeq k.addr k.data)

/-- Layer and half-batch of a DISPATCH_END or BUF_FREE. -/
def packetLayer (k : Packet) : Nat := k.addr % 65536
def packetHb (k : Packet) : Nat := bitsOf k.addr 16 16

/-- DISPATCH_END. -/
def execDispatchEnd (port : Nat) (k : Packet) (s : State) : Ret :=
  .next (s.dataPacket port ptDispatchEnd k fun s k => s.noteEnd k.src k.stepSeq (packetLayer k) (packetHb k))

/-- RETURN. -/
def execRet (port : Nat) (k : Packet) (s : State) : Ret :=
  .next (s.dataPacket port ptReturn k fun s k => s.landReturn (portUnit port) k.session k.epoch k.stepSeq k.addr k.data)

/-- BUF_FREE. -/
def execBufFree (port : Nat) (k : Packet) (s : State) : Ret :=
  .next (s.dataPacket port ptBufFree k fun s k => s.noteFree k.src k.stepSeq (packetLayer k) (packetHb k))

/-- COLL. -/
def execCollPacket (port : Nat) (k : Packet) (s : State) : Ret :=
  .next (s.dataPacket port ptColl k fun s k => s.takeSeg k)

/-- CREDIT. -/
def execCreditPacket (port : Nat) (k : Packet) (s : State) : Ret :=
  .next (s.dataPacket port ptCredit k fun s k => s.takeCredit k)

end Sys2Proof.Machine
end

