-- ==== Sys2Proof/Machine/PlanParse.lean ====
section
/-! DEFINITION. The plan checker's reading of a staged object (R57 to R61, R86, R88): its header, section table and sections, and the
checks 0x01 FORMAT, 0x02 DIGEST and 0x03 SECTION. A failing field is named by the offset of its 32-bit word, as the tables write
it. -/

namespace Sys2Proof.Machine

open Sys2Proof

/-- A failing check: its code and status, and the location fields of Table 2.28. -/
structure PlanFail where
  code : Nat
  status : Nat
  sect : Nat
  off : Nat
  entry : Nat
  deriving DecidableEq, Repr

/-- A staged object as it is read: its bytes, its staged length, the entries of its section table, and the object. -/
structure PlanImg where
  bytes : Bytes
  total : Nat
  tab : List (List Nat)
  obj : PlanObj
  deriving DecidableEq, Repr

/-- FIELD_OFF where the failure lies in no single field, and ENTRY where no entry exists to name. -/
def noField : Nat := 0xFFFF
def noEntry : Nat := 0xFFFFFFFF

def headFail (code status off : Nat) : PlanFail := { code := code, status := status, sect := 0xFFFF, off := off, entry := 0 }

/-! ### The section table (Tables 2.2 and 2.3) -/

def stType (e : List Nat) : Nat := fld e 0 15 0
def stCount (e : List Nat) : Nat := fld e 4 31 0
def stOffset (e : List Nat) : Nat := fld e 8 31 0
def stLength (e : List Nat) : Nat := fld e 0xC 31 0

/-- Entry size of a section type; zero for a type that is none. -/
def secSize (t : Nat) : Nat := [0, 32, 8, 128, 64, 96, 16, 32, 16, 64, 64].getD t 0

/-- Sections of module scope: PROGRAM_INDEX, DESCRIPTORS, TENSOR_TABLE and NEIGHBOURS. -/
def secOfModule (t : Nat) : Bool := t == secIndex || t == secDesc || t == secTensor || t == secNeigh

def secTypes : List Nat := [1, 2, 3, 4, 5, 6, 7, 8, 9, 10]

/-- The entries of a section that an entry of the section table places, as far as the object reaches. -/
def secEntries (b : Bytes) (e : List Nat) : List (List Nat) :=
  let n := secSize (stType e)
  (List.range (min (stCount e) (ceilDiv b.length (max 1 n)))).map fun i => wordsOf (cut b (stOffset e + i * n) n)

/-- A section's place in the section table. -/
def PlanImg.place (v : PlanImg) (t : Nat) : Nat := v.tab.findIdx fun e => stType e == t

/-- A failure in an entry of a section. -/
def PlanImg.fail (v : PlanImg) (code status t off entry : Nat) : PlanFail :=
  { code := code, status := status, sect := v.place t, off := off, entry := entry }

/-- A failure in the section table itself: the section whose entry it is, with no entry of the section to name. -/
def tabFail (code status i off : Nat) : PlanFail := { code := code, status := status, sect := i, off := off, entry := noEntry }

/-- The first entry of a section that a check fails, with the field that the check names. -/
def PlanImg.each (v : PlanImg) (code status t : Nat) (f : Nat → List Nat → Option Nat) : Option PlanFail :=
  (indexed (v.obj.sec t)).findSome? fun e => (f e.1 e.2).map fun off => v.fail code status t off e.1

/-- The lowest of the offsets whose condition is broken. -/
def badField (l : List (Nat × Bool)) : Option Nat :=
  (l.filter (·.2)).foldl (fun m x => some (match m with
    | none => x.1
    | some y => min x.1 y)) none

def firstOf : List (Option PlanFail) → Option PlanFail
  | [] => none
  | some x :: _ => some x
  | none :: r => firstOf r

/-! ### Digests (R59) -/

def PlanImg.section (v : PlanImg) (e : List Nat) : Bytes := cut v.bytes (stOffset e) (stLength e)

/-- The header with every module field and both digests set to zero. -/
def slimHeader (b : Bytes) : Bytes :=
  let h := fit 256 b
  let w14 := rd 4 h 0x14 / 512 * 512
  [(0x0C, zeros 4), (0x14, le 4 w14), (0x30, zeros 16), (0x60, zeros 96)].foldl (fun a x => overlay a x.1 x.2) h

def PlanImg.planHash (v : PlanImg) : Bytes :=
  sha384 (slimHeader v.bytes ++ (v.tab.filter fun e => !secOfModule (stType e)).flatMap v.section)

def PlanImg.moduleHash (v : PlanImg) : Bytes :=
  let p := v.obj
  sha384 (le 2 p.moduleIndex ++ le 4 (p.h 0x0C 31 0) ++ fldBytes p.hdr 0x30 16 ++
    (v.tab.filter fun e => secOfModule (stType e)).flatMap v.section)

/-! ### Reading -/

/-- The staged bytes, later parts over earlier ones; a byte that no part wrote is zero. -/
def Staging.bytes (g : Staging) : Bytes := fit g.totalLen (g.parts.foldl (fun a p => overlay a p.1 p.2) [])

/-- A byte string read as a plan object. -/
def planImg (b : Bytes) : PlanImg :=
  let hdr := wordsOf (fit 256 b)
  let tab := (List.range (fld hdr 0x2C 31 16)).map fun i => wordsOf (cut b (0x100 + 32 * i) 32)
  let secs := secTypes.filterMap fun t => (tab.find? fun e => stType e == t).map fun e => (t, secEntries b e)
  let v : PlanImg := { bytes := b, total := b.length, tab := tab
                       obj := { hdr := hdr, secs := secs, totalBytes := fld hdr 0x0C 31 0, digest := [] } }
  { v with obj := { v.obj with digest := v.planHash } }

/-! ### 0x01 FORMAT -/

def PlanImg.format (v : PlanImg) : Option PlanFail :=
  let p := v.obj
  if p.h 0 31 0 ≠ 0x4E5A504C then some (headFail 1 stVersion 0)
  else if p.h 4 15 0 ≠ 1 ∨ Config.planFmtMinor.toNat < p.h 4 31 16 then some (headFail 1 stVersion 4)
  else if p.totalBytes ≠ v.total then some (headFail 1 stLenRange 0x0C)
  else none

/-! ### 0x02 DIGEST -/

def PlanImg.digests (v : PlanImg) : Option PlanFail :=
  let p := v.obj
  let m := v.moduleHash
  if v.planHash ≠ p.planDigest then some (headFail 2 stDigestMismatch 0x60)
  else if m ≠ fldBytes p.hdr 0x90 48 then some (headFail 2 stDigestMismatch 0x90)
  else if !v.tab.any (fun e => stType e == secDigests) then none
  else match (indexed (p.sec secDigests)).find? fun e => fld e.2 0 8 0 == p.moduleIndex with
    | none => some (v.fail 2 stDigestMismatch secDigests noField noEntry)
    | some e => if fldBytes e.2 0x10 48 ≠ m then some (v.fail 2 stDigestMismatch secDigests 0x10 e.1) else none

/-! ### 0x03 SECTION (R60, R61) -/

def PlanObj.isMoe (p : PlanObj) (l : Nat) : Bool := decide (l < p.nLayers) && layerKind (p.layer l) == 1
def PlanObj.moeLayers (p : PlanObj) : List Nat := (List.range p.nLayers).filter p.isMoe

/-- COUNT of a section within the range of Table 2.3. -/
def PlanObj.countOk (p : PlanObj) (t n : Nat) : Bool :=
  if t = secLayer then n == p.nLayers
  else if t = secIndex then n == (p.nLayers + 2) * 2304
  else if t = secDesc then 1 ≤ n && n ≤ 8388608
  else if t = secTensor then 1 ≤ n && n ≤ 262144
  else if t = secShard then 1 ≤ n && n ≤ 4194304
  else if t = secExpert then 1 ≤ n && n ≤ 524288
  else if t = secResv then n == p.moeLayers.length
  else if t = secNeigh then n == 6
  else n == p.modules.length

def PlanImg.tabEntry (v : PlanImg) (i : Nat) (e : List Nat) : Option Nat :=
  let t := stType e
  let before := v.tab.take i
  let off := stOffset e
  let len := stLength e
  badField [
    (0, secSize t == 0 || before.any fun x => stType x == t),
    (4, !v.obj.countOk t (stCount e)),
    (8, off % 64 != 0 || decide (off < 0x100 + 32 * v.tab.length) || decide (v.obj.totalBytes < off + len) ||
      before.any fun x => decide (off < stOffset x + stLength x ∧ stOffset x < off + len)),
    (0xC, len != stCount e * secSize t) ]

/-- Section types that a plan lacks: EXPERT_MAP and RESERVATION are required when any layer is MOE. -/
def PlanImg.absent (v : PlanImg) : List Nat :=
  let moe := !v.obj.moeLayers.isEmpty
  secTypes.filter fun t => !(v.tab.any fun e => stType e == t) && (moe || (t != secExpert && t != secResv))

def PlanImg.sections (v : PlanImg) : Option PlanFail :=
  match (indexed v.tab).findSome? fun e => (v.tabEntry e.1 e.2).map fun off => tabFail 3 stFieldRange e.1 off with
  | some x => some x
  | none => v.absent.head?.map fun t => { code := 3, status := stFieldRange, sect := 0xFFFE, off := noField, entry := t }

end Sys2Proof.Machine
end

