-- ==== Sys2Proof/Machine/PlanFields.lean ====
section
/-! DEFINITION. The plan check 0x04 FIELD: the ranges and reserved fields of Tables 2.1, 2.2, 2.4 to 2.7, 2.9 to 2.25, the phases and
units of Table 2.8, references to tensors and entries, and the rules of Table 6.11 that report under it. A bit that a table does not
list is reserved (R19). -/

namespace Sys2Proof.Machine

open Sys2Proof

/-! ### Conditions on a field -/

/-- Outside a range. -/
def out (lo hi x : Nat) : Bool := decide (x < lo) || decide (hi < x)
/-- Outside a range, or no multiple. -/
def outMul (lo hi m x : Nat) : Bool := out lo hi x || x % m != 0

def w32All : Nat := 0xFFFFFFFF
/-- Greatest value of an identifier field whose range ends at 0xFFFF_FFFE. -/
def idTop : Nat := 0xFFFFFFFE

/-- Bits outside the masks of consecutive words. -/
def reserved (off : Nat) (masks ws : List Nat) : List (Nat × Bool) :=
  (indexed masks).map fun m =>
    let x := wordAt ws (off + 4 * m.1)
    (off + 4 * m.1, (x &&& m.2) != x)

def badFloat (x : Nat) : Bool := !(f32 (w32 x)).finite
def badPositive (x : Nat) : Bool := badFloat x || decide (2 ^ 31 ≤ x) || x == 0

/-- Bytes 0, 1 and 2 of a word as a rectangle's origin or extents. -/
def boxOf (org ext : Nat) : Rect :=
  { x := bitsOf org 7 0, y := bitsOf org 15 8, z := bitsOf org 23 16
    dx := bitsOf ext 7 0, dy := bitsOf ext 15 8, dz := bitsOf ext 23 16 }

/-- An extent of zero, or a rectangle that leaves the mesh. -/
def Rect.badExtent (r : Rect) : Bool :=
  r.dx == 0 || r.dy == 0 || r.dz == 0 || decide (8 < r.x + r.dx) || decide (16 < r.y + r.dy) || decide (4 < r.z + r.dz)

def Rect.badOrigin (r : Rect) : Bool := decide (7 < r.x) || decide (15 < r.y) || decide (3 < r.z)

/-- A rectangle inside another. -/
def Rect.inside (a b : Rect) : Bool := a.modules.all b.has

/-! ### The header (Table 2.1) -/

def headMasks : List Nat :=
  [w32All, w32All, w32All, w32All, 0xFFFF, 0x3FFFF, 0xFFFFFF, 0xFFFFFF, 7, 0x1FF01FF, 0x1FF01FF] ++ List.replicate 9 w32All ++
    [0xFFFF, w32All, w32All, 0] ++ List.replicate 24 w32All ++ List.replicate 16 0

/-- PROOF entry `i`: unused ones are zero; a proof module is a module of the slice. -/
def PlanObj.badProof (p : PlanObj) (i : Nat) : Bool :=
  let x := [p.h 0x24 8 0, p.h 0x24 24 16, p.h 0x28 8 0, p.h 0x28 24 16].getD i 0
  if i < p.h 0x20 2 0 then !p.inSlice x else x != 0

def PlanObj.headRules (p : PlanObj) : List (Nat × Bool) :=
  let half := p.maxPositions / 2
  [ (0x08, out 1 idTop p.planGen), (0x0C, outMul 4096 0x80000000 64 p.totalBytes), (0x10, out 1 0xFFFE p.sliceId),
    (0x14, !p.inSlice p.moduleIndex || !p.inSlice p.leadIndex), (0x18, p.rect.badOrigin), (0x1C, p.rect.badExtent),
    (0x20, out 1 4 (p.h 0x20 2 0)), (0x24, p.badProof 0 || p.badProof 1), (0x28, p.badProof 2 || p.badProof 3),
    (0x2C, out 1 512 p.nLayers || out 1 16 (p.h 0x2C 31 16)) ] ++
  (List.range 16).map (fun c => (0x30 + c / 4 * 4, decide (144 < p.tilesUsed c))) ++
  [ (0x40, outMul 128 4096 16 p.maxPositions || outMul 64 half 64 p.chunkPositions),
    (0x44, out 256 4096 p.assumeAccept || out 1 254 p.promoteDefault || out 10 90 p.streamBwPct),
    (0x48, out 1000 1000000 p.preNs), (0x4C, out 1000 1000000 p.postNs), (0x50, out 1 half (p.h 0x50 15 0)),
    (0x54, out 2 262144 p.vocab), (0x58, out 64 1048576 p.maxContext) ]

/-- Slice fields and vocabulary of a draft plan (Table 6.11). -/
def PlanObj.draftHead (p main : PlanObj) : List (Nat × Bool) :=
  let me := main.moduleIndex
  let r := p.rect
  [ (0x10, p.sliceId != main.sliceId), (0x14, p.leadIndex != me || p.moduleIndex != me),
    (0x18, r.x != coordX me || r.y != coordY me || r.z != coordZ me), (0x1C, r.dx != 1 || r.dy != 1 || r.dz != 1),
    (0x20, p.h 0x20 2 0 != 1), (0x24, p.h 0x24 8 0 != me), (0x54, p.vocab != main.vocab),
    (0x58, decide (p.maxContext < main.maxContext)) ]

/-! ### References -/

/-- A reference that names no tensor of a kind. -/
def PlanObj.badRef (p : PlanObj) (kind id : Nat) (more : List Nat → Bool := fun _ => true) : Bool :=
  !(p.tensor id).any fun t => tnKind t == kind && more t

/-- EXPERTS of a layer's ROUTE. -/
def PlanObj.experts (p : PlanObj) (layer : Nat) : Nat :=
  ((p.sec secDesc).find? fun d => dOpc d == opRoute && dPhase d == 1 && dLayer d == layer).elim 0 rtExperts

/-- A tile that a plan uses on its C-die. -/
def PlanObj.tileUsed (p : PlanObj) (t : Nat) : Bool := decide (t < 2304) && decide (tileIn t < p.tilesUsed (tileDie t))

/-- Phase and tile of each program that holds a descriptor. -/
def PlanObj.users (p : PlanObj) (i : Nat) : List (Nat × Nat) :=
  ((indexed (p.sec secIndex)).filter fun e => decide (fld e.2 0 31 0 ≤ i ∧ i < fld e.2 0 31 0 + fld e.2 4 15 0)).map fun e =>
    (e.1 / 2304, e.1 % 2304)

/-! ### Layers, programs and descriptors (Tables 2.4 to 2.8) -/

def layerRules (i : Nat) (e : List Nat) : List (Nat × Bool) :=
  [ (0, fld e 0 15 0 != i || layerKind e == 3), (4, out 1000 1000000 (layerResNs e)),
    (8, decide (65534 < stripN e) || decide (20 < stripE e) || decide (254 < promoteN e)), (0xC, decide (32 < dodgeCap e)),
    (0x10, !layerStreamed e && fld64 e 0x10 != 0) ] ++
  reserved 0 [0xFFFFF, w32All, w32All, 0x3F, w32All, w32All, 0, 0] e

def PlanObj.indexRules (p : PlanObj) (i : Nat) (e : List Nat) : List (Nat × Bool) :=
  let first := fld e 0 31 0
  let n := fld e 4 15 0
  [ (0, if n = 0 then first != 0 else decide ((p.sec secDesc).length < first + n)),
    (4, decide (512 < n) || (n != 0 && !p.tileUsed (i % 2304))) ] ++ reserved 0 [w32All, 0xFFFF] e

/-- Unit of an opcode (Table 2.8); none for a code that is no opcode. -/
def unitOf (o : Nat) : Option Nat :=
  if o = opMatmul ∨ o = opLora ∨ o = opAttn then some 0
  else if o = opNorm ∨ o = opElemwise ∨ o = opRoute ∨ o = opSkipGate ∨ o = opCombine then some 1
  else if o = opKvAppend ∨ o = opDispatchOpc ∨ o = opCollective ∨ o = opMove ∨ o = opFabricRed ∨ o = opMcastOpc ∨ o = opEmbed ∨
    o = opSample then some 2
  else none

/-- Whether a phase is allowed for an opcode (Table 2.8). -/
def phaseAllowed (o ph : Nat) : Bool :=
  if o = opLora ∨ o = opAttn ∨ o = opKvAppend ∨ o = opRoute ∨ o = opSkipGate ∨ o = opCombine ∨ o = opDispatchOpc then ph == 1
  else if o = opEmbed then ph == 0 else if o = opSample then ph == 2 else ph != 3

/-- Destinations: Tables 2.6 and 2.7, R66, and what the opcodes say of them (R74, R76, R77, R133, R189). -/
def PlanObj.destRules (p : PlanObj) (d : List Nat) (j : Nat) : List (Nat × Bool) :=
  let o := dOpc d
  let t := dDest d j
  let used := dOutCred d j != 0
  let b := 0x20 + 16 * j
  let badAddr := t.addr % blockBytes != 0 || (match t.kind with
    | 0 => t.addr != 0
    | 1 => decide (0x100000 ≤ t.addr)
    | 2 => decide (2 ^ 53 ≤ t.addr)
    | _ => decide (2 ^ 44 ≤ t.addr))
  let expected := used && !(o == opDispatchOpc && j == 0)
  let badKind := (t.kind != 0) != expected || decide (3 < t.kind) || (t.kind == 3) != (o == opMcastOpc && t.kind != 0) ||
    (o == opFabricRed && j == 0 && t.kind != 2 && t.kind != 0)
  let badUse := (o == opDispatchOpc && used != (j == 0)) || (o == opDispatchOpc && j == 0 && dOutCred d 0 != 1) ||
    (o == opSample && j == 0 && used) || (o == opKvAppend && used) || (o == opMatmul && j == 0 && used != mmEmit d)
  [ (0x18 + 4 * j, badUse || decide (63 < dOutCh d j) || dOutCred d j == 0xFFFF || (!used && dOutCh d j != 0)), (b, badAddr),
    (b + 8, badKind || decide (63 < t.dch) || (if t.kind = 1 then decide (2303 < t.dtile) else t.dtile != 0)),
    (b + 12, t.kind == 1 && !p.inSlice t.dmod) ] ++
  reserved (0x18 + 4 * j) [0xFFFF00FF] d ++ reserved b [w32All, w32All, 0xFFFFFF07, 0x1FF] d

/-- The common fields (Table 2.6). -/
def PlanObj.commonRules (p : PlanObj) (i : Nat) (d : List Nat) : List (Nat × Bool) :=
  let o := dOpc d
  let us := p.users i
  let phase (ph : Nat) : Nat := if ph = 0 then 0 else if ph = p.postPhase then 2 else 1
  let inputs := (List.range 4).map fun k =>
    (0x08 + 4 * k, decide (63 < dInCh d k) || dInMarks d k == 0xFFFF || (dInMarks d k == 0 && dInCh d k != 0))
  [ (0, unitOf o != some (dUnit d) || !phaseAllowed o (dPhase d) || us.any (fun u => phase u.1 != dPhase d) ||
      (dVarRows d && o != opMatmul)),
    (4, (if dPhase d = 1 then decide (p.nLayers ≤ dLayer d) || us.any (fun u => u.1 != phaseOfLayer (dLayer d)) else dLayer d != 0) ||
      (!dMasked d && dMaskBlk d != 0)) ] ++
  inputs ++ reserved 0 ([0x7F03FF, 0xFFFFFF] ++ List.replicate 4 0xFFFF00FF) d ++ p.destRules d 0 ++ p.destRules d 1

/-- Defined bits of the operand words of an opcode (Tables 2.9 to 2.18), from 0x40. -/
def operandMasks (o : Nat) : List Nat :=
  let off := 0xFFFFF
  if o = opMatmul then [w32All, 0x3FFFFFFF, 0xFFFFFFF, off, w32All, w32All]
  else if o = opLora then [w32All, 0x1FFFFFF, w32All, 0xFFF, off]
  else if o = opAttn then [off, 0x1FFFFF, w32All, w32All, w32All, w32All]
  else if o = opKvAppend then [off, off, 0x3FF, w32All, 0xFFFF]
  else if o = opNorm then [off, off, w32All, w32All, 0xFFFF]
  else if o = opElemwise then [off, off, 0x3FF, w32All]
  else if o = opRoute then [off, 0x3FFFF, w32All]
  else if o = opSkipGate then [off, w32All, 0xFFFF]
  else if o = opCombine then [off, 0x3FFFF, off, w32All, 7]
  else if o = opDispatchOpc then [off, 0x3FFFF, off, w32All, 0xFF]
  else if o = opCollective then [0x1FFFF, w32All, w32All, w32All, 1]
  else if o = opEmbed then [w32All, off, off, w32All, 7]
  else if o = opSample then [off, off, off, 0xFFFF]
  else [w32All, w32All, w32All, 0xF, 0xFFFFFF, 0xFFFFFF]

def elemsWidth (x : Nat) : Bool := outMul 16 16384 16 x
def badRows (x : Nat) : Bool := out 1 2048 x
def offAlign (x : Nat) : Bool := x % blockBytes != 0

/-- RESV_IDX: the reservation entry of the descriptor's layer. -/
def PlanObj.badResv (p : PlanObj) (d : List Nat) (i : Nat) : Bool :=
  decide ((p.sec secResv).length ≤ i) || rsLayer (p.resv i) != dLayer d

def PlanObj.arrayRules (p : PlanObj) (d : List Nat) : List (Nat × Bool) :=
  let o := dOpc d
  let mn := out 1 2688 (mmM d) || outMul 48 2688 48 (mmN d)
  let badK := outMul 16 16384 16 (mmK d)
  if o = opMatmul then
    [ (0x40, mn), (0x44, badK || decide (3 < mmW d) || decide (2 < mmA d) || decide (3 < mmO d) ||
        (dVarRows d && (mmAccIn d || !mmEmit d))),
      (0x48, offAlign (mmAOff d) || decide (55 < mmAcc d)), (0x4C, dodgeCap (p.layerOf d) == 0 && fld d 0x4C 19 0 != 0),
      (0x50, offAlign (fld64 d 0x50)) ]
  else if o = opLora then
    [ (0x40, mn), (0x44, badK || out 1 256 (fld d 0x44 24 16)), (0x48, p.badRef 3 (fld d 0x48 31 0)),
      (0x4C, decide (55 < fld d 0x4C 11 4)), (0x50, offAlign (fld d 0x50 19 0)) ]
  else
    let rot := fld d 0x44 20 19
    let theta (t : List Nat) : Bool := tnFmt t == 4 && tnRows t == 1 && tnCols t == atHdim d / 2
    [ (0x40, offAlign (fld d 0x40 19 0)),
      (0x44, out 1 64 (atHq d) || out 1 64 (atHkv d) || atHq d % max 1 (atHkv d) != 0 || fld d 0x44 15 14 == 3 || decide (1 < rot)),
      (0x48, p.badRef 2 (atPagetab d)), (0x4C, badRows (atRows d) || decide (16384 < atWindow d)),
      (0x50, badPositive (fld d 0x50 31 0)), (0x54, if rot = 0 then atRope d != 0 else p.badRef 5 (atRope d) theta) ]

def PlanObj.vectorRules (p : PlanObj) (d : List Nat) : List (Nat × Bool) :=
  let o := dOpc d
  if o = opNorm then
    [ (0x40, offAlign (fld d 0x40 19 0)), (0x44, elemsWidth (nmWidth d) || decide (3 < fld d 0x44 19 17)),
      (0x48, badPositive (fld d 0x48 31 0)), (0x4C, p.badRef 5 (fld d 0x4C 31 0) fun t => tnRows t * tnCols t == nmWidth d),
      (0x50, badRows (nmRows d)) ]
  else if o = opElemwise then
    let f := fld d 0x48 3 0
    [ (0x40, offAlign (fld d 0x40 19 0)), (0x44, !elemTwo f && fld d 0x44 19 0 != 0),
      (0x48, decide (5 < f) || decide (3 < fld d 0x48 6 4) || decide (3 < fld d 0x48 9 7)),
      (0x4C, elemsWidth (elWidth d) || badRows (elRows d)) ]
  else if o = opRoute then
    [ (0x44, out 2 1024 (rtExperts d) || out 1 16 (rtTopk d) || decide (rtExperts d < rtTopk d)),
      (0x48, badRows (rtRows d) || p.badResv d (fld d 0x48 31 16)) ]
  else if o = opSkipGate then [ (0x44, badFloat (fld d 0x44 31 0)), (0x48, badRows (fld d 0x48 15 0)) ]
  else
    [ (0x44, elemsWidth (cbWidth d) || decide (1 < fld d 0x44 17 16)), (0x4C, p.badResv d (fld d 0x4C 15 0) || badRows (cbRows d)),
      (0x50, decide (3 < fld d 0x50 2 0)) ]

def PlanObj.moverRules (p : PlanObj) (d : List Nat) : List (Nat × Bool) :=
  let o := dOpc d
  if o = opKvAppend then
    [ (0x40, offAlign (fld d 0x40 19 0)), (0x44, offAlign (fld d 0x44 19 0)), (0x48, out 1 64 (kaHkv d) || fld d 0x48 8 7 == 3),
      (0x4C, p.badRef 2 (kaTab d)), (0x50, badRows (kaRows d)) ]
  else if o = opDispatchOpc then
    [ (0x44, elemsWidth (fld d 0x44 15 0) || fld d 0x44 17 16 == 3), (0x4C, p.badResv d (fld d 0x4C 15 0) || badRows (fld d 0x4C 31 16)),
      (0x50, decide (63 < fld d 0x50 7 0)) ]
  else if o = opCollective then
    let c := p.coll p.moduleIndex d
    let axes := fld d 0x40 5 3
    [ (0x40, decide (3 < c.kind) || axes == 0 || c.efmt == 3 || (c.efmt == 2 && (c.kind == 0 || c.kind == 2)) ||
        (if c.kind = 3 then !c.members.contains c.root else c.root != 0)),
      (0x44, out 1 16777216 c.count || (c.kind == 2 && c.count % max 1 c.n != 0)), (0x48, offAlign (fld64 d 0x48)) ]
  else if o = opEmbed then
    [ (0x40, p.badRef 0 (fld d 0x40 31 0)), (0x44, decide (262143 < fld d 0x44 19 0)), (0x48, out 1 262144 (fld d 0x48 19 0)),
      (0x4C, elemsWidth (fld d 0x4C 15 0) || badRows (fld d 0x4C 31 16)), (0x50, decide (3 < fld d 0x50 2 0)) ]
  else if o = opSample then
    [ (0x40, offAlign (fld d 0x40 19 0)), (0x44, decide (262143 < fld d 0x44 19 0)), (0x48, out 1 262144 (fld d 0x48 19 0)),
      (0x4C, badRows (fld d 0x4C 15 0)) ]
  else
    let r := boxOf (fld d 0x50 31 0) (fld d 0x54 31 0)
    let mc := o == opMcastOpc
    [ (0x40, offAlign (mvSrc d)), (0x48, outMul 4096 268435456 4096 (mvLen d)),
      (0x4C, if o = opFabricRed then decide (2 < fld d 0x4C 3 1) else fld d 0x4C 3 1 != 0),
      (0x50, if mc then r.badOrigin else fld d 0x50 23 0 != 0),
      (0x54, if mc then r.badExtent || !r.inside p.rect else fld d 0x54 23 0 != 0) ]

def PlanObj.descRules (p : PlanObj) (i : Nat) (d : List Nat) : List (Nat × Bool) :=
  let m := operandMasks (dOpc d)
  p.commonRules i d ++ reserved 0x40 (m ++ List.replicate (16 - m.length) 0) d ++ (match unitOf (dOpc d) with
    | none => []
    | some 0 => p.arrayRules d
    | some 1 => p.vectorRules d
    | some _ => p.moverRules d)

/-! ### Tensors, shards and the slice tables (Tables 2.19 to 2.25) -/

/-- An earlier entry of a section that agrees in a key. -/
def PlanObj.before (p : PlanObj) (t i : Nat) (same : List Nat → Bool) : Bool := ((p.sec t).take i).any same

/-- Only a WEIGHT tensor carries a T0 hint (R44). -/
def badHint (t : List Nat) : Bool :=
  let kind := tnHint t % 4
  kind == 3 || (kind == 0 && tnHint t / 4 != 0) || (kind != 0 && tnHint t / 4 == 0 && tnKind t != 0)

def hintT0 (t : List Nat) : Bool := tnHint t % 4 != 0 && tnHint t / 4 == 0

def PlanObj.tensorRules (p : PlanObj) (i : Nat) (t : List Nat) : List (Nat × Bool) :=
  [ (0, out 1 idTop (fld t 0 31 0) || p.before secTensor i fun x => fld x 0 31 0 == fld t 0 31 0),
    (4, decide (6 < tnKind t) || decide (7 < tnFmt t) || ((tnFmt t == 5 || tnFmt t == 6) && tnKind t != 1) || badHint t ||
      (tnStreamed t && tnKind t != 0)),
    (8, tnBase t % pageBytes != 0 || decide (2 ^ 44 ≤ tnBase t)),
    (0x10, tnBytes t == 0 || decide (2 ^ 44 < tnBase t + tnPages t * pageBytes)), (0x18, out 1 idTop (tnRows t)),
    (0x1C, out 1 idTop (tnCols t)), (0x20, if tnLayerValid t then decide (p.nLayers ≤ tnLayer t) else tnLayer t != 0),
    (0x24, if hintT0 t then decide (2303 < tnTile t) else tnTile t != 0) ] ++
  reserved 0 ([w32All, 0x1FFFFF] ++ List.replicate 6 w32All ++ [0x1FFFF, 0xFFFF] ++ List.replicate 6 0) t

/-- A shard map entry. A shard of this module names a tensor of the plan; those of a draft plan are all this module's, under ids that
the main plan does not use (Table 6.11). -/
def PlanObj.shardRules (p : PlanObj) (main : Option PlanObj) (i : Nat) (e : List Nat) : List (Nat × Bool) :=
  let mine := fld e 4 8 0 == p.moduleIndex
  [ (0, out 1 idTop (shId e) || p.before secShard i (fun x => shId x == shId e) ||
      main.any fun m => (m.sec secShard).any fun x => shId x == shId e),
    (4, main.isSome && !mine), (8, mine && (p.tensor (shTensor e)).isNone), (0x10, shOffset e % 4096 != 0),
    (0x18, outMul 4096 4294967296 4096 (shLength e)) ] ++
  reserved 0 ([w32All, 0x101FF, w32All, 0] ++ List.replicate 16 w32All ++ List.replicate 4 0) e

def PlanObj.expertRules (p : PlanObj) (e : List Nat) : List (Nat × Bool) :=
  let l := fld e 0 15 0
  let tiles := expertTiles e
  [ (0, !p.isMoe l || decide (p.experts l ≤ exExpert e)), (4, !p.inSlice (exOwner e)),
    (8, out 1 144 (exTiles e) || decide (2304 < exFirstTile e + exTiles e) ||
      (exOwner e == p.moduleIndex && !tiles.all p.tileUsed)) ] ++ reserved 0 [0x3FFFFFF, 0x1FF, 0xFFFFFF, 0] e

/-- A tensor that a local address names by its base: of kind DISPATCH_BUF, pinned in T1. -/
def PlanObj.dispBuf (p : PlanObj) (a : Nat) : Option (List Nat) :=
  (p.tensorAt a).filter fun t => tnKind t == 6 && tnHint t == 6

def PlanObj.resvRules (p : PlanObj) (i : Nat) (e : List Nat) : List (Nat × Bool) :=
  [ (0, !p.isMoe (rsLayer e) || p.before secResv i fun x => decide (rsLayer e < rsLayer x)),
    (4, rsSlots e != p.maxPositions / 2 * p.topk (rsLayer e)), (0x10, (p.dispBuf (rsBase e)).isNone) ] ++
  reserved 0 [0xFFFF, w32All, 0xFFFF, 0, w32All, w32All, 0, 0] e

def PlanObj.routingRules (p : PlanObj) (i : Nat) (e : List Nat) : List (Nat × Bool) :=
  [ (0, !p.inSlice (fld e 0 8 0) || p.before secRouting i fun x => fld x 0 8 0 == fld e 0 8 0),
    (4, fld e 0 9 9 == 0 && fld e 4 8 0 != 0) ] ++ reserved 0 [0x3FF, 0x1FF, 0, 0] e

def PlanObj.neighRules (p : PlanObj) (i : Nat) (e : List Nat) : List (Nat × Bool) :=
  let words := List.replicate 4 w32All
  [ (0, decide (5 < fld e 0 2 0) || p.before secNeigh i fun x => fld x 0 2 0 == fld e 0 2 0), (4, decide (5 < nbPort e)) ] ++
  reserved 0 (if nbExpected e then [0x707, 0xFFF] ++ words ++ [0xFFFF] ++ List.replicate 9 0 else 7 :: List.replicate 15 0) e

def PlanObj.digestRules (p : PlanObj) (i : Nat) (e : List Nat) : List (Nat × Bool) :=
  [ (0, !p.inSlice (fld e 0 8 0) || p.before secDigests i fun x => decide (fld e 0 8 0 ≤ fld x 0 8 0)) ] ++
  reserved 0 ([0x1FF, 0, 0, 0] ++ List.replicate 12 w32All) e

/-! ### The check -/

def PlanObj.entryRules (p : PlanObj) (main : Option PlanObj) (t i : Nat) (e : List Nat) : List (Nat × Bool) :=
  if t = secLayer then layerRules i e else if t = secIndex then p.indexRules i e else if t = secDesc then p.descRules i e
  else if t = secTensor then p.tensorRules i e else if t = secShard then p.shardRules main i e
  else if t = secExpert then p.expertRules e else if t = secResv then p.resvRules i e
  else if t = secRouting then p.routingRules i e else if t = secNeigh then p.neighRules i e else p.digestRules i e

/-- 0x04 FIELD: the header, the section table's reserved fields, then the sections in table order. -/
def PlanImg.fields (v : PlanImg) (main : Option PlanObj) : Option PlanFail :=
  let p := v.obj
  let head := badField (p.headRules ++ reserved 0 headMasks p.hdr ++ main.elim [] p.draftHead)
  firstOf ([head.map (headFail 4 stFieldRange),
    (indexed v.tab).findSome? fun e =>
      (badField (reserved 0 ([0xFFFF, w32All, w32All, w32All] ++ List.replicate 4 0) e.2)).map (tabFail 4 stFieldRange e.1)] ++
    v.tab.map fun x => v.each 4 stFieldRange (stType x) fun i e => badField (p.entryRules main (stType x) i e))

end Sys2Proof.Machine
end

