-- ==== Sys2Proof/Machine/PlanLimits.lean ====
section
/-! DEFINITION. The plan checks 0x05 LENGTH and 0x06 OPERANDS: buffers and their sizes (R68, R80, R94, R106, R120, R186, R188), and what
operands and layers allow of each other (R62, R71, R100, R108, R113, R120, R121, R133, R141, R233, R358, Table 6.11). -/

namespace Sys2Proof.Machine

open Sys2Proof

/-! ### What a descriptor uses of its tile's activation buffer -/

def actBytes : Nat := 0x100000

/-- A region by its offset. -/
def PlanObj.region (p : PlanObj) (ph l off rows width form : Nat) : Region :=
  { base := off, rows := rows, width := width, form := form, strip := decide (form ≤ 1) && (p.stripMatmul ph l off).isSome }

/-- Row capacity: its field and value; none for a descriptor without rows. -/
def rowField (d : List Nat) : Option (Nat × Nat) :=
  let o := dOpc d
  if o = opMatmul ∨ o = opLora then some (0x40, mmM d) else if o = opAttn then some (0x4C, atRows d)
  else if o = opKvAppend then some (0x50, kaRows d) else if o = opNorm then some (0x50, nmRows d)
  else if o = opElemwise then some (0x4C, elRows d) else if o = opRoute then some (0x48, rtRows d)
  else if o = opSkipGate then some (0x48, fld d 0x48 15 0)
  else if o = opCombine ∨ o = opDispatchOpc ∨ o = opEmbed then some (0x4C, fld d 0x4C 31 16)
  else if o = opSample then some (0x4C, fld d 0x4C 15 0) else none

/-- Width of the rows that a descriptor writes. -/
def outWidth (d : List Nat) : Nat :=
  let o := dOpc d
  if o = opMatmul then mmN d else if o = opAttn then atHq d * atHdim d else if o = opNorm then nmWidth d
  else if o = opElemwise then elWidth d else if o = opCombine then cbWidth d else if o = opEmbed then fld d 0x4C 15 0 else 0

/-- The activation regions that a descriptor reads, each by its field. -/
def PlanObj.inRegions (p : PlanObj) (ph l : Nat) (d : List Nat) : List (Nat × Region) :=
  let o := dOpc d
  let rows := (rowField d).elim 0 (·.2)
  let form (off dflt : Nat) : Nat := p.formAt p.moduleIndex ph l off dflt
  let at_ (f off width form : Nat) : Nat × Region := (f, p.region ph l off rows width form)
  let o40 := fld d 0x40 19 0
  let o44 := fld d 0x44 19 0
  if o = opMatmul then [at_ 0x48 (mmAOff d) (mmK d) (mmA d)]
  else if o = opLora then [at_ 0x50 (fld d 0x50 19 0) (mmK d) (form (fld d 0x50 19 0) 0)]
  else if o = opAttn then [at_ 0x40 o40 (atHq d * atHdim d) (form o40 2)]
  else if o = opKvAppend then [at_ 0x40 o40 (kaHkv d * kaDim d) 2, at_ 0x44 o44 (kaHkv d * kaDim d) 2]
  else if o = opNorm then [at_ 0x40 o40 (nmWidth d) (form o40 3)]
  else if o = opElemwise then
    let f := fld d 0x48 9 7
    at_ 0x40 o40 (elWidth d) f :: if elemTwo (fld d 0x48 3 0) then [at_ 0x44 o44 (elWidth d) f] else []
  else if o = opRoute then [at_ 0x40 o40 (rtExperts d) 3]
  else if o = opSkipGate then [at_ 0x40 o40 16 3]
  else if o = opCombine then [at_ 0x40 o40 (cbWidth d) (form o40 3)]
  else if o = opDispatchOpc then [at_ 0x40 o40 (fld d 0x44 15 0) 2]
  else if o = opSample then [at_ 0x40 o40 (fld d 0x48 19 0) 3]
  else []

/-- Bytes of a MATMUL's side list (R106). -/
def PlanObj.sideSize (p : PlanObj) (d : List Nat) : Nat :=
  if dOpc d = opMatmul ∧ !dVarRows d then mmM d * ceilDiv (mmK d) 1024 * dodgeCap (p.layerOf d) * 4 else 0

/-- Every part of the activation buffer that a descriptor uses: field, offset and bytes. -/
def State.actUses (s : State) (ph l : Nat) (d : List Nat) : List (Nat × Nat × Nat) :=
  let p := s.plan
  let o := dOpc d
  let raw := o == opMove || o == opFabricRed || o == opMcastOpc
  (p.inRegions ph l d).map (fun r => (r.1, r.2.base, r.2.bytes)) ++
  (if p.sideSize d = 0 then [] else [(0x4C, fld d 0x4C 19 0, p.sideSize d)]) ++
  (if dMasked d then [(4, dMaskBlk d * blockBytes, blockBytes)] else []) ++
  (if o = opCombine ∨ o = opDispatchOpc then [(0x48, slotOff d, (rowField d).elim 0 (·.2) * p.topk (dLayer d) * 8)] else []) ++
  (if o = opCollective ∧ fld d 0x50 0 0 = 0 then
    [(0x48, fld64 d 0x48, (p.coll p.moduleIndex d).count * (p.coll p.moduleIndex d).elem)] else []) ++
  (if raw && !mvRange d then [(0x40, mvSrc d, mvLen d)] else [])

/-- The regions that a descriptor's outputs fill in activation buffers. -/
def State.tileOuts (s : State) (ph : Nat) (d : List Nat) : List (Nat × Dest × Nat) :=
  ((outsUsed d).filter fun j => (dDest d j).kind == 1).map fun j => (0x20 + 16 * j, dDest d j, s.outBytes ph d (dDest d j))

/-- The operators on this module whose output lands in a region that a descriptor reads: those of the phase and half-batch that write
to it on a channel that the descriptor names. The activation buffer holds nothing across a layer boundary (R38). -/
def PlanObj.writers (p : PlanObj) (ph l : Nat) (d : List Nat) (r : Region) : List (List Nat × Dest) :=
  let chans := ((List.range 4).filter fun k => dInMarks d k != 0).map (dInCh d)
  ((p.phaseTiles ph).flatMap fun t => (p.tileProg ph t).map (·.2)).flatMap fun w =>
    if (outForm w).isNone || dHb w != dHb d then [] else
      ((outsUsed w).map (dDest w)).filterMap fun t =>
        if t.kind == 1 && t.dmod == p.moduleIndex && t.dtile == l && chans.contains t.dch && decide (r.base ≤ t.addr) &&
          decide (t.addr < r.base + r.bytes) then some (w, t) else none

/-! ### Expert tiles and returns (R186, R188) -/

/-- Whether a tile of this module is an expert tile of a layer. -/
def PlanObj.expertTile (p : PlanObj) (ph l : Nat) : Bool :=
  decide (0 < ph ∧ ph < p.postPhase) && (p.expertOfTile p.moduleIndex (ph - 1) l).isSome

/-- Bytes that end above the arrival lists' first block. -/
def onLists (off bytes : Nat) : Bool := decide (bytes ≠ 0 ∧ 0xFE000 < off + bytes)

/-- Bytes of a layer's return region: 2 × SLOTS rows of the COMBINE's WIDTH. -/
def PlanObj.returnBytes (p : PlanObj) (layer hb : Nat) : Nat := 2 * p.slotsOf layer * p.returnRow layer hb

/-- A RANGE destination in a chain whose region or rows have another size. -/
def PlanObj.badReturn (p : PlanObj) (d : List Nat) (j : Nat) : Bool :=
  let t := dDest d j
  let width := (p.descOf opCombine (phaseOfLayer (dLayer d)) (dHb d)).elim 0 fun e => cbWidth e.2
  t.kind == 2 && (outWidth d != width || (p.dispBuf (fabLocal t.addr)).any fun x => tnBytes x != p.returnBytes (dLayer d) (dHb d))

/-! ### 0x05 LENGTH -/

/-- Accumulator blocks from ACC_BASE on (R68). -/
def accEnd (d : List Nat) : Nat :=
  (if dOpc d = opMatmul then mmAcc d else fld d 0x4C 11 4) + ceilDiv (mmM d) 48 * (mmN d / 48)

/-- The limits of a descriptor in one program that holds it. -/
def State.useLimits (s : State) (i : Nat) (d : List Nat) (u : Nat × Nat) : List (Nat × Bool) :=
  let p := s.plan
  let chain := p.inChain u.1 u.2 i
  let uses := s.actUses u.1 u.2 d
  let outs := s.tileOuts u.1 d
  let expert := p.expertTile u.1 u.2
  let rows := (rowField d).elim [] fun r =>
    [(r.1, (!chain && decide (r.2 < p.maxPositions / 2)) || (p.inRegions u.1 u.2 d).any fun g =>
      (p.writers u.1 u.2 d g.2).any fun w => (rowField w.1).elim 0 (·.2) != r.2)]
  uses.map (fun x => (x.1, decide (actBytes < x.2.1 + x.2.2) || (expert && onLists x.2.1 x.2.2))) ++
  outs.map (fun x => (x.1, decide (actBytes < x.2.1.addr + x.2.2) ||
    (x.2.1.dmod == p.moduleIndex && p.expertTile u.1 x.2.1.dtile && onLists x.2.1.addr x.2.2))) ++ rows ++
  (if chain then (outsUsed d).map fun j => (0x20 + 16 * j, p.badReturn d j) else [])

def State.descLimits (s : State) (i : Nat) (d : List Nat) : Option Nat :=
  let p := s.plan
  let o := dOpc d
  badField ([
    (0x48, o == opMatmul && decide (56 < accEnd d)), (0x4C, o == opLora && decide (56 < accEnd d)),
    (0x48, (o == opEmbed || o == opSample) && decide (p.vocab < fld d 0x44 19 0 + fld d 0x48 19 0)) ] ++
    (p.users i).flatMap fun u => s.useLimits i d u)

/-- The ATTN heads of a layer on this module: the sum of HKV over its ATTN tiles (Table 4.1). -/
def PlanObj.layerHeads (p : PlanObj) (layer : Nat) : Nat := p.headBase (phaseOfLayer layer) 2304

/-- The pool tensors of a group, in table order. -/
def PlanObj.groupPools (p : PlanObj) (tab : Nat) : List (List Nat) :=
  (p.sec secTensor).filter fun t => tnKind t == 1 && tnLayerValid t && (p.attnOf (tnLayer t)).any fun d => atPagetab d == tab

/-- PAGETAB and HDIM that a pool's layer has. -/
def PlanObj.poolAttn (p : PlanObj) (t : List Nat) : Option (Nat × Nat) :=
  if !tnLayerValid t then none else (p.attnOf (tnLayer t)).map fun d => (atPagetab d, atHdim d)

/-- Size rules of Table 4.1. -/
def PlanObj.poolLimits (p : PlanObj) (t : List Nat) : List (Nat × Bool) :=
  match p.poolAttn t with
  | none => []
  | some (tab, dim) =>
    let h := tnCols t
    let page := if tnFmt t = 6 then p4Bytes h dim else p8Bytes h dim
    let rings := if tnFmt t = 6 then ((p.tensor tab).elim 0 tnRows) * 6 * p8Bytes h dim else 0
    [ (0x10, decide (tnBytes t < tnRows t * page + rings)),
      (0x18, out 1 16777214 (tnRows t) || (p.groupPools tab).any fun x => tnRows x != tnRows t),
      (0x1C, h != p.layerHeads (tnLayer t)) ]

def PlanObj.tensorLimits (p : PlanObj) (t : List Nat) : Option Nat :=
  badField (
    if tnKind t = 2 then
      [ (0x10, decide (tnBytes t < tnRows t * tnCols t * 4)), (0x18, out 1 4096 (tnRows t)),
        (0x1C, out (ceilDiv p.maxContext 64) 16384 (tnCols t)) ]
    else if tnKind t = 1 then p.poolLimits t else [])

/-- A reservation's buffer: 2 × SLOTS packed rows, within its tensor (R80). -/
def PlanObj.resvLimits (p : PlanObj) (e : List Nat) : Option Nat :=
  let need (hb : Nat) : Nat := 2 * rsSlots e * packedRow (p.dispForm (rsLayer e) hb).2 (p.dispForm (rsLayer e) hb).1
  let have_ := rsPages e * pageBytes
  badField [ (4, rsSlots e == w32All), (8, rsPages e == 0xFFFF || decide (have_ < need 0) || decide (have_ < need 1) ||
    !(p.dispBuf (rsBase e)).any fun t => decide (rsBase e + have_ ≤ tnBase t + tnPages t * pageBytes)) ]

def PlanObj.shardLimits (p : PlanObj) (e : List Nat) : Option Nat :=
  if fld e 4 8 0 != p.moduleIndex then none else
    badField [(0x18, !(p.tensor (shTensor e)).any fun t => decide (shOffset e + shLength e ≤ tnPages t * pageBytes))]

/-- The first place of a tensor table's entry. -/
def PlanObj.tensorPlace (p : PlanObj) (f : List Nat → Bool) : Nat := (p.sec secTensor).findIdx f

/-- Rules over the whole table: 1 to 8 groups (R120), and a draft plan's 2^31 weight elements (Table 6.11). -/
def PlanImg.tableLimits (v : PlanImg) (draft : Bool) : Option PlanFail :=
  let p := v.obj
  let weights := (p.sec secTensor).filter fun t => tnKind t == 0
  let total := weights.foldl (fun n t => n + tnRows t * tnCols t) 0
  if p.groups.isEmpty then some (v.fail 5 stLenRange secTensor noField noEntry)
  else if 8 < p.groups.length then some (v.fail 5 stLenRange secTensor noField (p.tensorPlace fun t => tnKind t == 2))
  else if draft ∧ 2147483648 < total then some (v.fail 5 stLenRange secTensor noField (p.tensorPlace fun t => tnKind t == 0))
  else none

/-- 0x05 LENGTH, on the state with the plan as its plan. -/
def State.planLengths (s : State) (v : PlanImg) (draft : Bool) : Option PlanFail :=
  let p := v.obj
  firstOf (v.tab.map (fun x =>
    let t := stType x
    v.each 5 stLenRange t fun i e =>
      if t = secLayer then (if layerStreamed e ∧ fld64 e 0x10 = 2 ^ 64 - 1 then some 0x10 else none)
      else if t = secDesc then s.descLimits i e else if t = secTensor then p.tensorLimits e
      else if t = secShard then p.shardLimits e else if t = secResv then p.resvLimits e else none) ++ [v.tableLimits draft])

/-! ### 0x06 OPERANDS -/

/-- The rules of a WIDE layer (R62). -/
def badWide (d : List Nat) : List (Nat × Bool) :=
  let o := dOpc d
  let f := (outForm d).getD 3
  [ (0, o == opLora), (0x44, o == opMatmul && (mmW d != 3 || mmA d != 2 || decide (f < 2))),
    (if o = opNorm then 0x44 else if o = opElemwise then 0x48 else 0x50,
      (o == opNorm || o == opElemwise || o == opEmbed) && decide (f < 2)) ]

/-- STRIP_OK and SHADOW_OK where R113 and R358 do not allow them. -/
def PlanObj.badSampling (p : PlanObj) (d : List Nat) : Bool :=
  let plain := dOpc d == opMatmul && mmEmit d && !mmAccIn d && !dVarRows d
  (dStripOk d && (!plain || layerKind (p.layerOf d) == 2)) || (dShadowOk d && !plain)

/-- A region's producers by R108: their first columns, in regions whose consumer has a DODGE_CAP. -/
def PlanObj.badSpans (p : PlanObj) (u : Nat × Nat) (d : List Nat) : List (Nat × Bool) :=
  if dodgeCap (p.layerOf d) = 0 then [] else
    ((p.inRegions u.1 u.2 d).filter fun g => decide (g.2.form ≤ 1)).map fun g =>
      (g.1, (p.writers u.1 u.2 d g.2).any fun w => (w.2.addr - g.2.base) / max 1 g.2.panel * 16 % 1024 != 0)

/-- A DISPATCH or KV_APPEND whose input another form writes (R100, R133). -/
def PlanObj.badSource (p : PlanObj) (u : Nat × Nat) (d : List Nat) : List (Nat × Bool) :=
  if dOpc d != opDispatchOpc && dOpc d != opKvAppend then [] else
    (p.inRegions u.1 u.2 d).map fun g => (g.1, (p.writers u.1 u.2 d g.2).any fun w => outForm w.1 != some 2)

/-- The ATTN descriptors of a plan. -/
def PlanObj.attnDescs (p : PlanObj) : List (List Nat) := (p.sec secDesc).filter fun d => dOpc d == opAttn

/-- ATTN and KV_APPEND against their layer and group (R71, R120, R141). -/
def PlanObj.badAttn (p : PlanObj) (d : List Nat) : List (Nat × Bool) :=
  let o := dOpc d
  if o = opAttn then
    let form := (p.groupPools (atPagetab d)).find? fun t => tnLayer t == dLayer d
    [ (0x44, p.attnDescs.any fun e =>
        ((dLayer e == dLayer d || atPagetab e == atPagetab d) && atHdim e != atHdim d) || atTable e != atTable d),
      (0x44, form.any fun t => (tnFmt t == 6) != atK4 d),
      (0x48, form.isNone || p.attnDescs.any fun e => dLayer e == dLayer d && atPagetab e != atPagetab d) ]
  else if o = opKvAppend then
    [ (0x48, p.attnDescs.any fun e => atPagetab e == kaTab d && (atHdim e != kaDim d || atK4 e != (fld d 0x48 9 9 == 1))) ]
  else []

/-- Opcodes that a draft plan may not hold (Table 6.11). -/
def notInDraft (o : Nat) : Bool :=
  o == opDispatchOpc || o == opCollective || o == opFabricRed || o == opMcastOpc || o == opLora

def PlanObj.descOperands (p : PlanObj) (draft : Bool) (i : Nat) (d : List Nat) : Option Nat :=
  let o := dOpc d
  let l := p.layerOf d
  badField ([
    (0, p.badSampling d || (dMasked d && fld l 0 19 19 == 0) || (draft && notInDraft o)),
    (0x44, o == opMatmul && (pairRate (mmW d) (mmA d)).isNone), (0x4C, dVarRows d && fld d 0x4C 19 0 != 0) ] ++
    (if layerKind l = 2 then badWide d else []) ++ p.badAttn d ++
    (p.users i).flatMap fun u => p.badSpans u d ++ p.badSource u d)

/-- Rules of Table 4.1 but for sizes, and the ADAPTER_POOL's hint (R233). -/
def PlanObj.tensorOperands (p : PlanObj) (i : Nat) (t : List Nat) : Option Nat :=
  let same (x : List Nat) : Bool := tnKind x == 1 && tnLayerValid x && tnLayer x == tnLayer t
  badField (match tnKind t with
    | 1 => [ (4, (tnFmt t != 5 && tnFmt t != 6) || hintT0 t || (p.poolAttn t).any fun a => (p.groupPools a.1).any fun x => tnFmt x != tnFmt t),
             (0x20, !tnLayerValid t || p.before secTensor i same) ]
    | 2 => [(4, tnFmt t != 7 || hintT0 t)]
    | 3 => [(4, tnHint t != 6)]
    | _ => [])

/-- 0x06 OPERANDS. -/
def PlanImg.operands (v : PlanImg) (draft : Bool) : Option PlanFail :=
  let p := v.obj
  firstOf (v.tab.map fun x =>
    let t := stType x
    v.each 6 stFieldRange t fun i e =>
      if t = secDesc then p.descOperands draft i e else if t = secTensor then p.tensorOperands i e
      else if t = secShard then
        (if fld e 4 8 0 == p.moduleIndex && (p.tensor (shTensor e)).any (fun y => tnKind y == 1 || tnKind y == 2) then some 8 else none)
      else none)

end Sys2Proof.Machine
end

