-- ==== Sys2Proof/Machine/PlanPlaces.lean ====
section
/-! DEFINITION. The plan checks 0x07 MAPPING (R47, R50, R68, R170, R174, R177, R181, R188), 0x08 CAPACITY (R43, R44, R255, Table 6.11) and
0x09 TILES (R40, R224). -/

namespace Sys2Proof.Machine

open Sys2Proof

/-! ### 0x07 MAPPING -/

/-- Every page of a range of local addresses is mapped by the plan. -/
def PlanObj.mapsAll (p : PlanObj) (a n : Nat) : Bool :=
  n == 0 || (rangeFrom (pageOf a) (pageOf (a + n - 1) + 1 - pageOf a)).all fun pg => (p.tensorAt (pg * pageBytes)).isSome

/-- A module-range address: its index bits are zero or this module's (R174), and it is mapped. -/
def PlanObj.localOk (p : PlanObj) (a n : Nat) : Bool :=
  decide (a < 2 ^ 53) && (fabMod a == 0 || fabMod a == p.moduleIndex) && p.mapsAll (fabLocal a) n

/-- A fabric address: inside the slice, and mapped where it resolves here. -/
def PlanObj.fabricOk (p : PlanObj) (a n : Nat) : Bool :=
  decide (a < 2 ^ 53) && p.inSlice (fabMod a) && (fabMod a != p.moduleIndex || p.mapsAll (fabLocal a) n)

/-- The pages of a MATMUL's weights lie where its tile can read them (R68). -/
def PlanObj.weightsOk (p : PlanObj) (l : Nat) (d : List Nat) : Bool :=
  let a := fabLocal (fld64 d 0x50)
  let n := weightBytes (mmW d) (mmK d) (mmN d)
  (rangeFrom (pageOf a) (pageOf (a + n - 1) + 1 - pageOf a)).all fun pg =>
    (p.tensorAt (pg * pageBytes)).any fun t => tnKind t == 0 &&
      (tnStreamed t || if hintT0 t then tnTile t == l else p.readerDie t pg == tileDie l)

/-- A destination's addresses. -/
def State.destOk (s : State) (ph : Nat) (chain : Bool) (d : List Nat) (j : Nat) : Bool :=
  let p := s.plan
  let o := dOpc d
  let t := dDest d j
  let n := if o = opFabricRed ∨ o = opMcastOpc then mvLen d else s.outBytes ph d t
  let mine := if t.kind = 1 then t.dmod == p.moduleIndex else fabMod t.addr == p.moduleIndex
  match t.kind with
  | 1 => o != opCollective || mine
  | 2 =>
    if chain then p.localOk t.addr (p.returnBytes (dLayer d) (dHb d)) && (p.dispBuf (fabLocal t.addr)).any fun x => tnBase x == fabLocal t.addr
    else p.fabricOk t.addr n && (o != opCollective || mine) &&
      (o != opFabricRed || !mine || (p.tensorAt (fabLocal t.addr)).any fun x => tnHint x == 6 || tnHint x == 10)
  | 3 => !(boxOf (fld d 0x50 31 0) (fld d 0x54 31 0)).has p.moduleIndex || p.mapsAll t.addr n
  | _ => true

/-- The addresses of a descriptor's sources. -/
def PlanObj.sourceRules (p : PlanObj) (d : List Nat) : List (Nat × Bool) :=
  let o := dOpc d
  let c := p.coll p.moduleIndex d
  [ (0x50, o == opMatmul && !p.localOk (fld64 d 0x50) (weightBytes (mmW d) (mmK d) (mmN d))),
    (0x48, o == opCollective && fld d 0x50 0 0 == 1 && !p.localOk (fld64 d 0x48) (c.count * c.elem)),
    (0x40, (o == opFabricRed || o == opMcastOpc) && mvRange d && !p.localOk (mvSrc d) (mvLen d)),
    (0x40, o == opMove && mvRange d && !p.fabricOk (mvSrc d) (mvLen d)) ]

def State.descPlaces (s : State) (i : Nat) (d : List Nat) : Option Nat :=
  let p := s.plan
  badField (p.sourceRules d ++ (p.users i).flatMap fun u =>
    [ (0x20, !s.destOk u.1 (p.inChain u.1 u.2 i) d 0), (0x30, !s.destOk u.1 (p.inChain u.1 u.2 i) d 1),
      (0x50, dOpc d == opMatmul && !p.weightsOk u.2 d) ])

/-- A port of this module that a link crosses. -/
def portHere (me : Nat) (l : Nat × Nat) : Option Nat :=
  if l.1 = me then some l.2 else if (farEnd l).1 = me then some (farEnd l).2 else none

/-- A routing entry against R170: its waypoint, and the ports of this module that its routes cross from any module of the slice. -/
def PlanObj.routingPlaces (p : PlanObj) (e : List Nat) : Option Nat :=
  let dest := fld e 0 8 0
  let via := fld e 4 8 0
  let detour := fld e 0 9 9 == 1
  let legs (a : Nat) : List (Nat × Nat) := if detour then route a via ++ route via dest else route a dest
  let crosses := p.modules.any fun a => ((legs a).filterMap (portHere p.moduleIndex)).any fun q => !nbExpected (p.neighbour q)
  badField [(0, crosses), (4, detour && (!p.inSlice via || via == dest))]

/-- 0x07 MAPPING, on the state with the plan as its plan. -/
def State.planPlaces (s : State) (v : PlanImg) : Option PlanFail :=
  firstOf (v.tab.map fun x =>
    let t := stType x
    v.each 7 stFieldRange t fun i e =>
      if t = secDesc then s.descPlaces i e else if t = secRouting then v.obj.routingPlaces e else none)

/-! ### 0x08 CAPACITY -/

/-- Pages of the plans that a load replaces are judged as free: for a main plan both plans', for a draft the draft's. -/
def State.clearFor (s : State) (draft : Bool) : State :=
  ((if draft then [] else s.wts.main.toList) ++ s.wts.draft.toList).foldl (fun a q => a.unmapPlan q) s

/-- Where a plan's logical tiles start on a C-die (Table 6.11). -/
def State.tileStart (s : State) (draft : Bool) (die : Nat) : Nat := if draft then s.plan.tilesUsed die else 0

/-- One tensor placed, unless one before it found no room: the state with its pages, or its place in the table. -/
def State.fitTensor (p : PlanObj) (start : Nat → Nat) (e : Nat × List Nat) (s : State) : State ⊕ Nat :=
  if tnStreamed e.2 then .inl s else
    match s.mapTensor p start e.2 (tnPages e.2) with
    | none => .inr e.1
    | some s1 => .inl s1

/-- The tensors placed in order: the state with their pages, or the place of the first for which there is no room. -/
def State.fitTensors (p : PlanObj) (start : Nat → Nat) (l : List (Nat × List Nat)) (s : State) : State ⊕ Nat :=
  l.foldl (fun (a : State ⊕ Nat) e => match a with
    | .inl t => State.fitTensor p start e t
    | .inr i => .inr i) (.inl s)

/-- The streamed tensors that a layer's MATMULs read, in table order. -/
def PlanObj.streamedOf (p : PlanObj) (layer : Nat) : List (List Nat) :=
  (p.sec secTensor).filter fun t => tnStreamed t && (p.sec secDesc).any fun d =>
    dOpc d == opMatmul && dPhase d == 1 && dLayer d == layer && decide (tnBase t ≤ fabLocal (fld64 d 0x50)) &&
      decide (fabLocal (fld64 d 0x50) < tnBase t + tnPages t * pageBytes)

/-- Pages of the stream buffer: two halves of the largest layer's (R255). -/
def PlanObj.streamPages (p : PlanObj) : Nat :=
  2 * listMax (p.streamedLayers.map fun l => listSum ((p.streamedOf l).map tnPages))

/-- The first tensor that shares a page with another plan. -/
def PlanObj.meets (p main : PlanObj) : Option Nat :=
  ((indexed (p.sec secTensor)).find? fun e => (main.sec secTensor).any fun x =>
    decide (pageOf (tnBase e.2) < pageOf (tnBase x) + tnPages x ∧ pageOf (tnBase x) < pageOf (tnBase e.2) + tnPages e.2)).map (·.1)

/-- The pages of a plan, placed. -/
def State.fitPlan (s : State) (p : PlanObj) (draft : Bool) : State ⊕ Nat :=
  State.fitTensors p (s.tileStart draft) (indexed (p.sec secTensor)) (s.clearFor draft)

/-- 0x08 CAPACITY. -/
def State.planRoom (s : State) (v : PlanImg) (draft : Bool) : Option PlanFail :=
  let p := v.obj
  match if draft then p.meets s.plan else none with
  | some i => some (v.fail 8 stNoSpace secTensor 8 i)
  | none => match s.fitPlan p draft with
    | .inr i => some (v.fail 8 stNoSpace secTensor noField i)
    | .inl s1 =>
      if s1.tierFrames 1 < s1.tierPages 1 + p.streamPages then
        some (v.fail 8 stNoSpace secLayer noField (p.streamedLayers.headD 0)) else none

/-- Pages of a plan in T0 and T1 once placed (Table 2.28). -/
def State.sramPages (s : State) (p : PlanObj) (draft : Bool) : Nat :=
  match s.fitPlan p draft with
  | .inr _ => 0
  | .inl s1 => (s1.mem.pages.filter fun e => decide (e.2.tier ≤ 1) && (p.sec secTensor).any fun t =>
      !tnStreamed t && decide (pageOf (tnBase t) ≤ e.1) && decide (e.1 < pageOf (tnBase t) + tnPages t)).length

/-! ### 0x09 TILES -/

/-- Good tiles of a C-die: those not RETIRED or DISABLED. -/
def State.goodTiles (s : State) (die : Nat) : Nat :=
  ((rangeFrom (die * 160) 160).filter fun q => !s.unitOut (tileUnit q)).length

/-- 0x09 TILES. -/
def State.planTiles (s : State) (p : PlanObj) (draft : Bool) : Option PlanFail :=
  ((List.range 16).find? fun c => decide (s.goodTiles c < p.tilesUsed c + s.tileStart draft c)).map fun c =>
    headFail 9 stNoSpace (0x30 + c / 4 * 4)

end Sys2Proof.Machine
end

