-- ==== Sys2Proof/Machine/PlanFlow.lean ====
section
/-! DEFINITION. The plan checks 0x0A BALANCE (R30), 0x0B WINDOW (R63) and 0x0C GROUP (R69, R71, R123, R180, R184, R187, R188, R219). A
failure names the first descriptor involved (R88). -/

namespace Sys2Proof.Machine

open Sys2Proof

/-- A program's descriptors: tile, index and words, over the tiles of a phase. -/
def PlanObj.phaseDescs (p : PlanObj) (ph : Nat) : List (Nat × Nat × List Nat) :=
  (p.phaseTiles ph).flatMap fun l => (p.tileProg ph l).map fun e => (l, e.1, e.2)

def PlanObj.phases (p : PlanObj) : List Nat := List.range (p.nLayers + 2)

def minOf (l : List Nat) : Option Nat :=
  l.foldl (fun m x => some (match m with
    | none => x
    | some y => min x y)) none

/-! ### Marks of a phase -/

/-- Marks sent or needed on a tile's channel: the channel, the chain that they belong to (0 for none: a chain's counts are those of
one run), their number, and the descriptor. -/
structure MarkFlow where
  key : Nat
  chain : Nat
  n : Nat
  desc : Nat
  deriving DecidableEq, Repr

/-- The chain of a descriptor. -/
def PlanObj.chainId (p : PlanObj) (ph l i : Nat) (d : List Nat) : Nat := if p.inChain ph l i then 1 + 2 * l + dHb d else 0

/-- The channel of an input on its tile; none for the first input of a source in the module range, whose channel is an island's
(R65). -/
def inputKey (l : Nat) (d : List Nat) (k : Nat) : Option Nat :=
  if dInMarks d k = 0 ∨ (k = 0 ∧ (rangeSrc d).isSome) then none else some (tileChan l (dInCh d k))

/-- The mark of the arrival list, which a chain's first run alone takes (R187). -/
def PlanObj.listMark (p : PlanObj) (ph l i : Nat) (d : List Nat) (k : Nat) : Bool :=
  p.chainFirst ph l (dHb d) == some i && dInCh d k == p.dchExp (dLayer d) (dHb d)

def PlanObj.needs (p : PlanObj) (ph : Nat) : List MarkFlow :=
  (p.phaseDescs ph).flatMap fun e => (List.range 4).filterMap fun k =>
    (inputKey e.1 e.2.2 k).map fun key =>
      { key := key, chain := if p.listMark ph e.1 e.2.1 e.2.2 k then 0 else p.chainId ph e.1 e.2.1 e.2.2, n := dInMarks e.2.2 k
        desc := e.2.1 }

/-- Blocks of an output. -/
def State.outBlocks (s : State) (ph : Nat) (d : List Nat) (j : Nat) : Nat :=
  inBlocks (if dOpc d = opFabricRed ∨ dOpc d = opMcastOpc then mvLen d else s.outBytes ph d (dDest d j))

/-- Marks that an operator's outputs raise on this module's tiles, and for a DISPATCH those on DCH_EXP (R186, R190). -/
def State.sends (s : State) (ph : Nat) : List MarkFlow :=
  let p := s.plan
  (p.phaseDescs ph).flatMap fun e =>
    let d := e.2.2
    let tiles := ((outsUsed d).filter fun j => (dDest d j).kind == 1 && (dDest d j).dmod == p.moduleIndex).map fun j =>
      { key := tileChan (dDest d j).dtile (dDest d j).dch, chain := p.chainId ph e.1 e.2.1 d, n := s.outBlocks ph d j
        desc := e.2.1 : MarkFlow }
    if dOpc d != opDispatchOpc then tiles else
      tiles ++ (e.1 :: (p.ownExperts p.moduleIndex (dLayer d)).flatMap expertTiles).map fun l =>
        { key := tileChan l (fld d 0x50 7 0), chain := 0, n := 1, desc := e.2.1 }

def total (fs : List MarkFlow) (key chain : Nat) : Nat :=
  listSum ((fs.filter fun f => f.key == key && f.chain == chain).map (·.n))

/-! ### 0x0A BALANCE -/

/-- Credits of an output against its blocks: a credit for each 4 KiB (R28); those of a DISPATCH and of returns are given whatever
they are (R188, R189). -/
def State.badCredits (s : State) (ph l i : Nat) (d : List Nat) : Bool :=
  dOpc d != opDispatchOpc && (outsUsed d).any fun j =>
    !((dDest d j).kind == 2 && s.plan.inChain ph l i) && dOutCred d j != s.outBlocks ph d j

/-- A channel whose counts could overflow or leave residue in a phase. Marks on it from other modules are not seen: with others in the
slice, only too many local marks are a breach, but a chain has none from elsewhere. -/
def unbalanced (alone : Bool) (sent needed : List MarkFlow) (f : MarkFlow) : Bool :=
  let a := total sent f.key f.chain
  let b := total needed f.key f.chain
  decide (b < a) || decide (65535 < b) || ((alone || f.chain != 0) && a != b)

def State.unbalancedIn (s : State) (ph : Nat) : List Nat :=
  let p := s.plan
  let sent := s.sends ph
  let needed := p.needs ph
  let alone := p.modules.length == 1
  ((p.phaseDescs ph).filter fun e => s.badCredits ph e.1 e.2.1 e.2.2).map (·.2.1) ++
    ((sent ++ needed).filter (unbalanced alone sent needed)).map (·.desc)

/-- 0x0A BALANCE. -/
def State.planBalance (s : State) (v : PlanImg) : Option PlanFail :=
  (minOf (v.obj.phases.flatMap s.unbalancedIn)).map fun i => v.fail 0x0A stFieldRange secDesc noField i

/-! ### 0x0B WINDOW -/

/-- A phase as its windows see it: what is left of each tile's program, and the marks on each channel. -/
structure Windows where
  left : List (Nat × List Nat)
  marks : Tbl Nat
  deriving DecidableEq, Repr

/-- A descriptor that has its marks completes: they go, and its own marks come. -/
def winTake (needed sent : List MarkFlow) (tile : Nat) (w : Windows) (i : Nat) : Windows :=
  let mine := needed.filter fun f => f.desc == i && f.key / 64 == tile
  if !mine.all (fun f => decide (f.n ≤ tgetD w.marks f.key 0)) then w else
    let m1 := mine.foldl (fun t f => tset t f.key (tgetD t f.key 0 - f.n)) w.marks
    let m2 := (sent.filter fun f => f.desc == i).foldl (fun t f => tset t f.key (tgetD t f.key 0 + f.n)) m1
    { left := w.left.map fun e => if e.1 = tile then (e.1, e.2.filter (· != i)) else e, marks := m2 }

/-- Every tile's first 64 descriptors are tried once. -/
def winRound (needed sent : List MarkFlow) (w : Windows) : Windows :=
  w.left.foldl (fun a e => (e.2.take 64).foldl (winTake needed sent e.1) a) w

def winRounds (needed sent : List MarkFlow) : Nat → Windows → Windows
  | 0, w => w
  | n + 1, w => winRounds needed sent n (winRound needed sent w)

/-- A tile whose 64 queued descriptors wait for ever with more behind them: its first. Marks that no operator here sends are taken to
have come from other modules. -/
def State.stuckIn (s : State) (ph : Nat) : Option Nat :=
  let p := s.plan
  let needed := p.needs ph
  let sent := s.sends ph
  let keys := needed.foldl (fun l f => addNew l f.key) []
  let sum (fs : List MarkFlow) (k : Nat) : Nat := listSum ((fs.filter fun f => f.key == k).map (·.n))
  let w : Windows := { left := (p.phaseTiles ph).map fun l => (l, (p.tileProg ph l).map (·.1))
                       marks := keys.foldl (fun t k => tset t k (sum needed k - sum sent k)) [] }
  minOf (((winRounds needed sent (p.phaseDescs ph).length w).left.filter fun e => decide (64 < e.2.length)).map fun e => e.2.headD 0)

/-- 0x0B WINDOW. -/
def State.planWindow (s : State) (v : PlanImg) : Option PlanFail :=
  (minOf (v.obj.phases.filterMap s.stuckIn)).map fun i => v.fail 0x0B stFieldRange secDesc noField i

/-! ### 0x0C GROUP -/

/-- A descriptor's place among the COLLECTIVEs of its tile, phase and half-batch (R180). -/
def PlanObj.ordinalOf (p : PlanObj) (ph l i : Nat) (d : List Nat) : Nat :=
  ((p.tileProg ph l).filter fun e => dOpc e.2 == opCollective && dHb e.2 == dHb d && decide (e.1 < i)).length

/-- Whether a descriptor lacks its company in a program that holds it: a LORA its MATMUL (R69), a KV_APPEND its ATTN (R71, R123); or a
chain's output leaves the module but as a return in the COMBINE's format (R187, R188). -/
def PlanObj.badCompany (p : PlanObj) (i : Nat) (d : List Nat) (u : Nat × Nat) : Bool :=
  let o := dOpc d
  let prog := p.tileProg u.1 u.2
  let lora := o == opLora && !prog.any fun e => dOpc e.2 == opMatmul && mmEmit e.2 && mmAccIn e.2 && mmAcc e.2 == fld d 0x4C 11 4 &&
    dHb e.2 == dHb d && decide (i < e.1)
  let append := o == opKvAppend && !prog.any fun e => dOpc e.2 == opAttn && atHkv e.2 == kaHkv d && atPagetab e.2 == kaTab d &&
    atHdim e.2 == kaDim d && atK4 e.2 == (fld d 0x48 9 9 == 1)
  let fmt := (p.descOf opCombine u.1 (dHb d)).elim 9 fun e => 2 + fld e.2 0x44 17 16
  let leaves := o == opFabricRed || o == opMcastOpc || o == opCollective || o == opDispatchOpc || (outsUsed d).any fun j =>
    let t := dDest d j
    (t.kind == 1 && t.dmod != p.moduleIndex) || (t.kind == 2 && outForm d != some fmt)
  lora || append || (o == opCollective && decide (63 < p.ordinalOf u.1 u.2 i d)) || (p.inChain u.1 u.2 i && leaves)

/-- The DISPATCH and COMBINE of an MoE layer and half-batch, where they are not one each on one tile with one RESV_IDX and one
SLOT_OFF (R184): the first of them, or no entry. -/
def PlanObj.badPair (p : PlanObj) (l hb : Nat) : Option Nat :=
  let ds := (p.phaseDescs (phaseOfLayer l)).filter fun e => dHb e.2.2 == hb
  let disp := ds.filter fun e => dOpc e.2.2 == opDispatchOpc
  let comb := ds.filter fun e => dOpc e.2.2 == opCombine
  let key (e : Nat × Nat × List Nat) : Nat × Nat × Nat := (e.1, fld e.2.2 0x4C 15 0, slotOff e.2.2)
  if disp.length = 1 ∧ comb.length = 1 ∧ disp.map key = comb.map key then none
  else some ((minOf ((disp ++ comb).map (·.2.1))).getD noEntry)

/-- The vocabulary ranges of a half-batch's SAMPLE descriptors (R219): none overlap, and those of a slice of one module cover the
vocabulary. The first of them where they fail, or no entry. -/
def PlanObj.badCover (p : PlanObj) (hb : Nat) : Option Nat :=
  let ss := ((p.phaseDescs p.postPhase).filter fun e => dOpc e.2.2 == opSample && dHb e.2.2 == hb).map fun e =>
    (e.2.1, fld e.2.2 0x44 19 0, fld e.2.2 0x48 19 0)
  let meet := (indexed ss).any fun a => (ss.take a.1).any fun b =>
    decide (a.2.2.1 < b.2.1 + b.2.2 ∧ b.2.1 < a.2.2.1 + a.2.2.2)
  let short := p.modules.length == 1 && listSum (ss.map (·.2.2)) != p.vocab
  if meet || short then some ((minOf (ss.map (·.1))).getD noEntry) else none

/-- 0x0C GROUP. -/
def PlanImg.groups (v : PlanImg) : Option PlanFail :=
  let p := v.obj
  let company := ((indexed (p.sec secDesc)).filter fun e => (p.users e.1).any (p.badCompany e.1 e.2)).map (·.1)
  let pairs := p.moeLayers.flatMap fun l => [0, 1].filterMap (p.badPair l)
  let covers := [0, 1].filterMap p.badCover
  (minOf (company ++ pairs ++ covers)).map fun i => v.fail 0x0C stFieldRange secDesc noField i

end Sys2Proof.Machine
end

