-- ==== Sys2Proof/Machine/PlanTime.lean ====
section
/-! DEFINITION. The plan checks 0x0D RESERVE (R80, R81, R112, R186, R221, R361, by the costs and critical path of R451) and 0x0E STREAM
(R241), and the times of R87. Times of the critical path are counted in `tickNs` parts of a nanosecond, in which every cost of R451 is
whole. -/

namespace Sys2Proof.Machine

open Sys2Proof

/-! ### Units of time -/

/-- Ticks of a nanosecond, of a cycle at 2.25 GHz, of a byte across C-die bridges at 1.0 TB/s, and of one across tensor links at
1,427 bytes per ns (R159). -/
def tickNs : Nat := 12843000
def tickCycle : Nat := 5708000
def tickBridge : Nat := 12843
def tickLink : Nat := 9000

/-- Links between two modules, and the times of R163 for such a route. -/
def hops (a b : Nat) : Nat := (route a b).length
def routeTicks (a b : Nat) : Nat := (180 * hops a b + 300) * tickNs

/-- The farthest of a list of modules: its route's time; none is here. -/
def farTicks (a : Nat) (ms : List Nat) : Nat := listMax ((ms.filter (· != a)).map (routeTicks a))

/-! ### Operator costs (Table 2.29) -/

/-- Stage times of a COLLECTIVE (Table 5.8), axis by axis: elements entering the stage, and the ticks so far. -/
def collStage (c : Coll) (x : Nat × Nat) (a : Nat) : Nat × Nat :=
  let n := c.rect.extentOn a
  let hop := 200 * tickNs
  match c.kind with
  | 0 => (x.1, x.2 + 4 * x.1 * tickLink + 2 * (n - 1) * hop)
  | 1 => (x.1 * n, x.2 + (n - 1) * x.1 * c.elem * tickLink + (n - 1) * hop)
  | 2 => (x.1 / n, x.2 + ceilDiv (4 * x.1 * (n - 1)) n * tickLink + (n - 1) * hop)
  | _ => (x.1, x.2 + x.1 * c.elem * tickLink + (n - 1) * hop)

def Coll.ticks (c : Coll) : Nat := (c.axes.foldl (collStage c) (c.count, 0)).2

/-- Rows of this module's share of a half-batch, at a row capacity (R184). -/
def PlanObj.share (p : PlanObj) (rows : Nat) : Nat := ceilDiv rows p.modules.length

/-- Bytes that a mover's descriptor moves at capacity. -/
def State.moveBytes (s : State) (ph : Nat) (d : List Nat) : Nat :=
  let p := s.plan
  let o := dOpc d
  if o = opKvAppend then kaRows d * kaHkv d * kaDim d * 4
  else if o = opDispatchOpc then
    p.share (fld d 0x4C 31 16) * p.topk (dLayer d) * packedRow (fld d 0x44 17 16) (fld d 0x44 15 0)
  else if o = opEmbed then s.outBytes ph d (dDest d 0)
  else if o = opSample then fld d 0x4C 15 0 * fld d 0x48 19 0 * 4
  else mvLen d

/-- Ticks of a transfer of bytes between two tiles' C-dies. -/
def crossTicks (a b n : Nat) : Nat := if tileDie a = tileDie b then 0 else n * tickBridge

/-- Transfer time that a mover's own cost takes in: from its source and to its destination. A DISPATCH's slots land here in the worst
case of R80. -/
def State.moverTransfer (s : State) (ph l : Nat) (d : List Nat) : Nat :=
  let p := s.plan
  let o := dOpc d
  let me := p.moduleIndex
  let n := s.moveBytes ph d
  let far (ms : List Nat) : Nat := if ms.all (· == me) then 0 else n * tickLink + farTicks me ms
  if o = opSample then far p.modules
  else if o = opMcastOpc then far (boxOf (fld d 0x50 31 0) (fld d 0x54 31 0)).modules
  else if o = opDispatchOpc ∨ o = opKvAppend then 0
  else
    let source := if o = opMove ∧ mvRange d then far [fabMod (mvSrc d)] else 0
    let reach := (outsUsed d).map fun j =>
      let t := dDest d j
      if t.kind = 1 ∧ t.dmod = me then crossTicks l t.dtile n else far [t.module]
    source + listMax reach

/-- Time of a FABRIC_RED's blocks at their target (R178): 64 cycles at 1.5 GHz in T1, 128 ns in T2 and where another module's plan
says which. -/
def PlanObj.redTicks (p : PlanObj) (d : List Nat) : Nat :=
  let t := dDest d 0
  let inT1 := fabMod t.addr == p.moduleIndex && (p.tensorAt (fabLocal t.addr)).any fun x => tnHint x == 6
  mvLen d / blockBytes * (if inT1 then 128 * tickNs / 3 else 128 * tickNs)

/-- Additions to a MATMUL: one block's strip time where it may be sampled (R112), and the vote of R361. -/
def PlanObj.matmulExtra (p : PlanObj) (d : List Nat) : Nat :=
  let r := (pairRate (mmW d) (mmA d)).getD 1
  (if dStripOk d ∧ stripN (p.layerOf d) ≠ 0 then (36 * mmK d + 64) * tickCycle else 0) +
    if dShadowOk d then 2 * (ceilDiv (2304 * mmK d) r * tickCycle + 2000 * tickNs) else 0

/-- Groups that a tile's chain runs in the worst case of R80: the expert gets a slot of every position. -/
def PlanObj.chainRuns (p : PlanObj) (ph l : Nat) (d : List Nat) : Nat :=
  let first := ((p.chainFirst ph l (dHb d)).map p.desc).getD []
  match p.expertOfTile p.moduleIndex (dLayer d) l with
  | none => 1
  | some e => ((List.range (ceilDiv (p.maxPositions / 2) (max 1 (mmM first)))).filter fun g => g % exTiles e == l - exFirstTile e).length

/-- Cycles of one run of an array or vector operator. -/
def PlanObj.opCycles (p : PlanObj) (perHb : Nat) (d : List Nat) : Nat :=
  let o := dOpc d
  let rows := (rowField d).elim 0 (·.2)
  if o = opMatmul then p.matmulCycles d / p.rowGroups d
  else if o = opLora then loraCycles perHb d
  else if o = opAttn then 0
  else if o = opNorm then ceilDiv (3 * rows * nmWidth d) 64 + 64
  else if o = opElemwise then ceilDiv (rows * elWidth d) 64 + 32
  else if o = opRoute then ceilDiv (3 * rows * rtExperts d) 64 + rows * rtTopk d + 64
  else if o = opSkipGate then ceilDiv rows 64 + 32
  else ceilDiv (rows * cbWidth d * (p.topk (dLayer d) + 1)) 64 + 64

/-- Ticks of a descriptor: every run of it, with what R112 and R361 add. The layer bounds judge no session, so an ATTN, whose cost is
that of its sessions within a budget of what the layer leaves (R142), takes no time in them. -/
def State.descTicks (s : State) (ph l i : Nat) (d : List Nat) : Nat :=
  let p := s.plan
  let o := dOpc d
  let runs := if p.inChain ph l i then p.chainRuns ph l d else 1
  runs * (if o = opCollective then (p.coll p.moduleIndex d).ticks
    else if dUnit d = 2 then
      (ceilDiv (s.moveBytes ph d) 64 + 64) * tickCycle + s.moverTransfer ph l d + (if o = opFabricRed then p.redTicks d else 0)
    else p.opCycles s.adp.perHb d * tickCycle + if o = opMatmul then p.matmulExtra d else 0)

/-! ### The critical path of a phase -/

/-- The path as it is built: what is left of the tiles' programs, when each unit is free, marks by channel with their times in rising
order, and the completions so far. -/
structure Path where
  left : List (Nat × Nat × List Nat)
  busy : Tbl Nat := []
  marks : Tbl (List (Nat × Nat)) := []
  ends : Tbl Nat := []
  deriving DecidableEq, Repr

/-- Marks taken from the earliest on: when the last of them came, and the rest. -/
def takeMarks : Nat → Nat → List (Nat × Nat) → Option (Nat × List (Nat × Nat))
  | 0, t, l => some (t, l)
  | _ + 1, _, [] => none
  | n + 1, t, (at_, k) :: r =>
    if k ≤ n + 1 then takeMarks (n + 1 - k) (max t at_) r else some (max t at_, (at_, k - (n + 1)) :: r)

def putMarks (ms : Tbl (List (Nat × Nat))) (key at_ n : Nat) : Tbl (List (Nat × Nat)) :=
  tmod ms key [] (insertBy (fun a b => decide (a.1 ≤ b.1)) (at_, n))

/-- A completion is known by tile and descriptor. -/
def pathId (l i : Nat) : Nat := l * 2 ^ 32 + i

/-- The channel of an input in the path: its tile's, or for a source in the module range one for each tensor and channel. -/
def PlanObj.pathKey (p : PlanObj) (l : Nat) (d : List Nat) (k : Nat) : Nat :=
  match if k = 0 then rangeSrc d else none with
  | some a => 2 ^ 40 + p.tensorPlace (fun t => decide (tnBase t ≤ fabLocal a ∧ fabLocal a < tnBase t + tnPages t * pageBytes)) * 64 + dInCh d k
  | none => tileChan l (dInCh d k)

def PlanObj.destKey (p : PlanObj) (t : Dest) : Option Nat :=
  if t.kind = 1 ∧ t.dmod = p.moduleIndex then some (tileChan t.dtile t.dch)
  else if t.kind = 2 ∧ fabMod t.addr = p.moduleIndex then
    some (2 ^ 40 + p.tensorPlace (fun x => decide (tnBase x ≤ fabLocal t.addr ∧ fabLocal t.addr < tnBase x + tnPages x * pageBytes)) * 64 + t.dch)
  else none

/-- When the rows that other modules dispatch here have come, leaving at the phase's entry: each sends its share of the half-batch. -/
def PlanObj.rowsIn (p : PlanObj) (layer hb : Nat) : Nat :=
  let f := p.dispForm layer hb
  let n := p.share (p.maxPositions / 2) * p.topk layer * packedRow f.2 f.1
  if p.modules.length = 1 then 0 else n * tickLink + farTicks p.moduleIndex p.modules

/-- Completions of the descriptors of a layer's DISPATCH or chains in a half-batch; none while one is left. -/
def Path.after (w : Path) (ids : List Nat) : Option Nat :=
  ids.foldl (fun m i => match m, tget w.ends i with
    | some a, some b => some (max a b)
    | _, _ => none) (some 0)

/-- When the mark on DCH_EXP has come: for a chain after this module's DISPATCH and the rows of the others, for a COMBINE after the
DISPATCH and every chain here, whose experts have every slot (R80, R186, R190). -/
def PlanObj.expMark (p : PlanObj) (w : Path) (ph l i k : Nat) (d : List Nat) : Option (Option Nat) :=
  let layer := dLayer d
  let hb := dHb d
  let disp := pathId (p.dispTile layer hb) (p.dispIdx layer hb)
  if p.listMark ph l i d k then some ((w.after [disp]).map (max (p.rowsIn layer hb)))
  else if dOpc d == opCombine && dInCh d k == p.dchExp layer hb then
    some (w.after (disp :: (p.phaseDescs ph).filterMap fun e =>
      if dHb e.2.2 == hb && p.inChain ph e.1 e.2.1 then some (pathId e.1 e.2.1) else none))
  else none

/-- A descriptor's inputs: when the last has come and the marks that are left; none while one is missing. -/
def PlanObj.pathInputs (p : PlanObj) (w : Path) (ph l i : Nat) (d : List Nat) : Option (Nat × Tbl (List (Nat × Nat))) :=
  (List.range 4).foldl (fun a k => match a with
    | none => none
    | some (t, ms) =>
      if dInMarks d k = 0 then some (t, ms) else
        match p.expMark w ph l i k d with
        | some m => m.map fun x => (max t x, ms)
        | none =>
          let key := p.pathKey l d k
          (takeMarks (dInMarks d k) t (tgetD ms key [])).map fun x => (x.1, tset ms key x.2)) (some (0, w.marks))

/-- Start and rest of the marks of a descriptor that may start. -/
def PlanObj.pathStart (p : PlanObj) (w : Path) (ph l i : Nat) : Option (Nat × Tbl (List (Nat × Nat))) :=
  let d := p.desc i
  let free := max (tgetD w.busy (l * 4 + dUnit d) 0) (if dOpc d = opAttn then tgetD w.busy (l * 4 + 1) 0 else 0)
  (p.pathInputs w ph l i d).map fun x => (max free x.1, x.2)

/-- The earliest start among the heads of what is left: tile, descriptor, start and marks. -/
def PlanObj.pathNext (p : PlanObj) (w : Path) (ph : Nat) : Option (Nat × Nat × Nat × Tbl (List (Nat × Nat))) :=
  w.left.foldl (fun m e => match e.2.2 with
    | [] => m
    | i :: _ => match p.pathStart w ph e.1 i, m with
      | none, _ => m
      | some x, none => some (e.1, i, x.1, x.2)
      | some x, some y => if x.1 < y.2.2.1 then some (e.1, i, x.1, x.2) else m) none

/-- One descriptor of the path. -/
def State.pathStep (s : State) (ph : Nat) (w : Path) : Path :=
  let p := s.plan
  match p.pathNext w ph with
  | none => w
  | some (l, i, t0, ms) =>
    let d := p.desc i
    let t1 := t0 + s.descTicks ph l i d
    let ms1 := (outsUsed d).foldl (fun m j =>
      match p.destKey (dDest d j) with
      | none => m
      | some key =>
        let n := s.outBlocks ph d j
        let cross := if dUnit d = 2 ∨ (dDest d j).kind ≠ 1 then 0 else crossTicks l (dDest d j).dtile (n * blockBytes)
        putMarks m key (t1 + cross) n) ms
    let busy := tset w.busy (l * 4 + dUnit d) t1
    { left := w.left.map fun e => if e.1 = l ∧ e.2.1 = dUnit d then (e.1, e.2.1, e.2.2.drop 1) else e
      busy := if dOpc d = opAttn then tset busy (l * 4 + 1) t1 else busy
      marks := ms1, ends := tset w.ends (pathId l i) t1 }

def State.pathRun (s : State) (ph : Nat) : Nat → Path → Path
  | 0, w => w
  | n + 1, w => s.pathRun ph n (s.pathStep ph w)

/-- The path before any descriptor has started. Marks that no operator here sends leave another module at the phase's entry. -/
def State.pathOf (s : State) (ph : Nat) : Path :=
  let p := s.plan
  let ds := p.phaseDescs ph
  let needed := ds.flatMap fun e => (List.range 4).filterMap fun k =>
    if dInMarks e.2.2 k = 0 then none else some (p.pathKey e.1 e.2.2 k, dInMarks e.2.2 k)
  let sent := ds.flatMap fun e => (outsUsed e.2.2).filterMap fun j => (p.destKey (dDest e.2.2 j)).map fun k => (k, s.outBlocks ph e.2.2 j)
  let sum (l : List (Nat × Nat)) (k : Nat) : Nat := listSum ((l.filter fun x => x.1 == k).map (·.2))
  let keys := needed.foldl (fun l x => addNew l x.1) []
  { left := (p.phaseTiles ph).flatMap fun l => [0, 1, 2].map fun u =>
      (l, u, ((p.tileProg ph l).filter fun e => dUnit e.2 == u).map (·.1))
    marks := keys.foldl (fun m k =>
      let n := sum needed k - sum sent k
      if n = 0 then m else
        putMarks m k (if p.modules.length = 1 then 0 else n * blockBytes * tickLink + farTicks p.moduleIndex p.modules) n) [] }

/-- The critical path of a phase, in ticks: the latest completion over every tile of the module. -/
def State.criticalTicks (s : State) (ph : Nat) : Nat :=
  listMax (tvals (s.pathRun ph (s.plan.phaseDescs ph).length (s.pathOf ph)).ends)

def State.criticalNs (s : State) (ph : Nat) : Nat := ceilDiv (s.criticalTicks ph) tickNs

/-! ### 0x0D RESERVE -/

/-- Whether a layer's RES_NS has a bound: an MoE layer (R80), or one with a MATMUL that the strip or the vote may hold (R112, R361). -/
def PlanObj.bounded (p : PlanObj) (l : Nat) : Bool :=
  p.isMoe l || (p.phaseDescs (phaseOfLayer l)).any fun e =>
    dOpc e.2.2 == opMatmul && (dShadowOk e.2.2 || (dStripOk e.2.2 && stripN (p.layer l) != 0))

/-- Largest worst-case time of an MoE layer (Table 2.28). -/
def State.moeWorst (s : State) : Nat := listMax (s.plan.moeLayers.map fun l => s.criticalNs (phaseOfLayer l))

/-- Least POST_NS: the critical path of POST and the sampling unit's lanes (R221). -/
def State.postBound (s : State) : Nat :=
  let p := s.plan
  let rows := 16 * ceilDiv (2 * p.h 0x50 15 0) p.modules.length
  s.criticalNs p.postPhase + ceilDiv rows 8 * (ceilDiv (2 * p.vocab) 256 + 400)

/-- A reservation whose buffer lies over that of an earlier one that is not far enough away: with no layer between the two, a module
can hold both in flight (R81). -/
def PlanObj.sharesBadly (p : PlanObj) (i : Nat) (e : List Nat) : Bool :=
  p.before secResv i fun x => decide (rsLayer e ≤ rsLayer x + 1) &&
    decide (rsBase e < rsBase x + rsPages x * pageBytes ∧ rsBase x < rsBase e + rsPages e * pageBytes)

def PlanObj.resvEntry (p : PlanObj) (i : Nat) (e : List Nat) : Option Nat :=
  badField [(0, p.before secResv i fun x => rsLayer x == rsLayer e), (0x10, p.sharesBadly i e)]

/-- An expert named twice, or a tile of this module that serves two experts of one layer (R79, R186). -/
def PlanObj.expertEntry (p : PlanObj) (i : Nat) (e : List Nat) : Option Nat :=
  let layer (x : List Nat) : Nat := fld x 0 15 0
  badField [
    (0, p.before secExpert i fun x => layer x == layer e && exExpert x == exExpert e),
    (8, exOwner e == p.moduleIndex && p.before secExpert i fun x => layer x == layer e && exOwner x == exOwner e &&
      (expertTiles x).any fun t => (expertTiles e).contains t) ]

/-- An MoE layer's expert that the expert map does not name; an MoE layer without a reservation. -/
def PlanObj.missingExpert (p : PlanObj) : Bool :=
  p.moeLayers.any fun l => (List.range (p.experts l)).any fun x => (p.expert l x).isNone
def PlanObj.missingResv (p : PlanObj) : Bool := p.moeLayers.any fun l => (p.resvOfLayer l).isNone

/-- 0x0D RESERVE. -/
def State.planReserve (s : State) (v : PlanImg) : Option PlanFail :=
  let p := v.obj
  let none_ (t : Nat) : Option PlanFail := some (v.fail 0x0D stFieldRange t noField noEntry)
  firstOf ([if p.postNs < s.postBound then some (headFail 0x0D stFieldRange 0x4C) else none] ++
    v.tab.map (fun x =>
      let t := stType x
      v.each 0x0D stFieldRange t fun i e =>
        if t = secLayer then (if p.bounded i ∧ layerResNs e < s.criticalNs (phaseOfLayer i) then some 4 else none)
        else if t = secExpert then p.expertEntry i e else if t = secResv then p.resvEntry i e else none) ++
    [if p.missingExpert then none_ secExpert else none, if p.missingResv then none_ secResv else none])

/-! ### 0x0E STREAM (R241) -/

/-- A local address in the range of a STREAMED tensor. -/
def PlanObj.inStream (p : PlanObj) (a n : Nat) : Bool :=
  (p.sec secTensor).any fun t => tnStreamed t && decide (a < tnBase t + tnPages t * pageBytes) && decide (tnBase t < a + max 1 n)

/-- A field other than a layer's MATMUL's W_ADDR that names a STREAMED tensor's range. -/
def State.badStream (s : State) (d : List Nat) : Option Nat :=
  let p := s.plan
  let o := dOpc d
  let c := p.coll p.moduleIndex d
  let mine (a n : Nat) : Bool := fabMod a == p.moduleIndex && p.inStream (fabLocal a) n
  let dest (j : Nat) : Bool :=
    let t := dDest d j
    let n := s.outBlocks (p.dPhaseOf d) d j * blockBytes
    (t.kind == 2 && mine t.addr n) || (t.kind == 3 && p.inStream t.addr n)
  let named (off : Nat) : Bool := (p.tensor (fld d off 31 0)).any tnStreamed
  badField [ (0x20, dest 0), (0x30, dest 1), (0x50, o == opMatmul && dPhase d != 1 && p.inStream (fabLocal (fld64 d 0x50)) 1),
    (0x48, o == opCollective && fld d 0x50 0 0 == 1 && p.inStream (fabLocal (fld64 d 0x48)) (c.count * c.elem)),
    (0x40, (o == opFabricRed || o == opMcastOpc) && mvRange d && p.inStream (fabLocal (mvSrc d)) (mvLen d)),
    (0x40, o == opMove && mvRange d && mine (mvSrc d) (mvLen d)), (0x40, o == opEmbed && named 0x40) ]

/-- 0x0E STREAM. -/
def State.planStream (s : State) (v : PlanImg) : Option PlanFail :=
  let p := v.obj
  firstOf (v.tab.map fun x =>
    let t := stType x
    v.each 0x0E stFieldRange t fun i e =>
      if t = secLayer then (if layerStreamed e = (p.streamedOf i).isEmpty then some 0 else none)
      else if t = secDesc then s.badStream e
      else if t = secTensor then (if tnStreamed e && tnHint e != 10 && tnHint e != 9 then some 4 else none)
      else none)

/-! ### Times and rates (R87) -/

/-- T_L of a layer. -/
def PlanObj.layerNs (p : PlanObj) (l : Nat) : Nat :=
  if layerStreamed (p.layer l) then max (layerResNs (p.layer l)) (p.streamNs l) else layerResNs (p.layer l)

def PlanObj.stepNs (p : PlanObj) : Nat := p.preNs + listSum ((List.range p.nLayers).map p.layerNs) + p.postNs

/-- Per-session tokens each second at ASSUME_ACCEPT, and with every candidate rejected. -/
def PlanObj.rate (p : PlanObj) : Nat := p.assumeAccept * 1000000000 / (256 * p.stepNs)
def PlanObj.floorRate (p : PlanObj) : Nat := 1000000000 / p.stepNs

end Sys2Proof.Machine
end

