-- ==== Sys2Proof/Machine/PlanLoad.lean ====
section
/-! DEFINITION. OP_PLAN_LOAD (R86, R224, R248, R274, R302) and the end of its check with the report of Table 2.28. -/

namespace Sys2Proof.Machine

open Sys2Proof

/-! ### The check -/

/-- The state with a plan as its plan: what the checks that work out regions and addresses look at. -/
def State.viewed (s : State) (p : PlanObj) : State := s.onWts fun w => { w with main := some p }

/-- The checks of Table 2.27 in order: the first that fails. A draft plan is checked beside the main plan. -/
def State.checkPlan (s : State) (v : PlanImg) (draft : Bool) : Option PlanFail :=
  let p := v.obj
  let t := s.viewed p
  let r := if draft then s else s.rehome p
  firstOf [v.format, v.digests, v.sections, v.fields (if draft then s.wts.main else none), t.planLengths v draft, v.operands draft,
    t.planPlaces v, r.planRoom v draft, s.planTiles p draft, t.planBalance v, t.planWindow v, v.groups, t.planReserve v, t.planStream v]

/-! ### The report (Table 2.28) -/

def failReport (f : PlanFail) : Bytes :=
  le 2 f.code ++ le 2 f.status ++ le 2 f.sect ++ le 2 f.off ++ le 4 f.entry ++ zeros 116

/-- A 32-bit figure, at its top where it is larger. -/
def le32 (x : Nat) : Bytes := le 4 (satTo 0xFFFFFFFF x)

def State.passReport (s : State) (v : PlanImg) (draft : Bool) : Bytes :=
  let p := v.obj
  le 2 0 ++ le 2 stOk ++ zeros 8 ++ le32 p.stepNs ++ le32 p.rate ++ le32 p.floorRate ++ le32 ((s.rehome p).sramPages p draft) ++
    le32 (s.viewed p).moeWorst ++ le 8 (listSum ((List.range p.nLayers).map p.streamBytes)) ++ p.digest ++ zeros 40

/-! ### The rows -/

/-- A PLAN part whose bytes are still being read. -/
def State.planWriting (s : State) : Bool := s.mbox.running.any fun r => r.obj == objCopy kPlan 0 0

/-- OP_PLAN_LOAD: the staged object is read and checked. -/
def execOpPlanLoad (q : Req) (s : State) : Ret :=
  .next (s.runOp q 0x0201 allPayloads (fun _ c => lenIs c 4 ++ [(decide (1 < rd 4 c.pay 0), stFieldRange, payOff 0)]) fun s c =>
    let draft := rd 4 c.pay 0 == 1
    if draft && s.wts.main.isNone then .refuse stStateDenied 0
    else s.objAct 0x0201 objPlan (
      if s.planWriting then .refuse stBusy 0
      else .long (s.onWts fun w => { w with checking := some (c.port, c.slot, draft) }) objPlan [b2n draft] []))

/-- A plan that passed: it becomes the next plan while the slice runs, and is loaded at once where it does not. -/
def State.placePlan (s : State) (p : PlanObj) (draft : Bool) : State :=
  if s.sliceBusy || !s.steps.live.isEmpty then
    (if draft then s.onWts fun w => { w with nextDraft := some p } else s.onWts fun w => { w with next := some p })
  else if draft then s.loadDraft p else s.loadMain p

/-- PLAN_CHECK_DONE: the staging region is empty again, whether the plan passed or failed. -/
def execPlanCheckDone (s : State) : Ret :=
  .next (match s.wts.checking with
  | none => s
  | some (port, slot, draft) =>
    let v := planImg s.wts.staging.bytes
    let s1 := s.onWts fun w => { w with checking := none, staging := {} }
    match s.checkPlan v draft with
    | some f => s1.finishAt port slot f.status 0 (failReport f)
    | none => s.noteState ((s1.placePlan v.obj draft).finishAt port slot stOk 0 (s.passReport v draft)))

end Sys2Proof.Machine
end

