-- ==== Sys2Proof/Machine/Records.lean ====
section
/-! DEFINITION. Telemetry and records: counters, events, accounting, fault records, health and history (R375 to R377,
Tables 11.13 and 11.14), self tests, in-field test events (R367, R368), and the export of fault records (R370, R373, R374). -/

namespace Sys2Proof.Machine

open Sys2Proof

/-! ### Counters (R375, Table 11.13) -/

/-- Qualifiers of Table 11.13. -/
inductive Qual where
  | none | layer | group | port | lane | tierClass | tierCause | clientType | clientClass | proof | fault | rail | power
  | unit | array | session | dest | sensor
  deriving DecidableEq, Repr

/-- The counters and gauges of each table, in place order. -/
def counterQuals (ch tbl : Nat) : List Qual :=
  if ch = 3 ∧ tbl = 9 then List.replicate 9 .layer
  else if ch = 4 ∧ tbl = 11 then List.replicate 15 .group
  else if ch = 5 ∧ tbl = 10 then
    [.port, .port, .lane, .port, .port, .port] ++ List.replicate 12 .none
  else if ch = 6 ∧ tbl = 12 then
    [.clientType, .clientType, .clientClass, .clientClass, .none, .none, .none, .proof, .proof, .array, .session, .none,
      .none]
  else if ch = 7 ∧ tbl = 12 then
    [.tierClass, .none, .none, .none, .none, .none, .none, .tierCause, .none, .none, .none, .none, .none]
  else if ch = 8 ∧ tbl = 6 then [.none, .port, .none, .fault]
  else if ch = 10 ∧ tbl = 13 then [.rail, .none, .none, .none, .none, .none, .none, .none, .power]
  else if ch = 11 ∧ tbl = 15 then
    [.unit, .unit, .none, .none, .unit, .unit, .unit, .none, .none, .none, .none, .none, .none, .unit, .unit] ++
      [.none, .none, .none, .none, .none, .none, .none, .dest]
  else if ch = 14 ∧ tbl = 13 then .sensor :: List.replicate 10 .none
  else []

/-- The fault codes of Tables 11.11, 12.12, 13.14 and 14.12. -/
def isFaultCode (c : Nat) : Bool :=
  (0x0101 ≤ c && c ≤ 0x010C) || (0x0201 ≤ c && c ≤ 0x0205) || (0x0301 ≤ c && c ≤ 0x0308) || c == 0x0401 || c == 0x0402 ||
    (0x0501 ≤ c && c ≤ 0x0503) || (0x0601 ≤ c && c ≤ 0x060B)

/-- Lanes of a port: 16 and one spare in each half (R157). -/
def laneCount : Nat := 34

/-- Whether an instance exists. -/
def State.instanceOk (s : State) (q : Qual) (i : Nat) : Bool :=
  match q with
  | .none => i == 0
  | .layer => s.wts.main.any fun p => i ≤ p.nLayers + 1
  | .group => i < 8
  | .port => i < 6
  | .lane => i / 64 < 6 && i % 64 < laneCount
  | .tierClass => i / 4 == 2 || i / 4 == 3
  | .tierCause => (i / 8 == 2 || i / 8 == 3) && i % 8 < 7
  | .clientType => 1 ≤ i / 256 && i / 256 < 256 && 1 ≤ i % 256 && i % 256 ≤ 7
  | .clientClass => 1 ≤ i / 256 && i / 256 < 256 && i % 256 < 3
  | .proof => s.wts.main.any fun p => p.proofs.contains i
  | .fault => isFaultCode i
  | .rail => i < 38
  | .power => i < 4
  | .unit => 1 ≤ i / 65536 && unitExists ⟨i / 65536, i % 65536⟩
  | .array => i < 16
  | .session => (s.sessById i).isSome
  | .dest => i < 5
  | .sensor => i < 68

/-- Whether a COUNTER_ID and INSTANCE name a counter. -/
def State.counterOk (s : State) (id inst : Nat) : Bool :=
  let place := bitsOf id 15 8
  id % 256 == 0 && 1 ≤ place &&
    (match (counterQuals (id / 2 ^ 24) (bitsOf id 23 16))[place - 1]? with
    | some q => s.instanceOk q inst
    | none => false)

/-- OP_COUNTER_READ. -/
def execOpCounterRead (q : Req) (s : State) : Ret :=
  let own (s : State) (c : Cmd) : List (Bool × Nat × Nat) :=
    let n := rd 2 c.pay 0
    [(n == 0 || decide (251 < n), stLenRange, payOff 0)] ++ lenIs c (8 + 8 * n) ++
      [(rd 2 c.pay 2 != 0 || rd 4 c.pay 4 != 0, stFieldRange, payOff 2)] ++
      (List.range n).map fun i =>
        (!s.counterOk (rd 4 c.pay (8 + 8 * i)) (rd 4 c.pay (12 + 8 * i)), stFieldRange, payOff (8 + 8 * i))
  .next (s.runOp q 0x0601 allPayloads own fun s c =>
    let n := rd 2 c.pay 0
    .done s stOk 0 (le 2 n ++ zeros 6 ++ (List.range n).flatMap fun i =>
      let id := rd 4 c.pay (8 + 8 * i)
      let inst := rd 4 c.pay (12 + 8 * i)
      le 4 id ++ le 4 inst ++ le 8 (s.counter id inst)))

/-! ### Events (R376) -/

/-- Records of a ring from a SEQ on, at most `n`, the next SEQ wanted, and how many were overwritten unread. -/
def ringRead (ring : List Rec) (next from_ n : Nat) : List Rec × Nat × Nat :=
  let got := (ring.filter (fun r => from_ ≤ r.seq)).take n
  let oldest := (ring.head?.map (·.seq)).getD next
  (got, (got.getLast?.map (fun r => r.seq + 1)).getD (max from_ next), oldest - from_)

/-- OP_EVENT_READ. -/
def execOpEventRead (q : Req) (s : State) : Ret :=
  let own (_ : State) (c : Cmd) : List (Bool × Nat × Nat) := lenIs c 8 ++
    [(byteAt c.pay 4 == 0 || decide (125 < byteAt c.pay 4), stLenRange, payOff 4),
      (rd 4 c.pay 4 / 256 != 0, stFieldRange, payOff 5)]
  .next (s.runOp q 0x0602 allPayloads own fun s c =>
    let r := ringRead s.integ.events s.integ.eventSeq (rd 4 c.pay 0) (byteAt c.pay 4)
    .done s stOk 0 (le 4 r.1.length ++ le 4 r.2.1 ++ le 4 r.2.2 ++ zeros 4 ++ r.1.flatMap Rec.bytes))

/-! ### Accounting (R85) -/

/-- OP_ACCOUNTING_READ: clients from FIRST on whose entry is VALID. -/
def execOpAccountingRead (q : Req) (s : State) : Ret :=
  let own (_ : State) (c : Cmd) : List (Bool × Nat × Nat) := lenIs c 4 ++
    [(byteAt c.pay 0 == 0, stFieldRange, payOff 0), (rd 4 c.pay 0 / 256 != 0, stFieldRange, payOff 1)]
  .next (s.runOp q 0x0603 allPayloads own fun s c =>
    let f := byteAt c.pay 0
    let cs := ((rangeFrom f (256 - f)).filter fun k => ceValid (s.clientEntry k)).take 125
    .done s stOk 0 (le 8 cs.length ++ cs.flatMap fun k =>
      let a := tgetD s.srv.accounting k (0, 0, 0)
      le 8 k ++ le 8 a.1 ++ le 8 a.2.1 ++ le 8 a.2.2))

/-! ### Fault records (R372, R376) -/

/-- OP_FAULT_READ. -/
def execOpFaultRead (q : Req) (s : State) : Ret :=
  let own (_ : State) (c : Cmd) : List (Bool × Nat × Nat) := lenIs c 12 ++
    [(rd 4 c.pay 8 % 16 == 0 || decide (12 < rd 4 c.pay 8 % 16), stLenRange, payOff 8),
      (rd 4 c.pay 8 / 16 != 0, stFieldRange, payOff 8)]
  .next (s.runOp q 0x0701 allPayloads own fun s c =>
    let rs := (s.integ.faults.filter (fun r => rd 8 c.pay 0 ≤ r.recordId)).take (rd 4 c.pay 8 % 16)
    .done s stOk 0 (le 8 rs.length ++ rs.flatMap FaultRec.cper))

/-- OP_FAULT_ACK. -/
def execOpFaultAck (q : Req) (s : State) : Ret :=
  .next (s.runOp q 0x0702 allPayloads (fun _ c => lenIs c 8) fun s c =>
    let s1 := s.onInteg fun i => { i with
      faults := i.faults.map fun r => if r.recordId ≤ rd 8 c.pay 0 then { r with acked := true } else r }
    .done s1 stOk 0 (le 2 s1.faultsWaiting ++ zeros 2))

/-! ### Health (R376) -/

/-- Tiles of the module whose test is past its due time by more than `late` seconds. -/
def State.overdue (s : State) (late : Nat) : Nat :=
  ((List.range 2560).filter fun p => s.unitState (tileUnit p) != usRetired && s.testDueS p + late < s.clock.lifeS).length

/-- The HEALTH_READ completion, 88 bytes. -/
def State.healthBytes (s : State) : Bytes :=
  let die (d : Nat) : Bytes :=
    let free := s.freeSpares d
    let ps := rangeFrom (d * 160) 160
    le 1 free.length ++ le 1 (free.filter fun p => s.unitState (tileUnit p) == usSlow).length ++
      le 1 (ps.filter fun p => s.unitState (tileUnit p) == usRetired).length ++
      le 1 (s.tiles.inTest.filter fun p => ptileDie p == d).length
  let recent := listSum (s.integ.units.map fun e =>
    (e.2.transients.filter fun t => s.clock.lifeS ≤ t + transientWindow).length)
  le 4 s.integ.checkerFail ++ le 2 (s.overdue 0) ++ le 2 (s.overdue 86400) ++ le 4 s.mem.retired.length ++
    le 2 ((List.range 64).filter fun c => s.unitState ⟨5, c⟩ == usDisabled).length ++ le 2 s.integ.lapsLate ++
    (List.range 16).flatMap die ++ le 4 recent ++ le 4 s.wts.sweepCleanS

/-- OP_HEALTH_READ. -/
def execOpHealthRead (q : Req) (s : State) : Ret :=
  .next (s.runOp q 0x0703 allPayloads noPayload fun s _ => .done s stOk 0 s.healthBytes)

/-! ### Self tests (R377) -/

def selfKind (c : Cmd) : Nat := rd 4 c.pay 0
/-- A payload of a KIND; a KIND that is none is any row's. -/
def selfMine (k : Nat) (c : Cmd) : Bool := c.hdr.payloadLen != 8 || selfKind c == k || decide (2 < selfKind c)

def selfChecks : State → Cmd → List (Bool × Nat × Nat) := fun _ c => lenIs c 8 ++
  [(decide (2 < selfKind c), stFieldRange, payOff 0),
    (rd 4 c.pay 4 != 0 && selfKind c != 1, stFieldRange, payOff 4),
    (decide (2560 ≤ rd 4 c.pay 4), stFieldRange, payOff 4)]

/-- One run at a time. -/
def State.selfRun (s : State) (c : Cmd) (k : Nat) (tiles : List Nat) : Act :=
  if s.integ.selftest.isSome then .refuse stBusy 0 else
    .long (s.onInteg fun i => { i with
      selftest := some { port := c.port, slot := c.slot, kind := k, waiting := tiles } }) objSelftest [] []

/-- OP_SELFTEST_RUN CHECKERS: accepted while no slice runs. CHECKER_TEST_DONE ends it. -/
def execSelftestCheckers (q : Req) (s : State) : Ret :=
  .next (s.runOp q 0x0704 (selfMine 0) selfChecks fun s c =>
    if s.sliceBusy then .refuse stStateDenied 0 else s.selfRun c 0 [])

/-- OP_SELFTEST_RUN TILE: a tile with work is taken by a swap, any other is tested in place. -/
def execSelftestTile (q : Req) (s : State) : Ret :=
  .next (s.runOp q 0x0704 (selfMine 1) selfChecks fun s c =>
    let p := rd 4 c.pay 4
    match s.selfRun c 1 [p] with
    | .long s1 o a b =>
      .long (if s1.inPlace p then s1.startTests (ptileDie p) else s1.addCause p 4) o a b
    | other => other)

/-- OP_SELFTEST_RUN ALL_DUE: every due tile; with none due it completes at once. -/
def execSelftestAllDue (q : Req) (s : State) : Ret :=
  .next (s.runOp q 0x0704 (selfMine 2) selfChecks fun s c =>
    let due := (List.range 2560).filter fun p => s.testDue p || s.tiles.inTest.contains p
    if s.integ.selftest.isSome then .refuse stBusy 0
    else if due.isEmpty then .done s stOk 0 (zeros 4)
    else match s.selfRun c 2 due with
      | .long s1 o a b =>
        let s2 := (due.filter fun p => !s1.inPlace p && !s1.tiles.inTest.contains p).foldl (fun x p => x.addCause p 4) s1
        .long ((List.range 16).foldl (fun x d => x.startTests d) s2) o a b
      | other => other)

/-- A checker test run by OP_SELFTEST_RUN ends. -/
def execCheckerTestDone (failed : Option (Nat × UnitId)) (s : State) : Ret :=
  .next (match s.integ.selftest with
  | some r =>
    if r.kind = 0 then
      ((s.checkerResult failed).onInteg fun i => { i with selftest := none }).finishAt r.port r.slot stOk 0
        (le 2 (b2n failed.isSome) ++ le 2 (checkerCode failed))
    else s
  | none => s)

/-! ### In-field tests (R367, R368) -/

/-- A tile's test is due: it starts in place, or waits for a swap. -/
def execTestDue (ptile : Nat) (s : State) : Ret :=
  .next (if !s.testDue ptile then s
    else if s.inPlace ptile then s.startTests (ptileDie ptile) else s.addCause ptile 4)

/-- A test ends. -/
def execTestComplete (ptile : Nat) (pass : Bool) (s : State) : Ret := .next (s.endTest ptile pass)

/-- A due test has not started an hour after it fell due: EV_TEST_OVERDUE, once for each whole hour. -/
def execTestOverdue (ptile : Nat) (s : State) : Ret :=
  .next (
    let hours := (s.clock.lifeS - s.testDueS ptile) / 3600
    if s.tiles.inTest.contains ptile || s.unitState (tileUnit ptile) == usRetired || hours = 0 ||
        hours ≤ tgetD s.integ.overdueEv ptile 0 then s
    else (s.onInteg fun i => { i with overdueEv := tset i.overdueEv ptile hours }).event evTestOverdue
      (tileUnit ptile) hours)

/-! ### Health history (R362, R363, R376) -/

/-- A state table entry (Table 11.8). -/
def State.tableEntry (s : State) (u : UnitId) : Bytes :=
  let x := s.unitX u
  let l := if u.kind = 1 then s.ltileOf u.index else none
  le 1 u.kind ++ le 1 x.state ++ le 2 u.index ++ le 4 ((l.map tileIn).getD 0 + 4096 * b2n l.isSome) ++
    (List.range 3).flatMap (fun i => le 4 (x.transients.getD i 0)) ++ le 4 x.testPassS ++
    le 2 (satTo 0xFFFE x.thresholds) ++ le 2 (satTo 0xFFFE x.framesRetired) ++ zeros 4

/-- The units of the state table from a key on: kinds 1 to 10. -/
def unitsFrom (key : Nat) : List UnitId :=
  ((rangeFrom 1 10).flatMap fun k => (List.range (unitCount k)).map fun i => (⟨k, i⟩ : UnitId)).filter
    fun u => key ≤ UnitId.inst u

/-- OP_HISTORY_READ. NEXT is what a further command's FROM starts with (DEDUCED, log entry 80). -/
def execOpHistoryRead (q : Req) (s : State) : Ret :=
  let own (_ : State) (c : Cmd) : List (Bool × Nat × Nat) :=
    let part := rd 4 c.pay 0
    let n := rd 4 c.pay 8 % 512
    lenIs c 12 ++
    [(n == 0 || decide ((if part = 2 then 503 else 125) < n), stLenRange, payOff 8),
      (decide (2 < part), stFieldRange, payOff 0), (rd 4 c.pay 8 / 512 != 0, stFieldRange, payOff 9),
      (part == 0 && decide (12 ≤ rd 4 c.pay 4 / 65536), stFieldRange, payOff 4)]
  .next (s.runOp q 0x0705 allPayloads own fun s c =>
    let f := rd 4 c.pay 4
    let n := rd 4 c.pay 8 % 512
    match rd 4 c.pay 0 with
    | 0 =>
      let us := (unitsFrom f).take n
      .done s stOk 0 (le 4 us.length ++ le 4 ((us.getLast?.map fun u => UnitId.inst u + 1).getD f) ++
        us.flatMap s.tableEntry)
    | 1 =>
      let r := ringRead s.integ.log s.integ.logSeq f n
      .done s stOk 0 (le 4 r.1.length ++ le 4 r.2.1 ++ r.1.flatMap Rec.bytes)
    | _ =>
      let fr := ((sortBy (fun a b => a.1 < b.1 || (a.1 == b.1 && a.2 ≤ b.2)) s.mem.retired).drop f).take n
      .done s stOk 0 (le 4 fr.length ++ le 4 (f + fr.length) ++ fr.flatMap fun x => le 8 (x.1 + 4 * x.2)))

/-! ### Export (R370, R373, R374) -/

/-- The end of a second after a record: one record carries the occurrences counted, and opens a further second; without
any, the series closes. -/
def execFaultCountSecond (code : Nat) (unit : UnitId) (s : State) : Ret :=
  .next (match s.integ.series.find? (fun x => x.code == code && x.unit == unit) with
  | none => s
  | some x =>
    if s.now < x.startNs + 1000000000 then s
    else
      let rest := s.integ.series.filter fun y => !(y.code == code && y.unit == unit)
      if x.count = 0 then s.onInteg fun i => { i with series := rest }
      else
        (s.onInteg fun i => { i with series := rest ++ [{ x with count := 0, startNs := s.now }] }).faultRecord code unit
          x.ctx x.count)

/-- The tray management controller names the event receiver, or none. Another receiver has had no record yet. -/
def execSetEventReceiver (receiver : Option (Nat × Nat)) (s : State) : Ret :=
  .next (if !s.standby || s.integ.receiver == receiver then s else
    ((s.onInteg fun i => { i with
      receiver := receiver, pldmSent := none, pldmPos := 0
      faults := i.faults.map fun r => { r with delivered := without r.delivered 0 } }).setAlert).exportPldm)

/-- The receiver's response to the record sent: delivered, and the next one goes out. -/
def execPldmEventResponse (s : State) : Ret :=
  .next (match s.integ.pldmSent with
  | some (id, _, _) =>
    if !s.standby then s else
      ((s.onInteg fun i => { i with
        pldmSent := none, pldmPos := id
        faults := i.faults.map fun r => if r.recordId = id then { r with delivered := addNew r.delivered 0 } else r }).setAlert).exportPldm
  | none => s)

/-- No response within 100 ms, or 10 s after the tenth retry: the record is sent again; an overwritten one gives way to the
next. -/
def execPldmExportRetry (s : State) : Ret :=
  .next (match s.integ.pldmSent, s.integ.receiver with
  | some (id, tries, t), some rx =>
    if !s.standby || s.now < t + (if tries < 10 then 100000000 else 10000000000) then s else
      match s.integ.faults.find? (fun r => r.recordId == id) with
      | some r =>
        ((s.onInteg fun i => { i with pldmSent := some (id, tries + 1, s.now) }).count ctExportRetries 0 1).emit
          (.pldm rx.1 rx.2 id r.cper)
      | none => (s.onInteg fun i => { i with pldmSent := none, pldmPos := id }).exportPldm
  | _, _ => s)

/-- A collector acknowledges a record. -/
def execCollectorAck (c recordId : Nat) (s : State) : Ret :=
  .next (if !s.standby || !s.collectors.contains c then s else
    let x := s.collector c
    let s1 := s.putCollector c { x with outstanding := x.outstanding.filter fun o => o.1 != recordId }
    (s1.onInteg fun i => { i with
      faults := i.faults.map fun r =>
        if r.recordId = recordId then { r with delivered := addNew r.delivered c } else r }).exportTo c 8)

/-- An unacknowledged record is sent to a collector again, at intervals that double to 60 s. -/
def execCollectorResend (c recordId : Nat) (s : State) : Ret :=
  .next (
    let x := s.collector c
    match x.outstanding.find? (fun o => o.1 == recordId) with
    | none => s
    | some (_, t, iv) =>
      if !s.standby || !s.collectors.contains c || s.now < t + iv * 1000000000 then s else
        match s.integ.faults.find? (fun r => r.recordId == recordId) with
        | some r =>
          ((s.putCollector c { x with outstanding := x.outstanding.map fun o =>
            if o.1 = recordId then (recordId, s.now, min 60 (2 * iv)) else o }).count ctExportRetries c 1).emit
              (.datagram c (datagramOf r))
        | none =>
          (s.putCollector c { x with outstanding := x.outstanding.filter fun o => o.1 != recordId }).exportTo c 8)

end Sys2Proof.Machine
end

