-- ==== Sys2Proof/Machine/Spdm.lean ====
section
/-! DEFINITION. Identity, certificates and attestation (R379 to R385): the layered identifiers, the certificate chain and
OP_CERT_READ, the measurements of Table 12.4, and the SPDM responder of Table 12.3. -/

namespace Sys2Proof.Machine

open Sys2Proof

/-! ### Measured images (R380) -/

/-- A layer's offset and length in a bundle's body: L0, L1, L2 (Table 13.7). -/
def layerPlace (h : Bytes) (i : Nat) : Nat × Nat := (rd 4 h (0x24 + 8 * i), rd 4 h (0x28 + 8 * i))

/-- The digest of a layer of a bank; that of the shipped image where the model has not seen its header. -/
def Bank.layerDigest (b : Bank) (i : Nat) : Bytes :=
  if b.header.isEmpty then (List.range 48).map (Config.imageDigestByte (i + 1))
  else let p := layerPlace b.header i; sha384 (cut b.body p.1 p.2)

def Bank.svn (b : Bank) (i : Nat) : Nat :=
  if b.header.isEmpty then (Config.shippedSvn i).toNat else rd 2 b.header (0x0C + 2 * i)

/-- The bank whose L0 and L1 run, and the one whose L2 runs or is started next. -/
def State.loaderBank (s : State) : Bank := s.bank s.fw.loaderB
def State.runningBank (s : State) : Bank := s.bank s.fw.runningB

def uds : Bytes := (List.range 48).map Config.udsByte

/-- CDI_0, CDI_1 and CDI_2 (Table 12.1). -/
def State.cdi0 (s : State) : Bytes :=
  hmac384 uds (s.loaderBank.layerDigest 0 ++ le 2 (s.loaderBank.svn 0) ++ le 1 (lifecycleCode s.sec.lifecycle))
def State.cdi1 (s : State) : Bytes := hmac384 s.cdi0 (s.loaderBank.layerDigest 1 ++ le 2 (s.loaderBank.svn 1))
def State.cdi2 (s : State) : Bytes := hmac384 s.cdi1 (s.runningBank.layerDigest 2 ++ le 2 (s.runningBank.svn 2))

/-! ### The chain (R381) -/

/-- The certificates in order, as far as the module's state shows them: to DeviceID in safelight mode, to the Shuid alias in
S3, whole otherwise. Their X.509 form is left open, by place and identifier. -/
def State.chain (s : State) : Bytes :=
  let cs : List Bytes := [Config.certificate 0 [], Config.certificate 1 [], Config.certificate 2 uds,
    Config.certificate 3 s.cdi0, Config.certificate 4 s.cdi1, Config.certificate 5 s.cdi2]
  (cs.take (if s.fw.safelight then 3 else if s.mainOn then 6 else 5)).flatMap id

/-- The identifier of the layer that answers, from which its key derives. -/
def State.answerId (s : State) : Bytes := if s.fw.safelight then uds else if s.mainOn then s.cdi2 else s.cdi1

/-- OP_CERT_READ. -/
def execOpCertRead (q : Req) (s : State) : Ret :=
  .next (s.runOp q 0x0906 allPayloads (fun _ c => lenIs c 8 ++
      [ (rd 2 c.pay 4 == 0 || (decide (4024 < rd 2 c.pay 4) && rd 2 c.pay 4 != 0xFFFF), stLenRange, payOff 4),
        (rd 2 c.pay 6 != 0, stFieldRange, payOff 6) ]) fun s c =>
    let n := if rd 2 c.pay 4 = 0xFFFF then 4024 else rd 2 c.pay 4
    let b := cut s.chain (rd 4 c.pay 0) n
    .done s stOk 0 (le 4 s.chain.length ++ le 4 b.length ++ padMul 4 b))

/-! ### Measurements (R384, Table 12.4) -/

/-- The running configuration as OP_PERSIST would write it: its entries with whole values. -/
def State.configEntries (s : State) : Bytes :=
  (settings.foldl (fun (t : Tbl Bytes) r => tset t r.key (s.setting r.key)) s.cfg.unknown).flatMap fun e =>
    entryBytes e.1 (s.srcOf e.1) 0 e.2

/-- A measurement's content. The narrowing list's form inside the hash of block 7 is left open. -/
def State.measurement (s : State) (i : Nat) : Bytes :=
  let none48 := zeros 48
  if s.fw.safelight && i != 1 then zeros (match i with
    | 5 => 8 | 6 => 56 | 8 => 52 | 9 => 52 | 10 => 52 | _ => 48)
  else match i with
  | 1 => (List.range 48).map (Config.imageDigestByte 0)
  | 2 => s.loaderBank.layerDigest 0
  | 3 => s.loaderBank.layerDigest 1
  | 4 => s.runningBank.layerDigest 2
  | 5 => le 2 (s.loaderBank.svn 0) ++ le 2 (s.loaderBank.svn 1) ++ le 2 (s.runningBank.svn 2) ++ le 2 s.fw.minSvn
  | 6 => le 1 (lifecycleCode s.sec.lifecycle) ++ le 1 s.sec.debug ++
      le 1 (b2n s.sec.erased + 2 * b2n s.sec.erasePending) ++ zeros 5 ++ fit 48 s.sec.ownerId
  | 7 => if s.sec.lifecycle == .owned then
      le 48 (Config.unstated 40 (s.sec.debugCeiling :: s.sec.narrowed.flatMap fun e => [e.1, e.2])) else none48
  | 8 => match s.wts.main with
    | some p => le 4 p.planGen ++ p.planDigest
    | none => zeros 52
  | 9 => if s.wts.curGen = 0 then zeros 52 else le 4 s.wts.curGen ++ s.manifest s.wts.curGen
  | _ => le 4 s.cfg.gen ++ sha384 s.configEntries

/-- DMTF value types: ROM, firmware, configuration, device mode, freeform; bit 7 marks a raw value. The numbers are DSP0274's
(PRESUMED, log entry 22). -/
def valueType (i : Nat) : Nat := [0, 0x00, 0x01, 0x01, 0x01, 0x83, 0x85, 0x03, 0x84, 0x84, 0x84].getD i 0

/-- A measurement block in DMTF form. -/
def State.measBlock (s : State) (i : Nat) : Bytes :=
  let v := s.measurement i
  le 1 i ++ le 1 1 ++ le 2 (v.length + 3) ++ le 1 (valueType i) ++ le 2 v.length ++ v

def State.allBlocks (s : State) : Bytes := (rangeFrom 1 10).flatMap s.measBlock

/-! ### The responder (R383, R385). Codes are DSP0274's (PRESUMED, log entry 22). -/

def spVersion : Nat := 0x04
def spCapabilities : Nat := 0x61
def spAlgorithms : Nat := 0x63
def spDigests : Nat := 0x01
def spCertificate : Nat := 0x02
def spChallengeAuth : Nat := 0x03
def spMeasurements : Nat := 0x60
def spError : Nat := 0x7F

def seUnexpected : Nat := 0x04
def seUnspecified : Nat := 0x05
def seUnsupported : Nat := 0x07
def seVersionMismatch : Nat := 0x41
def seResynch : Nat := 0x43

/-- Whether a transport is answered: DOE on the host function while L2 or the recovery image runs, MCTP from Shuid's start. -/
def State.spdmUp (s : State) : SpdmPath → Bool
  | .doe => (s.l2Up || s.fw.safelight) && !(s.fw.handover.any (fun h => h.blackoutNs.isSome))
  | _ => s.pwr.state != .s5 && 2 ≤ s.fw.stage

def State.spdmState (s : State) (t : SpdmPath) : Nat := ((s.sec.spdm.find? (fun e => e.1 == t)).map (·.2)).getD 0

def State.setSpdm (s : State) (t : SpdmPath) (n : Nat) : State :=
  s.onSec fun c => { c with spdm := (t, n) :: c.spdm.filter (fun e => e.1 != t) }

/-- An answer: the fields that the spec leaves to DSP0274, then the parts it gives. -/
def State.spdmSay (s : State) (t : SpdmPath) (code : Nat) (body : Bytes) (sig : Option Bytes := none) : State :=
  s.emit (.spdm t code (Config.spdmFields code ++ body) sig)

def State.spdmErr (s : State) (t : SpdmPath) (e : Nat) : State := s.emit (.spdm t spError (le 1 e) none)

/-- What every request meets: resynchronisation after a live handover, a bad identity, and the order of the connection. -/
def State.spdmReq (s : State) (t : SpdmPath) (need : Nat) (rule : State → State) : State :=
  if !s.spdmUp t then s
  else if s.sec.resync.contains t then
    ((s.onSec fun c => { c with resync := c.resync.filter (· != t) }).setSpdm t 0).spdmErr t seResynch
  else if Config.identityBad then s.spdmErr t seUnspecified
  else if s.spdmState t < need then s.spdmErr t seUnexpected
  else rule s

/-- GET_VERSION: 1.2 and 1.3; the connection starts again. -/
def execGetVersion (t : SpdmPath) (s : State) : Ret :=
  .next (s.spdmReq t 0 fun s => (s.setSpdm t 1).spdmSay t spVersion [0x12, 0x13])

/-- GET_CAPABILITIES: CTExponent 12, and CERT, CHAL, MEAS with signature and MEAS_FRESH. -/
def execGetCapabilities (t : SpdmPath) (version : Nat) (s : State) : Ret :=
  .next (s.spdmReq t 1 fun s =>
    if version != 0x12 && version != 0x13 then s.spdmErr t seVersionMismatch
    else (s.setSpdm t 2).spdmSay t spCapabilities (le 1 12 ++ le 4 0x36))

/-- NEGOTIATE_ALGORITHMS: P-384, SHA-384 and the DMTF specification, and nothing else. -/
def execNegotiateAlgorithms (t : SpdmPath) (p384 sha384 dmtf : Bool) (s : State) : Ret :=
  .next (s.spdmReq t 2 fun s =>
    if p384 && sha384 && dmtf then (s.setSpdm t 3).spdmSay t spAlgorithms [] else s.spdmErr t seUnsupported)

/-- GET_DIGESTS: slot 0. -/
def execGetDigests (t : SpdmPath) (s : State) : Ret :=
  .next (s.spdmReq t 3 fun s => s.spdmSay t spDigests (sha384 s.chain))

/-- GET_CERTIFICATE. -/
def execGetCertificate (t : SpdmPath) (slot off len : Nat) (s : State) : Ret :=
  .next (s.spdmReq t 3 fun s =>
    if slot != 0 then s.spdmErr t seUnsupported else s.spdmSay t spCertificate (cut s.chain off len))

/-- The responder's nonce: a draw of the random source. -/
def State.nonce (s : State) : Bytes := le 32 (Config.random s.freeCtr)

/-- A signature of the answering layer over what was asked and what is answered. -/
def State.signed (s : State) (asked body : Bytes) : Bytes := Config.signature s.answerId (asked ++ body)

/-- CHALLENGE: the chain's digest, a nonce, and the summary hash of all measurements (0xFF), of the trusted base (1; which
blocks it takes is left open) or none (0), signed. -/
def execChallenge (t : SpdmPath) (slot : Nat) (nonce : Bytes) (hashType : Nat) (s : State) : Ret :=
  .next (s.spdmReq t 3 fun s =>
    if slot != 0 || !(hashType == 0 || hashType == 1 || hashType == 0xFF) then s.spdmErr t seUnsupported else
      let sum : Bytes := if hashType = 0 then [] else if hashType = 0xFF then sha384 s.allBlocks
        else le 48 (Config.unstated 43 (s.allBlocks.map BitVec.toNat))
      let body := sha384 s.chain ++ s.nonce ++ sum
      (s.drawn).spdmSay t spChallengeAuth body (some (s.signed nonce body)))

/-- GET_MEASUREMENTS: the number of blocks (0), one block, or all of them (0xFF), signed where asked. -/
def execGetMeasurements (t : SpdmPath) (index : Nat) (signed : Bool) (nonce : Bytes) (s : State) : Ret :=
  .next (s.spdmReq t 3 fun s =>
    if 10 < index && index != 0xFF then s.spdmErr t seUnsupported else
      let blocks := if index = 0 then le 1 10 else if index = 0xFF then s.allBlocks else s.measBlock index
      let body := blocks ++ s.nonce
      (s.drawn).spdmSay t spMeasurements body (if signed then some (s.signed nonce body) else none))

/-- A request that Table 12.3 does not list. -/
def execSpdmUnsupportedRequest (t : SpdmPath) (_code : Nat) (s : State) : Ret :=
  .next (s.spdmReq t 0 fun s => s.spdmErr t seUnsupported)

end Sys2Proof.Machine
end

