-- ==== Sys2Proof/Machine/Strip.lean ====
section
/-! DEFINITION. The test strip (R109 to R117) and the shadow vote (R358 to R361): references, judgement, re-exposure, fallback to
A8, promotion, the checkers' blocks and the vote. -/

namespace Sys2Proof.Machine

open Sys2Proof

/-! ### References (R111) -/

/-- A row as the test strip reads it: the wide copy, or for BF16 the operand itself. -/
def State.wideRow (s : State) (r : Run) (row : Nat) : List Word32 :=
  let g := s.mmRegion r
  if g.form = 2 then s.regionWords g row else
    let i := row - stripFirst r.t.seq r.half.positions
    (List.range g.panels).flatMap fun p => (List.range 16).map fun j =>
      w32 (rd 2 (s.readData (g.base + g.wideAt p + 32 * i + 2 * j) 2) 0 * 65536)

/-- The live rows of the strip row group. -/
def State.stripRows (_ : State) (r : Run) (h : Held) : List Nat :=
  let f := stripFirst r.t.seq r.half.positions
  h.rows.filter fun i => decide (f ≤ i ∧ i < f + 48)

/-- y_ref of a column block: each element a chain of fused multiply-adds over the reduction, in ascending order from +0. -/
def State.stripRef (s : State) (r : Run) (h : Held) (col : Nat) : List Word32 :=
  let wb := s.weightsOf r
  (s.stripRows r h).flatMap fun row =>
    let x := s.wideRow r row
    (rangeFrom (48 * col) 48).map fun c => (indexed x).foldl (fun a e =>
      fma e.2 (weightIn wb (mmW r.d) (mmK r.d) (mmN r.d) e.1 c).to32 a) f32Zero

/-! ### Judgement -/

/-- The values of a row and a column block that a converted output stands for. -/
def ConvSpec.decoded (q : ConvSpec) (c : Converted) (row col : Nat) : List Word32 :=
  let bytes (o n : Nat) : Bytes := cut ((c.blocks.drop (o / blockBytes)).take 2 |>.flatMap (·.data)) (o % blockBytes) n
  ((rangeFrom (3 * col) 3).flatMap fun p =>
    let o := q.reg.at p row
    let b := bytes o (formBytes q.reg.form)
    let x := c.blocks.getD (o / blockBytes) { data := [] }
    match q.reg.form with
    | 3 => (List.range 16).map fun j => f32 (w32 (rd 4 b (4 * j)))
    | 2 => (List.range 16).map fun j => bf16 (rd 2 b (2 * j))
    | _ => (slotGroup b { exp := x.exp, a8d := x.a8d }).whole).map Fp.to32

/-- The output of a run, converted as its first destination asks. -/
def State.heldConv (s : State) (r : Run) (h : Held) : ConvSpec × Converted :=
  let t := dDest r.d ((outsUsed r.d).headD 0)
  let q := s.convSpec r t (mmO r.d) (mmM r.d) (mmN r.d) h.rows
  (q, q.convert (s.mmVals r h.rows))

/-- 2^−STRIP_E; 2^−5 where STRIP_E is 0. -/
def stripTol (l : List Nat) : Word32 := (Fp.num 1 (-((if stripE l = 0 then 5 else stripE l) : Nat))).to32

/-- A block judged: none where its reference is not finite; otherwise whether it disagrees, and e_rel. -/
def judgeBlock (tol : Word32) (y ref : List Word32) : Option (Bool × Word32) :=
  if ref.any fun v => !(f32 v).finite then none else
    let d := List.zipWith fsub y ref
    let norm (l : List Word32) : Word32 := fsqrt (vecSum (l.map fun v => fmul v v))
    let e := fdiv (norm d) (norm ref)
    let zero (l : List Word32) : Bool := l.all fun v => (f32 v).isZero
    some (flt tol e || (zero ref && !zero y) || y.any (fun v => !(f32 v).finite), e)

/-- Every sampled block of a held output, judged. -/
def State.judgeAll (s : State) (r : Run) (h : Held) : List (Nat × Option (Bool × Word32)) :=
  let q := s.heldConv r h
  h.strip.map fun b =>
    (b.1, judgeBlock (stripTol (s.plan.layerOf r.d)) ((s.stripRows r h).flatMap fun row => q.1.decoded q.2 row b.1) b.2)

/-- Blocks that disagree, with e_rel. -/
def disagreeing (js : List (Nat × Option (Bool × Word32))) : List (Nat × Word32) :=
  js.filterMap fun j => j.2.bind fun v => if v.1 then some (j.1, v.2) else none

/-! ### Promotion (R116) -/

/-- A session's promotion count for a layer rises; at its limit the session is promoted. -/
def State.raisePromotion (s : State) (step layer id : Nat) : State :=
  match s.sessById id with
  | none => s
  | some x =>
    let key := x.index * 2 ^ 16 + layer
    let n := tgetD s.srv.promoCounts key 0 + 1
    let s1 := s.onSrv fun v => { v with promoCounts := tset v.promoCounts key n }
    let lim := if promoteN (s.plan.layer layer) = 0 then s.plan.promoteDefault else promoteN (s.plan.layer layer)
    if n != lim then s1 else
      let s2 := s1.sendAll mPromotion 0 step [le 4 id ++ le 2 layer ++ le 2 x.epoch ++ zeros 8]
      ((s2.notePromotion id layer).event evPromoted).count ctPromotions layer 1

/-! ### What a judgement brings (R114, R115) -/

/-- A check that makes a layer run past its reserved time: the excess is a stall, and the timeout is measured again (R55, R361). -/
def State.overrun (s : State) (r : Run) (ct from_ until_ : Nat) : State :=
  let due := tgetD r.t.enteredNs r.ph s.now + s.reservedNs r.t r.ph
  s.stall ct 0 (until_ - max due from_) r.code r.tile r.idx r.t.seq

def State.replayed (s : State) (r : Run) : State :=
  s.modStep r.t.seq fun t => { t with replayNs := tset t.replayNs r.ph s.now }

/-- A second disagreement: the affected sessions' rows are written in A8 form for the rest of the step, and their promotion counts
rise. -/
def State.stripFallback (s : State) (r : Run) (h : Held) (worst : Word32) : State :=
  let layer := dLayer r.d
  let ids := ((s.stripRows r h).filterMap fun i => s.rowSession r i).foldl addNew []
  let key := a8Key r.t.seq layer
  let s1 := s.onTiles fun t => { t with a8Rows := tset t.a8Rows key (ids.foldl addNew (tgetD t.a8Rows key [])) }
  let arg := r.t.seq % 2 ^ 32
  let s2 := (s1.count ctStripA8 r.code 1).event evStripA8 (s1.runUnit r)
    (layer + r.tile * 2 ^ 16 + (min ids.length 65535) * 2 ^ 32 + worst.toNat / 65536 * 2 ^ 48) arg
  ids.foldl (fun (a : State) id => a.raisePromotion r.t.seq layer id) s2

/-- Every reference is made and every vote settled: the output is judged, re-exposed and judged again where a block disagrees, and
sent. -/
def State.settleStrip (s : State) (r : Run) (h : Held) : State :=
  if h.strip.any (fun b => b.2.isEmpty) || h.shadow.any (fun b => !b.done) then s else
    let js := s.judgeAll r h
    let s1 := (s.count ctStripSampled r.code (js.filter fun j => j.2.isSome).length).count ctStripNonfinite r.code
      (js.filter fun j => j.2.isNone).length
    if (disagreeing js).isEmpty then s1.release r h else
      let ns := cyclesNs (96 * (ceilDiv (mmM r.d) 48 * (mmN r.d / 48)))
      let s2 := (s1.count ctStripFail r.code 1).modTile r.tile fun x => { x with reexposed := addNew x.reexposed (dLayer r.d) }
      let s3 := (((s2.traceRec trReexpose r.code r.tile r.idx r.t.seq 0).overrun r ctReexpose s.now (s.now + ns))).replayed r
      let bad := disagreeing (s3.judgeAll r h)
      let s4 := if bad.isEmpty then s3
        else s3.stripFallback r h (bad.foldl (fun m b => if flt m b.2 then b.2 else m) f32Zero)
      s4.release r h

/-- STRIP_JUDGE: the vector unit makes the next reference of a MATMUL that has completed; with the last one the output is judged.
A group without a live row has nothing to judge. -/
def execStripJudge (tile : Nat) (s : State) : Ret :=
  .next (let x := s.tileX tile
    let due (h : Held) : Bool := h.strip.any (fun b => b.2.isEmpty) && !x.queue.any fun q => q.desc == h.desc
    match x.held.find? due with
    | none => s
    | some h =>
      if x.vector.isSome || !s.tileRuns tile then s else
        match s.heldRun tile h, h.strip.find? fun b => b.2.isEmpty with
        | some r, some b =>
          let ref := s.stripRef r h b.1
          let h1 := { h with strip := h.strip.map fun c => if c.1 = b.1 then (c.1, if ref.isEmpty then [f32Zero] else ref) else c }
          (s.putHeld tile h1).settleStrip r h1
        | _, _ => s)

/-! ### The shadow vote (R359, R360) -/

/-- Rows and columns of a run's accumulator block. -/
def blockRows (d : List Nat) (k : Nat) : List Nat :=
  (rangeFrom (k / (mmN d / 48) * 48) 48).filter fun i => decide (i < mmM d)
def blockCols (d : List Nat) (k : Nat) : List Nat := rangeFrom (k % (mmN d / 48) * 48) 48

/-- A block as a sound array computes it: the live rows, row by row. -/
def State.shadowWords (s : State) (r : Run) (h : Held) (k : Nat) : List Word32 :=
  let wb := s.weightsOf r
  ((blockRows r.d k).filter h.rows.contains).flatMap fun i => s.mmRow r wb i (blockCols r.d k)

/-- The producer's values of a block. -/
def State.producerWords (s : State) (r : Run) (h : Held) (k : Nat) : List Word32 :=
  ((blockRows r.d k).filter h.rows.contains).flatMap fun i =>
    (blockCols r.d k).map (s.accWord r.tile (mmAcc r.d) (mmN r.d) i)

/-- The producer's block replaced by the majority's values. -/
def State.putBlock (s : State) (r : Run) (h : Held) (k : Nat) (ws : List Word32) : State :=
  let cells := ((blockRows r.d k).filter h.rows.contains).flatMap fun i => (blockCols r.d k).map fun c => (i, c)
  (cells.zip ws).foldl (fun (a : State) e => a.write (accAddr a r.tile (mmAcc r.d) (mmN r.d) e.1.1 e.1.2) (le 4 e.2.toNat)) s

/-- SHADOW_CHECK_RUN: the checker's array, once it is free, computes its oldest block; two sound tiles give equal bits. -/
def execShadowCheckRun (tile : Nat) (s : State) : Ret :=
  .next (match s.tiles.shadowPending.find? fun j => j.checker == tile with
  | none => s
  | some j =>
    if (s.tileX tile).array.isSome || !s.tileRuns tile then s else
      let gone := s.onTiles fun t => { t with shadowPending := t.shadowPending.filter (· != j) }
      match (s.tileX j.tile).held.find? fun h => h.desc == j.desc with
      | none => gone
      | some h => match s.heldRun j.tile h with
        | none => gone
        | some r =>
          let ws := s.shadowWords r h j.block
          gone.putHeld j.tile { h with shadow := h.shadow.map fun b =>
            if b.block = j.block then { b with results := b.results ++ [(tile, ws)] } else b })

/-- A block is settled; with the last one an output without strip blocks is sent, and one with them is judged. -/
def State.voteDone (s : State) (r : Run) (h : Held) (k : Nat) : State :=
  let h1 := { h with shadow := h.shadow.map fun b => if b.block = k then { b with done := true } else b }
  let s1 := (s.putHeld r.tile h1).traceRec trVote r.code r.tile r.idx r.t.seq 0
  let late := decide (tgetD r.t.enteredNs r.ph s.now + s.reservedNs r.t r.ph < s.now)
  let s2 := if late then (s1.overrun r ctShadow h.startNs s.now).replayed r else s1
  if h1.shadow.any fun b => !b.done then s2
  else if h1.strip.isEmpty then s2.release r h1 else s2.settleStrip r h1

/-- A tile lost a vote. The output goes on where its step has not been lost with the tile. -/
def State.loseVote (s : State) (r : Run) (h : Held) (k tile : Nat) : State :=
  let s1 := (s.count ctShadowMismatch 0 1).transient (tileUnit (s.ptileOf tile)) true
  if (s1.tileX r.tile).held.any fun q => q.desc == h.desc then s1.voteDone r h k else s1

/-- SHADOW_VOTE: Table 11.7 for a block whose checker has answered. -/
def execShadowVote (tile : Nat) (s : State) : Ret :=
  .next (let waiting (b : ShadowBlk) : Bool := !b.done && !b.results.isEmpty &&
      !s.tiles.shadowPending.any fun j => j.tile == tile && j.block == b.block
    match (s.tileX tile).held.find? fun h => h.shadow.any waiting with
    | none => s
    | some h => match s.heldRun tile h, h.shadow.find? waiting with
      | some r, some b =>
        let mine := s.producerWords r h b.block
        match b.results with
        | [c1] =>
          if c1.2 = mine then s.noteState ((s.count ctShadowBlocks 0 1).voteDone r h b.block)
          else s.onTiles fun t => { t with shadowPending := t.shadowPending ++
            [{ checker := (s.plan.checkers tile).2, tile := tile, desc := h.desc, block := b.block }] }
        | c1 :: c2 :: _ =>
          s.noteState (
            if c2.2 = mine then s.loseVote r h b.block c1.1
            else if c2.2 = c1.2 then (s.putBlock r h b.block c1.2).loseVote r h b.block tile
            else
              let ps := [s.ptileOf tile, s.ptileOf c1.1, s.ptileOf c2.1]
              let s1 := ps.foldl (fun (a : State) p => a.transient (tileUnit p)) (s.count ctShadowFail 0 1)
              s1.stepFault fltStepCheck (tileUnit (s.ptileOf tile)) r.t.seq
                { logical := some tile, layer := some r.code, args := ps })
        | [] => s
      | _, _ => s)

end Sys2Proof.Machine
end

