-- ==== Sys2Proof/Machine/Dispatch.lean ====
section
/-! DEFINITION. One arm per command: each is a direct call of that command's meaning. -/

namespace Sys2Proof.Machine

open Sys2Proof

def exec (i : Instr) (s : State) : Host.Outcome State Fault Refusal :=
  match i with
  | .opIdentify q => Sys2Proof.Machine.execOpIdentify q s
  | .opStatus q => Sys2Proof.Machine.execOpStatus q s
  | .opRightsRead q => Sys2Proof.Machine.execOpRightsRead q s
  | .opBegin q => Sys2Proof.Machine.execOpBegin q s
  | .opStage q => Sys2Proof.Machine.execOpStage q s
  | .opRead q => Sys2Proof.Machine.execOpRead q s
  | .opCommit q => Sys2Proof.Machine.execOpCommit q s
  | .opRollback q => Sys2Proof.Machine.execOpRollback q s
  | .opPersist q => Sys2Proof.Machine.execOpPersist q s
  | .opFactoryView q => Sys2Proof.Machine.execOpFactoryView q s
  | .opPlanLoad q => Sys2Proof.Machine.execOpPlanLoad q s
  | .planCheckDone => Sys2Proof.Machine.execPlanCheckDone s
  | .opShardWrite q => Sys2Proof.Machine.execOpShardWrite q s
  | .opShardVerify q => Sys2Proof.Machine.execOpShardVerify q s
  | .shardVerifyDone kind id gen => Sys2Proof.Machine.execShardVerifyDone kind id gen s
  | .opWeightSwap q => Sys2Proof.Machine.execOpWeightSwap q s
  | .opPlanUnload q => Sys2Proof.Machine.execOpPlanUnload q s
  | .opDigestSweep q => Sys2Proof.Machine.execOpDigestSweep q s
  | .opAdapterLoad q => Sys2Proof.Machine.execOpAdapterLoad q s
  | .opAdapterReplace q => Sys2Proof.Machine.execOpAdapterReplace q s
  | .opAdapterUnload q => Sys2Proof.Machine.execOpAdapterUnload q s
  | .opAdapterList q => Sys2Proof.Machine.execOpAdapterList q s
  | .opSliceStart q => Sys2Proof.Machine.execOpSliceStart q s
  | .opSliceStop q => Sys2Proof.Machine.execOpSliceStop q s
  | .opSessionQuery q => Sys2Proof.Machine.execOpSessionQuery q s
  | .opSessionEvict q => Sys2Proof.Machine.execOpSessionEvict q s
  | .opPowerStateSet q => Sys2Proof.Machine.execOpPowerStateSet q s
  | .powerStateEntered => Sys2Proof.Machine.execPowerStateEntered s
  | .opCapSet q => Sys2Proof.Machine.execOpCapSet q s
  | .opPowerRead q => Sys2Proof.Machine.execOpPowerRead q s
  | .opOppointSet q => Sys2Proof.Machine.execOpOppointSet q s
  | .opBudgetRead q => Sys2Proof.Machine.execOpBudgetRead q s
  | .opCounterRead q => Sys2Proof.Machine.execOpCounterRead q s
  | .opEventRead q => Sys2Proof.Machine.execOpEventRead q s
  | .opAccountingRead q => Sys2Proof.Machine.execOpAccountingRead q s
  | .opFaultRead q => Sys2Proof.Machine.execOpFaultRead q s
  | .opFaultAck q => Sys2Proof.Machine.execOpFaultAck q s
  | .opHealthRead q => Sys2Proof.Machine.execOpHealthRead q s
  | .selftestCheckers q => Sys2Proof.Machine.execSelftestCheckers q s
  | .selftestTile q => Sys2Proof.Machine.execSelftestTile q s
  | .selftestAllDue q => Sys2Proof.Machine.execSelftestAllDue q s
  | .opHistoryRead q => Sys2Proof.Machine.execOpHistoryRead q s
  | .opFwHeader q => Sys2Proof.Machine.execOpFwHeader q s
  | .opFwChunk q => Sys2Proof.Machine.execOpFwChunk q s
  | .fwActivateAtReset q => Sys2Proof.Machine.execFwActivateAtReset q s
  | .fwActivateWarm q => Sys2Proof.Machine.execFwActivateWarm q s
  | .fwActivateLive q => Sys2Proof.Machine.execFwActivateLive q s
  | .opHealthConfirm q => Sys2Proof.Machine.execOpHealthConfirm q s
  | .opFwAbort q => Sys2Proof.Machine.execOpFwAbort q s
  | .opLifecycleSet q => Sys2Proof.Machine.execOpLifecycleSet q s
  | .opOwnershipTake q => Sys2Proof.Machine.execOpOwnershipTake q s
  | .opRightsNarrow q => Sys2Proof.Machine.execOpRightsNarrow q s
  | .opDebugLevelSet q => Sys2Proof.Machine.execOpDebugLevelSet q s
  | .opErase q => Sys2Proof.Machine.execOpErase q s
  | .eraseDone failed => Sys2Proof.Machine.execEraseDone failed s
  | .opCertRead q => Sys2Proof.Machine.execOpCertRead q s
  | .opNeighbourRead q => Sys2Proof.Machine.execOpNeighbourRead q s
  | .opLinkStatus q => Sys2Proof.Machine.execOpLinkStatus q s
  | .opLinkRetrain q => Sys2Proof.Machine.execOpLinkRetrain q s
  | .opLaneMargin q => Sys2Proof.Machine.execOpLaneMargin q s
  | .traceRead q => Sys2Proof.Machine.execTraceRead q s
  | .traceStart q => Sys2Proof.Machine.execTraceStart q s
  | .traceStop q => Sys2Proof.Machine.execTraceStop q s
  | .opPhysRead q => Sys2Proof.Machine.execOpPhysRead q s
  | .opPhysWrite q => Sys2Proof.Machine.execOpPhysWrite q s
  | .scanList q => Sys2Proof.Machine.execScanList q s
  | .scanCapture q => Sys2Proof.Machine.execScanCapture q s
  | .scanShiftOut q => Sys2Proof.Machine.execScanShiftOut q s
  | .scanShiftIn q => Sys2Proof.Machine.execScanShiftIn q s
  | .mailboxReset word => Sys2Proof.Machine.execMailboxReset word s
  | .warmReset word => Sys2Proof.Machine.execWarmReset word s
  | .irqClear word => Sys2Proof.Machine.execIrqClear word s
  | .registerWrite off word => Sys2Proof.Machine.execRegisterWrite off word s
  | .slotWriteDenied slot off data => Sys2Proof.Machine.execSlotWriteDenied slot off data s
  | .slotMsgWrite path slot image => Sys2Proof.Machine.execSlotMsgWrite path slot image s
  | .slotMsgRead path slot => Sys2Proof.Machine.execSlotMsgRead path slot s
  | .mboxAccess slot write image => Sys2Proof.Machine.execMboxAccess slot write image s
  | .pcieLinkReset kind => Sys2Proof.Machine.execPcieLinkReset kind s
  | .heartbeat => Sys2Proof.Machine.execHeartbeat s
  | .getVersion t => Sys2Proof.Machine.execGetVersion t s
  | .getCapabilities t version => Sys2Proof.Machine.execGetCapabilities t version s
  | .negotiateAlgorithms t p384 sha384 dmtf => Sys2Proof.Machine.execNegotiateAlgorithms t p384 sha384 dmtf s
  | .getDigests t => Sys2Proof.Machine.execGetDigests t s
  | .getCertificate t slot off len => Sys2Proof.Machine.execGetCertificate t slot off len s
  | .challenge t slot nonce hashType => Sys2Proof.Machine.execChallenge t slot nonce hashType s
  | .getMeasurements t index signed nonce => Sys2Proof.Machine.execGetMeasurements t index signed nonce s
  | .spdmUnsupportedRequest t code => Sys2Proof.Machine.execSpdmUnsupportedRequest t code s
  | .setEventReceiver receiver => Sys2Proof.Machine.execSetEventReceiver receiver s
  | .pldmEventResponse => Sys2Proof.Machine.execPldmEventResponse s
  | .pldmExportRetry => Sys2Proof.Machine.execPldmExportRetry s
  | .collectorAck c recordId => Sys2Proof.Machine.execCollectorAck c recordId s
  | .collectorResend c recordId => Sys2Proof.Machine.execCollectorResend c recordId s
  | .faultCountSecond code unit => Sys2Proof.Machine.execFaultCountSecond code unit s
  | .cmReq client ipv6 addr remoteQp => Sys2Proof.Machine.execCmReq client ipv6 addr remoteQp s
  | .cmDreq qp => Sys2Proof.Machine.execCmDreq qp s
  | .invalidRequestNak qp why => Sys2Proof.Machine.execInvalidRequestNak qp why s
  | .cnpReceived qp => Sys2Proof.Machine.execCnpReceived qp s
  | .ceMarkedPacket qp => Sys2Proof.Machine.execCeMarkedPacket qp s
  | .localAckTimeout qp => Sys2Proof.Machine.execLocalAckTimeout qp s
  | .reqOpen qp msg => Sys2Proof.Machine.execReqOpen qp msg s
  | .reqAppend qp msg => Sys2Proof.Machine.execReqAppend qp msg s
  | .reqGenerate qp msg => Sys2Proof.Machine.execReqGenerate qp msg s
  | .reqCancel qp msg => Sys2Proof.Machine.execReqCancel qp msg s
  | .reqPause qp msg => Sys2Proof.Machine.execReqPause qp msg s
  | .reqResume qp msg => Sys2Proof.Machine.execReqResume qp msg s
  | .reqClose qp msg => Sys2Proof.Machine.execReqClose qp msg s
  | .unknownType qp msg => Sys2Proof.Machine.execUnknownType qp msg s
  | .cancelSettled session => Sys2Proof.Machine.execCancelSettled session s
  | .closeSettled session => Sys2Proof.Machine.execCloseSettled session s
  | .kvWaitExpiry session => Sys2Proof.Machine.execKvWaitExpiry session s
  | .stepCompose => Sys2Proof.Machine.execStepCompose s
  | .sessionTable port k => Sys2Proof.Machine.execSessionTable port k s
  | .attnRecords port k => Sys2Proof.Machine.execAttnRecords port k s
  | .grantList port k => Sys2Proof.Machine.execGrantList port k s
  | .grantMoveDone group session chunk => Sys2Proof.Machine.execGrantMoveDone group session chunk s
  | .commit port k => Sys2Proof.Machine.execCommit port k s
  | .csLookup session => Sys2Proof.Machine.execCsLookup session s
  | .sessionUpdate port k => Sys2Proof.Machine.execSessionUpdate port k s
  | .genParams port k => Sys2Proof.Machine.execGenParams port k s
  | .holeTable port k => Sys2Proof.Machine.execHoleTable port k s
  | .txnStage port k => Sys2Proof.Machine.execTxnStage port k s
  | .txnApply port k => Sys2Proof.Machine.execTxnApply port k s
  | .txnReply port k => Sys2Proof.Machine.execTxnReply port k s
  | .txnTimeout sliceScope => Sys2Proof.Machine.execTxnTimeout sliceScope s
  | .promotion port k => Sys2Proof.Machine.execPromotion port k s
  | .stepAbort port k => Sys2Proof.Machine.execStepAbort port k s
  | .clear port k => Sys2Proof.Machine.execClear port k s
  | .stepReport port k => Sys2Proof.Machine.execStepReport port k s
  | .streamStallWindow => Sys2Proof.Machine.execStreamStallWindow s
  | .budgetSlack port k => Sys2Proof.Machine.execBudgetSlack port k s
  | .budgetLent port k => Sys2Proof.Machine.execBudgetLent port k s
  | .budgetGrant port k => Sys2Proof.Machine.execBudgetGrant port k s
  | .budgetRevert port k => Sys2Proof.Machine.execBudgetRevert port k s
  | .budgetReverted port k => Sys2Proof.Machine.execBudgetReverted port k s
  | .budgetWindow => Sys2Proof.Machine.execBudgetWindow s
  | .startInfo port k => Sys2Proof.Machine.execStartInfo port k s
  | .draftTree port k => Sys2Proof.Machine.execDraftTree port k s
  | .outcome port k => Sys2Proof.Machine.execOutcome port k s
  | .draftStep session logits => Sys2Proof.Machine.execDraftStep session logits s
  | .samplingRow session row remote => Sys2Proof.Machine.execSamplingRow session row remote s
  | .adapterGatherDone id gen => Sys2Proof.Machine.execAdapterGatherDone id gen s
  | .pauseFixStart session => Sys2Proof.Machine.execPauseFixStart session s
  | .pauseComplete session => Sys2Proof.Machine.execPauseComplete session s
  | .pauseExpiry session => Sys2Proof.Machine.execPauseExpiry session s
  | .restoreComplete session => Sys2Proof.Machine.execRestoreComplete session s
  | .descriptorStart tile => Sys2Proof.Machine.execDescriptorStart tile s
  | .descriptorComplete tile unit => Sys2Proof.Machine.execDescriptorComplete tile unit s
  | .matmul tile => Sys2Proof.Machine.execMatmul tile s
  | .lora tile => Sys2Proof.Machine.execLora tile s
  | .attn tile => Sys2Proof.Machine.execAttn tile s
  | .kvAppend tile => Sys2Proof.Machine.execKvAppend tile s
  | .norm tile => Sys2Proof.Machine.execNorm tile s
  | .elemwise tile => Sys2Proof.Machine.execElemwise tile s
  | .route tile => Sys2Proof.Machine.execRoute tile s
  | .skipGate tile => Sys2Proof.Machine.execSkipGate tile s
  | .combine tile => Sys2Proof.Machine.execCombine tile s
  | .dispatch tile => Sys2Proof.Machine.execDispatch tile s
  | .collective tile => Sys2Proof.Machine.execCollective tile s
  | .move tile => Sys2Proof.Machine.execMove tile s
  | .fabricRed tile => Sys2Proof.Machine.execFabricRed tile s
  | .mcast tile => Sys2Proof.Machine.execMcast tile s
  | .embed tile => Sys2Proof.Machine.execEmbed tile s
  | .sample tile => Sys2Proof.Machine.execSample tile s
  | .phaseBoundary tile => Sys2Proof.Machine.execPhaseBoundary tile s
  | .moeReserveExpiry => Sys2Proof.Machine.execMoeReserveExpiry s
  | .markTimeout tile => Sys2Proof.Machine.execMarkTimeout tile s
  | .stripJudge tile => Sys2Proof.Machine.execStripJudge tile s
  | .shadowCheckRun tile => Sys2Proof.Machine.execShadowCheckRun tile s
  | .shadowVote tile => Sys2Proof.Machine.execShadowVote tile s
  | .slownessWindow tile meanNs peerMeanNs => Sys2Proof.Machine.execSlownessWindow tile meanNs peerMeanNs s
  | .testDue ptile => Sys2Proof.Machine.execTestDue ptile s
  | .testComplete ptile pass => Sys2Proof.Machine.execTestComplete ptile pass s
  | .testOverdue ptile => Sys2Proof.Machine.execTestOverdue ptile s
  | .droopTrip unit fallPermille => Sys2Proof.Machine.execDroopTrip unit fallPermille s
  | .droopRecovery unit => Sys2Proof.Machine.execDroopRecovery unit s
  | .railCurrentSample rail milliamps => Sys2Proof.Machine.execRailCurrentSample rail milliamps s
  | .pageMoveStart page tier frame => Sys2Proof.Machine.execPageMoveStart page tier frame s
  | .pageMoveDone page dirtyAfter => Sys2Proof.Machine.execPageMoveDone page dirtyAfter s
  | .ceDetected unit addr => Sys2Proof.Machine.execCeDetected unit addr s
  | .ueDetected unit addr holds recurs step => Sys2Proof.Machine.execUeDetected unit addr holds recurs step s
  | .parityError unit step => Sys2Proof.Machine.execParityError unit step s
  | .blockCrcFail unit addr holds step => Sys2Proof.Machine.execBlockCrcFail unit addr holds step s
  | .leakyBucketLeak unit => Sys2Proof.Machine.execLeakyBucketLeak unit s
  | .agitationScrub unit words corrected => Sys2Proof.Machine.execAgitationScrub unit words corrected s
  | .agitationLapLate unit => Sys2Proof.Machine.execAgitationLapLate unit s
  | .streamFetchStart layer => Sys2Proof.Machine.execStreamFetchStart layer s
  | .streamFetchDone layer tier cause => Sys2Proof.Machine.execStreamFetchDone layer tier cause s
  | .sweepPeriod => Sys2Proof.Machine.execSweepPeriod s
  | .sweepDone => Sys2Proof.Machine.execSweepDone s
  | .backingCopyDone id => Sys2Proof.Machine.execBackingCopyDone id s
  | .homePhaseWrite phase => Sys2Proof.Machine.execHomePhaseWrite phase s
  | .homePhaseWritten phase => Sys2Proof.Machine.execHomePhaseWritten phase s
  | .darkslideOpen => Sys2Proof.Machine.execDarkslideOpen s
  | .flitReceived port f => Sys2Proof.Machine.execFlitReceived port f s
  | .fastRetrainDone port failing restored => Sys2Proof.Machine.execFastRetrainDone port failing restored s
  | .portDown port cause => Sys2Proof.Machine.execPortDown port cause s
  | .linkTrainingDone port failing => Sys2Proof.Machine.execLinkTrainingDone port failing s
  | .linkTrainingRetry port => Sys2Proof.Machine.execLinkTrainingRetry port s
  | .neighbourCard port k => Sys2Proof.Machine.execNeighbourCard port k s
  | .cardSend port => Sys2Proof.Machine.execCardSend port s
  | .cardAbsent port => Sys2Proof.Machine.execCardAbsent port s
  | .heldIdleRetrain port => Sys2Proof.Machine.execHeldIdleRetrain port s
  | .flushMarker port k => Sys2Proof.Machine.execFlushMarker port k s
  | .linkMgmt port k => Sys2Proof.Machine.execLinkMgmt port k s
  | .writePacket port k => Sys2Proof.Machine.execWritePacket port k s
  | .readReq port k => Sys2Proof.Machine.execReadReq port k s
  | .readRsp port k => Sys2Proof.Machine.execReadRsp port k s
  | .redPacket port k => Sys2Proof.Machine.execRedPacket port k s
  | .mcastPacket port k => Sys2Proof.Machine.execMcastPacket port k s
  | .dispatchPacket port k => Sys2Proof.Machine.execDispatchPacket port k s
  | .dispatchEnd port k => Sys2Proof.Machine.execDispatchEnd port k s
  | .ret port k => Sys2Proof.Machine.execRet port k s
  | .bufFree port k => Sys2Proof.Machine.execBufFree port k s
  | .collPacket port k => Sys2Proof.Machine.execCollPacket port k s
  | .creditPacket port k => Sys2Proof.Machine.execCreditPacket port k s
  | .powerWindowEnd meanW vIn100mV => Sys2Proof.Machine.execPowerWindowEnd meanW vIn100mV s
  | .clampAdjust mean10usW => Sys2Proof.Machine.execClampAdjust mean10usW s
  | .capReachDecision reachW => Sys2Proof.Machine.execCapReachDecision reachW s
  | .thermalSupervisor temps => Sys2Proof.Machine.execThermalSupervisor temps s
  | .oppointSettled cdie => Sys2Proof.Machine.execOppointSettled cdie s
  | .staggerHoldEnd => Sys2Proof.Machine.execStaggerHoldEnd s
  | .fadeEnd => Sys2Proof.Machine.execFadeEnd s
  | .coldStart pwrEn dimmPwrOk => Sys2Proof.Machine.execColdStart pwrEn dimmPwrOk s
  | .startupStage stage failing => Sys2Proof.Machine.execStartupStage stage failing s
  | .handoverBlackout => Sys2Proof.Machine.execHandoverBlackout s
  | .handoverDone => Sys2Proof.Machine.execHandoverDone s
  | .trialWindowExpiry => Sys2Proof.Machine.execTrialWindowExpiry s
  | .heartbeatWatchdog => Sys2Proof.Machine.execHeartbeatWatchdog s
  | .pwrEnRise => Sys2Proof.Machine.execPwrEnRise s
  | .pwrEnFall => Sys2Proof.Machine.execPwrEnFall s
  | .modResetN lowNs => Sys2Proof.Machine.execModResetN lowNs s
  | .perstN => Sys2Proof.Machine.execPerstN s
  | .dimmPwrOkFall => Sys2Proof.Machine.execDimmPwrOkFall s
  | .trayLeakN => Sys2Proof.Machine.execTrayLeakN s
  | .carrierLeak => Sys2Proof.Machine.execCarrierLeak s
  | .thermalTrip sensor => Sys2Proof.Machine.execThermalTrip sensor s
  | .thermtripRelease => Sys2Proof.Machine.execThermtripRelease s
  | .inputUndervoltage lowestMv => Sys2Proof.Machine.execInputUndervoltage lowestMv s
  | .inputOvervoltage highestMv => Sys2Proof.Machine.execInputOvervoltage highestMv s
  | .vsbLoss => Sys2Proof.Machine.execVsbLoss s
  | .strapSample slotId recoveryN => Sys2Proof.Machine.execStrapSample slotId recoveryN s
  | .strapChange => Sys2Proof.Machine.execStrapChange s
  | .ppsEdge => Sys2Proof.Machine.execPpsEdge s
  | .ppsLost => Sys2Proof.Machine.execPpsLost s
  | .coolantHigh inletMilliC => Sys2Proof.Machine.execCoolantHigh inletMilliC s
  | .drainDeadline => Sys2Proof.Machine.execDrainDeadline s
  | .laneMarginDone iface index lanes => Sys2Proof.Machine.execLaneMarginDone iface index lanes s
  | .persistDone => Sys2Proof.Machine.execPersistDone s
  | .dmaReadDone port slot result => Sys2Proof.Machine.execDmaReadDone port slot result s
  | .scheduledWarmReset => Sys2Proof.Machine.execScheduledWarmReset s
  | .progressRewrite port slot progress => Sys2Proof.Machine.execProgressRewrite port slot progress s
  | .checkerTestDone failed => Sys2Proof.Machine.execCheckerTestDone failed s
  | .lostModuleMark => Sys2Proof.Machine.execLostModuleMark s
  | .lenderSelfRevert => Sys2Proof.Machine.execLenderSelfRevert s

end Sys2Proof.Machine
end

