-- ==== Sys2Proof/Machine/Tick.lean ====
section
/-! DEFINITION. The passing of time: what a tick of the module's clock does to it. -/

namespace Sys2Proof.Machine

open Sys2Proof

/-- A nanosecond in a power state, whole milliseconds of which STATE_TIME counts (Table 10.13). -/
def State.stateTime (s : State) : State :=
  let i := powerIndex s.pwr.state
  let ns := tgetD s.pwr.stateNs i 0 + 1
  (s.onPwr fun p => { p with stateNs := tset p.stateNs i (ns % 1000000) }).count ctStateTime i (ns / 1000000)

/-- One nanosecond: module time, and, while the main rails are powered, module life (R284, R365). Everything else that
happens at a time has a command of its own. -/
def State.tick (s : State) : State :=
  let ns := s.clock.lifeNs + b2n s.mainOn
  let s1 := s.onClock fun c => { c with
    timeNs := c.timeNs + 1, lifeNs := ns % 1000000000, lifeS := c.lifeS + ns / 1000000000 }
  if s.pwr.state = .s5 then s1 else s1.stateTime

end Sys2Proof.Machine
end

