-- ==== Sys2Proof/Safety.lean ====
section
/-! DEFINITION. What counts as a safe state and a safe run, and the words in which the statements say when a command completes
and with what. -/

namespace Sys2Proof

open Sys2Proof.Machine

/-- The invariant of every run: memory holds its one canonical form. -/
def SafeState (s : State) : Prop := Memory.wf s.mem.cells = true

/-- A step that the spec answers: it ends in a next state, and that state is safe. -/
def SafeStep (s : State) : Prop := ∃ t, step s = .next t ∧ SafeState t

/-- The state in which the module finds a mailbox command: its sender's image is in the slot (R285, R286). -/
def foundIn (s : State) (q : Req) : State :=
  match q.post with
  | some image => s.post q.port q.slot image q.path
  | none => s

/-- In state `t` the module finds command `c` in a slot of a served port, posted by request `q` in state `s` or standing there
before. Its opcode is `op` and its payload `len` bytes long, and its header passes the checks of R294: SEQ differs from the stored
one, reserved bits are zero, the port and the module's state are allowed, and TXN_ID is zero or names an open transaction. -/
structure Finds (s : State) (q : Req) (t : State) (c : Cmd) (op len : Nat) : Prop where
  found : foundIn s q = t
  here : t.cmdAt q.port q.slot = c
  served : t.served c.port = true
  inRange : c.slot < slotCount c.port
  owner : c.hdr.owner = true
  fresh : c.hdr.started = false
  opcode : c.hdr.opcode = op
  seq : c.hdr.seq ≠ c.hdr.storedSeq
  rsv0 : c.hdr.rsv0 = 0
  noIrq : c.hdr.noIrq = true → c.port = .h
  rsvC : c.hdr.rsvC = 0
  rsvTail : c.hdr.rsvTail = false
  allowed : ∃ o, opInfo op = some o ∧ t.portAllowed o c.port = true ∧ t.opState o c.port (rd 4 c.pay 0) = true
  lenEq : c.hdr.payloadLen = len
  room : len ≤ 4032
  txn : c.hdr.txnId = 0 ∨ (t.cfg.txnModule.any fun x => x.id == c.hdr.txnId.toNat) = true ∨
    (t.cfg.txnSlice.any fun x => x.id == c.hdr.txnId.toNat) = true

/-- The rows that are mailbox commands (Table 9.7): the request, its opcode, and which payloads are the row's. -/
def mailboxRow : Instr → Option (Req × Nat × (Cmd → Bool))
  | .opIdentify q => some (q, 0x0001, allPayloads)
  | .opStatus q => some (q, 0x0002, allPayloads)
  | .opRightsRead q => some (q, 0x0003, allPayloads)
  | .opBegin q => some (q, 0x0101, allPayloads)
  | .opStage q => some (q, 0x0102, allPayloads)
  | .opRead q => some (q, 0x0103, allPayloads)
  | .opCommit q => some (q, 0x0104, allPayloads)
  | .opRollback q => some (q, 0x0105, allPayloads)
  | .opPersist q => some (q, 0x0106, allPayloads)
  | .opFactoryView q => some (q, 0x0107, allPayloads)
  | .opPlanLoad q => some (q, 0x0201, allPayloads)
  | .opShardWrite q => some (q, 0x0202, allPayloads)
  | .opShardVerify q => some (q, 0x0203, allPayloads)
  | .opWeightSwap q => some (q, 0x0204, allPayloads)
  | .opPlanUnload q => some (q, 0x0205, allPayloads)
  | .opDigestSweep q => some (q, 0x0206, allPayloads)
  | .opAdapterLoad q => some (q, 0x0301, allPayloads)
  | .opAdapterReplace q => some (q, 0x0302, allPayloads)
  | .opAdapterUnload q => some (q, 0x0303, allPayloads)
  | .opAdapterList q => some (q, 0x0304, allPayloads)
  | .opSliceStart q => some (q, 0x0401, allPayloads)
  | .opSliceStop q => some (q, 0x0402, allPayloads)
  | .opSessionQuery q => some (q, 0x0403, allPayloads)
  | .opSessionEvict q => some (q, 0x0404, allPayloads)
  | .opPowerStateSet q => some (q, 0x0501, allPayloads)
  | .opCapSet q => some (q, 0x0502, allPayloads)
  | .opPowerRead q => some (q, 0x0503, allPayloads)
  | .opOppointSet q => some (q, 0x0504, allPayloads)
  | .opBudgetRead q => some (q, 0x0505, allPayloads)
  | .opCounterRead q => some (q, 0x0601, allPayloads)
  | .opEventRead q => some (q, 0x0602, allPayloads)
  | .opAccountingRead q => some (q, 0x0603, allPayloads)
  | .opFaultRead q => some (q, 0x0701, allPayloads)
  | .opFaultAck q => some (q, 0x0702, allPayloads)
  | .opHealthRead q => some (q, 0x0703, allPayloads)
  | .selftestCheckers q => some (q, 0x0704, selfMine 0)
  | .selftestTile q => some (q, 0x0704, selfMine 1)
  | .selftestAllDue q => some (q, 0x0704, selfMine 2)
  | .opHistoryRead q => some (q, 0x0705, allPayloads)
  | .opFwHeader q => some (q, 0x0801, allPayloads)
  | .opFwChunk q => some (q, 0x0802, allPayloads)
  | .fwActivateAtReset q => some (q, 0x0803, modeIs 0)
  | .fwActivateWarm q => some (q, 0x0803, modeIs 1)
  | .fwActivateLive q => some (q, 0x0803, modeIs 2)
  | .opHealthConfirm q => some (q, 0x0804, allPayloads)
  | .opFwAbort q => some (q, 0x0805, allPayloads)
  | .opLifecycleSet q => some (q, 0x0901, allPayloads)
  | .opOwnershipTake q => some (q, 0x0902, allPayloads)
  | .opRightsNarrow q => some (q, 0x0903, allPayloads)
  | .opDebugLevelSet q => some (q, 0x0904, allPayloads)
  | .opErase q => some (q, 0x0905, allPayloads)
  | .opCertRead q => some (q, 0x0906, allPayloads)
  | .opNeighbourRead q => some (q, 0x0A01, allPayloads)
  | .opLinkStatus q => some (q, 0x0A02, allPayloads)
  | .opLinkRetrain q => some (q, 0x0A03, allPayloads)
  | .opLaneMargin q => some (q, 0x0A04, allPayloads)
  | .traceRead q => some (q, 0x0F01, fun c => actionIs 0 c || actionIs 3 c)
  | .traceStart q => some (q, 0x0F01, actionIs 1)
  | .traceStop q => some (q, 0x0F01, actionIs 2)
  | .opPhysRead q => some (q, 0x0F02, allPayloads)
  | .opPhysWrite q => some (q, 0x0F03, allPayloads)
  | .scanList q => some (q, 0x0F04, actionIs 0)
  | .scanCapture q => some (q, 0x0F04, actionIs 1)
  | .scanShiftOut q => some (q, 0x0F04, actionIs 2)
  | .scanShiftIn q => some (q, 0x0F04, actionIs 3)
  | _ => none

/-- A short command's end in state `u`: ST_OK with a completion payload. -/
def endsIn (u : State) (c : Cmd) (pay : Bytes) : State := u.handBack c.port c.slot stOk 0 pay true

/-- A long command's start in state `u`: ST_PENDING with PROGRESS 0, and the command among those running, with the object it
holds (R286, R289). -/
def runsIn (u : State) (c : Cmd) (obj args : List Nat) (body : Bytes) : State :=
  (u.interim c.port c.slot 0 true).onMbox fun m => { m with
    running := m.running ++ [{ port := c.port, slot := c.slot, opcode := c.hdr.opcode, foundNs := u.now, obj := obj
                               args := args, body := body }] }

/-- No running command holds an object (R289). -/
def objFree (t : State) (obj : List Nat) : Prop := (t.mbox.running.any fun r => r.obj == obj) = false

/-- The erase that a command begins: its reason (0 OP_ERASE, 1 a lifecycle transition, 2 a debug level), KEEP_CONFIG, and what
follows it. -/
def eraseOf (t : State) (c : Cmd) (why : Nat) (keep : Bool) (target ceiling : Nat) (owner : Bytes) : EraseRun :=
  { port := some c.port, slot := c.slot, startNs := t.now, why := why, keep := keep, target := target, ceiling := ceiling
    owner := owner }

/-- Packet `k` received on a port lands here as `k1`: the port is up, the packet is well formed, of this slice and of a step that
still takes data, its buffer room is released in `u`, and no further hop waits (R164, R167, R169, R172, R270). -/
structure Lands (s : State) (port : Nat) (k k1 : Packet) (u : State) : Prop where
  up : s.portUp port = true
  main : s.mainOn = true
  good : badPacket k = false
  released : u = s.emit (.release port (bufferOf k) (flitPayloads k))
  marked : (u.portX port).awaitMarker = false
  ours : k.sliceId = u.plan.sliceId
  fresh : u.staleStep k = false
  reached : k.cls = 4 ∧ k1 = k ∨ k.cls ≠ 4 ∧
    k1 = (if k.detour && !k.phaseB && k.via == u.index then { k with phaseB := true } else k) ∧
    hopPort u.index (packetTarget k1) = none

/-- Packet `k` on a port brings a message of kind `msg`, whole with this part as `m`, in state `u` (R166). -/
structure Hears (s : State) (port : Nat) (k : Packet) (msg : Nat) (u : State) (m : Msg) : Prop where
  lands : ∃ k1 v m1, Lands s port k k1 v ∧ parseMsg k = some m1 ∧ m1.msg = msg ∧ v.joinMsg m1 = (u, some m)
  onType : k.type = ptLead ∨ k.type = ptSlice

/-- A request of type `ty` on a queue pair of `client`, found by the lead in state `u`, passes the checks of its form (R206
steps 1 to 3). -/
structure Asks (s : State) (qp : Nat) (msg : Bytes) (ty : Nat) (own : Nat → List (Bool × Nat × Nat)) (u : State)
    (client : Nat) : Prop where
  found : u = s.modQp qp fun q => { q with retries := 0 }
  pair : ∃ q, tget u.srv.qps qp = some q ∧ q.client = client
  lead : u.isLead = true
  ofType : hdType msg = ty
  long : 32 ≤ msg.length ∧ rd 4 msg 4 = msg.length ∧ partsLen msg = msg.length
  form : ∀ e ∈ reservedBad msg ++ own client, e.1 = false

/-- A request of a session: the session is open, of this client, and at the request's epoch (R206 steps 4 and 5). -/
def ofSession (u : State) (msg : Bytes) (client : Nat) (x : Sess) : Prop :=
  u.sessById (hdSession msg) = some x ∧ x.client = client ∧ x.epoch = hdEpoch msg

/-- The record of a request as the module keeps it. -/
def asked (u : State) (qp : Nat) (msg : Bytes) : ReqRec :=
  { qp := qp, tag := hdTag msg, mtype := hdType msg, startedNs := u.now }

/-- What a request taken leaves: its session's last queue pair, and the count of requests by client and type. -/
def taken (v : State) (qp client : Nat) (msg : Bytes) : State :=
  (v.modSess (hdSession msg % 4096) fun y => { y with lastQp := qp }).count ctRequests (client * 256 + hdType msg) 1

/-- The blocks that a range of bytes touches. -/
def blocksOf (x : Nat × Nat) : List Nat :=
  (rangeFrom (blockOf x.1) (blockOf (x.1 + x.2 - 1) + 1 - blockOf x.1)).map (· * blockBytes)

/-- Every input of an operator can be read: its module ranges are mapped (R47), and no block of any input is poisoned (R347). -/
def inputsReady (s : State) (phys range : List (Nat × Nat)) : Prop :=
  (range.find? fun x => !s.mappedAll x.1 x.2) = none ∧
    (phys.flatMap blocksOf ++ (range.flatMap blocksOf).map s.phys).find? s.poisoned = none

/-- The pages of the module ranges read have been accessed (R45). -/
def accessed (s : State) (range : List (Nat × Nat)) : State :=
  s.onMem fun m => { m with pages := m.pages.map fun e =>
    if (range.flatMap fun x => rangeFrom (pageOf x.1) (pageOf (x.1 + x.2 - 1) + 1 - pageOf x.1)).contains e.1 then
      (e.1, { e.2 with access := e.2.access + 1 }) else e }

/-- The lowest `w` bits of a number in reverse order. -/
def mirror : Nat → Nat → Nat
  | 0, _ => 0
  | w + 1, n => 2 ^ w * (n % 2) + mirror w (n / 2)

/-- One more bit of a message in the division by the CRC polynomial of R350, the highest power first: the register shifts left, and
what falls out at 2^32 together with the bit brings the polynomial in. -/
def crcDivideBit (r bit : Nat) : Nat :=
  if r / 2 ^ 31 % 2 = bit then r * 2 % 2 ^ 32 else (r * 2 % 2 ^ 32) ^^^ 0x1EDC6F41

/-- One more byte, its least significant bit first. -/
def crcDivide (r : Nat) (b : Byte) : Nat := (List.range 8).foldl (fun r i => crcDivideBit r (b.toNat / 2 ^ i % 2)) r

end Sys2Proof
end

