-- ==== Sys2Proof/Certificates/Slice0/Obligations.lean ====
section
/-! DEFINITION. The statements: what the spec says that the module does, one Prop each. -/

open Sys2Proof Sys2Proof.Machine

/-- OP_BEGIN on a scope without an open transaction opens one with a drawn id over the running values and generation;
OP_STAGE lays its entries over the staged values of its own transaction and restarts the timer, and without a TXN_ID
sets the running values at once; OP_COMMIT of a transaction without a conflict starts and prepares its set;
OP_ROLLBACK drops the transaction. (R305, R307, R310, R311.) -/
def Obligations.TransactionsOpenStageAndEnd : Prop :=
  ∀ (s t : State) (q : Req) (c : Cmd) (n : Nat),
    (Finds s q t c 0x0101 8 → rd 4 c.pay 0 ≤ 1 → (rd 4 c.pay 4 = 0 ∨ 100 ≤ rd 4 c.pay 4 ∧ rd 4 c.pay 4 ≤ 600000) →
      (if rd 4 c.pay 0 == 1 then t.cfg.txnSlice else t.cfg.txnModule).isSome = false →
      exec (.opBegin q) s = .next (endsIn
        (((t.drawn).putTxn
          { id := t.draw 0xFFFFFFFE + 1, slice := rd 4 c.pay 0 == 1, port := c.port
            timeoutMs := if rd 4 c.pay 4 = 0 then t.setN setTxnTimeout else rd 4 c.pay 4
            timerNs := t.now, base := t.cfg.run, baseGen := t.cfg.gen, staged := [] }).setTxnField c.port c.slot
          (t.draw 0xFFFFFFFE + 1)) c (le 4 (t.draw 0xFFFFFFFE + 1) ++ le 4 t.cfg.gen))) ∧
    (Finds s q t c 0x0102 n → (∀ x ∈ entriesOwn false true t c, x.1 = false) → c.hdr.txnId = 0 →
      (∀ e ∈ (cmdEntries c true).1, (settingRow e.key).any (·.txn) = false) → t.blobBad [] (cmdEntries c true).1 = none →
      exec (.opStage q) s = .next (endsIn (t.setNow (t.layEntries [] (cmdEntries c true).1)) c [])) ∧
    (∀ x : Txn, Finds s q t c 0x0102 n → (∀ x ∈ entriesOwn false true t c, x.1 = false) → c.hdr.txnId ≠ 0 →
      t.txn? c.hdr.txnId.toNat = some x → x.port = c.port → (∀ e ∈ (cmdEntries c true).1, keyScope e.key x.slice = true) →
      t.blobBad x.staged (cmdEntries c true).1 = none → objFree t (objTxn x.id) →
      exec (.opStage q) s = .next (endsIn (t.putTxn { x with
        staged := t.layEntries x.staged (cmdEntries c true).1, timerNs := t.now }) c [])) ∧
    (∀ x : Txn, Finds s q t c 0x0104 0 → t.txn? c.hdr.txnId.toNat = some x → x.port = c.port → t.cfg.commit = none →
      (∀ k ∈ tkeys x.staged, runValue x.base k = t.setting k) → objFree t (objTxn x.id) →
      exec (.opCommit q) s = .next (runsIn (t.onCfg fun g => { g with
        commit := some { txn := x, port := c.port, slot := c.slot, prepared := [], assigned := none, firstStep := 0
                         applied := [] } }) c (objTxn x.id) [] []).prepareCommit) ∧
    (∀ x : Txn, Finds s q t c 0x0105 0 → t.txn? c.hdr.txnId.toNat = some x → objFree t (objTxn x.id) →
      exec (.opRollback q) s = .next (endsIn (t.dropTxn x.slice) c []))

/-- OP_READ returns running values, or with STAGED the values of the transaction where it has them, and restarts the timer
of the transaction it names; OP_FACTORY_VIEW returns factory defaults, and with its flag stages them as well;
OP_PERSIST starts, and PERSIST_DONE writes the older image and hands the command back with the new image generation; a
transaction whose timer has run out, with no commit of it in course, rolls back. (R309, R313, R312, R306.) -/
def Obligations.SettingsAreReadPersistedAndTimedOut : Prop :=
  ∀ (s t : State) (q : Req) (c : Cmd) (n : Nat) (out : Bytes),
    (Finds s q t c 0x0103 n → (∀ x ∈ entriesOwn true false t c, x.1 = false) → bitOf (rd 4 c.pay 0) 16 = false →
      out = readBytes ((cmdEntries c false).1.map fun e => (e, t.srcOf e.key, t.setting e.key)) → out.length ≤ 4032 →
      exec (.opRead q) s = .next (endsIn (match t.txn? c.hdr.txnId.toNat with
        | some x => t.putTxn { x with timerNs := t.now }
        | none => t) c out)) ∧
    (∀ x : Txn, Finds s q t c 0x0103 n → (∀ x ∈ entriesOwn true false t c, x.1 = false) → bitOf (rd 4 c.pay 0) 16 = true →
      c.hdr.txnId ≠ 0 → t.txn? c.hdr.txnId.toNat = some x → x.port = c.port →
      out = readBytes ((cmdEntries c false).1.map fun e => match tget x.staged e.key with
        | some v => (e, 3, v)
        | none => (e, t.srcOf e.key, t.setting e.key)) → out.length ≤ 4032 →
      exec (.opRead q) s = .next (endsIn (t.putTxn { x with timerNs := t.now }) c out)) ∧
    (Finds s q t c 0x0107 n → (∀ x ∈ entriesOwn true false t c, x.1 = false) → bitOf (rd 4 c.pay 0) 16 = false →
      out = readBytes ((cmdEntries c false).1.map fun e => (e, 0, (settingRow e.key).elim [] SettingRow.factory)) →
      out.length ≤ 4032 →
      exec (.opFactoryView q) s = .next (endsIn t c out)) ∧
    (∀ (x : Txn) (es : List SetEntry), Finds s q t c 0x0107 n → (∀ x ∈ entriesOwn true false t c, x.1 = false) →
      bitOf (rd 4 c.pay 0) 16 = true → c.hdr.txnId ≠ 0 →
      out = readBytes ((cmdEntries c false).1.map fun e => (e, 0, (settingRow e.key).elim [] SettingRow.factory)) →
      out.length ≤ 4032 →
      t.portAllowed ((opInfo 0x0102).getD ⟨0, 0, 0, false, false⟩) c.port = true →
      t.opState ((opInfo 0x0102).getD ⟨0, 0, 0, false, false⟩) c.port (rd 4 c.pay 0) = true →
      t.txn? c.hdr.txnId.toNat = some x → x.port = c.port →
      es = (cmdEntries c false).1.map (fun e => { e with
        value := readPart e ((settingRow e.key).elim [] SettingRow.factory) }) →
      (∀ e ∈ es, keyScope e.key x.slice = true) → t.blobBad x.staged es = none → objFree t (objTxn x.id) →
      exec (.opFactoryView q) s =
        .next (endsIn (t.putTxn { x with staged := t.layEntries x.staged es, timerNs := t.now }) c out)) ∧
    (Finds s q t c 0x0106 4 → rd 4 c.pay 0 ≤ 1 → (t.cfg.migrated && t.fw.trialBank.isSome) = false →
      t.cfg.commit = none → t.cfg.persist = none →
      exec (.opPersist q) s = .next (runsIn (t.onCfg fun g => { g with
        persist := some { port := c.port, slot := c.slot, slice := rd 4 c.pay 0 == 1 } }) c objConfig [] [])) ∧
    (∀ r, s.cfg.persist = some r →
      exec .persistDone s = .next (((s.writeConfig).onCfg fun g => { g with persist := none }).finishAt r.port r.slot stOk 0
        (le 4 s.cfg.nextImage))) ∧
    (∀ (sc : Bool) (x : Txn), (if sc then s.cfg.txnSlice else s.cfg.txnModule) = some x →
      x.timerNs + x.timeoutMs * 1000000 ≤ s.now → s.cfg.commit.any (fun r => r.txn.id == x.id) = false →
      exec (.txnTimeout sc) s = .next (s.dropTxn sc))

/-- OP_PLAN_LOAD starts the check of the staged object, and PLAN_CHECK_DONE empties the staging region and hands the
command back, with the plan placed where every check passes. OP_SHARD_WRITE takes a part for the plan staging region,
for an adapter's copy or for a weight shard's copy: inline bytes land at once and the command ends, a DMA part waits
for its PCIe read, and DMA_READ_DONE lands the bytes read. (R86, R88, R247, R302.) -/
def Obligations.PlansAndShardsAreWritten : Prop :=
  ∀ (s t : State) (q : Req) (c : Cmd) (n : Nat) (x : ShardCmd),
    (Finds s q t c 0x0201 4 → rd 4 c.pay 0 ≤ 1 → (rd 4 c.pay 0 == 1 && t.wts.main.isNone) = false → objFree t objPlan →
      t.planWriting = false →
      exec (.opPlanLoad q) s = .next (runsIn (t.onWts fun w => { w with
        checking := some (c.port, c.slot, rd 4 c.pay 0 == 1) }) c objPlan [b2n (rd 4 c.pay 0 == 1)] [])) ∧
    (∀ (port : MPort) (slot : Nat) (draft : Bool), s.wts.checking = some (port, slot, draft) →
      s.checkPlan (planImg s.wts.staging.bytes) draft = none →
      exec .planCheckDone s = .next (s.noteState
        (((s.onWts fun w => { w with checking := none, staging := {} }).placePlan (planImg s.wts.staging.bytes).obj
          draft).finishAt port slot stOk 0 (s.passReport (planImg s.wts.staging.bytes) draft)))) ∧
    (∀ (port : MPort) (slot : Nat) (draft : Bool) (f : PlanFail), s.wts.checking = some (port, slot, draft) →
      s.checkPlan (planImg s.wts.staging.bytes) draft = some f →
      exec .planCheckDone s = .next ((s.onWts fun w => { w with checking := none, staging := {} }).finishAt port slot f.status 0
        (failReport f))) ∧
    (Finds s q t c 0x0202 n → (∀ y ∈ shardWriteChecks t c, y.1 = false) → shardCmd c.pay = x → (x.dma = true → c.port = .h) →
      objFree t (objCopy x.kind x.id x.gen) →
      (x.kind = kPlan → t.wts.checking = none →
        exec (.opShardWrite q) s = .next (t.carryOut c (State.shardPart (if x.dma then t.putPlanPart x.total 0 [] else t) c x
          fun u b => u.putPlanPart x.total x.off b))) ∧
      (∀ (k : ShardCopy) (fresh : Bool), x.kind = kAdapter → t.openCopy x x.coded x.len = .inl (k, fresh) →
        exec (.opShardWrite q) s = .next (t.carryOut c (State.shardPart (if x.dma && fresh then t.putCopy k else t) c x
          fun u b => u.putPart k x.off b))) ∧
      (∀ (e : PlanObj × List Nat) (u : State) (k : ShardCopy) (fresh : Bool), x.kind = kWeight → t.shardEnt x.id = some e →
        formOk (shCoded e.2) (shLength e.2) x.total = true → (x.repair && t.sliceBusy) = false → t.genRefused x.gen = none →
        u = (t.onWts fun w => if w.curGen = 0 then { w with firstGen := x.gen }
          else if w.curGen < x.gen then { w with stagedGen := x.gen } else w) →
        u.openCopy x (shCoded e.2) (shLength e.2) = .inl (k, fresh) →
        exec (.opShardWrite q) s = .next (t.carryOut c (State.shardPart (if x.dma && fresh then u.putCopy k else u) c x
          fun u b => u.putPart k x.off b)))) ∧
    (∀ (port : MPort) (slot : Nat) (b : Bytes) (r : Running),
      s.mbox.running.find? (fun r => r.port == port && r.slot == slot && (r.opcode == 0x0202 || r.opcode == 0x0802)) = some r →
      r.opcode = 0x0202 →
      (r.obj.getD 1 0 = kPlan → s.wts.staging.state = .writing → s.wts.staging.totalLen = r.args.getD 2 0 →
        exec (.dmaReadDone port slot (.inr b)) s = .next ((s.putPlanPart (r.args.getD 2 0) (r.args.getD 0 0)
          (fit (r.args.getD 1 0) b)).finishRun r stOk 0 [])) ∧
      (∀ k, r.obj.getD 1 0 ≠ kPlan → s.copy? (r.obj.getD 1 0) (r.obj.getD 2 0) (r.obj.getD 3 0) = some k → k.state = .writing →
        exec (.dmaReadDone port slot (.inr b)) s = .next ((s.putPart k (r.args.getD 0 0) (fit (r.args.getD 1 0) b)).finishRun r
          stOk 0 [])))

/-- OP_SHARD_VERIFY of a fully written copy makes it VERIFYING and starts; of a VERIFIED copy it ends at once.
SHARD_VERIFY_DONE judges the developed bytes: the digest that was to be expected makes the copy verified, another one
makes it FAILED, counts it and ends the command with ST_DIGEST_MISMATCH. OP_DIGEST_SWEEP reports the sweep and starts
one where it is asked for and none runs; SWEEP_DONE ends it. BACKING_COPY_DONE moves a verified backing copy to T3.
(R250, R253, R254, R241.) -/
def Obligations.CopiesAreVerifiedAndSwept : Prop :=
  ∀ (s t : State) (q : Req) (c : Cmd),
    (∀ x : ShardCopy, Finds s q t c 0x0203 0x40 →
      (rd 4 c.pay 0 = 1 ∧ rd 4 c.pay 8 ≠ 0 ∧ rd 4 c.pay 8 ≠ 0xFFFFFFFF ∧ t.wts.main.isSome = true ∧
        (t.shardEnt (rd 4 c.pay 4)).isSome = true ∨ rd 4 c.pay 0 = 2 ∧ rd 4 c.pay 8 = 0) →
      rd 4 c.pay 4 ≠ 0 → rd 4 c.pay 4 ≠ 0xFFFFFFFF → rd 4 c.pay 0x0C = 0 →
      objFree t (objCopy (rd 4 c.pay 0) (rd 4 c.pay 4) (rd 4 c.pay 8)) →
      t.copy? (rd 4 c.pay 0) (rd 4 c.pay 4) (rd 4 c.pay 8) = some x →
      (x.state = .verified → exec (.opShardVerify q) s = .next (endsIn t c (verifyBytes .verified none))) ∧
      (x.state = .writing → covered x.totalLen x.data = true →
        ∀ want, (if rd 4 c.pay 0 = kWeight then t.shardEnt (rd 4 c.pay 4) else none).bind (fun e => t.mapDigest e (rd 4 c.pay 8))
          = want → (allZero (cut c.pay 0x10 48) = true ∨ want = none ∨ want = some (cut c.pay 0x10 48)) →
        exec (.opShardVerify q) s = .next (runsIn (t.putCopy { x with state := .verifying }) c
          (objCopy (rd 4 c.pay 0) (rd 4 c.pay 4) (rd 4 c.pay 8)) [] (want.getD (cut c.pay 0x10 48))))) ∧
    (∀ (kind id gen : Nat) (r : Running) (x : ShardCopy) (narrow : Bytes),
      s.mbox.running.find? (fun r => r.opcode == 0x0203 && r.obj == objCopy kind id gen) = some r →
      s.copy? kind id gen = some x → x.state = .verifying → develop x.coded x.length x.bytes = .ok narrow →
      (sha384 narrow = r.body → exec (.shardVerifyDone kind id gen) s =
        .next ((s.shardVerified x narrow (sha384 narrow)).finishRun r stOk 0 (verifyBytes .verified none))) ∧
      (sha384 narrow ≠ r.body → exec (.shardVerifyDone kind id gen) s =
        .next (((s.putCopy { x with state := .failed }).count ctShardFailed 0 1).finishRun r stDigestMismatch 0
          (verifyBytes .failed none)))) ∧
    (∀ u : State, Finds s q t c 0x0206 4 → rd 4 c.pay 0 ≤ 1 →
      u = (if rd 4 c.pay 0 = 1 && t.wts.sweep.isNone then
        (if t.wts.swap.isSome then t.onWts fun w => { w with sweepAfterSwap := true } else t.beginSweep) else t) →
      exec (.opDigestSweep q) s = .next (endsIn u c (le 4 (u.wts.sweep.getD ⟨0, 0, 0, 0⟩).done ++
        le 4 (u.wts.sweep.getD ⟨0, 0, 0, 0⟩).total ++ le 4 (u.wts.sweep.getD ⟨0, 0, 0, 0⟩).mismatch ++
        le 4 (b2n u.wts.sweep.isSome)))) ∧
    (∀ (r : Sweep) (a b : State × Nat) (n : Nat), s.wts.sweep = some r →
      a = s.shardEnts.foldl (fun (a : State × Nat) x => ((a.1.sweepShard x).1, a.2 + (a.1.sweepShard x).2)) (s, 0) →
      b = a.1.sweepStaged → n = a.2 + b.2 →
      exec .sweepDone s = .next (((b.1.onWts fun w => { w with
        sweep := none, sweepCleanS := if n = 0 then s.clock.lifeS else w.sweepCleanS }).count ctSweepMismatch 0 n).event
          evSweepDone noUnit (s.now - r.startNs) n)) ∧
    (s.l2Up = true → s.wts.sweep = none → s.wts.swap = none → exec .sweepPeriod s = .next s.beginSweep) ∧
    (∀ r, s.l2Up = true → s.wts.sweep = some r → exec .sweepPeriod s = .next (s.event evSweepLate noUnit)) ∧
    (∀ (id : Nat) (x : ShardCopy), s.copy? kWeight id s.wts.curGen = some x → s.wts.t3InService = true → x.state = .verified →
      x.role = roleBacking → x.inT3 = false → pagesOf x.totalLen ≤ s.t3Free →
      exec (.backingCopyDone id) s = .next ((s.putCopy { x with inT3 := true }).countBw 3 bwBackground x.totalLen))

/-- OP_WEIGHT_SWAP of a newer generation that every module holds starts the swap on a running slice, and swaps at once on
a stopped one. The homes of a phase begin to be written once no step of the old generation is before it, and take the
new generation's words; on the lead the darkslide opens once every home is written: the generation is current and the
command ends with the hold. OP_PLAN_UNLOAD frees the staged generation alone, or everything. A streamed layer's fetch
takes its half of the stream buffer and marks it fetched. (R260, R261, R302, R256.) -/
def Obligations.WeightsSwapAndPlansUnload : Prop :=
  ∀ (s t : State) (q : Req) (c : Cmd),
    (∀ u : State, Finds s q t c 0x0204 0x40 → rd 4 c.pay 0 ≠ 0 → rd 4 c.pay 0 ≠ 0xFFFFFFFF → rd 4 c.pay 4 ≤ 1 → rd 8 c.pay 8 = 0 →
      t.wts.main.isSome = true → t.wts.swap = none → t.wts.curGen < rd 4 c.pay 0 → t.allVerified (rd 4 c.pay 0) = true →
      (∀ m ∈ t.others, otherVerified m (rd 4 c.pay 0) = true) → cut c.pay 0x10 48 = t.sliceManifest (rd 4 c.pay 0) →
      u = (t.onWts fun w => { w with
        swap := some { newGen := rd 4 c.pay 0, discard := decide (rd 4 c.pay 4 = 1), port := c.port, slot := c.slot
                       closedNs := none, writing := none, phase := 0, reports := [] }
        sweep := none, sweepAfterSwap := w.sweepAfterSwap || w.sweep.isSome }) →
      (t.sliceRunning = true → exec (.opWeightSwap q) s = .next (runsIn u c objSwap [] [])) ∧
      (t.sliceRunning = false → exec (.opWeightSwap q) s = .next (endsIn
        (((((u.finishSwapWrites).onWts fun w => { w with swap := none }).swapKv (decide (rd 4 c.pay 4 = 1)) (rd 4 c.pay 0)).count
          ctSwaps 0 1).resumeSweep) c (le 8 0)))) ∧
    (∀ (phase : Nat) (r : SwapRun), s.swapHere = some r → r.writing = none → r.phase = phase → phase ≤ s.plan.postPhase →
      s.pwr.state = .s0 → (s.oldStepsBefore phase).isEmpty = true →
      exec (.homePhaseWrite phase) s = .next (s.onWts fun w => { w with swap := some { r with writing := some phase } })) ∧
    (∀ (phase : Nat) (r : SwapRun), s.wts.swap = some r → r.writing = some phase → phase ≠ s.plan.postPhase →
      exec (.homePhaseWritten phase) s = .next (((s.writeHomes r.newGen phase).countBw 2 bwSwap 0).onWts fun w => { w with
        homeGens := tset w.homeGens phase r.newGen
        swap := some { r with writing := none, phase := phase + 1, reports := [] } })) ∧
    (∀ (r : SwapRun) (u v : State), s.wts.swap = some r → s.isLead = true → s.plan.postPhase < r.phase → r.writing = none →
      u = ((((((s.becomeCurrent r.newGen).onWts fun w => { w with swap := none }).count ctSwapHold 0
        (s.now - r.closedNs.getD s.now)).count ctSwaps 0 1).onSrv fun v => { v with held := false }).swapKv r.discard r.newGen) →
      v = (if r.discard then ((u.steps.live.filter (·.held)).map (·.seq)).foldl (fun a n => a.uncompose n) u
        else ((u.steps.live.filter (·.held)).map (·.seq)).foldl (fun a n =>
          (a.modStep n fun t => { t with held := false }).sendTables n) u) →
      exec .darkslideOpen s = .next ((v.finishAt r.port r.slot stOk 0 (le 8 (s.now - r.closedNs.getD s.now))).resumeSweep)) ∧
    (Finds s q t c 0x0205 4 → rd 4 c.pay 0 = 1 → t.wts.swap = none →
      exec (.opPlanUnload q) s = .next (endsIn t.freeStaged c [])) ∧
    (Finds s q t c 0x0205 4 → rd 4 c.pay 0 = 0 → t.sliceBusy = false → objFree t objPlan →
      exec (.opPlanUnload q) s = .next (endsIn (t.noteState
        (((((t.kvDiscard).unloadPlan).onCfg fun x => { x with txnSlice := none }).endRemap).evalPorts)) c [])) ∧
    (∀ (layer : Nat) (x : Step), s.wts.main.any (fun p => p.streamedLayers.contains layer) = true →
      s.fetchStep layer = some x → s.halfFree (tgetD s.wts.halves (s.plan.halfOf layer) {}) = true →
      exec (.streamFetchStart layer) s = .next (s.onWts fun w => { w with
        halves := tset w.halves (s.plan.halfOf layer) { layer := some layer, step := x.seq, startNs := s.now } })) ∧
    (∀ (layer tier cause : Nat) (h : StreamHalf), s.wts.main.isSome = true → tgetD s.wts.halves (s.plan.halfOf layer) {} = h →
      h.layer = some layer → h.fetched = false → 0 < cause → cause < 7 → s.step? h.step = none →
      exec (.streamFetchDone layer tier cause) s = .next ((s.onWts fun w => { w with
        halves := tset w.halves (s.plan.halfOf layer) { h with fetched := true } }).countBw 2 bwStream (s.plan.streamBytes layer)))

/-- OP_ADAPTER_LOAD of a free id and OP_ADAPTER_REPLACE of a held one, with every check of their table passed, install the
adapter: at once on a stopped slice, at the next step boundary of a running one. OP_ADAPTER_UNLOAD removes an adapter
that no request is bound to, or with FORCE after ending the bound requests. OP_ADAPTER_LIST answers at most 502
adapters from FIRST up. ADAPTER_GATHER_DONE puts a bound generation that is stored and not yet in the pool into the
pool where it has room. (R232, R235, R303, R233.) -/
def Obligations.AdaptersLoadAndGo : Prop :=
  ∀ (s t : State) (q : Req) (c : Cmd) (n : Nat),
    (Finds s q t c 0x0301 n → (∀ x ∈ adapterChecks false t c, x.1 = false) → objFree t (objAdapter (adId c.pay)) →
      t.adapter? (adId c.pay) = none → (∀ x ∈ t.loadRefusals c stNoSpace, x.1 = false) →
      exec (.opAdapterLoad q) s = .next (t.carryOut c (t.installAct c))) ∧
    (Finds s q t c 0x0302 n → (∀ x ∈ adapterChecks true t c, x.1 = false) → objFree t (objAdapter (adId c.pay)) →
      (t.adapter? (adId c.pay)).isSome = true → (∀ x ∈ t.loadRefusals c stAdapterBusy, x.1 = false) →
      exec (.opAdapterReplace q) s = .next (t.carryOut c (t.installAct c))) ∧
    (t.sliceRunning = false → ∃ u pay, t.installAct c = .done u stOk 0 pay) ∧
    (t.sliceRunning = true → ∃ x : AdInstall, t.installAct c =
      .long (t.onAdp fun d => { d with pending := d.pending ++ [x] }) (objAdapter (adId c.pay)) [] []) ∧
    (∀ x : Adapter, Finds s q t c 0x0303 4 → adId c.pay ≠ 0 → adId c.pay ≤ 1024 → rd 4 c.pay 0 / 4096 = 0 →
      objFree t (objAdapter (adId c.pay)) → t.adapter? (adId c.pay) = some x →
      ((t.boundTo x.id).isEmpty = true ∨ adForce c.pay = true) →
      exec (.opAdapterUnload q) s = .next (endsIn ((t.endBound x.id).removeAdapter
        (((t.endBound x.id).adapter? x.id).getD x) evAdapterFreed) c [])) ∧
    (Finds s q t c 0x0304 4 → rd 2 c.pay 0 ≠ 0 → rd 2 c.pay 0 ≤ 1024 → rd 2 c.pay 2 = 0 →
      ∀ l, l = (t.adp.list.filter fun a => rd 2 c.pay 0 ≤ a.id).take 502 →
      exec (.opAdapterList q) s = .next (endsIn t c (le 2 l.length ++ zeros 6 ++
        l.flatMap fun a => le 4 (a.id + a.gen * 2048) ++ le 4 (t.boundCount a.id)))) ∧
    (∀ (id gen : Nat) (x : Adapter) (u : State), s.adapter? id = some x → x.stored.any (fun g => g.1 == gen) = true →
      s.genBound id gen = true → s.inPool (handleOf id gen) = false →
      s.poolRoom (s.partBytes id gen).length (listSum (s.adp.list.map (·.pool.length))) = some u →
      exec (.adapterGatherDone id gen) s =
        .next (u.modAdapter id fun b => { b with pool := b.pool ++ [(gen, s.steps.composed)] }))

/-- OP_IDENTIFY, OP_STATUS, OP_RIGHTS_READ, OP_POWER_READ, OP_BUDGET_READ, OP_HEALTH_READ, OP_NEIGHBOUR_READ and
OP_LINK_STATUS, found with an empty payload and past the header checks, end with ST_OK and the bytes of their tables;
nothing but the hand back changes. (R299, R342, R336, R376, R423.) -/
def Obligations.QueriesAnswer : Prop :=
  ∀ (s t : State) (q : Req) (c : Cmd),
    (Finds s q t c 0x0001 0 → exec (.opIdentify q) s = .next (endsIn t c t.identityBytes)) ∧
    (Finds s q t c 0x0002 0 → exec (.opStatus q) s = .next (endsIn t c t.statusBytes)) ∧
    (Finds s q t c 0x0003 0 → exec (.opRightsRead q) s = .next (endsIn t c t.rightsBytes)) ∧
    (Finds s q t c 0x0503 0 → exec (.opPowerRead q) s = .next (endsIn t c t.powerBytes)) ∧
    (Finds s q t c 0x0505 0 → exec (.opBudgetRead q) s = .next (endsIn t c
      (le 2 (t.setN setPowerCap) ++ le 2 t.effCap ++ le 2 t.pwr.lent ++ le 2 t.pwr.borrowed ++
        le 4 (t.pwr.thermalW + 65536 * b2n t.pwr.paceSetter + 131072 * min 15 t.pwr.paceWindows) ++ le 4 t.pwr.slackNs ++
        le 8 (listSum ((List.range 16).map fun c => t.point c * 16 ^ c)) ++
        (List.range 16).flatMap fun c => le 2 (tgetD t.pwr.budgets c 0)))) ∧
    (Finds s q t c 0x0703 0 → exec (.opHealthRead q) s = .next (endsIn t c t.healthBytes)) ∧
    (Finds s q t c 0x0A01 0 → exec (.opNeighbourRead q) s = .next (endsIn t c (allPorts.flatMap fun p =>
      le 4 (p + 8 * t.logicalOf p + 64 * (t.portX p).outcome.code + 1024 * b2n (t.portX p).card.isSome) ++
        le 4 (if (t.portX p).card.isSome then (t.now - (t.portX p).cardNs) / 1000000 else 0) ++ zeros 8 ++
        fit 128 ((t.portX p).card.getD [])))) ∧
    (Finds s q t c 0x0A02 0 → exec (.opLinkStatus q) s = .next (endsIn t c (allPorts.flatMap fun p =>
      le 4 (p + 8 * (t.portX p).state.code + 64 * (if (t.portX p).trained then (t.portX p).width else 0) +
        4096 * b2n (t.portX p).sparesA + 8192 * b2n (t.portX p).sparesB) ++ le 4 (t.portX p).retrains ++
        le 4 (if (t.portX p).state == .up then (t.now - (t.portX p).upNs) / 1000000 else 0) ++ zeros 4)))

/-- With a payload of their table's form OP_COUNTER_READ, OP_EVENT_READ, OP_ACCOUNTING_READ, OP_FAULT_READ,
OP_HISTORY_READ and OP_CERT_READ answer from their records and change nothing else, and OP_FAULT_ACK marks every fault
record up to the id acknowledged. (R375, R376, R381.) -/
def Obligations.RecordsAreReadAndAcknowledged : Prop :=
  ∀ (s t : State) (q : Req) (c : Cmd) (n : Nat),
    (Finds s q t c 0x0601 (8 + 8 * rd 2 c.pay 0) → 0 < rd 2 c.pay 0 → rd 2 c.pay 0 ≤ 251 → rd 2 c.pay 2 = 0 → rd 4 c.pay 4 = 0 →
      (∀ i ∈ List.range (rd 2 c.pay 0), t.counterOk (rd 4 c.pay (8 + 8 * i)) (rd 4 c.pay (12 + 8 * i)) = true) →
      exec (.opCounterRead q) s = .next (endsIn t c (le 2 (rd 2 c.pay 0) ++ zeros 6 ++ (List.range (rd 2 c.pay 0)).flatMap fun i =>
        le 4 (rd 4 c.pay (8 + 8 * i)) ++ le 4 (rd 4 c.pay (12 + 8 * i)) ++
          le 8 (t.counter (rd 4 c.pay (8 + 8 * i)) (rd 4 c.pay (12 + 8 * i)))))) ∧
    (∀ r, Finds s q t c 0x0602 8 → 0 < byteAt c.pay 4 → byteAt c.pay 4 ≤ 125 → rd 4 c.pay 4 / 256 = 0 →
      r = ringRead t.integ.events t.integ.eventSeq (rd 4 c.pay 0) (byteAt c.pay 4) →
      exec (.opEventRead q) s =
        .next (endsIn t c (le 4 r.1.length ++ le 4 r.2.1 ++ le 4 r.2.2 ++ zeros 4 ++ r.1.flatMap Rec.bytes))) ∧
    (∀ ks, Finds s q t c 0x0603 4 → 0 < byteAt c.pay 0 → rd 4 c.pay 0 / 256 = 0 →
      ks = ((rangeFrom (byteAt c.pay 0) (256 - byteAt c.pay 0)).filter fun k => ceValid (t.clientEntry k)).take 125 →
      exec (.opAccountingRead q) s = .next (endsIn t c (le 8 ks.length ++ ks.flatMap fun k =>
        le 8 k ++ le 8 (tgetD t.srv.accounting k (0, 0, 0)).1 ++ le 8 (tgetD t.srv.accounting k (0, 0, 0)).2.1 ++
          le 8 (tgetD t.srv.accounting k (0, 0, 0)).2.2))) ∧
    (∀ rs, Finds s q t c 0x0701 12 → 0 < rd 4 c.pay 8 → rd 4 c.pay 8 ≤ 12 →
      rs = (t.integ.faults.filter fun r => rd 8 c.pay 0 ≤ r.recordId).take (rd 4 c.pay 8) →
      exec (.opFaultRead q) s = .next (endsIn t c (le 8 rs.length ++ rs.flatMap FaultRec.cper))) ∧
    (∀ u : State, Finds s q t c 0x0702 8 → u = (t.onInteg fun i => { i with
        faults := i.faults.map fun r => if r.recordId ≤ rd 8 c.pay 0 then { r with acked := true } else r }) →
      exec (.opFaultAck q) s = .next (endsIn u c (le 2 u.faultsWaiting ++ zeros 2))) ∧
    (Finds s q t c 0x0705 12 → 0 < n → n = rd 4 c.pay 8 → n < 512 →
      (rd 4 c.pay 0 = 0 → n ≤ 125 → rd 4 c.pay 4 / 65536 < 12 →
        exec (.opHistoryRead q) s = .next (endsIn t c (le 4 ((unitsFrom (rd 4 c.pay 4)).take n).length ++
          le 4 ((((unitsFrom (rd 4 c.pay 4)).take n).getLast?.map fun u => UnitId.inst u + 1).getD (rd 4 c.pay 4)) ++
          ((unitsFrom (rd 4 c.pay 4)).take n).flatMap t.tableEntry))) ∧
      (∀ r, rd 4 c.pay 0 = 1 → n ≤ 125 → r = ringRead t.integ.log t.integ.logSeq (rd 4 c.pay 4) n →
        exec (.opHistoryRead q) s = .next (endsIn t c (le 4 r.1.length ++ le 4 r.2.1 ++ r.1.flatMap Rec.bytes))) ∧
      (∀ fr, rd 4 c.pay 0 = 2 → n ≤ 503 →
        fr = ((sortBy (fun a b => a.1 < b.1 || (a.1 == b.1 && a.2 ≤ b.2)) t.mem.retired).drop (rd 4 c.pay 4)).take n →
        exec (.opHistoryRead q) s = .next (endsIn t c (le 4 fr.length ++ le 4 (rd 4 c.pay 4 + fr.length) ++
          fr.flatMap fun x => le 8 (x.1 + 4 * x.2))))) ∧
    (∀ b, Finds s q t c 0x0906 8 → 0 < rd 2 c.pay 4 → (rd 2 c.pay 4 ≤ 4024 ∨ rd 2 c.pay 4 = 0xFFFF) → rd 2 c.pay 6 = 0 →
      b = cut t.chain (rd 4 c.pay 0) (if rd 2 c.pay 4 = 0xFFFF then 4024 else rd 2 c.pay 4) →
      exec (.opCertRead q) s = .next (endsIn t c (le 4 t.chain.length ++ le 4 b.length ++ padMul 4 b)))

/-- OP_SELFTEST_RUN starts a run of its kind while none runs: the checkers outside a slice; one tile, which starts its
test in place or gets a cause to be swapped out; every due tile, or an end at once where none is due. OP_OPPOINT_SET
sets or removes its entries in the preferences for the next steps. CHECKER_TEST_DONE ends a run of the checkers with
the failing one's code. (R377, R357, R333.) -/
def Obligations.SelfTestsAndPreferredPointsAreTaken : Prop :=
  ∀ (s t : State) (q : Req) (c : Cmd),
    (Finds s q t c 0x0704 8 → rd 4 c.pay 0 = 0 → rd 4 c.pay 4 = 0 → t.sliceBusy = false → t.integ.selftest = none →
      exec (.selftestCheckers q) s = .next (runsIn (t.onInteg fun i => { i with
        selftest := some { port := c.port, slot := c.slot, kind := 0, waiting := [] } }) c objSelftest [] [])) ∧
    (∀ u : State, Finds s q t c 0x0704 8 → rd 4 c.pay 0 = 1 → rd 4 c.pay 4 < 2560 → t.integ.selftest = none →
      u = (t.onInteg fun i => { i with
        selftest := some { port := c.port, slot := c.slot, kind := 1, waiting := [rd 4 c.pay 4] } }) →
      exec (.selftestTile q) s = .next (t.carryOut c (.long (if u.inPlace (rd 4 c.pay 4)
        then u.startTests (ptileDie (rd 4 c.pay 4)) else u.addCause (rd 4 c.pay 4) 4) objSelftest [] []))) ∧
    (∀ (u : State) (due : List Nat), Finds s q t c 0x0704 8 → rd 4 c.pay 0 = 2 → rd 4 c.pay 4 = 0 → t.integ.selftest = none →
      due = (List.range 2560).filter (fun p => t.testDue p || t.tiles.inTest.contains p) →
      u = (t.onInteg fun i => { i with selftest := some { port := c.port, slot := c.slot, kind := 2, waiting := due } }) →
      (due = [] → exec (.selftestAllDue q) s = .next (endsIn t c (zeros 4))) ∧
      (due ≠ [] → exec (.selftestAllDue q) s = .next (t.carryOut c (.long ((List.range 16).foldl (fun x d => x.startTests d)
        ((due.filter fun p => !u.inPlace p && !u.tiles.inTest.contains p).foldl (fun x p => x.addCause p 4) u))
        objSelftest [] [])))) ∧
    (∀ (r : SelfRun) (failed : Option (Nat × UnitId)), s.integ.selftest = some r → r.kind = 0 →
      exec (.checkerTestDone failed) s = .next (((s.checkerResult failed).onInteg fun i => { i with
        selftest := none }).finishAt r.port r.slot stOk 0 (le 2 (b2n failed.isSome) ++ le 2 (checkerCode failed)))) ∧
    (Finds s q t c 0x0504 (8 + 4 * rd 2 c.pay 0) → 0 < rd 2 c.pay 0 → rd 2 c.pay 0 ≤ 1000 → rd 2 c.pay 2 = 0 → rd 4 c.pay 4 = 0 →
      (∀ i ∈ List.range (rd 2 c.pay 0), bitsOf (rd 4 c.pay (8 + 4 * i)) 15 0 ≤ t.plan.nLayers + 1 ∧
        ¬ (8 ≤ bitsOf (rd 4 c.pay (8 + 4 * i)) 21 18 ∧ bitsOf (rd 4 c.pay (8 + 4 * i)) 21 18 ≤ 14) ∧
        bitsOf (rd 4 c.pay (8 + 4 * i)) 31 22 = 0) →
      exec (.opOppointSet q) s = .next (endsIn (t.onPwr fun w => { w with
        prefsNext := (List.range (rd 2 c.pay 0)).foldl (fun (t : Tbl Nat) i =>
          if bitsOf (rd 4 c.pay (8 + 4 * i)) 21 18 = 15
          then tdel t (bitsOf (rd 4 c.pay (8 + 4 * i)) 15 0 * 4 + bitsOf (rd 4 c.pay (8 + 4 * i)) 17 16)
          else tset t (bitsOf (rd 4 c.pay (8 + 4 * i)) 15 0 * 4 + bitsOf (rd 4 c.pay (8 + 4 * i)) 17 16)
            (bitsOf (rd 4 c.pay (8 + 4 * i)) 21 18)) w.prefsNext }) c []))

/-- OP_FW_HEADER with a header that passes its checks empties the inactive bank into WRITING; OP_FW_CHUNK programs its
inline bytes, and a DMA part waits for its PCIe read; OP_FW_ACTIVATE sets the staged bank's trial, in MODE WARM with a
reset 10 ms later and in MODE LIVE with the handover begun; OP_HEALTH_CONFIRM of a trial in course makes its bank
ACTIVE and raises MIN_SVN where asked; OP_FW_ABORT answers a query, empties the bank, or falls back. (R415, R416,
R302, R417, R418, R419, R423.) -/
def Obligations.FirmwareIsWrittenActivatedAndConfirmed : Prop :=
  ∀ (s t : State) (q : Req) (c : Cmd) (n : Nat) (b : Bool),
    (Finds s q t c 0x0801 512 → objFree t objFirmware → t.headerCheck c.pay = none → t.bankIn .trial = none →
      b = t.inactiveBank →
      exec (.opFwHeader q) s = .next (endsIn ((t.putBank b { state := .writing, header := c.pay }).onFw fun f => { f with
        trialBank := if f.trialBank = some b then none else f.trialBank }) c (le 4 (b2n b)))) ∧
    (Finds s q t c 0x0802 n → (∀ x ∈ fwChunkChecks t c, x.1 = false) → t.bankIn .writing = some b → objFree t objFirmware →
      (bitOf (rd 4 c.pay 0) 0 = false → ∀ r, r = t.fwPart b (rd 4 c.pay 8) (cut c.pay 0x40 (rd 4 c.pay 12)) →
        exec (.opFwChunk q) s = .next (r.1.handBack c.port c.slot r.2 0 (r.1.fwChunkBytes b (rd 4 c.pay 12)) true)) ∧
      (bitOf (rd 4 c.pay 0) 0 = true → c.port = .h →
        exec (.opFwChunk q) s = .next (runsIn t c objFirmware [rd 4 c.pay 8, rd 4 c.pay 12, b2n b] []))) ∧
    (∀ (port : MPort) (slot : Nat) (x : Bytes) (r : Running),
      s.mbox.running.find? (fun r => r.port == port && r.slot == slot && (r.opcode == 0x0202 || r.opcode == 0x0802)) = some r →
      r.opcode = 0x0802 → b = (r.args.getD 2 0 == 1) → (s.bank b).state = .writing →
      ∀ o, o = s.fwPart b (r.args.getD 0 0) (fit (r.args.getD 1 0) x) →
      exec (.dmaReadDone port slot (.inr x)) s =
        .next (o.1.finishRun r o.2 0 (o.1.fwChunkBytes b (r.args.getD 1 0)))) ∧
    ((∀ x ∈ activateChecks t c, x.1 = false) → t.bankIn .staged = some b → objFree t objFirmware →
      Finds s q t c 0x0803 8 →
      (rd 4 c.pay 0 = 0 → exec (.fwActivateAtReset q) s =
        .next (endsIn ((t.setTrial b (confirmS c)).activated b 0) c (t.activateBytes b 0))) ∧
      (rd 4 c.pay 0 = 1 → t.sliceBusy = false → exec (.fwActivateWarm q) s =
        .next (endsIn (((t.setTrial b (confirmS c)).activated b 1).onMbox fun m => { m with
          warmResetAt := some (t.now + 10000000) }) c (t.activateBytes b 0))) ∧
      (rd 4 c.pay 0 = 2 → t.pwr.state = .s0 → t.handsOver b = true → t.linksAccept b = true → t.otherInTrial = false →
        t.srv.held = false → exec (.fwActivateLive q) s =
        .next (t.carryOut c (.long (((t.setTrial b (confirmS c)).drawn).onFw fun f => { f with
          handover := some { port := c.port, slot := c.slot, bank := b, mode := 2, blackoutNs := none, back := false } })
          objFirmware [] [])))) ∧
    (∀ u v : State, Finds s q t c 0x0804 4 → rd 4 c.pay 0 ≤ 1 → t.fw.trialBank = some b → t.fw.trialFromNs.isSome = true →
      u = (((t.putBank b { t.bank b with state := .active }).putBank (!b) { t.bank (!b) with
        state := if (t.bank (!b)).state == .active then .staged else (t.bank (!b)).state }).onFw fun f => { f with
          activeB := b, trialBank := none, trialFromNs := none, trialLive := false
          minSvn := if rd 4 c.pay 0 = 1 then max f.minSvn (t.bank b).lowSvn else f.minSvn }) →
      v = (if u.cfg.migrated then (u.writeConfig).onCfg fun g => { g with migrated := false } else u) →
      exec (.opHealthConfirm q) s = .next (endsIn (v.event evFwConfirmed noUnit) c (le 4 v.fw.minSvn))) ∧
    (Finds s q t c 0x0805 4 → rd 4 c.pay 0 = 1 →
      exec (.opFwAbort q) s = .next (endsIn t c t.fwBytes).fallbackReset) ∧
    (∀ u : State, Finds s q t c 0x0805 4 → rd 4 c.pay 0 = 0 → objFree t objFirmware →
      u = (if t.fw.trialFromNs.isSome then t.fallBack 2 else t.emptyBank) →
      exec (.opFwAbort q) s = .next (endsIn u c u.fwBytes).fallbackReset)

/-- OP_LIFECYCLE_SET of a transition that Table 12.5 allows, and OP_OWNERSHIP_TAKE, with no slice running, no work on
customer data in course and a SERVICE fuse left where one is needed, begin the erase that the transition stands
behind; OP_DEBUG_LEVEL_SET takes a level at once or behind an erase, and OP_ERASE begins an erase. ERASE_DONE ends the
erase in course. OP_RIGHTS_NARROW lowers the ceiling and removes the ports that its entries name. Each notes the
module's new state. (R387, R386, R391, R392, R389.) -/
def Obligations.LifecycleDebugAndEraseCommandsRun : Prop :=
  ∀ (s t : State) (q : Req) (c : Cmd) (target : Nat),
    (Finds s q t c 0x0901 0x50 → target = rd 4 c.pay 0 % 4 → transitionOk t.sec.lifecycle target = true → rd 4 c.pay 0 / 16 = 0 →
      (target = 1 ∧ bitsOf (rd 4 c.pay 0) 3 2 ≠ 3 ∨ target ≠ 1 ∧ bitsOf (rd 4 c.pay 0) 3 2 = 0) →
      allZero (cut c.pay 4 12) = true → (if target = 3 then cut c.pay 0x10 16 = serial else allZero (cut c.pay 0x10 16) = true) →
      (target = 1 ∨ allZero (cut c.pay 0x20 48) = true) → t.sliceBusy = false → t.eraseBusy = false →
      (t.sec.lifecycle == .owned && target == 2 && decide (32 ≤ t.sec.serviceFuses)) = false →
      exec (.opLifecycleSet q) s = .next (s.noteState (t.carryOut c (.long (t.beginErase (eraseOf t c 1 false target (bitsOf (rd 4 c.pay 0) 3 2) (cut c.pay 0x20 48))) [] [] [])))) ∧
    (Finds s q t c 0x0902 0x40 → rd 4 c.pay 0 ≤ 2 → allZero (cut c.pay 4 12) = true → t.sliceBusy = false → t.eraseBusy = false →
      exec (.opOwnershipTake q) s = .next (s.noteState (t.carryOut c (.long (t.beginErase (eraseOf t c 1 false 1 (rd 4 c.pay 0) (cut c.pay 0x10 48))) [] [] [])))) ∧
    (Finds s q t c 0x0904 4 → rd 4 c.pay 0 / 8 = 0 → target = rd 4 c.pay 0 % 4 →
      (target = t.sec.debug →
        exec (.opDebugLevelSet q) s = .next (s.noteState (endsIn t c (le 4 target ++ le 4 0)))) ∧
      (target ≠ t.sec.debug → t.debugAllowed target = true → t.debugErases target = false →
        exec (.opDebugLevelSet q) s = .next (s.noteState (endsIn (t.setDebug target) c (le 4 target ++ le 4 0)))) ∧
      (target ≠ t.sec.debug → t.debugAllowed target = true → t.debugErases target = true → t.eraseBusy = false →
        exec (.opDebugLevelSet q) s = .next (s.noteState (t.carryOut c (.long (t.beginErase (eraseOf t c 2 (bitOf (rd 4 c.pay 0) 2) target 0 [])) [] [] []))))) ∧
    (Finds s q t c 0x0905 4 → bitsOf (rd 4 c.pay 0) 1 0 = 0 → rd 4 c.pay 0 / 8 = 0 → t.eraseBusy = false →
      exec (.opErase q) s = .next (s.noteState (t.carryOut c (.long (t.beginErase (eraseOf t c 0 (bitOf (rd 4 c.pay 0) 2) 0 0 [])) [] [] [])))) ∧
    (∀ (r : EraseRun) (failed : Option UnitId), s.sec.erasing = some r → s.pwr.state ≠ .s1 → s.pwr.state ≠ .s2 →
      exec (.eraseDone failed) s = .next (s.noteState (s.endErase r failed))) ∧
    (∀ es : List (Nat × Nat × Nat), Finds s q t c 0x0903 (8 + 4 * rd 2 c.pay 0) → rd 2 c.pay 0 ≤ 1006 →
      rd 4 c.pay 0 / 2 ^ 18 = 0 → rd 4 c.pay 4 = 0 →
      (∀ i ∈ List.range (rd 2 c.pay 0), rd 4 c.pay (8 + 4 * i) / 2 ^ 19 = 0) →
      bitsOf (rd 4 c.pay 0) 17 16 ≤ t.sec.debugCeiling →
      es = (List.range (rd 2 c.pay 0)).map (fun i => (i, narrowEntry c.pay i)) →
      (∀ e ∈ es, (opInfo e.2.1).isSome = true ∧ (bitOf e.2.2 1 && keepsM e.2.1) = false) →
      exec (.opRightsNarrow q) s = .next (endsIn ((t.onSec fun k => { k with
        debugCeiling := bitsOf (rd 4 c.pay 0) 17 16,
        narrowed := es.foldl (fun (n : Tbl Nat) e => if e.2.2 &&& (((opInfo e.2.1).map OpInfo.ports).getD 0) = 0 then n
          else tmod n e.2.1 0 (fun x => x ||| (e.2.2 &&& (((opInfo e.2.1).map OpInfo.ports).getD 0)))) k.narrowed }).event
        evRightsNarrowed noUnit (rd 2 c.pay 0)) c []))

/-- OP_SLICE_START on a module that may start, with room, no erase and no slice, sends the running slice-scope settings,
clears the run and starts; OP_SLICE_STOP drains a running slice by its mode with its deadline, and MODE 2 turns a
drain in course into IMMEDIATE; OP_SESSION_QUERY returns an existing session's record and OP_SESSION_EVICT begins its
close. (R408, R409, R304.) -/
def Obligations.SlicesAreStartedAndStopped : Prop :=
  ∀ (s t t1 t2 u : State) (q : Req) (c : Cmd) (x : Sess) (ms : Nat),
    (Finds s q t c 0x0401 0 → t.sec.erasing = none → t.sliceBusy = false → t.mayStart = true → t.startRoom = true → s.srv.start = none →
      t1 = t.onCfg (fun g => { g with gen := 1, prevGen := 1, prevRun := g.run }) →
      t2 = ((t1.sendAll mTxnStage 0 0 (txnHead 0 1 t.wts.curGen t.plan.planGen ++
          ((settings.filter (·.slice)).map (·.key)).flatMap fun k => units (entryBytes k (t1.srcOf k) 0 (t1.setting k)))).onSrv
        fun v => { v with start := some ⟨c.port, c.slot, [], [], []⟩, drain := none }) →
      u = t.carryOut c (.long (t2.clearRun.onSrv fun v => { v with sliceState := .starting }) [0x0401] [] []) →
      exec (.opSliceStart q) s = .next (s.noteState (if u.srv.start.isSome then u.sendMarkers.barrierDone else u))) ∧
    (Finds s q t c 0x0402 8 → rd 4 c.pay 0 ≤ 2 → ms = rd 4 c.pay 4 → ms ≤ 3600000 →
      (t.srv.sliceState = .running →
        u = (t.onSrv fun v => { v with
          sliceState := .draining,
          drain := some ⟨rd 4 c.pay 0, c.port, c.slot, t.now,
            if ms = 0 ∨ rd 4 c.pay 0 = 2 then none else some (t.now + ms * 1000000)⟩ }) →
        exec (.opSliceStop q) s = .next (s.noteState (t.carryOut c (.long
          (if rd 4 c.pay 0 = 1 then u.pauseAll else if rd 4 c.pay 0 = 2 then u.endAllGens rdCancelled else u)
          [0x0402, c.slot] [] [])).settleDrain)) ∧
      (∀ d, t.srv.sliceState = .draining → t.srv.drain = some d → rd 4 c.pay 0 = 2 →
        exec (.opSliceStop q) s = .next (s.noteState (t.carryOut c (.long
          ((t.onSrv fun v => { v with drain := some { d with mode := 2, deadlineNs := none } }).endAllGens rdCancelled)
          [0x0402, c.slot] [] [])).settleDrain))) ∧
    (Finds s q t c 0x0403 4 → t.sessById (rd 4 c.pay 0) = some x →
      exec (.opSessionQuery q) s = .next (endsIn t c x.bytes)) ∧
    (Finds s q t c 0x0404 4 → t.sessById (rd 4 c.pay 0) = some x →
      exec (.opSessionEvict q) s = .next (endsIn (t.beginClose x.index none) c []))

/-- OP_POWER_STATE_SET of an allowed state, with no change and no erase in course, begins the change; POWER_STATE_ENTERED
completes the change in course where its target can be entered; OP_CAP_SET sets SET_POWER_CAP at once and, in S0,
waits for the first compliant window, and outside S0 it ends with the achieved power zero. (R327, R325.) -/
def Obligations.PowerStatesAndCapsAreSet : Prop :=
  ∀ (s t u : State) (q : Req) (c : Cmd) (r : StateRun),
    (Finds s q t c 0x0501 4 → rd 4 c.pay 0 / 8 = 0 → t.stateAllowed (powerOf (rd 4 c.pay 0 % 4)) = true →
      t.pwr.change = none → t.sec.erasing = none →
      u = (t.onPwr fun p => { p with
        fade := if bitOf (rd 4 c.pay 0) 2 && t.pwr.fade.isSome then p.fade else none,
        change := some ⟨powerOf (rd 4 c.pay 0 % 4), some (c.port, c.slot), t.now, bitOf (rd 4 c.pay 0) 2 && t.pwr.fade.isSome, false⟩ }) →
      exec (.opPowerStateSet q) s = .next (t.carryOut c (.long (if powerOf (rd 4 c.pay 0 % 4) != .s3 then u.s3Exit else u) [0x0501] [] []))) ∧
    (s.pwr.change = some r → (r.waitFade && s.pwr.fade.isSome) = false → s.pwr.state ≠ .s3 → s.fw.stage = 12 →
      (r.target = .s1 → s.steps.live = [] → exec .powerStateEntered s =
        .next (s.noteState (((s.onPwr fun p => { p with state := .s1, belowReach := r.byReach }).stopTests).endChange r))) ∧
      (r.target = .s2 → s.sliceIdle = true → exec .powerStateEntered s = .next (s.noteState
        ((((s.onPwr fun p => { p with state := .s2, belowReach := false }).evalPorts).sendCards false).endChange r))) ∧
      (∀ slot, r.target = .s3 → s.sliceIdle = true → r.from_ = some (.m, slot) →
        exec .powerStateEntered s = .next (s.noteState (s.enterS3.endChange r))) ∧
      (r.target = .s3 → s.sliceIdle = true → (∀ slot, r.from_ ≠ some (.m, slot)) →
        exec .powerStateEntered s = .next (s.noteState (s.enterS3.onPwr fun p => { p with change := none }))) ∧
      (r.target = .s0 → r.byReach = false →
        u = (s.onPwr fun p => { p with state := .s0, belowReach := false, reachDue := none }) →
        exec .powerStateEntered s = .next (s.noteState
          ((if s.pwr.state == .s1 then u.startStagger else (u.evalPorts).sendCards false).endChange r)))) ∧
    (Finds s q t c 0x0502 4 → 1200 ≤ rd 2 c.pay 0 → rd 2 c.pay 0 ≤ 5000 → rd 2 c.pay 2 = 0 →
      u = (t.onCfg fun g => { g with run := tset g.run setPowerCap { value := le 2 (rd 2 c.pay 0), src := 2 } }).capChanged →
      (u.pwr.state = .s0 → t.pwr.state = .s0 → exec (.opCapSet q) s = .next (t.carryOut c (.long
        (u.onPwr fun p => { p with capReq := p.capReq ++ [(c.port, c.slot, t.now)] }) [0x0502, c.slot] [] []))) ∧
      (u.pwr.state ≠ .s0 → t.pwr.state ≠ .s0 → exec (.opCapSet q) s = .next (endsIn u c (u.capBytes 0))))

/-- OP_LINK_RETRAIN fast retrains the named ports, or with FULL trains them afresh where no slice uses their cards;
OP_LANE_MARGIN of an interface that measures none opens its window, and LANE_MARGIN_DONE closes it and answers with
the lanes' margins; OP_TRACE_READ returns records, and START and STOP set and end recording. (R423, R441, R442, R397.) -/
def Obligations.LinksMarginsAndTracesAreCommanded : Prop :=
  ∀ (s t u : State) (q : Req) (c : Cmd) (ps : List Nat) (got : List Bytes) (iface index : Nat) (lanes : List LaneReading),
    (Finds s q t c 0x0A03 4 → bitsOf (rd 4 c.pay 0) 7 6 = 0 → rd 4 c.pay 0 / 512 = 0 →
      ps = allPorts.filter (fun p => bitOf (rd 4 c.pay 0) p) →
      (bitOf (rd 4 c.pay 0) 8 = false →
        exec (.opLinkRetrain q) s = .next (s.noteState (endsIn (ps.foldl (fun a p => a.startFast p) t) c []))) ∧
      (bitOf (rd 4 c.pay 0) 8 = true →
        (t.sliceBusy && ps.any fun p => (t.portX p).outcome == .matched || (t.portX p).outcome == .remapped) = false →
        exec (.opLinkRetrain q) s = .next (s.noteState (endsIn (ps.foldl (fun a p =>
          (a.modPort p fun x => { x with trained := false, card := none, fast := none, state := .training }).startTraining p) t).evalPorts
          c [])))) ∧
    (Finds s q t c 0x0A04 16 → iface = rd 4 c.pay 0 % 4 → iface < 3 → index = bitsOf (rd 4 c.pay 0) 4 2 → index < indexTop iface →
      rd 4 c.pay 0 / 32 = 0 → 0 < rd 4 c.pay 4 → rd 4 c.pay 4 ≤ 10000 → 0 < rd 8 c.pay 8 → rd 8 c.pay 8 < 2 ^ laneTop iface →
      t.pins.margins.any (fun m => m.2.2.1 == iface && m.2.2.2.1 == index) = false →
      exec (.opLaneMargin q) s = .next (t.carryOut c (.long (t.onPins fun p => { p with
        margins := p.margins ++ [(c.port, c.slot, iface, index, rd 8 c.pay 8)] }) [] [] []))) ∧
    (∀ m, s.pins.margins.find? (fun m => m.2.2.1 == iface && m.2.2.2.1 == index) = some m →
      exec (.laneMarginDone iface index lanes) s = .next ((s.onPins fun p => { p with
          margins := p.margins.filter fun y => !(y.2.2.1 == iface && y.2.2.2.1 == index) }).finishAt m.1 m.2.1 stOk 0
        (le 4 ((List.range (laneTop iface)).filter (bitOf m.2.2.2.2)).length ++ zeros 4 ++
          ((List.range (laneTop iface)).filter (bitOf m.2.2.2.2)).flatMap
            (laneBytes (iface != 0 || (s.portX index).trained) lanes)))) ∧
    (Finds s q t c 0x0F01 12 → bitsOf (rd 4 c.pay 0) 7 2 = 0 → rd 4 c.pay 0 / 65536 = 0 → rd 4 c.pay 8 / 256 = 0 →
      (rd 4 c.pay 0 % 4 = 0 → 0 < byteAt c.pay 8 → byteAt c.pay 8 ≤ 125 →
        got = (t.sec.trace.recs.filter fun r => rd 4 c.pay 4 ≤ rd 4 r 0).take (byteAt c.pay 8) →
        exec (.traceRead q) s = .next (endsIn t c (le 4 got.length ++
          le 4 ((got.getLast?.map fun r => rd 4 r 0 + 1).getD (max (rd 4 c.pay 4) t.sec.trace.seq)) ++
          le 4 t.sec.trace.lost ++ zeros 4 ++ got.flatMap id))) ∧
      (rd 4 c.pay 0 % 4 = 1 → exec (.traceStart q) s = .next (endsIn (t.onSec fun k => { k with
        trace := { k.trace with running := true, kinds := bitsOf (rd 4 c.pay 0) 15 8 } }) c [])) ∧
      (rd 4 c.pay 0 % 4 = 2 → exec (.traceStop q) s = .next (endsIn (t.onSec fun k => { k with
        trace := { k.trace with running := false } }) c [])))

/-- OP_PHYS_READ of bytes that the view holds and that are not poisoned returns them; a poisoned block is a UE and ends in
ST_INTERNAL; OP_PHYS_WRITE with no slice starting or running writes them. OP_SCAN_CHAIN lists the chains, captures one
with every island clock stopped, shifts bits of it out, and shifts bits into it and leaves its other bits. (R396.) -/
def Obligations.PhysicalMemoryAndScanChainsAreReached : Prop :=
  ∀ (s t : State) (q : Req) (c : Cmd) (a n k : Nat) (new : List Bool),
    (a = rd 8 c.pay 0 → n = rd 2 c.pay 8 → 8 ≤ n → n ≤ 4016 → n % 8 = 0 → a % 8 = 0 → rd 2 c.pay 10 = 0 → t.physOk a n = true →
      (Finds s q t c 0x0F02 12 → t.poisoned a = false → t.poisoned (a + n - 1) = false →
        exec (.opPhysRead q) s = .next (endsIn t c (t.read a n))) ∧
      (Finds s q t c 0x0F02 12 → t.poisoned a = true →
        exec (.opPhysRead q) s = .next ((t.memUe (viewUnit a) a .range 0).handBack c.port c.slot stInternal 0 [] true)) ∧
      (Finds s q t c 0x0F03 (16 + n) → rd 4 c.pay 12 = 0 → t.srv.sliceState ≠ .starting → t.srv.sliceState ≠ .running →
        exec (.opPhysWrite q) s = .next (endsIn (t.write a (cut c.pay 0x10 n)) c []))) ∧
    (Finds s q t c 0x0F04 16 → rd 4 c.pay 0 = 0 → exec (.scanList q) s = .next (endsIn t c
      ((List.range (min 504 Config.scanChains)).flatMap fun k => le 4 k ++ le 4 (Config.scanLength k)))) ∧
    (k = rd 4 c.pay 4 → k < Config.scanChains →
      (Finds s q t c 0x0F04 16 → rd 4 c.pay 0 = 1 → exec (.scanCapture q) s = .next (endsIn ((t.drawn).onSec fun x => { x with
        scanStopped := true, scanChains := tset x.scanChains k
          ((List.range (Config.scanLength k)).map (Config.scanBit ((t.freeCtr + 1) * 65536 + k))) }) c [])) ∧
      (0 < scanBits c → scanBits c ≤ 32064 → rd 4 c.pay 8 + scanBits c ≤ Config.scanLength k →
        (Finds s q t c 0x0F04 16 → rd 4 c.pay 0 = 2 → exec (.scanShiftOut q) s = .next (endsIn t c
          (padMul 4 (bytesOfBits (((t.chainBits k).drop (rd 4 c.pay 8)).take (scanBits c)))))) ∧
        (Finds s q t c 0x0F04 (16 + ceilDiv (ceilDiv (scanBits c) 8) 4 * 4) → rd 4 c.pay 0 = 3 →
          new = (bitStream (c.pay.drop 0x10)).take (scanBits c) →
          exec (.scanShiftIn q) s = .next (endsIn (t.onSec fun x => { x with
            scanChains := tset x.scanChains k
              ((t.chainBits k).take (rd 4 c.pay 8) ++ new ++ (t.chainBits k).drop (rd 4 c.pay 8 + new.length)) }) c []))))

/-- With the endpoint up, a keyed MAILBOX or WARM write does its reset and an unkeyed write does nothing; IRQ causes are
cleared by ones; IRQ_MASK and the MSI-X table store what is written and every other write is discarded; a
function-level or hot reset and a link loss reset the host side; HEARTBEAT rises by one while the firmware runs.
(R290, R282, R281, R280.) -/
def Obligations.HostRegistersAndResetsAreWritten : Prop :=
  ∀ (s : State) (word : Word32) (off : Nat),
    (s.endpoint = true →
      (exec (.mailboxReset word) s = .next (if resetWord 0x01 word then s.resetHost 3 else s)) ∧
      (exec (.warmReset word) s = .next (if resetWord 0x02 word then s.warmReset 2 else s)) ∧
      (exec (.irqClear word) s = .next (s.onMbox fun m => { m with irqCause := m.irqCause &&& ~~~(word.setWidth 4) })) ∧
      (exec (.registerWrite 0x054 word) s = .next (s.onMbox fun m => { m with irqMask := word.setWidth 4 })) ∧
      (0x1000 ≤ off → off < 0x1400 → off % 4 = 0 →
        exec (.registerWrite off word) s = .next (s.msixWrite ((off - 0x1000) / 4) word)) ∧
      (off ≠ 0x054 → ¬(0x1000 ≤ off ∧ off < 0x1400 ∧ off % 4 = 0) → exec (.registerWrite off word) s = .next s) ∧
      exec (.pcieLinkReset .flr) s = .next (s.resetHost 4) ∧ exec (.pcieLinkReset .hot) s = .next (s.resetHost 4) ∧
      exec (.pcieLinkReset .linkLoss) s = .next (s.resetHost s.mbox.lastReset)) ∧
    (s.l2Up = true ∨ s.fw.safelight = true → (s.fw.handover.any fun h => h.blackoutNs.isSome) = false →
      exec .heartbeat s = .next (s.onClock fun c => { c with heartbeat := c.heartbeat + 1, heartbeatNs := c.timeNs }))

/-- A host write to an owned slot is discarded and counted, the count staying at its top; a WRITE slot message in range to
a slot the port side holds posts it and answers 0, to an owned slot answers 1, and out of range answers 2; a READ slot
message answers with the slot's image; an MBOX_ACCESS shift shows the slot and, with WRITE, posts what was shifted in.
(R287, R291, R292.) -/
def Obligations.MailboxSlotsAreReachedByEveryPath : Prop :=
  ∀ (s : State) (slot off : Nat) (data : Bytes) (image : SlotImage) (path : MPath),
    (s.endpoint = true → slot < 64 → (s.slot .h slot).owner = true → exec (.slotWriteDenied slot off data) s =
      .next (s.onMbox fun m => { m with slotWriteDenied := satTo 0xFFFFFFFF (m.slotWriteDenied + 1) })) ∧
    (s.mbox.mServed = true →
      (slot < 8 → bitsOf image.word0C.toNat 15 0 ≤ 4032 → bitsOf image.word0C.toNat 15 0 ≤ image.payload.length →
        ((s.slot .m slot).owner = false → exec (.slotMsgWrite path slot image) s = .next ((s.post .m slot
          { image with payload := image.payload.take (bitsOf image.word0C.toNat 15 0) } path).emit (.writeAck path slot 0))) ∧
        ((s.slot .m slot).owner = true → exec (.slotMsgWrite path slot image) s = .next (s.emit (.writeAck path slot 1)))) ∧
      (8 ≤ slot ∨ 4032 < bitsOf image.word0C.toNat 15 0 ∨ image.payload.length < bitsOf image.word0C.toNat 15 0 →
        exec (.slotMsgWrite path slot image) s = .next (s.emit (.writeAck path slot 2))) ∧
      (slot < 8 → exec (.slotMsgRead path slot) s = .next (s.emit (.readReply path slot
        ((s.slot .m slot).image (min (s.slot .m slot).payloadLen 4032)))))) ∧
    (s.pwr.state ≠ .s5 → slot < 2 →
      exec (.mboxAccess slot false image) s = .next (s.emit (.jtag slot ((s.slot .d slot).image 4032))) ∧
      exec (.mboxAccess slot true image) s =
        .next ((s.emit (.jtag slot ((s.slot .d slot).image 4032))).post .d slot image .i3c0))

/-- On a path that answers, with no resynchronisation due and an identity in force, GET_VERSION starts the connection
again, GET_CAPABILITIES and NEGOTIATE_ALGORITHMS move it on, GET_DIGESTS, GET_CERTIFICATE, CHALLENGE and
GET_MEASUREMENTS answer a negotiated connection from the chain and the blocks, and a request not listed is answered
unsupported. (R383, R381, R385, R384.) -/
def Obligations.AttestationAnswers : Prop :=
  ∀ (s : State) (t : SpdmPath) (v off len ht ix code : Nat) (nonce sum : Bytes) (sig : Bool),
    s.spdmUp t = true → s.sec.resync.contains t = false → Config.identityBad = false →
      exec (.getVersion t) s = .next ((s.setSpdm t 1).spdmSay t spVersion [0x12, 0x13]) ∧
      exec (.spdmUnsupportedRequest t code) s = .next (s.spdmErr t seUnsupported) ∧
      (1 ≤ s.spdmState t → v = 0x12 ∨ v = 0x13 →
        exec (.getCapabilities t v) s = .next ((s.setSpdm t 2).spdmSay t spCapabilities (le 1 12 ++ le 4 0x36))) ∧
      (2 ≤ s.spdmState t →
        exec (.negotiateAlgorithms t true true true) s = .next ((s.setSpdm t 3).spdmSay t spAlgorithms [])) ∧
      (3 ≤ s.spdmState t →
        exec (.getDigests t) s = .next (s.spdmSay t spDigests (sha384 s.chain)) ∧
        exec (.getCertificate t 0 off len) s = .next (s.spdmSay t spCertificate (cut s.chain off len)) ∧
        (ht = 0 ∧ sum = [] ∨ ht = 0xFF ∧ sum = sha384 s.allBlocks ∨
            ht = 1 ∧ sum = le 48 (Config.unstated 43 (s.allBlocks.map BitVec.toNat)) →
          exec (.challenge t 0 nonce ht) s = .next ((s.drawn).spdmSay t spChallengeAuth
            (sha384 s.chain ++ s.nonce ++ sum) (some (s.signed nonce (sha384 s.chain ++ s.nonce ++ sum))))) ∧
        (ix ≤ 10 ∨ ix = 0xFF →
          sum = (if ix = 0 then le 1 10 else if ix = 0xFF then s.allBlocks else s.measBlock ix) →
          exec (.getMeasurements t ix sig nonce) s = .next ((s.drawn).spdmSay t spMeasurements (sum ++ s.nonce)
            (if sig then some (s.signed nonce (sum ++ s.nonce)) else none))))

/-- With standby power, SET_EVENT_RECEIVER of another receiver starts delivery to it afresh, and a response marks the
record in flight delivered and sends the next; a record without a response within 100 ms, or 10 s after the tenth
retry, is sent again, and one that was overwritten gives way; a collector's acknowledgement marks its record and sends
more, and an unacknowledged record goes out again at a doubled interval up to 60 s; a second after a record, the
occurrences counted make one record, and none close the series. (R373, R374, R370.) -/
def Obligations.FaultRecordsAreDelivered : Prop :=
  ∀ (s : State) (receiver : Option (Nat × Nat)) (rx : Nat × Nat) (id tries at_ c iv code : Nat) (r : FaultRec)
    (unit : UnitId) (x : Series),
    (s.standby = true →
      (s.integ.receiver ≠ receiver → exec (.setEventReceiver receiver) s = .next (((s.onInteg fun i => { i with
        receiver := receiver, pldmSent := none, pldmPos := 0,
        faults := i.faults.map fun r => { r with delivered := without r.delivered 0 } }).setAlert).exportPldm)) ∧
      (s.integ.pldmSent = some (id, tries, at_) →
        exec .pldmEventResponse s = .next (((s.onInteg fun i => { i with
          pldmSent := none, pldmPos := id,
          faults := i.faults.map fun r => if r.recordId = id then { r with delivered := addNew r.delivered 0 } else r }).setAlert).exportPldm) ∧
        (s.integ.receiver = some rx → at_ + (if tries < 10 then 100000000 else 10000000000) ≤ s.now →
          (s.integ.faults.find? (fun r => r.recordId == id) = some r → exec .pldmExportRetry s =
            .next (((s.onInteg fun i => { i with pldmSent := some (id, tries + 1, s.now) }).count ctExportRetries 0 1).emit
              (.pldm rx.1 rx.2 id r.cper))) ∧
          (s.integ.faults.find? (fun r => r.recordId == id) = none → exec .pldmExportRetry s =
            .next ((s.onInteg fun i => { i with pldmSent := none, pldmPos := id }).exportPldm)))) ∧
      (s.collectors.contains c = true →
        exec (.collectorAck c id) s = .next ((((s.putCollector c { s.collector c with
          outstanding := (s.collector c).outstanding.filter fun o => o.1 != id }).onInteg fun i => { i with
            faults := i.faults.map fun r => if r.recordId = id then { r with delivered := addNew r.delivered c } else r }).exportTo c 8)) ∧
        ((s.collector c).outstanding.find? (fun o => o.1 == id) = some (id, at_, iv) → at_ + iv * 1000000000 ≤ s.now →
          (s.integ.faults.find? (fun r => r.recordId == id) = some r → exec (.collectorResend c id) s =
            .next (((s.putCollector c { s.collector c with outstanding := (s.collector c).outstanding.map fun o =>
              if o.1 = id then (id, s.now, min 60 (2 * iv)) else o }).count ctExportRetries c 1).emit
                (.datagram c (datagramOf r)))) ∧
          (s.integ.faults.find? (fun r => r.recordId == id) = none → exec (.collectorResend c id) s =
            .next ((s.putCollector c { s.collector c with
              outstanding := (s.collector c).outstanding.filter fun o => o.1 != id }).exportTo c 8))))) ∧
    (s.integ.series.find? (fun y => y.code == code && y.unit == unit) = some x → x.startNs + 1000000000 ≤ s.now →
      (x.count = 0 → exec (.faultCountSecond code unit) s = .next (s.onInteg fun i => { i with
        series := s.integ.series.filter fun y => !(y.code == code && y.unit == unit) })) ∧
      (x.count ≠ 0 → exec (.faultCountSecond code unit) s = .next ((s.onInteg fun i => { i with
        series := s.integ.series.filter (fun y => !(y.code == code && y.unit == unit)) ++
          [{ x with count := 0, startNs := s.now }] }).faultRecord code unit x.ctx x.count)))

/-- While the lead serves, a CM_REQ of a client whose entry is valid and allows the address, with queue pairs left, is
accepted; CM_DREQ ends its queue pair and an invalid request answers with a NAK and ends it; a CNP halves the rate and
a CE-marked packet sends a CNP, each no more than once per 50 µs; a local ACK timeout sends again up to seven times,
then ends the queue pair. (R197, R212, R199.) -/
def Obligations.ClientPairsAreConnectedAndPaced : Prop :=
  ∀ (s : State) (client addr remote qp : Nat) (ipv6 : Bool) (why : NakCause) (p : Qp),
    (s.isLead = true → s.sliceRunning = true → 1 ≤ client → client ≤ 255 → ceValid (s.clientEntry client) = true →
      cePrefixHas (s.clientEntry client) ipv6 addr = true →
      (s.srv.qps.filter (fun q => q.2.client == client)).length < ceMaxQps (s.clientEntry client) → s.srv.qps.length < 2048 →
      exec (.cmReq client ipv6 addr remote) s = .next ((s.onSrv fun v => { v with
        qps := tset v.qps v.nextQp ⟨client, ipv6, addr, remote, lineRate, none, none, 0⟩, nextQp := v.nextQp + 1 }).emit
          (.cmAccept s.srv.nextQp))) ∧
    (s.qpUp qp = true →
      exec (.cmDreq qp) s = .next (s.endQp qp) ∧
      exec (.invalidRequestNak qp why) s = .next ((s.emit (.nak qp)).endQp qp)) ∧
    (tget s.srv.qps qp = some p →
      ((p.lastCutNs.any fun t => s.now < t + 50000) = false → exec (.cnpReceived qp) s = .next (s.onSrv fun v => { v with
        qps := tset v.qps qp { p with rate := p.rateNow s.now / 2, lastCutNs := some s.now } })) ∧
      ((p.lastCnpNs.any fun t => s.now < t + 50000) = false → exec (.ceMarkedPacket qp) s = .next ((s.onSrv fun v => { v with
        qps := tset v.qps qp { p with lastCnpNs := some s.now } }).emit (.cnp qp))) ∧
      (p.retries < 7 → exec (.localAckTimeout qp) s = .next ((s.onSrv fun v => { v with
        qps := tset v.qps qp { p with retries := p.retries + 1 } }).emit (.resend qp (p.retries + 1)))) ∧
      (7 ≤ p.retries → exec (.localAckTimeout qp) s = .next (s.endQp qp)))

/-- A REQ_OPEN of well-formed parts that the client's entry allows, with room, opens the session at the lowest free index
with that index's next use and answers OPENED; a REQ_APPEND to an idle or prefilling session appends its tokens, binds
the session's adapter and starts prefilling; a REQ_GENERATE starts a generation, prefilling first where tokens wait.
(R193, R208, R214.) -/
def Obligations.RequestsOpenAppendAndGenerate : Prop :=
  ∀ (s u v : State) (qp client : Nat) (msg : Bytes) (x y z : Sess) (i h : Nat) (r : ReqRec) (ts : List Nat),
    r = asked u qp msg → u.draining = false → u.queueFull client = false →
    (Asks s qp msg 1 (fun client =>
        [ (hdSession msg != 0, stFieldRange, 0x0C), (hdCount msg != 0, stLenRange, 0x14), (rd 4 msg 0x20 == 3, stFieldRange, 0x20),
          (decide (rd 4 msg 0x24 < 64) || decide (ceMaxContext (s.clientEntry client) < rd 4 msg 0x24), stFieldRange, 0x24),
          (decide (1024 < rd 4 msg 0x28), stFieldRange, 0x28) ]) u client →
      ceClass (u.clientEntry client) (rd 4 msg 0x20) = true → (rd 4 msg 0x28 = 0 ∨ ceAdapters (u.clientEntry client) = true) →
      u.freeIndex = some i → (u.allSess.filter (fun x => x.client == client)).length < ceMaxSessions (u.clientEntry client) →
      v = ((u.onSrv fun v => { v with uses := tset v.uses i (nextUse (tgetD u.srv.uses i 0)) }).putSess x) →
      x = { index := i, use := nextUse (tgetD u.srv.uses i 0), client := client, cls := rd 4 msg 0x20, maxCtx := rd 4 msg 0x24,
            adapterId := rd 4 msg 0x28, lastQp := qp, readyNs := u.now } →
      exec (.reqOpen qp msg) s = .next ((((((v.pushUpdate i).dataArrives).repDone x r rdOpened)).modSess (hdSession msg % 4096)
        id).count ctRequests (client * 256 + 1) 1)) ∧
    (ofSession u msg client x → x.closing = false → u.srv.kvShortage = false → u.bindHandle x = some h →
      (Asks s qp msg 2 (fun _ => [ (hdCount msg == 0 || decide (65536 < hdCount msg), stLenRange, 0x14) ] ++
          tokenChecks s.plan.vocab msg 32 (hdCount msg)) u client →
        x.state = .idle ∨ x.state = .prefilling → u.entryAllows x false = true → x.n + hdCount msg ≤ x.maxCtx →
        y = x.append (words32 msg 32 (hdCount msg)) →
        z = ({ y with state := .prefilling, handle := if x.generation.isSome then x.handle else h,
                      readyNs := if x.state == .idle then u.now else x.readyNs } : Sess).settled →
        exec (.reqAppend qp msg) s = .next (taken (((u.putSess z).pushUpdate z.index).repDone z r rdAppended) qp client msg)) ∧
      (Asks s qp msg 3 (fun _ => genChecks s.plan.vocab msg ++
          tokenChecks s.plan.vocab msg (gnTokensAt msg) (min 65536 (hdCount msg))) u client →
        x.state = .idle ∨ x.state = .prefilling ∧ x.generation = none → u.entryAllows x true = true →
        ts = words32 msg (gnTokensAt msg) (hdCount msg) → x.n + ts.length ≤ x.maxCtx →
        (x.cls = 0 → u.interactiveFits x (genParamsAt msg 32) = true) →
        y = x.append ts →
        z = { y with
          state := if x.state == .prefilling || !ts.isEmpty then .prefilling else .generating, generation := some r,
          gen := some (genParamsAt msg 32), emitted := 0, handle := h, rootOnly := true, tree := [], branches := [],
          readyNs := if x.state == .idle then u.now else x.readyNs } →
        exec (.reqGenerate qp msg) s = .next (taken (((u.putSess z).pushUpdate z.index).sendParams z
          (cut msg 32 (gnTokensAt msg - 32))) qp client msg)))

/-- REQ_CANCEL at another epoch than the session's is answered at once, and at the session's own cancels it and waits;
REQ_PAUSE of an idle or generating session starts a pause; REQ_RESUME of a paused session starts its restore, and of a
pausing one takes the pause back; REQ_CLOSE begins the close; a message of no request type is refused with
UNKNOWN_TYPE; a cancel is answered when no step in flight carries the old epoch, and a close when none holds the
session; a session left out for longer than SET_KV_WAIT_MAX ends a victim with KV_FULL. (R209, R211, R151, R210, R206,
R215.) -/
def Obligations.RequestsCancelPauseResumeAndClose : Prop :=
  ∀ (s u v : State) (qp client : Nat) (msg : Bytes) (x y z : Sess) (r : ReqRec) (id : Nat),
    (r = asked u qp msg → u.sessById (hdSession msg) = some x → x.client = client →
      (Asks s qp msg 4 (fun _ => noCount msg) u client →
        (x.epoch ≠ hdEpoch msg → exec (.reqCancel qp msg) s = .next (taken (u.repDone x r rdCancelled) qp client msg)) ∧
        (x.epoch = hdEpoch msg → exec (.reqCancel qp msg) s = .next (taken ((u.cancelSession x.index).modSess x.index fun y =>
          { y with cancels := y.cancels ++ [r] }) qp client msg))) ∧
      (Asks s qp msg 5 (fun _ => noCount msg ++
          [(rd 4 msg 32 == 0 || decide (s.setN setPauseTtlMax < rd 4 msg 32), stFieldRange, 0x20)]) u client →
        x.epoch = hdEpoch msg → x.closing = false → x.state = .idle ∨ x.state = .generating → u.queueFull client = false →
        cePause (u.clientEntry client) = true →
        z = { x with state := .pausing, pauseReq := some { r with ttl := rd 4 msg 32 } } →
        exec (.reqPause qp msg) s = .next (taken ((u.putSess z).pushUpdate z.index) qp client msg)) ∧
      (Asks s qp msg 6 (fun _ => noCount msg) u client → x.epoch = hdEpoch msg → u.draining = false → x.closing = false →
        u.queueFull client = false →
        (x.state = .paused → u.srv.kvShortage = false →
          z = { x with state := .resuming, resumeReq := some r, pauseUntilNs := none } →
          exec (.reqResume qp msg) s = .next (taken (((u.putSess z).pushUpdate z.index).tryRestore z.index) qp client msg)) ∧
        (∀ w, x.state = .pausing → v = u.endGen x.index (fun t x q => t.repDone x q rdGenPaused) → v.sess? x.index = some y →
          w = (match y.pauseReq with
            | some q => v.repDone y q rdAbandoned
            | none => v) →
          z = { y with state := if y.kvLen + 1 < y.n then .prefilling else .idle, pauseReq := none } →
          exec (.reqResume qp msg) s = .next (taken ((((w.repDone y r rdResumed).freeImage y.index).putSess z).pushUpdate z.index)
            qp client msg))) ∧
      (Asks s qp msg 7 (fun _ => noCount msg) u client →
        exec (.reqClose qp msg) s = .next (taken (u.beginClose x.index (some r)) qp client msg))) ∧
    (∀ p, tget s.srv.qps qp = some p → s.isLead = true → ¬(1 ≤ hdType msg ∧ hdType msg ≤ 7) → 32 ≤ msg.length →
      rd 4 msg 4 = msg.length → (∀ e ∈ reservedBad msg, e.1 = false) →
      exec (.unknownType qp msg) s = .next (s.refuseReq qp p.client msg (reasonStatus reUnknownType) reUnknownType 0)) ∧
    (s.sessById id = some x → s.isLead = true →
      exec (.cancelSettled id) s = .next (s.settleCancel x) ∧
      (x.closing = true → x.held = false →
        (x.closes = [] → exec (.closeSettled id) s = .next ((s.freeSession x.index).replyFree x rpDone rdClosed x.n)) ∧
        (x.closes ≠ [] → exec (.closeSettled id) s =
          .next (x.closes.foldl (fun a r => a.repDone x r rdClosed) (s.freeSession x.index)))) ∧
      (∀ t, x.waitingNs = some t → t + s.setN setKvWaitMax * 1000000 < s.now → exec (.kvWaitExpiry id) s =
        .next (((s.advanceEpoch (s.kvVictim x).index).failPending (s.kvVictim x).index reKvFull).count ctKvFullEnds 0 1)))

/-- A lead that may compose assigns commits and installs adapters at the step boundary, tries the restores, and composes a
verify or prefill step from the sessions that are ready, by class; with none ready it composes none. A SESSION_TABLE
gives a module its half batch's rows and their commits, and ATTN_RECORDS its records, each checked before PRE; a
malformed entry is counted and discarded. A promotion is noted, and a module's step report reaches the lead. (R216,
R83, R137, R116, R258.) -/
def Obligations.StepsAreComposedAndAnnounced : Prop :=
  ∀ (s u v : State) (port : Nat) (k : Packet) (m : Msg) (t : Step) (e : Bytes) (ver pre ready : List Sess) (verify bad : Bool),
    (s.mayCompose = true →
      u = (((s.closeDarkslide).assignCommits (s.steps.composed + 1)).installPending) →
      v = (u.allSess.map (·.index)).foldl (fun (a : State) i => a.tryRestore i) u →
      ver = v.allSess.filter v.readyVerify → pre = v.allSess.filter v.readyPrefill →
      (v.nextKind ver pre = none → exec .stepCompose s = .next (s.noteState v.settleDrain)) ∧
      (∀ w q, v.nextKind ver pre = some verify → ready = (if verify then ver else pre) →
        w = v.topUp ((ready.map fun (y : Sess) => y.client).foldl addNew []) →
        q = ([0, 1, 2].foldl (fun (c : Comp) cls => c.fill (w.plan.attns w.adp.perHb) verify cls ready.length)
          { st := w, left := ready.map (w.cand verify) }) →
        exec .stepCompose s = .next (s.noteState (q.finish verify ver).settleDrain))) ∧
    (Hears s port k mSessionTable u m → m.entries.any srowRsv = false → u.takesStep m.step = true →
      exec (.sessionTable port k) s = .next (((u.hearStep m.step).modStep m.step fun t =>
        t.putHb m.hb { t.hb m.hb with rows := m.entries.map srowOf } m.hb).onKv fun k => { k with
          commits := k.commits.filter (fun c => !(c.2 < m.step && (m.entries.map srowOf).any fun r => r.session == c.1)) ++
            (m.entries.map srowOf).map fun r => (r.session, m.step) })) ∧
    (Hears s port k mAttnRecords u m → m.entries.any arecRsv = false → u.takesStep m.step = true →
      v = (u.hearStep m.step).modStep m.step (fun t => { t.putHb m.hb { t.hb m.hb with recs := m.entries.map arecOf } (2 + m.hb) with
        verify := t.verify || (m.entries.map arecOf).any fun r => !recPrefill r }) → v.step? m.step = some t →
      bad = (t.rows.length < m.entries.length || [(t.hb0, t.got.contains 0 && t.got.contains 2),
        (t.hb1, t.got.contains 1 && t.got.contains 3)].any fun h => h.2 && (h.1.rows.zip h.1.recs).any fun e =>
          t.verify && !recOk e.2 e.1.rows) →
      exec (.attnRecords port k) s = .next (
        if bad then v.stepFault fltKvTree noUnit m.step
        else if !t.verify then v
        else ((t.hb m.hb).rows.zip (m.entries.map arecOf)).foldl (fun (a : State) e => a.modSess (e.1.session % 4096) fun x =>
          if x.id = e.1.session then x.takeTree e.2 e.1.rows else x) v)) ∧
    (Hears s port k mSessionTable u m → m.entries.any srowRsv = true → exec (.sessionTable port k) s = .next (u.badMsg port m)) ∧
    (Hears s port k mPromotion u m → (m.entries.any fun b => rd 8 b 8 != 0) = false →
      exec (.promotion port k) s = .next (m.entries.foldl (fun a b => a.notePromotion (rd 4 b 0) (rd 2 b 4)) u)) ∧
    (Hears s port k mStepReport u m → m.entries = [e] → rd 4 e 4 < 16 → rd 8 e 8 = 0 → u.isLead = true →
      exec (.stepReport port k) s = .next (u.noteState (u.noteReport m.src m.step (rd 4 e 0) (rd 4 e 4))))

/-- A GRANT_LIST and a COMMIT from the lead are applied entry by entry on a module that is not the lead, unless the
grant's step has aborted; a grant's move that ends maps its chunk, tells the time that descriptors waited for it, and
after a FIX_WINDOW offers the chunk to the contact sheet on the lead; a prefill that starts at position zero takes
SHARE grants for the chunks that the sheet holds, and none with the sheet disabled. (R131, R135, R132, R145.) -/
def Obligations.KvChunksAreGrantedMovedAndCommitted : Prop :=
  ∀ (s u v : State) (port : Nat) (k : Packet) (m : Msg) (x : Sess) (session group chunk : Nat) (mv : KvMove) (path : List Nat)
    (hit : List CsNode) (share : List Grant),
    (Hears s port k mGrantList u m → m.entries.any grantRsv = false → u.isLead = false → m.step = 0 ∨ u.aborted m.step = false →
      exec (.grantList port k) s = .next (u.takeGrants (m.entries.map grantOf) m.step)) ∧
    (Hears s port k mCommit u m → m.entries.any noticeRsv = false → u.isLead = false →
      exec (.commit port k) s = .next (m.entries.foldl (fun a b => a.applyCommit (noticeOf b)) u).pruneSteps) ∧
    ((s.kv.moves.find? fun m => m.group == group && m.session == session % 4096 && m.chunk == chunk) = some mv →
      u = s.finishMove mv →
      v = (match ((tkeys s.tiles.x).filter fun l => (s.tileX l).queue.any fun q => !q.started &&
            (match s.step? (s.tileX l).step with
            | none => false
            | some t => !s.chunksStill t (s.plan.desc q.desc))).head? with
        | none => u
        | some l => u.stall ctKvGrant group (s.now - max mv.startNs
            (((s.step? (s.tileX l).step).bind fun t => tget t.enteredNs (s.tileX l).phase).getD s.now))
            (s.plan.layerCode (s.tileX l).phase) l 0 (s.tileX l).step) →
      (mv.action ≠ gFix ∨ v.isLead = false → exec (.grantMoveDone group session chunk) s = .next v) ∧
      (mv.action = gFix → v.isLead = true → v.sess? mv.session = some x →
        exec (.grantMoveDone group session chunk) s = .next (v.csInsert mv.session (x.kvLen / 64 + 1)))) ∧
    (s.sessById session = some x → s.isLead = true → x.state = .prefilling → x.kvLen = 0 → x.lookedUp = false →
      x.held = false → s.sliceBusy = true → u = s.countGroups ctCsLookups 1 →
      (s.kv.csEnable = false → exec (.csLookup session) s =
        .next ((u.modSess x.index fun y => { y with lookedUp := true, kvLen := 0, path := [] }).pushUpdate x.index)) ∧
      (s.kv.csEnable = true → hit = s.csWalk (s.lineage x) x.tokens ((x.n - 1) / 64) 0 → path = hit.map (·.id) →
        share = (indexed hit).flatMap (fun h => (List.range s.plan.groups.length).map fun g =>
          ({ session := x.id, chunk := h.1, group := g, action := gShare, slot := h.2.slots.getD g 0 } : Grant)) →
        v = (((share.foldl (fun a g => a.addRef g.group g.slot) u).csTouch path).sendGrants share 0 0).countGroups
          ctCsHitChunks hit.length →
        (List.range s.plan.groups.length).any (fun g => s.plan.groupK4 g) = true →
        exec (.csLookup session) s = .next ((v.modSess x.index fun y => { y with
          lookedUp := true, kvLen := 64 * hit.length, path := path }).pushUpdate x.index)))

/-- On a module that is not the lead, SESSION_UPDATE entries update its sessions and GEN_PARAMS sets a session's
parameters with a tree of its root alone; a DRAFT_TREE of whole entries is taken as a branch; an OUTCOME goes to the
lead's session or to the proof module's record; the proof engine drafts for a generating session and sends the
branches to the lead and the sampling module; a row's logits land at the sampling unit, which decides once every
sampled row is whole. (R194, R166, R230, R228, R224, R220.) -/
def Obligations.FollowersTrackSessionsAndTrees : Prop :=
  ∀ (s u v : State) (port : Nat) (k : Packet) (m : Msg) (x : Sess) (h e0 e1 b : Bytes) (session row step : Nat) (g : GenParams)
    (items : List (Nat × Word32)) (logits : List (List Word32)) (tree : List TreeRow) (zs : List (Option (List Word32))) (made : List Branch × State)
    (t : Step) (hb : Nat) (e : SRow) (r : ARec) (remote : List (Nat × List Word32)),
    (Hears s port k mSessionUpdate u m → u.isLead = false →
      exec (.sessionUpdate port k) s = .next (m.entries.foldl (fun a b => a.takeUpdate b) u)) ∧
    (Hears s port k mGenParams u m → u.isLead = false → b = m.entries.flatMap id → u.sessById (rd 4 b 0) = some x →
      exec (.genParams port k) s =
        .next (u.putSess { x with gen := some (genParamsAt (b.drop 16) 0), rootOnly := true, tree := [], branches := [] })) ∧
    (Hears s port k mDraftTree u m → 2 + (parseBranch m.entries).2.tree.length ≤ m.entries.length →
      (parseBranch m.entries).2.tree ≠ [] →
      exec (.draftTree port k) s = .next (u.takeBranch (parseBranch m.entries).1 m.step (parseBranch m.entries).2)) ∧
    (Hears s port k mOutcome u m → m.entries.take 2 = [e0, e1] → 
      items = (m.entries.drop 2).map (fun e => (rd 4 e 0, w32 (rd 4 e 4))) → items.length = bitsOf (rd 4 e0 4) 20 16 → items.length ≤ 16 →
      (u.isLead = true → exec (.outcome port k) s =
        .next (u.noteState (u.leadOutcome (rd 4 e0 0) (rd 2 e0 4) (rd 8 e1 0) m.step items))) ∧
      (u.isLead = false → exec (.outcome port k) s = .next (u.noteOutcome (rd 4 e0 0) (rd 2 e0 4) (rd 8 e1 0) items))) ∧
    (s.sessById session = some x → x.gen = some g → s.wts.draft.isSome = true → s.plan.proofModule x.index = s.index →
      x.state = .generating → s.sliceBusy = true →
      step = (s.steps.live.filter fun t => (t.find session).isSome).foldl (fun m t => max m t.seq) 0 →
      tree = (if x.tree.length ≤ 1 then
        [⟨x.lastTok, 0, 0, (logits.map (draftQ g (s.windowOf x g x.kvLen [x.lastTok]))).headD []⟩] else x.tree) →
      made = s.buildBranches x g (decide (x.tree.length ≤ 1)) (branchOutcomes tree (s.setN setDraftAhead))
        (if x.tree.length ≤ 1 then (logits.map (draftQ g (s.windowOf x g x.kvLen [x.lastTok]))).tail
          else logits.map (draftQ g (s.windowOf x g x.kvLen [x.lastTok]))) →
      exec (.draftStep session logits) s = .next (made.1.foldl (fun (a : State) b => a.takeBranch x.id step b)
        (made.1.foldl (fun (a : State) b => ((addNew [s.plan.leadIndex] (s.plan.sampleModule x.index)).filter (· != s.index)).foldl
          (fun (c : State) d => c.sendMsg d mDraftTree 0 step (branchEntries x.id b)) a) made.2))) ∧
    (s.sessById session = some x → s.plan.sampleModule x.index = s.index →
      (s.steps.live.findSome? fun t => (t.find session).map fun e => (t, e)) = some (t, hb, e, r) →
      (sampledRows t.verify e).contains row = true → t.entered = true →
      u = (s.onSrv fun v => { v with
        logits := v.logits.filter (fun l => !(l.session == session && l.step == t.seq && l.row == row)) ++
          [{ ((s.srv.logits.find? fun l => l.session == session && l.step == t.seq && l.row == row).getD
              { session := session, step := t.seq, row := row, ranges := [] }) with
             ranges := ((s.srv.logits.find? fun l => l.session == session && l.step == t.seq && l.row == row).getD
              { session := session, step := t.seq, row := row, ranges := [] }).ranges ++ remote }] }) →
      zs = (sampledRows t.verify e).map (fun i =>
        (u.srv.logits.find? fun l => l.session == session && l.step == t.seq && l.row == i).bind fun l =>
          coverLogits s.plan.vocab l.ranges) →
      exec (.samplingRow session row remote) s = .next (if zs.all (·.isSome) then
        s.noteState (u.sampleSession x t e r (zs.map fun z => z.getD [])) else u))

/-- A HOLE_TABLE of the lead replaces route entries and, while the module starts, begins serving; a TXN_STAGE of the lead
joins a start or prepares a set and answers; a TXN_APPLY applies a prepared set; a TXN_REPLY reaches the lead's commit
or fails its start; START_INFO is noted by the starting lead, and after a hard halt it tells that a module survives;
CLEAR marks a module clear of its abort or its start barrier; a STEP_ABORT aborts, halts or stops. (R171, R310, R122,
R271.) -/
def Obligations.StartsSettingsAndHaltsAreCarried : Prop :=
  ∀ (s u v : State) (port : Nat) (k : Packet) (m : Msg) (set : Tbl Bytes) (st first code : Nat) (e : Bytes),
    (Hears s port k mHoleTable u m → m.src = u.plan.leadIndex →
      v = u.onFab (fun f => { f with
        minor := m.minor,
        routes := m.entries.foldl (fun (t : Tbl (Bool × Nat)) e =>
          tset t (rd 2 e 0 % 512) (bitOf (rd 2 e 0) 9, rd 4 e 4 % 512)) f.routes }) →
      exec (.holeTable port k) s = .next (s.noteState (if u.srv.sliceState = .starting then
        (v.onSrv fun v => { v with sliceState := .running }).startStagger else v))) ∧
    (Hears s port k mTxnStage u m → m.src = u.plan.leadIndex →
      (2 < m.entries.length → txnIdOf m = 0 → exec (.txnStage port k) s = .next (s.noteState (u.joinStart m))) ∧
      (2 < m.entries.length → txnIdOf m ≠ 0 → set = stagedOf m → st = u.prepareStatus set →
        v = (if st = stOk then u.onCfg fun c => { c with prepared := some ⟨txnIdOf m, txnScopeOf m == 1, txnBaseOf m, set⟩ } else u) →
        exec (.txnStage port k) s =
          .next (s.noteState (v.sendLead mTxnReply 0 0 [txnReplyBytes (txnIdOf m) st false u.cfg.gen]))) ∧
      (m.entries.length = 2 → exec (.txnApply port k) s = .next (u.applyTxn m))) ∧
    (Hears s port k mTxnReply u m → u.isLead = true → m.entries = [e] →
      exec (.txnReply port k) s = .next (s.noteState (
        if rd 4 e 0 ≠ 0 then u.txnReplied m.src e else if rd 2 e 4 ≠ stOk then u.failStart (rd 2 e 4) 0 else u))) ∧
    (Hears s port k mStartInfo u m → u.isLead = true →
      exec (.startInfo port k) s = .next (s.noteState (
        if u.srv.sliceState = .haltedHard then u.onSrv fun v => { v with downReports := addNew v.downReports m.src }
        else (u.onSrv fun v => { v with start := v.start.map fun r => m.entries.foldl (fun a b => a.note m.src b) r }).decideStart))) ∧
    (Hears s port k mClear u m → u.isLead = true →
      (m.step = 0 → exec (.clear port k) s = .next (s.noteState ((u.onSrv fun v => { v with
        start := v.start.map fun r => { r with cleared := addNew r.cleared m.src } }).decideStart))) ∧
      (m.step ≠ 0 → u.steps.awaitClear.isSome = true → exec (.clear port k) s = .next (s.noteState (u.noteClear m.src)))) ∧
    (Hears s port k mStepAbort u m → m.entries = [e] → first = rd 6 e 0 → code = rd 2 e 6 →
      (u.isLead = true → u.sliceBusy = true → exec (.stepAbort port k) s = .next (s.noteState (u.leadAbort first code m.src))) ∧
      (u.isLead = false → m.src = u.plan.leadIndex →
        (code = 0 → u.sliceBusy = true → exec (.stepAbort port k) s = .next (s.noteState
          (((u.onSrv fun v => { v with sliceState := .stopped, start := none }).settleCommit).settleStop))) ∧
        (code = fltStepLost → exec (.stepAbort port k) s = .next (s.noteState u.hardHalt)) ∧
        (code ≠ 0 → code ≠ fltStepLost → exec (.stepAbort port k) s = .next (s.noteState
          (if softCode code then (u.applyAbort first code).softHalt else u.applyAbort first code)))))

/-- The lead records slack reports, lenders' offers and reverts; a borrower raises its cap by what is granted; a REVERT
undoes every loan on the lead, a loan on a borrower, and an offer on a lender; a window of 1,024 steps reports the
slack, offers it where trading is on and the slack suffices, and names the pace-setters. (R334, R335, R336.) -/
def Obligations.PowerIsTradedInTheSlice : Prop :=
  ∀ (s u s1 s2 s3 s4 : State) (port : Nat) (k : Packet) (m : Msg) (e : Bytes) (slack stepNs : Nat),
    (Hears s port k mBudget u m → m.entries = [e] → (parseMsg k).map (·.entries) = some [e] →
      (byteAt e 0 = bkSlack → exec (.budgetSlack port k) s = .next (u.onPwr fun p => { p with
        slackReports := tset p.slackReports (bgModule e) (rd 4 e 12, rd 4 e 16) })) ∧
      (byteAt e 0 = bkLent → u.isLead = true → exec (.budgetLent port k) s = .next ((u.onPwr fun p => { p with
        lentReports := p.lentReports ++ [(bgModule e, rd 2 e 8)] }).grantLoans)) ∧
      (byteAt e 0 = bkGrant → exec (.budgetGrant port k) s = .next (u.takeGrant (rd 2 e 8))) ∧
      (byteAt e 0 = bkRevert → exec (.budgetRevert port k) s = .next (
        if u.isLead then u.revertLoans else if 0 < u.pwr.borrowed then u.revertBorrower else u.revertLender)) ∧
      (byteAt e 0 = bkReverted → u.isLead = true → exec (.budgetReverted port k) s = .next ((u.onPwr fun p => { p with
        reverted := addNew p.reverted (bgModule e) }).settleRevert))) ∧
    (1024 ≤ s.pwr.slackSteps → slack = s.meanSlack →
      stepNs = (if s.srv.windowCount = 0 then s.plan.resNs 0 else s.srv.windowTime / s.srv.windowCount) →
      s1 = s.onPwr (fun p => { p with slackNs := slack, slackSum := 0, slackSteps := 0, window := p.window + 1 }) →
      s2 = (if s.isLead then s1.onPwr fun p => { p with slackReports := tset p.slackReports s.index (slack, stepNs) }
        else s1.sendBudget s.plan.leadIndex bkSlack s.index 0 slack stepNs) →
      s3 = (if s.setN setBudgetTrade = 1 ∧ 5 * stepNs ≤ 100 * slack ∧ 0 < stepNs ∧ s.pwr.reverting = false then
        s2.onPwr fun p => { p with lent := p.lent + s2.loanOffer, owesLent := some s2.loanOffer } else s2) →
      s4 = s3.onPwr (fun p => { p with
        paceSetter := s3.isLead && s3.paceSetters.contains s.index,
        paceWindows := if s3.isLead && s3.paceSetters.contains s.index then p.paceWindows + 1 else 0 }) →
      exec .budgetWindow s = .next (if s4.pwr.paceWindows = 8 ∧ (s4.tiles.causes.any fun c => c.cause == 3) = true then
        s4.fault fltPaceLimiter else s4))

/-- A PAUSING session that no step in flight holds ends its generation on the lead and maps the pages of its image, which
the module then writes; an image complete unmaps the session on the lead and it is PAUSED for its time to live; that
time over, the session is freed with EXPIRED; a RESUMING session whose restores are done is at rest again and its
image goes; after 1,024 steps the lead's interactive limit falls with an event where the stalls passed the budget, and
otherwise rises towards its setting. (R149, R150, R151, R258.) -/
def Obligations.PausesRestoresAndStreamsSettle : Prop :=
  ∀ (s u v w : State) (session lim cause : Nat) (x y z : Sess) (img : PauseImg),
    (s.sessById session = some x →
      (x.state = .pausing → s.inFlight x = false → tget s.kv.images x.index = none →
        u = (if s.isLead then s.endGen x.index fun t y r => t.repDone y r rdGenPaused else s) → u.sess? x.index = some y →
        exec (.pauseFixStart session) s = .next (s.fixStarted u y (u.mapOwn 3 pinT3 (ceilDiv (s.plan.imageBytes y.kvLen) pageBytes)))) ∧
      (tget s.kv.images x.index = some img → x.state = .pausing → img.complete = false →
        u = s.onKv (fun k => { k with images := tset k.images x.index { img with complete := true } }) →
        (u.isLead = false → s.isLead = false → exec (.pauseComplete session) s = .next u) ∧
        (s.isLead = true → v = u.unmapSession x.index →
          w = (match x.pauseReq with
            | some r => v.repDone x r rdPaused
            | none => v) →
          z = { x with
            state := .paused, pauseReq := none, path := [], pauseUntilNs := some (s.now + (x.pauseReq.elim 1 (·.ttl)) * 1000000000) } →
          exec (.pauseComplete session) s = .next (s.noteState (((w.putSess z).pushUpdate z.index).settleDrain)))) ∧
      (s.isLead = true → x.state = .paused → (x.pauseUntilNs.any fun t => t ≤ s.now) = true →
        exec (.pauseExpiry session) s =
          .next (((s.freeSession x.index).replyFree x rpDone rdExpired x.n).event evPauseExpired noUnit x.id)) ∧
      (s.isLead = true → x.state = .resuming → s.restoring x = true → (s.kv.moves.any fun m => m.session == x.index) = false →
        u = (match x.resumeReq with
          | some r => s.repDone x r rdResumed
          | none => s) →
        z = ({ x with resumeReq := none, lookedUp := decide (0 < x.kvLen), readyNs := s.now } : Sess).atRest →
        v = ((u.freeImage x.index).putSess z).pushUpdate z.index →
        exec (.restoreComplete session) s =
          .next (if s.draining = true ∧ (s.srv.drain.any fun d => d.mode == 1) = true then v.pauseAll else v))) ∧
    (s.isLead = true → 1024 ≤ s.srv.windowCount →
      u = s.onSrv (fun v => { v with windowStall := 0, windowTime := 0, windowCount := 0, causeShares := [] }) →
      (s.setN setStallBudget * s.srv.windowTime < s.srv.windowStall * 1000000 →
        lim = max 1 (s.srv.interLimit - s.setN setLimitStep) →
        cause = (s.srv.causeShares.foldl (fun (b : Nat × Nat) e => if b.2 < e.2 then e else b) (0, 0)).1 →
        exec .streamStallWindow s = .next ((u.onSrv fun v => { v with interLimit := lim }).event evStreamLimit noUnit lim cause)) ∧
      (2 * (s.srv.windowStall * 1000000) ≤ s.setN setStallBudget * s.srv.windowTime →
        s.srv.windowStall * 1000000 ≤ s.setN setStallBudget * s.srv.windowTime →
        exec .streamStallWindow s = .next (u.onSrv fun w => { w with
          interLimit := max s.srv.interLimit (min (s.srv.interLimit + 1) (s.setN setInterLimit)) })) ∧
      (s.setN setStallBudget * s.srv.windowTime < 2 * (s.srv.windowStall * 1000000) →
        s.srv.windowStall * 1000000 ≤ s.setN setStallBudget * s.srv.windowTime → exec .streamStallWindow s = .next u))

/-- An array operator or KV_APPEND whose descriptor has started, with its inputs mapped and unpoisoned, computes its live
rows and has done its work: MATMUL multiplies and gives its output, LORA adds each live row's adapter product, ATTN
scores each live row over its mapped chunks and emits the rows with the non-finite results counted, and KV_APPEND
appends each live row to its mapped chunk. (R101, R234, R140, R133.) -/
def Obligations.ArrayOperatorsComputeOnATile : Prop :=
  ∀ (s u v : State) (r : Run) (tile g : Nat) (q : Pool) (attn : List Nat) (ents : List (Nat × MapEnt))
    (outs : List (Nat × List Word32 × Nat)),
    (s.run? tile opMatmul 0 = some r → inputsReady s [((s.mmRegion r).base, (s.mmRegion r).bytes)] (s.mmRange r) →
      u = accessed s (s.mmRange r) →
      exec (.matmul tile) s =
        .next (((u.mmCompute r (u.runRows r (mmM r.d))).mmOutput r (u.runRows r (mmM r.d))).executed r)) ∧
    (s.run? tile opLora 0 = some r →
      inputsReady s [((s.operand r (fld r.d 0x50 19 0) 1).base, (s.operand r (fld r.d 0x50 19 0) 1).bytes)] [] →
      u = accessed s [] →
      exec (.lora tile) s = .next (((u.runRows r (mmM r.d)).foldl (fun a i => a.loraRow r i) u).executed r)) ∧
    (s.run? tile opAttn 0 = some r → g = s.plan.groupOfTab (atPagetab r.d) → s.plan.poolOf g (dLayer r.d) = some q →
      ents = r.chunks.map (fun c => (c.1, s.ent g c.1 c.2)) → (ents.any fun e => !e.2.valid) = false →
      inputsReady s [(s.actOf r.tile + fld r.d 0x40 19 0, atRows r.d * atHq r.d * q.dim * 2)]
        (ents.map fun e => (q.at e.2 e.1, if q.isK8 e.2 then q.p8 else q.p4)) →
      u = accessed s (ents.map fun e => (q.at e.2 e.1, if q.isK8 e.2 then q.p8 else q.p4)) →
      outs = (u.runRows r (atRows r.d)).map (fun i =>
        (i, u.attnRow r g q (if atRotary r.d then u.ropeAngles (atRope r.d) q.dim else []) i)) →
      exec (.attn tile) s = .next (((u.count ctNonfinite r.code (listSum (outs.map fun o => o.2.2))).emitRows r 2 (atRows r.d)
        (atHq r.d * q.dim) (outs.map fun o => (o.1, o.2.1))).executed r)) ∧
    (s.run? tile opKvAppend 2 = some r → g = s.plan.groupOfTab (kaTab r.d) → s.plan.poolOf g (dLayer r.d) = some q →
      s.plan.attnOn r.ph r.tile = some attn →
      inputsReady s [(s.actOf r.tile + fld r.d 0x40 19 0, kaRows r.d * kaHkv r.d * kaDim r.d * 2),
        (s.actOf r.tile + fld r.d 0x44 19 0, kaRows r.d * kaHkv r.d * kaDim r.d * 2)] [] →
      u = accessed s [] → (u.runRows r (kaRows r.d)).any (u.appendBad r g) = false →
      exec (.kvAppend tile) s = .next (((u.runRows r (kaRows r.d)).foldl (fun (a : State) i => a.appendRow r g q attn
        (if atRotary attn then u.ropeAngles (atRope attn) (kaDim r.d) else []) i) u).executed r))

/-- A vector operator whose descriptor has started, with its inputs mapped and unpoisoned, computes its live rows and has
done its work: NORM, ELEMWISE and COMBINE emit rows of words, ROUTE emits eight bytes for each expert slot and counts
rows without a finite score, and SKIP_GATE emits the keep mask of the rows whose score reaches the threshold or is not
a number. (R72, R73, R190.) -/
def Obligations.VectorOperatorsComputeOnATile : Prop :=
  ∀ (s u : State) (r : Run) (tile n : Nat) (a b : Region) (picks : List (Nat × List (Nat × Word32))) (keep : List Nat),
    (s.run? tile opNorm 1 = some r →
      a = s.tileRegion r.ph tile (fld r.d 0x40 19 0) (nmRows r.d) (nmWidth r.d) (s.plan.formAt s.index r.ph tile (fld r.d 0x40 19 0) 3) →
      inputsReady s [(a.base, a.bytes)] (s.plan.tensorRange (fld r.d 0x4C 31 0)) →
      u = accessed s (s.plan.tensorRange (fld r.d 0x4C 31 0)) →
      exec (.norm tile) s = .next ((u.emitRows r (fld r.d 0x44 19 17) (nmRows r.d) (nmWidth r.d) ((u.runRows r (nmRows r.d)).map fun i =>
        (i, normRow (fld r.d 0x44 16 16) (w32 (fld r.d 0x48 31 0)) (u.paramWords (fld r.d 0x4C 31 0) (nmWidth r.d))
          (u.regionWords a i)))).executed r)) ∧
    (s.run? tile opElemwise 1 = some r →
      a = s.tileRegion r.ph tile (fld r.d 0x40 19 0) (elRows r.d) (elWidth r.d) (fld r.d 0x48 9 7) →
      b = s.tileRegion r.ph tile (fld r.d 0x44 19 0) (elRows r.d) (elWidth r.d) (fld r.d 0x48 9 7) →
      inputsReady s ((a.base, a.bytes) :: if elemTwo (fld r.d 0x48 3 0) then [(b.base, b.bytes)] else []) [] → u = accessed s [] →
      exec (.elemwise tile) s = .next ((u.emitRows r (fld r.d 0x48 6 4) (elRows r.d) (elWidth r.d)
        ((u.runRows r (elRows r.d)).map fun i => (i, List.zipWith (elemFunc (fld r.d 0x48 3 0)) (u.regionWords a i)
          (if elemTwo (fld r.d 0x48 3 0) then u.regionWords b i else u.regionWords a i)))).executed r)) ∧
    (s.run? tile opRoute 1 = some r → a = s.tileRegion r.ph tile (fld r.d 0x40 19 0) (rtRows r.d) (rtExperts r.d) 3 →
      inputsReady s [(a.base, a.bytes)] [] → u = accessed s [] → n = rtTopk r.d →
      picks = (u.runRows r (rtRows r.d)).map (fun i =>
        (i, routeRow (fld r.d 0x44 16 16 = 1) (fld r.d 0x44 17 17 = 1) n (u.regionWords a i))) →
      exec (.route tile) s = .next (((u.count ctRouteNan 0 ((picks.filter fun p => p.2.isEmpty).length)).emitBytes r
        ((List.range (rtRows r.d)).flatMap fun i => (((picks.find? fun p => p.1 == i).map (·.2)).getD []).flatMap slotEntry ++
          zeros (8 * (n - (((picks.find? fun p => p.1 == i).map (·.2)).getD []).length)))
        (fun blk => (u.runRows r (rtRows r.d)).any fun i =>
          decide (i * n * 8 < (blk + 1) * blockBytes ∧ blk * blockBytes < (i + 1) * n * 8))).executed r)) ∧
    (s.run? tile opSkipGate 1 = some r → n = fld r.d 0x48 15 0 → a = s.tileRegion r.ph tile (fld r.d 0x40 19 0) n 16 3 →
      inputsReady s [(a.base, a.bytes)] [] → u = accessed s [] →
      keep = (u.runRows r n).filter (fun i => (f32 ((u.regionWords a i).headD 0)).isNan ||
        fle (w32 (fld r.d 0x44 31 0)) ((u.regionWords a i).headD 0)) →
      exec (.skipGate tile) s = .next (((u.modStep r.t.seq fun t => { t with
          kept := t.kept ++ [(dLayer r.d, dHb r.d, !keep.isEmpty)] }).emitBytes r (fit blockBytes ((List.range 512).map fun b =>
            BitVec.ofNat 8 (listSum ((List.range 8).map fun j => if keep.contains (8 * b + j) then 2 ^ j else 0))))
          (fun _ => !(u.runRows r n).isEmpty)).executed r)) ∧
    (s.run? tile opCombine 1 = some r →
      a = s.tileRegion r.ph tile (fld r.d 0x40 19 0) (cbRows r.d) (cbWidth r.d) (s.plan.formAt s.index r.ph tile (fld r.d 0x40 19 0) 3) →
      n = s.plan.topk (dLayer r.d) →
      inputsReady s [(a.base, a.bytes), (s.actOf tile + slotOff r.d, cbRows r.d * n * 8)] [] → u = accessed s [] →
      exec (.combine tile) s = .next ((u.emitRows r (fld r.d 0x50 2 0) (cbRows r.d) (cbWidth r.d)
        ((u.runRows r (cbRows r.d)).map fun i => (i, if u.inShare i then
          u.combineRow (s.disp r.t.seq (dLayer r.d) (dHb r.d)) r.d tile n i (u.regionWords a i)
          else List.replicate (cbWidth r.d) f32Zero))).executed r))

/-- A mover operator whose descriptor has started, with its inputs mapped and unpoisoned, moves its blocks or rows and has
done its work: DISPATCH sends each slot of the live rows of this module's share and an end to every module; COLLECTIVE
starts its instance; MOVE without destination invalidates cached lines, and otherwise copies blocks of this module or
asks for those of another; FABRIC_RED and MCAST send each block to its module or rectangle; EMBED emits the table's
words for the rows' tokens; SAMPLE sends the logits of the sampled rows. (R184, R182, R176, R177, R179, R77, R219.) -/
def Obligations.MoverOperatorsComputeOnATile : Prop :=
  ∀ (s u v w : State) (r : Run) (tile n m : Nat) (a : Region) (phys range : List (Nat × Nat)) (blocks : List (Nat × Blk))
    (slots : List (Nat × Nat × Nat × Nat)) (rect : Rect) (tab : Bytes),
    (s.run? tile opDispatchOpc 2 = some r →
      a = s.tileRegion r.ph tile (fld r.d 0x40 19 0) (fld r.d 0x4C 31 16) (fld r.d 0x44 15 0) 2 → n = s.plan.topk (dLayer r.d) →
      inputsReady s [(a.base, a.bytes), (s.actOf tile + slotOff r.d, fld r.d 0x4C 31 16 * n * 8)] [] → u = accessed s [] →
      slots = ((u.runRows r (fld r.d 0x4C 31 16)).filter u.inShare).flatMap (fun i => (List.range n).filterMap fun c =>
        (u.slotAt tile (slotOff r.d) (i * n + c)).bind fun e =>
          (u.plan.expert (dLayer r.d) e.1).map fun x => (i, i * n + c, e.1, exOwner x)) →
      v = slots.foldl (fun (b : State) x => ((b.sendSlot r x.1 x.2.1 x.2.2.1 x.2.2.2
          (packRow (fld r.d 0x44 17 16) (b.regionRow a x.1)).1).count ctSat r.code
          (packRow (fld r.d 0x44 17 16) (b.regionRow a x.1)).2.1).count ctNonfinite r.code
          (packRow (fld r.d 0x44 17 16) (b.regionRow a x.1)).2.2)
        (u.putDisp { u.disp r.t.seq (dLayer r.d) (dHb r.d) with sent := some (slots.map (·.2.1)) }) →
      w = v.others.foldl (fun b m => b.sendPacket (b.opPacket ptDispatchEnd m r.t.seq (dLayer r.d + 65536 * dHb r.d))) v →
      exec (.dispatch tile) s = .next (((w.noteEnd w.index r.t.seq (dLayer r.d) (dHb r.d)).checkResolved r.t.seq (dLayer r.d)
        (dHb r.d)).executed r)) ∧
    (∀ inst, s.run? tile opCollective 2 = some r →
      inst = (s.coll? r.t.seq (s.collKey r) tile).getD { step := r.t.seq, key := s.collKey r, tile := tile } →
      (inst.startNs.isSome = true → exec (.collective tile) s = .next (s.collAdvance r)) ∧
      (inst.startNs = none → n = (s.plan.coll s.index r.d).count * (s.plan.coll s.index r.d).elem →
        phys = (if fld r.d 0x50 0 0 = 1 then [] else [(s.actOf r.tile + fld64 r.d 0x48, n)]) →
        range = (if fld r.d 0x50 0 0 = 1 then [(fabLocal (fld64 r.d 0x48), n)] else []) →
        inputsReady s phys range → u = accessed s range →
        exec (.collective tile) s = .next (((u.putColl { inst with startNs := some u.now }).grantRoom r
          (s.plan.coll s.index r.d)).collAdvance r))) ∧
    (s.run? tile opMove 2 = some r →
      (mvRange r.d = true → outsUsed r.d = [] → exec (.move tile) s = .next (((s.onFab fun f => { f with
          cache := f.cache.filter fun c => !decide (mvSrc r.d ≤ c.addr ∧ c.addr < mvSrc r.d + mvLen r.d) }).count ctCacheInvalidated 0
        (s.fab.cache.filter fun c => decide (mvSrc r.d ≤ c.addr ∧ c.addr < mvSrc r.d + mvLen r.d)).length).executed r)) ∧
      ((mvRange r.d && (outsUsed r.d).isEmpty) = false → s.destsMapped r.d (mvLen r.d) = true →
        phys = (if mvRange r.d then [] else [(s.actOf r.tile + mvSrc r.d, mvLen r.d)]) →
        range = (if mvRange r.d then [(fabLocal (mvSrc r.d), mvLen r.d)] else []) →
        (mvRange r.d = false ∨ s.isHere (mvSrc r.d) = true → inputsReady s phys range → u = accessed s range →
          exec (.move tile) s = .next (((indexed (u.srcBlocks r (mvSrc r.d) (mvLen r.d) (mvRange r.d))).foldl
            (fun a b => a.putAt r b.1 b.2) u).executed r)) ∧
        (mvRange r.d = true → s.isHere (mvSrc r.d) = false → s.reading tile r.idx = false →
          s.plan.inSlice (fabMod (mvSrc r.d)) = true →
          u = (List.range (inBlocks (mvLen r.d))).foldl (fun a i => a.readRemote r i (mvSrc r.d + i * blockBytes)) s →
          exec (.move tile) s = .next (if u.reading tile r.idx then u else u.executed r)))) ∧
    (phys = (if mvRange r.d then [] else [(s.actOf r.tile + mvSrc r.d, mvLen r.d)]) →
      range = (if mvRange r.d then [(fabLocal (mvSrc r.d), mvLen r.d)] else []) → inputsReady s phys range → u = accessed s range →
      blocks = indexed (u.srcBlocks r (mvSrc r.d) (mvLen r.d) (mvRange r.d)) →
      (s.run? tile opFabricRed 2 = some r → m = fabMod (dDest r.d 0).addr → s.plan.inSlice m = true →
        exec (.fabricRed tile) s = .next ((blocks.foldl (fun (a : State) b =>
          if m = a.index then a.applyRed (a.runUnit r) r.t.seq (fld r.d 0x4C 3 1) (dDest r.d 0).dch
            (fabLocal (dDest r.d 0).addr + b.1 * blockBytes) b.2.data
          else (a.dropLine (fabAddr m (fabLocal (dDest r.d 0).addr + b.1 * blockBytes))).sendPacket
            { a.opPacket ptRed m r.t.seq (fabLocal (dDest r.d 0).addr + b.1 * blockBytes) b.2.data b.2.exp b.2.a8d with
              opx := fld r.d 0x4C 3 1, dch := (dDest r.d 0).dch }) u).executed r)) ∧
      (s.run? tile opMcastOpc 2 = some r →
        rect = ⟨fld r.d 0x50 7 0, fld r.d 0x50 15 8, fld r.d 0x50 23 16, fld r.d 0x54 7 0, fld r.d 0x54 15 8, fld r.d 0x54 23 16⟩ →
        exec (.mcast tile) s = .next ((blocks.foldl (fun (a : State) b =>
          let addr := fabLocal (dDest r.d 0).addr + b.1 * blockBytes
          let a1 := rect.modules.foldl (fun (x : State) m => x.dropLine (fabAddr m addr)) a
          let k := { a1.opPacket ptMcast (rect.nearest s.index) r.t.seq addr b.2.data b.2.exp b.2.a8d with
            dch := (dDest r.d 0).dch, session := rectCode rect, detour := false, via := 0 }
          if rect.nearest s.index = a1.index then a1.mcastAt (a1.runUnit r) none k
          else match hopPort a1.index (rect.nearest s.index) with
            | some q => a1.sendOn (a1.physOf q) k
            | none => a1) u).executed r))) ∧
    (s.run? tile opEmbed 2 = some r → inputsReady s [] (s.plan.tensorRange (fld r.d 0x40 31 0)) →
      u = accessed s (s.plan.tensorRange (fld r.d 0x40 31 0)) →
      exec (.embed tile) s = .next ((u.emitRows r (fld r.d 0x50 2 0) (fld r.d 0x4C 31 16) (fld r.d 0x4C 15 0)
        ((u.runRows r (fld r.d 0x4C 31 16)).map fun i => (i,
          if fld r.d 0x44 19 0 ≤ u.rowToken r i ∧ u.rowToken r i < fld r.d 0x44 19 0 + fld r.d 0x48 19 0 then
            (List.range (fld r.d 0x4C 15 0)).map (u.tableWord ((u.plan.tensor (fld r.d 0x40 31 0)).getD [])
              (u.rowToken r i - fld r.d 0x44 19 0) (fld r.d 0x4C 15 0))
          else List.replicate (fld r.d 0x4C 15 0) f32Zero))).executed r)) ∧
    (s.run? tile opSample 2 = some r →
      a = s.tileRegion r.ph tile (fld r.d 0x40 19 0) (fld r.d 0x4C 15 0) (fld r.d 0x48 19 0) 3 →
      inputsReady s [(a.base, a.bytes)] [] → u = accessed s [] →
      exec (.sample tile) s = .next (((r.half.rows.flatMap fun e => ((sampledOf r.t.verify e).filter fun i =>
        (u.runRows r (fld r.d 0x4C 15 0)).contains (e.firstRow + i)).map fun i => (e.session, i, e.firstRow + i)).foldl
          (fun (b : State) j => b.sendLogits r j.1 j.2.1 (fld r.d 0x44 19 0) (b.regionWords a j.2.2)) u).executed r))

/-- A tile that runs takes its next program and each of its units starts its oldest ready descriptor; an executed
descriptor leaves the queue, is traced, and unless its output is held sends it; a tile that has completed its phase
settles its causes and leaves the phase, and counts left over are a fault; an expert layer whose reserved time has
passed meets its reserve; a descriptor whose marks have not come within the reserved time and 100 µs of its phase is a
fault. (R26, R63, R53, R55, R30.) -/
def Obligations.DescriptorsPhasesAndMarksProceed : Prop :=
  ∀ (s u : State) (tile unit i k : Nat) (q : QEnt) (t : Step) (t0 : Nat),
    (s.tileRuns tile = true →
      exec (.descriptorStart tile) s = .next ([0, 1, 2].foldl (fun (a : State) u => a.startOn tile u) (s.takeProgram tile))) ∧
    ((s.tileX tile).unit unit = some i → ((s.tileX tile).queue.any fun q => q.desc == i && q.started && q.executed) = true →
      u = (s.modTile tile fun y => y.retire i).traceRec trDescDone (s.plan.layerCode (s.tileX tile).phase) tile i (s.tileX tile).step 0 →
      exec (.descriptorComplete tile unit) s = .next (if ((s.tileX tile).held.any fun h => h.desc == i) = true then u
        else u.finishDesc tile (s.tileX tile).step (s.tileX tile).phase i)) ∧
    ((s.tileX tile).phaseDone = false → (s.tileX tile).queue = [] → (s.tileX tile).toRead = [] → (s.tileX tile).held = [] →
      (s.residue tile = some k → exec (.phaseBoundary tile) s =
        .next (s.noteState (s.chanFault fltMarkResidue k (s.tileX tile).step (some (s.plan.layerCode (s.tileX tile).phase))))) ∧
      (s.residue tile = none →
        u = (s.modTile tile fun y => { y with phaseDone := true }).onTiles (fun t => { t with
          full := t.full.filter fun f => chanTile f.chan != some tile }) →
        exec (.phaseBoundary tile) s = .next (s.noteState (((u.boundary tile).leavePhase tile (s.tileX tile).step
          (s.tileX tile).phase).leaveStep (s.tileX tile).step)))) ∧
    (exec .moeReserveExpiry s = .next (s.onTiles fun t => { t with
      reserveMet := (s.steps.live.flatMap fun t => (List.range s.plan.nLayers).filterMap fun l =>
        match tget t.enteredNs (phaseOfLayer l) with
        | some t0 => if layerKind (s.plan.layer l) = 1 ∧ t0 + s.reservedNs t (phaseOfLayer l) ≤ s.now then some (a8Key t.seq l) else none
        | none => none).foldl addNew t.reserveMet })) ∧
    (((s.tileX tile).queue.find? fun q => !q.started) = some q → s.step? (s.tileX tile).step = some t →
      tget t.replayNs (s.tileX tile).phase = some t0 ∨
        tget t.replayNs (s.tileX tile).phase = none ∧ tget t.enteredNs (s.tileX tile).phase = some t0 →
      t0 + s.reservedNs t (s.tileX tile).phase + 100000 < s.now →
      exec (.markTimeout tile) s = .next (s.noteState (s.chanFault fltMarkTimeout (s.lacking tile (s.tileX tile).phase q.desc)
        (s.tileX tile).step (some (s.plan.layerCode (s.tileX tile).phase)))))

/-- The vector unit of a tile that runs makes the next reference of the strip's held output and the strip is then settled;
a shadow checker whose array is free computes its oldest block and its result joins the block's; one result equal to
the producer's passes the block, a different one calls the second checker; with two, the second's agreement with the
producer loses the first checker's vote, with the first checker loses the producer's and puts the checkers' words in
the output, and three different results abort the step. (R111, R359, R360.) -/
def Obligations.HeldOutputsAreJudged : Prop :=
  ∀ (s u : State) (tile : Nat) (h h1 : Held) (r : Run) (b : Nat × List Word32) (j : ShadowJob) (blk : ShadowBlk)
    (c1 c2 : Nat × List Word32) (more : List (Nat × List Word32)),
    (((s.tileX tile).held.find? fun h => h.strip.any (fun b => b.2.isEmpty) && !(s.tileX tile).queue.any fun q => q.desc == h.desc)
        = some h →
      (s.tileX tile).vector = none → s.tileRuns tile = true → s.heldRun tile h = some r →
      (h.strip.find? fun b => b.2.isEmpty) = some b →
      h1 = { h with strip := h.strip.map fun c =>
        if c.1 = b.1 then (c.1, if (s.stripRef r h b.1).isEmpty then [f32Zero] else s.stripRef r h b.1) else c } →
      exec (.stripJudge tile) s = .next ((s.putHeld tile h1).settleStrip r h1)) ∧
    ((s.tiles.shadowPending.find? fun j => j.checker == tile) = some j → (s.tileX tile).array = none → s.tileRuns tile = true →
      ((s.tileX j.tile).held.find? fun h => h.desc == j.desc) = some h → s.heldRun j.tile h = some r →
      exec (.shadowCheckRun tile) s = .next ((s.onTiles fun t => { t with
        shadowPending := t.shadowPending.filter (· != j) }).putHeld j.tile { h with shadow := h.shadow.map fun b =>
          if b.block = j.block then { b with results := b.results ++ [(tile, s.shadowWords r h j.block)] } else b })) ∧
    (((s.tileX tile).held.find? fun h => h.shadow.any fun b => !b.done && !b.results.isEmpty &&
        !s.tiles.shadowPending.any fun j => j.tile == tile && j.block == b.block) = some h → s.heldRun tile h = some r →
      (h.shadow.find? fun b => !b.done && !b.results.isEmpty &&
        !s.tiles.shadowPending.any fun j => j.tile == tile && j.block == b.block) = some blk →
      (blk.results = [c1] → c1.2 = s.producerWords r h blk.block →
        exec (.shadowVote tile) s = .next (s.noteState ((s.count ctShadowBlocks 0 1).voteDone r h blk.block))) ∧
      (blk.results = [c1] → c1.2 ≠ s.producerWords r h blk.block →
        exec (.shadowVote tile) s = .next (s.onTiles fun t => { t with shadowPending := t.shadowPending ++
          [⟨(s.plan.checkers tile).2, tile, h.desc, blk.block⟩] })) ∧
      (blk.results = c1 :: c2 :: more →
        (c2.2 = s.producerWords r h blk.block →
          exec (.shadowVote tile) s = .next (s.noteState (s.loseVote r h blk.block c1.1))) ∧
        (c2.2 ≠ s.producerWords r h blk.block → c2.2 = c1.2 →
          exec (.shadowVote tile) s = .next (s.noteState ((s.putBlock r h blk.block c1.2).loseVote r h blk.block tile))) ∧
        (c2.2 ≠ s.producerWords r h blk.block → c2.2 ≠ c1.2 →
          u = [s.ptileOf tile, s.ptileOf c1.1, s.ptileOf c2.1].foldl (fun (a : State) p => a.transient (tileUnit p))
            (s.count ctShadowFail 0 1) →
          exec (.shadowVote tile) s = .next (s.noteState (u.stepFault fltStepCheck (tileUnit (s.ptileOf tile)) r.t.seq
            { logical := some tile, layer := some r.code, args := [s.ptileOf tile, s.ptileOf c1.1, s.ptileOf c2.1] })))))

/-- A working tile's mean above 1.15 times its peers' in two windows in a row is a cause for its swap and a mean below
clears its window; a due test starts in place, or its cause waits for a swap, and a test ends by its result; an hour
past due raises EV_TEST_OVERDUE once for each whole hour; a fall of 8% stops an island's clock and one of 4% stretches
it by sixteen sixteenths, and a recovery restarts it or gives a sixteenth back; a rail sample joins its mean, which
raises, lowers or keeps the request and counts the hold. (R36, R367, R368, R31, R319.) -/
def Obligations.TilesAreTestedAndIslandsStretched : Prop :=
  ∀ (s u : State) (tile mean peer ptile hours rail ma fall : Nat) (pass : Bool) (unit : UnitId) (x : Rail),
    (s.works tile = true →
      (115 * peer < 100 * mean → tgetD s.tiles.slowWindows tile 0 = 0 → exec (.slownessWindow tile mean peer) s =
        .next (s.onTiles fun t => { t with slowWindows := tset t.slowWindows tile 1 })) ∧
      (115 * peer < 100 * mean → tgetD s.tiles.slowWindows tile 0 ≠ 0 → exec (.slownessWindow tile mean peer) s =
        .next ((s.onTiles fun t => { t with slowWindows := tdel t.slowWindows tile }).addCause (s.ptileOf tile) 3)) ∧
      (100 * mean ≤ 115 * peer → exec (.slownessWindow tile mean peer) s =
        .next (s.onTiles fun t => { t with slowWindows := tdel t.slowWindows tile }))) ∧
    (s.testDue ptile = true →
      exec (.testDue ptile) s = .next (if s.inPlace ptile then s.startTests (ptileDie ptile) else s.addCause ptile 4)) ∧
    (exec (.testComplete ptile pass) s = .next (s.endTest ptile pass)) ∧
    (hours = (s.clock.lifeS - s.testDueS ptile) / 3600 → 0 < hours → tgetD s.integ.overdueEv ptile 0 < hours →
      s.tiles.inTest.contains ptile = false → s.unitState (tileUnit ptile) ≠ usRetired →
      exec (.testOverdue ptile) s = .next ((s.onInteg fun i => { i with overdueEv := tset i.overdueEv ptile hours }).event
        evTestOverdue (tileUnit ptile) hours)) ∧
    (s.mainOn = true → isIsland unit = true →
      (80 ≤ fall → exec (.droopTrip unit fall) s =
        .next ((s.putIsland unit { droop16 := 16, stopped := true }).countIsland ctDroopStops unit)) ∧
      (40 ≤ fall → fall < 80 → exec (.droopTrip unit fall) s =
        .next ((s.putIsland unit { s.island unit with droop16 := 16 }).countIsland ctDroopStretches unit))) ∧
    (exec (.droopRecovery unit) s = .next (s.putIsland unit (if (s.island unit).stopped then { s.island unit with stopped := false }
      else { s.island unit with droop16 := (s.island unit).droop16 - 1 }))) ∧
    (rail = 37 ∨ s.mainOn = true → x = tgetD s.pwr.rails rail {} →
      u = s.onPwr (fun p => { p with rails := tset p.rails rail (
        if 90 * railLimit rail ≤ 100 * meanOf (((ma :: x.samples).take 2000).take 20) then
          ⟨(ma :: x.samples).take 2000, x.request16 + 1, 0⟩
        else if 100 * meanOf (((ma :: x.samples).take 2000).take 20) < 85 * railLimit rail then
          if 3 ≤ x.downTicks then ⟨(ma :: x.samples).take 2000, x.request16 - 1, 0⟩
          else ⟨(ma :: x.samples).take 2000, x.request16, x.downTicks + 1⟩
        else ⟨(ma :: x.samples).take 2000, x.request16, 0⟩) }) →
      exec (.railCurrentSample rail ma) s =
        .next (if 0 < (tgetD u.pwr.rails rail {}).request16 then u.count ctRailHold rail 50 else u))

/-- A page move that its hint, its frame and the tiers allow begins; it ends by copying the frame, switching the mapping
in one action and counting its bytes, or after a fourth dirty pass it is abandoned and held off for 1,024 steps. A
corrected error counts and fills its bucket, which leaks by one; an uncorrected error, a parity error and a failed
block CRC lose the block or abort the step, and are transient or permanent by the rewrite; agitation scrubs count
words and laps, and a late lap raises its event once. (R45, R46, R346, R347, R353, R348, R354.) -/
def Obligations.PagesMoveBetweenTiers : Prop :=
  ∀ (s u : State) (page tier frame addr step words corrected n k top : Nat) (e : Page) (m : PageMove) (dirty : List Nat)
    (unit : UnitId) (holds : Content),
    (tget s.mem.pages page = some e →
      (s.l2Up = true → hintPin e.hint = false → (s.mem.moves.any fun m => m.page == page) = false →
        tgetD s.mem.holdOff page 0 ≤ s.steps.lastEntered → s.frameExists tier frame = true → s.frameUsed tier frame = false →
        s.frameRetired tier frame = false → s.tierHolds page tier e = true → e.home = false ∨ s.homeFrame page tier frame = true →
        (if s.frameRetired (frameOf e.base).1 (frameOf e.base).2 then tier = e.tier
          else tier < e.tier ∧ (hintPrefer e.hint = false ∨ e.hint / 4 = tier) ∨ tier = e.tier + 1 ∧ s.firstDown e = true) →
        exec (.pageMoveStart page tier frame) s =
          .next (s.onMem fun m => { m with moves := m.moves ++ [⟨page, tier, frameBase tier frame⟩] })) ∧
      ((s.mem.moves.find? fun m => m.page == page) = some m →
        u = s.onMem (fun x => { x with moves := x.moves.filter fun y => y.page != page }) →
        (dirty.length < 4 ∨ 0 ∈ dirty.take 4 → exec (.pageMoveDone page dirty) s = .next (((u.copyFrame e.base m.toBase).onMem
          fun x => { x with
            pages := tset x.pages page { e with base := m.toBase, tier := m.tier }, holdOff := tdel x.holdOff page }).countBw
          (max e.tier m.tier) bwBackground pageBytes)) ∧
        (4 ≤ dirty.length → 0 ∉ dirty.take 4 → exec (.pageMoveDone page dirty) s = .next ((u.onMem fun x => { x with
          holdOff := tset x.holdOff page (s.steps.lastEntered + 1024) }).count ctMigrateAbandon 0 1)))) ∧
    (unitExists unit = true →
      exec (.ceDetected unit addr) s = .next (if frameUnit unit && viewUnit addr == unit then
        ((s.count ctCe (UnitId.inst unit) 1).fillBucket unit).trackCe unit addr
        else (s.count ctCe (UnitId.inst unit) 1).fillBucket unit) ∧
      exec (.ueDetected unit addr holds true step) s = .next ((s.memUe unit addr holds step).permanent unit) ∧
      exec (.ueDetected unit addr holds false step) s = .next ((s.memUe unit addr holds step).transient unit) ∧
      exec (.parityError unit step) s = .next (s.stepFault fltMemUe unit step) ∧
      exec (.blockCrcFail unit addr holds step) s =
        .next ((s.count ctBlockCrcFail 0 1).blockLost fltBlockCrc unit addr holds step)) ∧
    (k = UnitId.inst unit →
      (bucketTop unit = some top → n = tgetD s.integ.buckets k 0 - 1 →
        exec (.leakyBucketLeak unit) s = .next (s.onInteg fun i => { i with
          buckets := if n = 0 then tdel i.buckets k else tset i.buckets k n,
          bucketFired := if 2 * n < top then without i.bucketFired k else i.bucketFired })) ∧
      (s.agitates unit = true → n = tgetD s.integ.lapWords k 0 + words →
        u = (s.count ctScrubWords k words).count ctScrubCorrected k corrected →
        exec (.agitationScrub unit words corrected) s = .next (
          if s.lapSize unit ≤ n then (u.onInteg fun i => { i with
            lapWords := tset i.lapWords k (n % s.lapSize unit), lapLate := without i.lapLate k,
            lapStartS := tset i.lapStartS k s.clock.lifeS }).count ctLaps k (n / s.lapSize unit)
          else u.onInteg fun i => { i with lapWords := tset i.lapWords k n })) ∧
      (0 < s.lapSize unit → s.integ.lapLate.contains k = false →
        11 * s.setN setAgitationLap < 10 * (s.clock.lifeS - tgetD s.integ.lapStartS k 0) →
        exec (.agitationLapLate unit) s = .next ((s.onInteg fun i => { i with
          lapLate := addNew i.lapLate k, lapsLate := i.lapsLate + 1 }).event evAgitationLate unit)))

/-- On a trained port with no fast retrain in course, corrected symbols are counted, a flit that fails its checks is
refused, the next flit in number is taken, one ahead of it is answered with a NAK, and one behind or of control kind
takes its acknowledgements and releases; a fast retrain replaces failed lanes by spares and takes the port down where
no width is left or at the third failure within a second; a port goes down by its causes; training brings a port up
afresh with its card sent, or leaves it down without a width; an untrained port retries, and a port held idle trains
again. (R160, R161, R162, R402, R407.) -/
def Obligations.FlitsAndLinkTrainingAreHandled : Prop :=
  ∀ (s u v w : State) (port : Nat) (f : FlitIn) (failing fresh bad : List Nat) (cause : DownCause) (fails : List Nat),
    (s.mainOn = true → (s.portX port).trained = true → (s.portX port).fast = none →
      u = f.corrected.foldl (fun a c => a.count ctFecCorrected (port * 64 + c.1) c.2) s →
      (flitGood f = false → exec (.flitReceived port f) s = .next (u.refuseFlit port)) ∧
      (flitGood f = true → v = u.takeAck port (bitsOf f.word0.toNat 23 12) (bitOf f.word0.toNat 24) →
        (bitsOf f.word0.toNat 26 25 = 1 → bitsOf f.word0.toNat 11 0 = ((s.portX port).rxLast + 1) % 4096 →
          exec (.flitReceived port f) s = .next ((v.modPort port fun y => { y with
            rxLast := bitsOf f.word0.toNat 11 0, refusals := 0 }).count ctFlitsRx port 1)) ∧
        (bitsOf f.word0.toNat 26 25 = 1 → bitsOf f.word0.toNat 11 0 ≠ ((s.portX port).rxLast + 1) % 4096 →
          exec (.flitReceived port f) s =
            .next (if (bitsOf f.word0.toNat 11 0 + 4096 - (s.portX port).rxLast) % 4096 < 2049 then
              v.emit (.flitNak port (s.portX port).rxLast) else v)) ∧
        (bitsOf f.word0.toNat 26 25 ≠ 1 → exec (.flitReceived port f) s = .next (v.takeReleases port f.payload)))) ∧
    ((s.portX port).fast.isSome = true → fresh = failing.filter (fun l => l < 34 && !(s.portX port).failedLanes.contains l) →
      u = s.modPort port (fun y => { (y.laned ((s.portX port).failedLanes ++ fresh)) with fast := none }) →
      v = ((fresh.filter fun l => halfFails ((s.portX port).failedLanes ++ fresh) (decide (17 ≤ l)) == 1).foldl
        (fun a l => a.event evLaneSpared (portUnit port) l) u).noteWidth port (s.portX port).width →
      (widthOf ((s.portX port).failedLanes ++ fresh) = 0 → ∀ b, exec (.fastRetrainDone port failing b) s =
        .next (s.noteState (v.takeDown port))) ∧
      (widthOf ((s.portX port).failedLanes ++ fresh) ≠ 0 →
        exec (.fastRetrainDone port failing true) s = .next v ∧
        (fails = ((s.portX port).retrainFails.filter fun t => s.now < t + 1000000000) ++ [s.now] →
          w = v.modPort port (fun y => { y with retrainFails := fails }) →
          exec (.fastRetrainDone port failing false) s = .next (if 3 ≤ fails.length then s.noteState (w.takeDown port) else w)))) ∧
    (cause ≠ .noFlit ∨ (s.portX port).fast = none → exec (.portDown port cause) s = .next (s.noteState (s.takeDown port))) ∧
    ((s.portX port).training = true → s.mainOn = true → bad = failing.filter (· < 34) →
      (widthOf bad = 0 → exec (.linkTrainingDone port failing) s = .next (s.noteState
        (((s.modPort port fun y => { y with training := false }).takeDown port).modPort port fun y => { y with state := .down }))) ∧
      (widthOf bad ≠ 0 → u = s.modPort port (fun y => { (y.laned bad) with
          trained := true, training := false, txSeq := 0, acked := 4095, replay := 0, rxLast := 4095, refusals := 0,
          retrainFails := [], fast := none, room := ({} : Port).room, cardNs := s.now }) →
        exec (.linkTrainingDone port failing) s =
          .next (s.noteState (((u.noteWidth port (s.portX port).width).evalPorts).sendCard port)))) ∧
    ((s.portX port).trained = false → exec (.linkTrainingRetry port) s = .next (s.startTraining port)) ∧
    ((s.portX port).state = .heldIdle → exec (.heldIdleRetrain port) s = .next (s.startTraining port))

/-- A card whose CRC checks takes its port's place, is told when it is the first, ends a remap of another card, and
re-evaluates every port; a card that takes a port of a running slice out of traffic without leaving halts the slice; a
card is sent while main power is on; its absence re-evaluates the ports; a flush marker of this slice opens the port's
run, or is kept where the module has not prepared; any other link message is discarded. (R403, R404, R270, R165.) -/
def Obligations.NeighboursMarkersAndLinkMessagesAreTaken : Prop :=
  ∀ (s u v w x : State) (port : Nat) (k : Packet),
    (s.mainOn = true →
      exec (.cardSend port) s = .next (s.sendCard port) ∧
      ((s.portX port).trained = true → (s.portX port).card = none → exec (.cardAbsent port) s = .next s.evalPorts) ∧
      ((s.portX port).trained = true → k.type = ptLink → badPacket k = false →
        u = s.emit (.release port (bufferOf k) (flitPayloads k)) →
        (byteAt k.data 0 = 1 → k.len = 128 → crc32c k.data = k.dcrc.toNat →
          v = u.modPort port (fun y => { y with
            card := some k.data, cardNs := u.now, departed := false,
            leavingNs := if cdLeaving k.data then some u.now else none }) →
          w = (if (u.portX port).card = none then v.event evNbArrived (portUnit port) port else v) →
          x = (if (u.portX port).logical.isSome = true ∧ (u.portX port).card ≠ some k.data then w.endRemap else w) →
          exec (.neighbourCard port k) s = .next (s.noteState (if u.sliceBusy = true ∧ u.portUp port = true ∧
            x.evalPorts.portUp port = false ∧ cdLeaving k.data = false then x.evalPorts.loseSlice else x.evalPorts))) ∧
        (byteAt k.data 0 = 2 → k.len = 16 → rd 2 k.data 4 = u.plan.sliceId →
          exec (.flushMarker port k) s = .next (if (u.portX port).awaitMarker then
            u.noteState ((u.modPort port fun x => { x with awaitMarker := false }).barrierDone)
            else u.modPort port fun x => { x with markerIn := u.srv.sliceState != .running })) ∧
        (¬(byteAt k.data 0 = 1 ∧ k.len = 128) → ¬(byteAt k.data 0 = 2 ∧ k.len = 16) →
          exec (.linkMgmt port k) s = .next u)))

/-- A data packet of its type that arrives whole and well formed at its last hop, with its data's CRC good or no data, is
landed by its type's rule: WRITE, READ_REQ, READ_RSP, RED, MCAST, DISPATCH, DISPATCH_END, RETURN, BUF_FREE, COLL and
CREDIT; with the CRC bad it lands nothing, counts a block CRC failure and aborts its step. (R173, R174, R175, R177,
R179, R185, R186, R269, R189, R180.) -/
def Obligations.DataPacketsLand : Prop :=
  ∀ (s u : State) (port : Nat) (k k1 : Packet),
    Lands s port k k1 u →
      (k1.len = 0 ∨ crc32c k1.data = k1.dcrc.toNat →
        (k.type = ptWrite → exec (.writePacket port k) s = .next (s.noteState (u.landWrite (portUnit port) k1))) ∧
        (k.type = ptReadReq → exec (.readReq port k) s = .next (s.noteState (u.answerRead (portUnit port) k1))) ∧
        (k.type = ptReadRsp → exec (.readRsp port k) s = .next (s.noteState (u.takeRead k1))) ∧
        (k.type = ptRed → exec (.redPacket port k) s = .next (s.noteState
          (u.applyRed (portUnit port) k1.stepSeq k1.opx k1.dch k1.addr (fit blockBytes k1.data)))) ∧
        (k.type = ptMcast → exec (.mcastPacket port k) s = .next (s.noteState
          (u.mcastAt (portUnit port) (some (u.logicalOf port)) { k1 with data := fit blockBytes k1.data }))) ∧
        (k.type = ptDispatch → exec (.dispatchPacket port k) s = .next (s.noteState
          (u.landSlot (portUnit port) k1.src k1.dtile k1.session k1.epoch k1.stepSeq k1.addr k1.data))) ∧
        (k.type = ptDispatchEnd → exec (.dispatchEnd port k) s = .next (s.noteState
          (u.noteEnd k1.src k1.stepSeq (packetLayer k1) (packetHb k1)))) ∧
        (k.type = ptReturn → exec (.ret port k) s = .next (s.noteState
          (u.landReturn (portUnit port) k1.session k1.epoch k1.stepSeq k1.addr k1.data))) ∧
        (k.type = ptBufFree → exec (.bufFree port k) s = .next (s.noteState
          (u.noteFree k1.src k1.stepSeq (packetLayer k1) (packetHb k1)))) ∧
        (k.type = ptColl → exec (.collPacket port k) s = .next (s.noteState (u.takeSeg k1))) ∧
        (k.type = ptCredit → exec (.creditPacket port k) s = .next (s.noteState (u.takeCredit k1)))) ∧
      (k1.len ≠ 0 → crc32c k1.data ≠ k1.dcrc.toNat → k.type = ptWrite →
        exec (.writePacket port k) s = .next (s.noteState ((u.count ctBlockCrcFail 0 1).stepFault fltBlockCrc (portUnit port)
          k1.stepSeq { addr := k1.addr })))

/-- POWER_WINDOW_END records the window's power, energy and input voltage; outside S3 and S5 it sets the ramp limit from
the window, counts a ramp-limited window, steps the filler, completes the cap changes whose first compliant window
this is, settles the budget, and decides the clamp at the floor: reach falling due in S1 raises FLT_CAP_BELOW_FLOOR
after its windows, and a cap that reach fits again by 50 W begins the return to S0. (R337.) -/
def Obligations.PowerWindowsEnd : Prop :=
  ∀ (s s1 s2 s3 s4 s6 s7 s8 : State) (w v uj : Nat) (done : List (MPort × Nat × Nat)),
    uj = s.pwr.energyUj + w * 100 →
    s1 = s.onPwr (fun p => { p with
      windowW := w, windows := (w :: p.windows).take 10000, vIn100mV := v,
      energyMj := (p.energyMj + uj / 1000) % 2 ^ 64, energyUj := uj % 1000 }) →
    (s.pwr.state = .s3 ∨ s.pwr.state = .s5 → exec (.powerWindowEnd w v) s = .next s1) ∧
    (s.pwr.state ≠ .s3 → s.pwr.state ≠ .s5 →
      s2 = s1.onPwr (fun p => { p with
        rampLimit := if p.stagger.isSome then p.rampLimit else min s.effCap (w + s.setN setRampUp / 10) }) →
      s3 = (if s.pwr.clamp && s.pwr.clampRamp then s2.count ctRampLimited 0 100000 else s2) → s4 = s3.stepFiller w →
      done = s4.pwr.capReq.filter (fun r => w ≤ s4.effCap && r.2.2 + 100000 ≤ s.now) →
      s6 = done.foldl (fun (a : State) r => a.finishAt r.1 r.2.1 stOk 0 (a.capBytes w))
        (s4.onPwr fun p => { p with capReq := p.capReq.filter fun r => !done.contains r }) →
      s7 = (if w ≤ s6.effCap then s6.payBudget else s6) →
      (s7.pwr.reachDue = none → s8 = s7) →
      (∀ n cap, s7.pwr.reachDue = some (n, cap) → s8 = (if s7.pwr.state != .s1 then s7
        else if n ≤ 1 then (s7.onPwr fun p => { p with reachDue := none }).fault fltCapBelowFloor noUnit
          { args := [cap, s7.pwr.reachW, meanOf (s7.pwr.windows.take 10), s7.setN setPowerCap] }
        else s7.onPwr fun p => { p with reachDue := some (n - 1, cap) })) →
      exec (.powerWindowEnd w v) s = .next (
        if s8.pwr.belowReach && s8.pwr.state == .s1 && s8.pwr.change.isNone && s8.pwr.reachW + 50 ≤ s8.effCap then
          s8.onPwr fun p => { p with change := some ⟨.s0, none, s.now, false, true⟩ } else s8))

/-- In S0 the clamp's 10 µs mean within the limits releases the clamp, and above them sets it with an amount the spec
leaves open, lowers every C-die one point and counts; a clamp of 20 ms with every point at zero decides the reach and
begins S1; a sensor above its throttle temperature lowers the thermal limit by 100 W, with its event at most once a
second, and ten readings in which all are 3 °C below raise it; a point settles; the stagger hold and the fade end at
their times. (R323, R324, R326, R330, R338, R340.) -/
def Obligations.ClampsThermalLimitsAndFadesEnd : Prop :=
  ∀ (s u v : State) (mean lim reach cdie : Nat) (temps : List Int) (t0 ms : Nat),
    (s.pwr.state = .s0 → lim = min s.effCap s.pwr.rampLimit →
      (mean ≤ lim → exec (.clampAdjust mean) s =
        .next (s.onPwr fun p => { p with clamp := false, clamp16 := 0, clampRamp := false })) ∧
      (lim < mean → u = s.onPwr (fun p => { p with
          clamp := true, clamp16 := 1 + Config.unstated 10 [mean, lim], clampRamp := decide (s.pwr.rampLimit < s.effCap),
          clampSinceNs := if p.clamp then p.clampSinceNs else s.now }) →
        exec (.clampAdjust mean) s = .next (((List.range 16).foldl (fun (a : State) c => a.setPoint c (a.point c - 1)) u).count
          ctClamp 0 10000)) ∧
      (s.pwr.clamp = true → s.pwr.clampSinceNs + 20000000 ≤ s.now → (∀ c, c < 16 → s.point c = 0) → s.pwr.change = none →
        exec (.capReachDecision reach) s = .next (s.onPwr fun p => { p with
          reachW := reach, reachDue := some (10, s.effCap), change := some ⟨.s1, none, s.now, false, true⟩ }))) ∧
    (s.mainOn = true → u = (indexed temps).foldl (fun (a : State) t => a.gauge ctDieTemp t.1 (gaugeInt t.2)) s →
      (((indexed temps).any fun t => throttleM t.1 < t.2) = true →
        v = u.onPwr (fun p => { p with thermalW := max 1200 (p.thermalW - 100), thermalCool := 0 }) →
        exec (.thermalSupervisor temps) s = .next (
          if (s.pwr.thermalEvNs = none ∨ ∃ t, s.pwr.thermalEvNs = some t ∧ t + 1000000000 ≤ s.now) ∧
              v.pwr.thermalW < s.pwr.thermalW then
            (v.onPwr fun p => { p with thermalEvNs := some s.now }).event evThermalLimit noUnit v.pwr.thermalW else v)) ∧
      (((indexed temps).any fun t => throttleM t.1 < t.2) = false →
        exec (.thermalSupervisor temps) s = .next (u.onPwr fun p =>
          if ((indexed temps).all fun t => t.2 + 3000 ≤ throttleM t.1) then
            if 9 ≤ s.pwr.thermalCool then { p with thermalW := min 5000 (p.thermalW + 100), thermalCool := 0 }
            else { p with thermalCool := p.thermalCool + 1 }
          else { p with thermalCool := 0 }))) ∧
    (exec (.oppointSettled cdie) s = .next (s.onPwr fun w => { w with settling := tdel w.settling cdie })) ∧
    (∀ a, s.pwr.stagger = some (t0, a) → t0 + s.plan.rank s.index * s.setN setStagger * 1000 ≤ s.now →
      exec .staggerHoldEnd s = .next (s.onPwr fun p => { p with stagger := none })) ∧
    (∀ a, s.pwr.fade = some (a, t0, ms) → t0 + ms * 1000000 ≤ s.now →
      exec .fadeEnd s = .next (s.onPwr fun p => { p with fade := none }))

/-- COLD_START from S5 begins the start-up from lost standby state, and STARTUP_STAGE completes the stage in course; a
handover that is quiet blacks out with READY low, and its end runs the new image, or brings the old one back, with
READY, LAST_RESET 5 and resynchronised transports; a trial nobody confirmed in its time falls back; HEARTBEAT still
for 2 s halts a running slice hard, falls a trial back and resets WARM; a scheduled WARM reset happens when due; the
progress of a running command is rewritten silently. (R399, R418, R419, R387, R286.) -/
def Obligations.StartUpTrialsAndWatchdogsRun : Prop :=
  ∀ (s u v a b : State) (x y : Bool) (stage slot progress t0 : Nat) (failing : List UnitId) (h : Handover) (port : MPort)
    (r : Running),
    (s.pwr.state = .s5 → u = ((s.standbyLost).onClock fun c => { c with boot := (c.boot + 1) % 65536 }).onPins (fun p =>
        { p with pwrEn := x, dimmPwrOk := y }) →
      exec (.coldStart x y) s = .next (s.noteState (u.startUp 0))) ∧
    (s.fw.stage = stage → s.pwr.state ≠ .s5 →
      exec (.startupStage stage failing) s = .next (s.noteState (s.completeStage stage failing))) ∧
    (s.fw.handover = some h → h.blackoutNs = none → s.quiet h = true →
      exec .handoverBlackout s = .next (s.noteState ((s.onMbox fun m => { m with ready := false }).onFw fun f =>
        { f with handover := some { h with blackoutNs := some s.now } }))) ∧
    (s.fw.handover = some h → h.blackoutNs = some t0 →
      u = (((s.onMbox fun m => { m with ready := true, lastReset := 5 }).onSec fun c =>
        { c with resync := [.doe, .mctp0, .mctp1], spdm := [] }).onClock fun c => { c with heartbeatNs := s.now }) →
      (h.back = true → exec .handoverDone s =
        .next ((u.onFw fun f => { f with runningB := h.bank, handover := none }).raiseIrq irqState)) ∧
      (h.back = false → a = u.putBank h.bank { u.bank h.bank with state := .trial } →
        b = a.onFw (fun f => { f with runningB := h.bank, handover := none, trialFromNs := some s.now, trialLive := true }) →
        exec .handoverDone s = .next (((b.activated h.bank 2).finishAt h.port h.slot stOk 0
          (b.activateBytes h.bank ((s.now - t0) / 1000))).raiseIrq irqState))) ∧
    (s.fw.trialFromNs = some t0 → t0 + s.fw.trialConfirmS * 1000000000 ≤ s.now →
      exec .trialWindowExpiry s = .next (s.fallBack 1).fallbackReset) ∧
    (s.l2Up = true → s.fw.safelight = false → (s.fw.handover.any fun h => h.blackoutNs.isSome) = false →
      s.clock.heartbeatNs + 2000000000 ≤ s.now → u = (if s.sliceBusy then s.hardHalt else s).fault fltFwWatchdog →
      v = (if u.fw.trialFromNs.isSome then u.fallBack 3 else u) →
      exec .heartbeatWatchdog s = .next ((v.onFw fun f => { f with fallbackDue := false, handover := none }).warmReset 2)) ∧
    (s.mbox.warmResetAt = some t0 → t0 ≤ s.now → exec .scheduledWarmReset s = .next (s.warmReset 2)) ∧
    (s.mbox.warmResetAt = none → exec .scheduledWarmReset s = .next s.fallbackReset) ∧
    (s.runningAt port slot = some r →
      exec (.progressRewrite port slot progress) s = .next (s.interim port slot (progress % 65536) false))

/-- PWR_EN's rise asks for S3's exit, or withdraws a waiting entry; its fall with the slice idle begins S3, and otherwise
waits with one event; a MOD_RESET_N pulse of 10 µs or more resets WARM; PERST_N resets the host side; DIMM_PWR_OK's
fall with main power off drops retained T3 copies, and with T3 in service takes T3 out of service with its fault;
straps are sampled once and a later change is reported; a pulse on PPS_IN is counted, and latched when it is in time,
and 3 s without one is reported once. (R431, R432, R434, R433, R437, R450.) -/
def Obligations.PinsPowerAndStraps : Prop :=
  ∀ (s u v w : State) (ns slot : Nat) (rec_ : Bool) (t0 : Nat),
    (s.pwr.state = .s3 → exec .pwrEnRise s = .next ((s.onPins fun p => { p with pwrEn := true }).s3Exit)) ∧
    (s.pwr.state ≠ .s3 → exec .pwrEnRise s =
      .next ((s.onPins fun p => { p with pwrEn := true }).onPwr fun p => { p with s3Deferred := false })) ∧
    (s.mainOn = true → u = s.onPins (fun p => { p with pwrEn := false }) →
      (s.sliceIdle = true → s.pwr.change = none → exec .pwrEnFall s = .next (u.onPwr fun p => { p with
        change := some ⟨.s3, none, s.now, p.fade.isSome, false⟩ })) ∧
      (s.sliceIdle = false → exec .pwrEnFall s = .next (if s.pwr.s3Deferred then u.onPwr fun p => { p with s3Deferred := true }
        else (u.onPwr fun p => { p with s3Deferred := true }).event evS3Deferred))) ∧
    (10000 ≤ ns → s.pwr.state ≠ .s5 →
      exec (.modResetN ns) s = .next ((s.onPins fun p => { p with strapSampled := false }).warmReset 1)) ∧
    (s.endpoint = true → exec .perstN s = .next (s.resetHost 4)) ∧
    (u = s.onPins (fun p => { p with dimmPwrOk := false }) →
      (s.mainOn = false → s.wts.t3Retained = true → exec .dimmPwrOkFall s = .next (u.onWts fun w => { w with
        t3Retained := false, copies := w.copies.filter fun c => !c.inT3 })) ∧
      (s.mainOn = true → s.wts.t3InService = true →
        v = (u.fault fltT3Power).onWts (fun w => { w with
          t3InService := false, copies := w.copies.map fun c => if c.inT3 then c.toT2 else c }) →
        w = (if s.isLead then v.failPauses else v) →
        exec .dimmPwrOkFall s = .next (((s.mem.pages.filter fun e => e.2.base < t2Base).map (·.2.base)).foldl
          (fun a b => a.t3PageLost b) w))) ∧
    (s.pwr.state ≠ .s5 →
      (s.pins.strapSampled = false → exec (.strapSample slot rec_) s = .next ((s.onPins fun p => { p with
        strapSampled := true, slotStrap := slot, i3cAddr := 0x50 + slot % 16, recoveryN := rec_ }).gauge ctSlotStrap 0 slot)) ∧
      (u = (s.onPins fun p => { p with ppsEdgeNs := some s.now, ppsLostRaised := false }).count ctPpsEdges 0 1 →
        (s.pins.ppsEdgeNs = none → exec .ppsEdge s = .next (u.gauge ctPpsLastNs 0 (s.now - s.clock.startNs))) ∧
        (s.pins.ppsEdgeNs = some t0 → exec .ppsEdge s =
          .next (if s.now - t0 < 999000000 ∨ 1001000000 < s.now - t0 then u.count ctPpsRejected 0 1
            else u.gauge ctPpsLastNs 0 (s.now - s.clock.startNs))))) ∧
    (s.pins.strapSampled = true → exec .strapChange s = .next (s.event evStrapChanged)) ∧
    (s.pins.ppsEdgeNs = some t0 → t0 + 3000000000 ≤ s.now → s.pins.ppsLostRaised = false →
      exec .ppsLost s = .next ((s.onPins fun p => { p with ppsLostRaised := true }).event evPpsLost))

/-- A tray or carrier leak and a thermal trip set their pins and trip with their faults and counters; THERMTRIP_N is
released; an input below 38.0 V or above 62.5 V trips; VSB lost takes rails, copies in writing, plan, standby state
and security sessions away and leaves S5; an inlet above 40 °C is reported at most once a minute; a drain whose
deadline has come ends what is left; 1 ms after a hard halt the lost modules are marked, and a lender takes back what
it lent. (R446, R445, R429, R443, R409, R273, R336.) -/
def Obligations.TripsLeaksAndLosses : Prop :=
  ∀ (s u : State) (mv sensor : Nat) (inlet : Int) (d : Drain),
    (s.pwr.state ≠ .s5 →
      exec .trayLeakN s = .next ((s.onPins fun p => { p with trayLeakN := false }).tripWith fltLeak ctLeakTrips 1) ∧
      exec .carrierLeak s = .next ((s.onPins fun p => { p with leakWet := true, leakN := false }).tripWith fltLeak ctLeakTrips 0) ∧
      exec (.thermalTrip sensor) s = .next ((s.onPins fun p => { p with thermtripN := false }).tripWith fltThermalTrip
        ctThermalTrips sensor) ∧
      (u = ((((s.railsOff false).dropWriting).unloadPlan).standbyLost).onMbox (fun m => { ({} : Mbox) with msix := m.msix }) →
        exec .vsbLoss s = .next (((u.onFw fun f => { f with
            stage := 0, t1Ns := none, handover := none, safelight := false, trialFromNs := none }).onPwr fun p => { p with
            state := .s5, energyMj := 0, energyUj := 0 }).onSec fun c => { c with
              debug := 0, scanStopped := false, spdm := [], resync := [], udsLocked := false, erasing := none })) ∧
      exec (.coolantHigh inlet) s = .next (if 40000 < inlet ∧ (s.pins.coolantEvNs = none ∨
          ∃ t, s.pins.coolantEvNs = some t ∧ t + 60000000000 ≤ s.now) then
        ((s.gauge ctCoolantIn 0 (gaugeInt inlet)).onPins fun p => { p with coolantEvNs := some s.now }).event evCoolantHigh
        else s.gauge ctCoolantIn 0 (gaugeInt inlet))) ∧
    (exec .thermtripRelease s = .next (s.onPins fun p => { p with thermtripN := true })) ∧
    (mv < 38000 → exec (.inputUndervoltage mv) s = .next (s.tripWith fltInputUv ctUvTrips mv)) ∧
    (62500 < mv → exec (.inputOvervoltage mv) s = .next (s.tripWith fltInputOv ctOvTrips mv)) ∧
    (s.srv.drain = some d → (d.deadlineNs.any fun t => t ≤ s.now) = true →
      u = (if d.mode = 1 then (s.endAllGens rdGenPaused).abandonPauses else s.endAllGens rdCancelled) →
      exec .drainDeadline s = .next (s.noteState ((u.onSrv fun v => { v with
        drain := some { d with mode := 2, deadlineNs := none } }).settleDrain))) ∧
    (s.srv.haltNs + 1000000 ≤ s.now →
      exec .lostModuleMark s = .next s.markLost ∧
      (s.srv.sliceState = .haltedHard → 0 < s.pwr.lent → exec .lenderSelfRevert s = .next s.revertLender))

/-- For every mailbox command of the table: found with OWNER 1 in a slot of a served port, not started, with its row's
opcode and payload, a header check that fails hands it back with that check's status, an empty payload and the slot's
stored SEQ as it was; and nothing else changes, whatever the payload holds. The order of the header checks is SEQ,
reserved header fields, opcode, port, and lifecycle, debug, power and lead conditions. (R294, R286, R288.) -/
def Obligations.RefusedMailboxCommandsChangeOnlyTheirSlot : Prop :=
  ∀ (i : Instr) (q : Req) (op : Nat) (mine : Cmd → Bool) (s t : State) (c : Cmd) (st d : Nat),
    mailboxRow i = some (q, op, mine) → foundIn s q = t → t.cmdAt q.port q.slot = c → t.served c.port = true →
      c.slot < slotCount c.port → c.hdr.owner = true → c.hdr.started = false → c.hdr.opcode = op → mine c = true →
      (firstFail
        [ (c.hdr.seq == c.hdr.storedSeq, stFieldRange, 0x14),
          (c.hdr.rsv0 != 0 || (c.hdr.noIrq && c.port != .h), stFieldRange, 0x00), (c.hdr.rsvC != 0, stFieldRange, 0x0E),
          (c.hdr.rsvTail, stFieldRange, 0x1E), ((opInfo op).isNone, stBadOpcode, 0x02),
          (!t.portAllowed ((opInfo op).getD ⟨0, 0, 0, false, false⟩) c.port, stPortDenied, 0x02),
          (!t.opState ((opInfo op).getD ⟨0, 0, 0, false, false⟩) c.port (rd 4 c.pay 0), stStateDenied, 0x02) ] = some (st, d)) →
      exec i s = .next (t.handBack c.port c.slot st d [] false)

/-- With command c at the front of its queue, a step is exec of c on the same state with the queue's rest. Commands start
in the order in which they came. (R289.) -/
def Obligations.StepTakesTheFrontCommand : Prop :=
  ∀ (c : Instr) (rest : List Instr) (s : State), step { s with pending := c :: rest } = exec c { s with pending := rest }

/-- With no command waiting, a step adds one nanosecond to module time and, while the main rails are powered, to module
life, whose seconds carry; outside S5 it also counts the time in the power state. That an idle step is a nanosecond is
the model's choice (log entry 23); that life runs only in S0, S1 and S2 is the spec's. (R284, R365.) -/
def Obligations.AnIdleStepPassesANanosecond : Prop :=
  ∀ s : State, s.pending = [] → s.clock.lifeNs < 1000000000 →
    ∃ u : State, step s = .next (if s.pwr.state = .s5 then u else u.stateTime) ∧
      u = { s with clock := u.clock } ∧ u.clock.timeNs = s.clock.timeNs + 1 ∧
      u.clock.lifeS * 1000000000 + u.clock.lifeNs = s.clock.lifeS * 1000000000 + s.clock.lifeNs +
        (if s.pwr.state = .s0 ∨ s.pwr.state = .s1 ∨ s.pwr.state = .s2 then 1 else 0) ∧ u.clock.lifeNs < 1000000000

/-- At reset the queue is empty and no command has been found; every slot of every port is zero with OWNER 0; every
setting reads its factory default with SRC 0 and no transaction or commit is open; no plan and no weights are held; no
step lives, no session is open and no slice runs; BAR0 does not answer READY; the page map and memory list nothing;
the power state is S5 and the lifecycle FACTORY. That the module is an NZ8-4800-LC as shipped, with its power off, and
that memory reads zero are the model's choices (log entries 1 and 2). (R284, R314, R315, R386, R410.) -/
def Obligations.ResetIsAColdModule : Prop :=
  State.reset.pending = [] ∧ State.reset.mbox.running = [] ∧ State.reset.mbox.ready = false ∧
    (∀ (p : MPort) (i : Nat), State.reset.slot p i = {}) ∧ ({} : Slot).owner = false ∧ ({} : Slot).storedSeq = 0 ∧
    (∀ r ∈ settings, State.reset.setting r.key = r.factory ∧ State.reset.srcOf r.key = 0) ∧
    State.reset.cfg.txnModule = none ∧ State.reset.cfg.txnSlice = none ∧ State.reset.cfg.commit = none ∧ State.reset.cfg.gen = 1 ∧
    State.reset.wts.main = none ∧ State.reset.wts.copies = [] ∧ State.reset.steps.live = [] ∧ State.reset.srv.sessions = [] ∧
    State.reset.srv.sliceState = .noPlan ∧ State.reset.mem.pages = [] ∧ (∀ a, Memory.get State.reset.mem.cells a = 0) ∧
    State.reset.pwr.state = .s5 ∧ State.reset.sec.lifecycle = .factory ∧ State.reset.clock.timeNs = 0

/-- At reset, memory has its canonical form. Together with EveryStepIsSafe, every state that a run reaches is safe.
(R284.) -/
def Obligations.ResetIsSafe : Prop :=
  SafeState State.reset

/-- From every state whose memory has its canonical form, whatever command is at the front of the queue and whatever else
the state holds, a step is answered by a next state, never a fault or a refusal, and that state's memory has the
canonical form. (R289, R352.) -/
def Obligations.EveryStepIsSafe : Prop :=
  ∀ s : State, SafeState s → SafeStep s

/-- For every state and whatever command runs: a module in RETIRED, with no erase in course that would end in another
lifecycle state, is so after the step; the factory-exit and retire fuses stay burned; the burned service-entry fuses
and MIN_SVN never grow fewer or fall. (R386.) -/
def Obligations.RetiredAndFusesAreFinal : Prop :=
  ∀ s t : State, step s = .next t →
    (s.sec.lifecycle = .retired → (∀ r, s.sec.erasing = some r → r.why = 1 → lifecycleOf r.target = .retired) →
      t.sec.lifecycle = .retired ∧ ∀ r, t.sec.erasing = some r → r.why = 1 → lifecycleOf r.target = .retired) ∧
    (s.sec.factoryExit = true → t.sec.factoryExit = true) ∧ (s.sec.retireFuse = true → t.sec.retireFuse = true) ∧
    s.sec.serviceFuses ≤ t.sec.serviceFuses ∧ s.fw.minSvn ≤ t.fw.minSvn

/-- For every command and every state: the command is answered by a next state, and the waiting commands, module time and
module life are as they were. Hence a step takes exactly the front of the queue, and only a step on an empty queue
moves time. (R289, R284, R365.) -/
def Obligations.CommandsTouchNeitherQueueNorTime : Prop :=
  (∀ (i : Instr) (s : State), ∃ t, exec i s = .next t ∧ t.pending = s.pending ∧ t.clock.timeNs = s.clock.timeNs ∧
      t.clock.lifeS = s.clock.lifeS) ∧
    ∀ s t : State, step s = .next t → t.pending = s.pending.tail ∧
      t.clock.timeNs = s.clock.timeNs + (if s.pending = [] then 1 else 0) ∧ s.clock.lifeS ≤ t.clock.lifeS

/-- OP_PHYS_WRITE in range of the view, with no slice starting or running, from a state whose memory has its canonical
form: each of its bytes reads back, every other byte of memory reads as before, the form is kept, and beside memory
only the mailbox and what goes out change. (R394, R395.) -/
def Obligations.PhysicalWritesStoreTheirBytes : Prop :=
  ∀ (s t : State) (q : Req) (c : Cmd) (a n : Nat), a = rd 8 c.pay 0 → n = rd 2 c.pay 8 → 8 ≤ n → n ≤ 4016 → n % 8 = 0 →
    a % 8 = 0 → rd 2 c.pay 10 = 0 → rd 4 c.pay 12 = 0 → t.physOk a n = true → Finds s q t c 0x0F03 (16 + n) →
    t.srv.sliceState ≠ .starting → t.srv.sliceState ≠ .running → SafeState t →
    ∃ u, exec (.opPhysWrite q) s = .next u ∧ (∀ i < n, (Memory.get u.mem.cells (a + i)).toNat = byteAt c.pay (16 + i)) ∧
      (∀ x, x < a ∨ a + n ≤ x → Memory.get u.mem.cells x = Memory.get t.mem.cells x) ∧ SafeState u ∧
      u.mem = { t.mem with cells := u.mem.cells } ∧ u = { t with mem := u.mem, mbox := u.mbox, out := u.out }

/-- A command handed back on a slot: OWNER is 0, STATUS, DETAIL, PAYLOAD_LEN and the completion payload are the module's,
TAG, TXN_ID, OPCODE and SEQ stay as the sender wrote them, the stored SEQ is the command's where it was accepted and
as before where it was refused; every other slot of every port is as it was, and nothing changes but mailbox and
outputs. (R286, R288, R295, R298.) -/
def Obligations.AHandedBackSlotIsTheSenders : Prop :=
  ∀ (t u : State) (c : Cmd) (st d : Nat) (pay : Bytes) (acc : Bool), c = t.cmdAt c.port c.slot →
    u = t.handBack c.port c.slot st d pay acc →
    (u.slot c.port c.slot).owner = false ∧ (u.slot c.port c.slot).status = st ∧ (u.slot c.port c.slot).detail = d ∧
    (u.slot c.port c.slot).payloadLen = pay.length ∧ (u.slot c.port c.slot).payload.take pay.length = pay ∧
    (u.slot c.port c.slot).tag = c.hdr.tag ∧ (u.slot c.port c.slot).txnId = c.hdr.txnId ∧
    (u.slot c.port c.slot).opcode = c.hdr.opcode ∧ (u.slot c.port c.slot).seq = c.hdr.seq ∧
    (u.slot c.port c.slot).storedSeq = (if acc then c.hdr.seq else c.hdr.storedSeq) ∧
    (∀ (p : MPort) (i : Nat), (p, i) ≠ (c.port, c.slot) → u.slot p i = t.slot p i) ∧
    u = { t with mbox := u.mbox, out := u.out } ∧ u.mbox.running = t.mbox.running

/-- An element of a group is dodged exactly when it is finite and not zero and its magnitude exceeds four times that of
each other element; a group therefore has at most one. In a group with another element that is not finite, none is
dodged (the model's reading, log entry 166). (R105.) -/
def Obligations.ADodgedElementStandsAlone : Prop :=
  ∀ (xs : List Fp) (i : Nat), dodgePlace xs = some i ↔
    i < xs.length ∧ (xs.getD i .nan).finite = true ∧ (xs.getD i .nan).isZero = false ∧
      ∀ j < xs.length, j ≠ i → (xs.getD j .nan).finite = true ∧
        (((xs.getD j .nan).abs.scale 2).lt (xs.getD i .nan).abs) = true

/-- For every byte string, the model's check value is that of the division by the polynomial 0x1EDC6F41 with the highest
power first: the register starts at 0xFFFFFFFF, each byte goes in reflected, the result is reflected and its bits
inverted by the final exclusive-or. Of the nine bytes "123456789" it is 0xE3069283. (R350.) -/
def Obligations.BlocksAreCheckedByCrc32c : Prop :=
  (∀ b : Bytes, crc32c b = (mirror 32 (b.foldl crcDivide 0xFFFFFFFF)) ^^^ 0xFFFFFFFF) ∧
    crc32c [0x31, 0x32, 0x33, 0x34, 0x35, 0x36, 0x37, 0x38, 0x39] = 0xE3069283

/-- With TXN_ID 0 the completion holds each entry's running value; with a TXN_ID of the command's own port and STAGED 1,
the staged value of each key that is staged and the running value of every other. A completion above 4,032 bytes is
refused with ST_LEN_RANGE, and then nothing but the slot changes. (R309.) -/
def Obligations.ReadsReturnRunningOrStagedValues : Prop :=
  ∀ (s t : State) (q : Req) (c : Cmd) (n : Nat) (out : Bytes), Finds s q t c 0x0103 n →
    (∀ x ∈ entriesOwn true false t c, x.1 = false) →
    (c.hdr.txnId = 0 → bitOf (rd 4 c.pay 0) 16 = false →
      out = readBytes ((cmdEntries c false).1.map fun e => (e, t.srcOf e.key, t.setting e.key)) →
      (out.length ≤ 4032 → exec (.opRead q) s = .next (endsIn t c out)) ∧
      (4032 < out.length → exec (.opRead q) s = .next (t.handBack c.port c.slot stLenRange (payOff 0) [] false))) ∧
    (∀ x : Txn, c.hdr.txnId ≠ 0 → bitOf (rd 4 c.pay 0) 16 = true → t.txn? c.hdr.txnId.toNat = some x → x.port = c.port →
      out = readBytes ((cmdEntries c false).1.map fun e => match tget x.staged e.key with
        | some v => (e, 3, v)
        | none => (e, t.srcOf e.key, t.setting e.key)) →
      (out.length ≤ 4032 → exec (.opRead q) s = .next (endsIn (t.putTxn { x with timerNs := t.now }) c out)) ∧
      (4032 < out.length → exec (.opRead q) s = .next (t.handBack c.port c.slot stLenRange (payOff 0) [] false)))

/-- STAGE, COMMIT and a staged READ that name another port's transaction are refused with ST_PORT_DENIED and change
nothing but their slot; ROLLBACK is allowed on ports H and M, and drops the transaction whichever port began it.
(R306.) -/
def Obligations.TransactionsBelongToTheirPort : Prop :=
  ∀ (s t : State) (q : Req) (c : Cmd) (n : Nat) (x : Txn), c.hdr.txnId ≠ 0 → t.txn? c.hdr.txnId.toNat = some x →
    (x.port ≠ c.port →
      (Finds s q t c 0x0102 n → (∀ e ∈ entriesOwn false true t c, e.1 = false) →
        exec (.opStage q) s = .next (t.handBack c.port c.slot stPortDenied 0 [] false)) ∧
      (Finds s q t c 0x0104 0 → exec (.opCommit q) s = .next (t.handBack c.port c.slot stPortDenied 0 [] false)) ∧
      (Finds s q t c 0x0103 n → (∀ e ∈ entriesOwn true false t c, e.1 = false) → bitOf (rd 4 c.pay 0) 16 = true →
        exec (.opRead q) s = .next (t.handBack c.port c.slot stPortDenied 0 [] false))) ∧
    (Finds s q t c 0x0105 0 → objFree t (objTxn x.id) → exec (.opRollback q) s = .next (endsIn (t.dropTxn x.slice) c [])) ∧
    ((opInfo 0x0105).any fun o => bitOf o.ports 0 && bitOf o.ports 1) = true
end

