-- ==== Sys2Proof/Laws/Memory.lean ====
section
/-! SUPPORT. Laws of the memory: the canonical form is kept by every memory operation, a read after a write gives the value
written, and a write leaves every other byte alone. -/

namespace Sys2Proof.Laws

open Sys2Proof Sys2Proof.Machine

/-! ### The canonical form -/

/-- The canonical form in words: addresses strictly rise, and no cell holds the default. -/
theorem mem_wf_iff (m : List Host.Cell) :
    Memory.wf m = true ↔ m.Pairwise (fun c d => c.1 < d.1) ∧ ∀ c ∈ m, c.2 ≠ memDefault := by
  induction m with
  | nil => simp [Memory.wf]
  | cons c r ih =>
    cases r with
    | nil => simp [Memory.wf]
    | cons d r =>
      simp only [Memory.wf, Bool.and_eq_true, bne_iff_ne, decide_eq_true_eq, ih]
      constructor
      · rintro ⟨⟨h1, h2⟩, h3, h4⟩
        refine ⟨List.pairwise_cons.2 ⟨?_, h3⟩, ?_⟩
        · intro x hx
          rcases List.mem_cons.1 hx with rfl | hx
          · exact h2
          · exact Nat.lt_trans h2 ((List.pairwise_cons.1 h3).1 x hx)
        · intro x hx
          rcases List.mem_cons.1 hx with rfl | hx
          · exact h1
          · exact h4 x hx
      · rintro ⟨h1, h2⟩
        exact ⟨⟨h2 c (by simp), (List.pairwise_cons.1 h1).1 d (by simp)⟩, (List.pairwise_cons.1 h1).2,
          fun x hx => h2 x (List.mem_cons_of_mem _ hx)⟩

/-- Cells dropped by any condition leave the form. -/
theorem mem_wf_filter (m : List Host.Cell) (p : Host.Cell → Bool) (h : Memory.wf m = true) :
    Memory.wf (m.filter p) = true := by
  rw [mem_wf_iff] at h ⊢
  exact ⟨h.1.filter p, fun c hc => h.2 c (List.mem_filter.1 hc).1⟩

/-- A write adds no address but its own. -/
theorem mem_set_bound (m : List Host.Cell) (a : Nat) (v : Byte) {c : Host.Cell} (hc : c ∈ Memory.set m a v) :
    c ∈ m ∨ c = (a, v) := by
  induction m with
  | nil =>
    unfold Memory.set at hc
    split at hc <;> simp_all
  | cons d r ih =>
    unfold Memory.set at hc
    split at hc
    · split at hc <;> simp_all [or_comm]
    · split at hc
      · split at hc <;> simp_all
        rcases hc with h | h <;> simp [h]
      · rcases List.mem_cons.1 hc with h | h
        · simp [h]
        · rcases ih h with h | h <;> simp [h]

/-- A write keeps the form. -/
theorem mem_wf_set (m : List Host.Cell) (a : Nat) (v : Byte) (h : Memory.wf m = true) :
    Memory.wf (Memory.set m a v) = true := by
  rw [mem_wf_iff] at h ⊢
  induction m with
  | nil => unfold Memory.set; split <;> simp_all
  | cons d r ih =>
    obtain ⟨h1, h2⟩ := h
    obtain ⟨hd, hr⟩ := List.pairwise_cons.1 h1
    have h2r : ∀ c ∈ r, c.2 ≠ memDefault := fun c hc => h2 c (List.mem_cons_of_mem _ hc)
    unfold Memory.set
    split
    · rename_i hlt
      split
      · exact ⟨h1, h2⟩
      · rename_i hv
        refine ⟨List.pairwise_cons.2 ⟨?_, h1⟩, ?_⟩
        · intro x hx
          rcases List.mem_cons.1 hx with rfl | hx
          · exact hlt
          · exact Nat.lt_trans hlt (hd x hx)
        · intro x hx
          rcases List.mem_cons.1 hx with rfl | hx
          · exact hv
          · exact h2 x hx
    · split
      · rename_i heq
        split
        · exact ⟨hr, h2r⟩
        · rename_i hv
          refine ⟨List.pairwise_cons.2 ⟨fun x hx => heq ▸ hd x hx, hr⟩, ?_⟩
          intro x hx
          rcases List.mem_cons.1 hx with rfl | hx
          · exact hv
          · exact h2r x hx
      · rename_i hge hne
        obtain ⟨i1, i2⟩ := ih ⟨hr, h2r⟩
        refine ⟨List.pairwise_cons.2 ⟨?_, i1⟩, ?_⟩
        · intro x hx
          rcases mem_set_bound r a v hx with hx | rfl
          · exact hd x hx
          · show d.1 < a
            omega
        · intro x hx
          rcases List.mem_cons.1 hx with rfl | hx
          · exact h2 _ (by simp)
          · exact i2 x hx

theorem mem_wf_write (b : Bytes) (m : List Host.Cell) (a : Nat) (h : Memory.wf m = true) :
    Memory.wf (Memory.write m a b) = true := by
  induction b generalizing m a with
  | nil => exact h
  | cons v r ih => exact ih _ _ (mem_wf_set m a v h)

theorem mem_wf_clear (m : List Host.Cell) (a n : Nat) (h : Memory.wf m = true) :
    Memory.wf (Memory.clear m a n) = true := mem_wf_filter m _ h

theorem mem_wf_copyFrame (m : List Host.Cell) (src dst n : Nat) (h : Memory.wf m = true) :
    Memory.wf (Memory.copyFrame m src dst n) = true := by
  unfold Memory.copyFrame
  have hc := mem_wf_clear m dst n h
  generalize Memory.clear m dst n = k at hc
  generalize m.filter _ = l
  induction l generalizing k with
  | nil => exact hc
  | cons c r ih => exact ih _ (mem_wf_set _ _ _ hc)

/-! ### Reading after writing -/

/-- Below the first cell every address reads as the default. -/
theorem mem_get_below (m : List Host.Cell) (a : Nat) (h : ∀ c ∈ m, a < c.1) : Memory.get m a = memDefault := by
  induction m with
  | nil => rfl
  | cons d r ih =>
    unfold Memory.get
    rw [if_neg (by have := h d (by simp); omega)]
    exact ih fun c hc => h c (List.mem_cons_of_mem _ hc)

/-- A read after a write of the same byte. -/
theorem mem_get_set_same (m : List Host.Cell) (a : Nat) (v : Byte) (h : Memory.wf m = true) :
    Memory.get (Memory.set m a v) a = v := by
  rw [mem_wf_iff] at h
  induction m with
  | nil => unfold Memory.set; split <;> simp_all [Memory.get]
  | cons d r ih =>
    obtain ⟨hd, hr⟩ := List.pairwise_cons.1 h.1
    have h2r : ∀ c ∈ r, c.2 ≠ memDefault := fun c hc => h.2 c (List.mem_cons_of_mem _ hc)
    unfold Memory.set
    split
    · rename_i hlt
      split
      · rename_i hv
        rw [hv]
        exact mem_get_below _ _ fun c hc => by
          rcases List.mem_cons.1 hc with rfl | hc
          · exact hlt
          · exact Nat.lt_trans hlt (hd c hc)
      · simp [Memory.get]
    · split
      · rename_i heq
        split
        · rename_i hv
          rw [hv]
          exact mem_get_below _ _ fun c hc => heq ▸ hd c hc
        · simp [Memory.get]
      · rename_i hne
        unfold Memory.get
        rw [if_neg (by omega)]
        exact ih ⟨hr, h2r⟩

/-- A read of another byte after a write. -/
theorem mem_get_set_other (m : List Host.Cell) (a b : Nat) (v : Byte) (hab : a ≠ b) (h : Memory.wf m = true) :
    Memory.get (Memory.set m a v) b = Memory.get m b := by
  rw [mem_wf_iff] at h
  induction m with
  | nil => unfold Memory.set; split <;> simp [Memory.get, hab]
  | cons d r ih =>
    obtain ⟨hd, hr⟩ := List.pairwise_cons.1 h.1
    have h2r : ∀ c ∈ r, c.2 ≠ memDefault := fun c hc => h.2 c (List.mem_cons_of_mem _ hc)
    unfold Memory.set
    split
    · split
      · rfl
      · simp [Memory.get, hab]
    · split
      · rename_i heq
        split <;> (simp only [Memory.get]; simp [hab, show ¬d.1 = b from fun e => hab (heq.trans e)])
      · simp only [Memory.get]
        split
        · rfl
        · exact ih ⟨hr, h2r⟩

/-- A byte outside a write reads as before. -/
theorem mem_get_write_outside (b : Bytes) (m : List Host.Cell) (a x : Nat) (hx : x < a ∨ a + b.length ≤ x)
    (h : Memory.wf m = true) : Memory.get (Memory.write m a b) x = Memory.get m x := by
  induction b generalizing m a with
  | nil => rfl
  | cons v r ih =>
    simp only [List.length_cons] at hx
    unfold Memory.write
    rw [ih _ _ (by omega) (mem_wf_set m a v h), mem_get_set_other m a x v (by omega) h]

/-- A byte of a write reads as written. -/
theorem mem_get_write_inside (b : Bytes) (m : List Host.Cell) (a i : Nat) (hi : i < b.length) (h : Memory.wf m = true) :
    Memory.get (Memory.write m a b) (a + i) = b[i] := by
  induction b generalizing m a i with
  | nil => simp at hi
  | cons v r ih =>
    unfold Memory.write
    cases i with
    | zero =>
      rw [mem_get_write_outside r _ _ _ (by omega) (mem_wf_set m a v h)]
      simpa using mem_get_set_same m a v h
    | succ i =>
      have hi' : i < r.length := by simpa using hi
      have := ih (Memory.set m a v) (a + 1) i hi' (mem_wf_set m a v h)
      rw [show a + (i + 1) = a + 1 + i by omega, this]
      simp

/-- A whole write reads back. -/
theorem mem_read_write (b : Bytes) (m : List Host.Cell) (a : Nat) (h : Memory.wf m = true) :
    Memory.read (Memory.write m a b) a b.length = b := by
  unfold Memory.read
  apply List.ext_getElem (by simp)
  intro i h1 h2
  simp only [List.getElem_map, List.getElem_range]
  exact mem_get_write_inside b m a i h2 h

/-- A byte outside a cleared range reads as before. -/
theorem mem_get_clear_outside (m : List Host.Cell) (a n x : Nat) (hx : x < a ∨ a + n ≤ x) :
    Memory.get (Memory.clear m a n) x = Memory.get m x := by
  induction m with
  | nil => rfl
  | cons d r ih =>
    unfold Memory.clear at ih ⊢
    rw [List.filter_cons]
    split
    · simp only [Memory.get]
      rw [ih]
    · rename_i hd
      rw [ih]
      simp only [Memory.get]
      rw [if_neg]
      rintro rfl
      simp at hd
      omega

/-! ### The memory operations of the state -/

theorem state_write_wf (s : State) (a : Nat) (b : Bytes) (h : Memory.wf s.mem.cells = true) :
    Memory.wf (s.write a b).mem.cells = true := mem_wf_write b _ a h

theorem state_writeBlock_wf (s : State) (a : Nat) (b : Bytes) (e : Int) (d : Nat) (h : Memory.wf s.mem.cells = true) :
    Memory.wf (s.writeBlock a b e d).mem.cells = true := mem_wf_write _ _ _ h

theorem state_copyFrame_wf (s : State) (src dst : Nat) (h : Memory.wf s.mem.cells = true) :
    Memory.wf (s.copyFrame src dst).mem.cells = true := mem_wf_copyFrame _ _ _ _ h

theorem writeRangeBytes_wf (b : Bytes) (s : State) (a : Nat) (h : Memory.wf s.mem.cells = true) :
    Memory.wf (writeRangeBytes s a b).mem.cells = true := by
  induction b generalizing s a with
  | nil => exact h
  | cons v r ih =>
    unfold writeRangeBytes
    apply ih
    split
    · exact state_write_wf _ _ _ h
    · exact h

theorem state_writeRange_wf (s : State) (a : Nat) (b : Bytes) (h : Memory.wf s.mem.cells = true) :
    Memory.wf (s.writeRange a b).mem.cells = true := writeRangeBytes_wf b s a h

theorem state_writeRangeBlock_wf (s : State) (a : Nat) (b : Bytes) (e : Int) (d : Nat) (h : Memory.wf s.mem.cells = true) :
    Memory.wf (s.writeRangeBlock a b e d).mem.cells = true := by
  unfold State.writeRangeBlock
  split
  · exact state_writeBlock_wf _ _ _ _ _ h
  · exact h

/-- What `write` stores reads back, and every other byte of the view is as before. -/
theorem state_read_write (s : State) (a : Nat) (b : Bytes) (h : Memory.wf s.mem.cells = true) :
    (s.write a b).read a b.length = b := mem_read_write b _ a h

theorem state_get_write_outside (s : State) (a x : Nat) (b : Bytes) (hx : x < a ∨ a + b.length ≤ x)
    (h : Memory.wf s.mem.cells = true) : Memory.get (s.write a b).mem.cells x = Memory.get s.mem.cells x :=
  mem_get_write_outside b _ a x hx h

end Sys2Proof.Laws
end

