-- ==== Sys2Proof/Laws/Keeps.lean ====
section
/-! SUPPORT. What every command keeps, as one relation between the state before and after: the queue of waiting commands, module
time and life, the canonical form of memory, fuses once burned, the lowest SVN, and RETIRED. The other Keeps files say it of
each operation. -/

namespace Sys2Proof.Laws

open Sys2Proof Sys2Proof.Machine

/-- RETIRED, and no erase in course that would bring another lifecycle state. -/
def RetiredFinal (c : Security) : Prop :=
  c.lifecycle = .retired ∧ ∀ r, c.erasing = some r → r.why = 1 → lifecycleOf r.target = .retired

/-- What a change of the security group keeps. -/
structure SecKeeps (c d : Security) : Prop where
  retired : RetiredFinal c → RetiredFinal d
  factory : c.factoryExit = true → d.factoryExit = true
  retire : c.retireFuse = true → d.retireFuse = true
  fuses : c.serviceFuses ≤ d.serviceFuses

theorem SecKeeps.refl (c : Security) : SecKeeps c c := ⟨id, id, id, Nat.le_refl _⟩

/-- A change that leaves lifecycle and fuses, and leaves the erase in course or ends it. -/
theorem SecKeeps.of_same {c d : Security} (h1 : d.lifecycle = c.lifecycle) (h2 : d.factoryExit = c.factoryExit)
    (h3 : d.retireFuse = c.retireFuse) (h4 : d.serviceFuses = c.serviceFuses)
    (h5 : d.erasing = c.erasing ∨ d.erasing = none) : SecKeeps c d := by
  refine ⟨fun h => ⟨h1.trans h.1, fun r hr => ?_⟩, fun h => h2.trans h, fun h => h3.trans h, Nat.le_of_eq h4.symm⟩
  rcases h5 with h5 | h5
  · exact h.2 r (h5.symm.trans hr)
  · exact absurd (h5.symm.trans hr) (by simp)

/-- What every command keeps. -/
structure Keeps (s t : State) : Prop where
  pending : t.pending = s.pending
  timeNs : t.clock.timeNs = s.clock.timeNs
  lifeS : t.clock.lifeS = s.clock.lifeS
  memWf : Memory.wf s.mem.cells = true → Memory.wf t.mem.cells = true
  sec : SecKeeps s.sec t.sec
  minSvn : s.fw.minSvn ≤ t.fw.minSvn

theorem Keeps.refl (s : State) : Keeps s s := ⟨rfl, rfl, rfl, id, SecKeeps.refl _, Nat.le_refl _⟩

theorem Keeps.trans {s t u : State} (a : Keeps s t) (b : Keeps t u) : Keeps s u :=
  ⟨b.pending.trans a.pending, b.timeNs.trans a.timeNs, b.lifeS.trans a.lifeS, fun h => b.memWf (a.memWf h),
    ⟨fun h => b.sec.retired (a.sec.retired h), fun h => b.sec.factory (a.sec.factory h),
      fun h => b.sec.retire (a.sec.retire h), Nat.le_trans a.sec.fuses b.sec.fuses⟩, Nat.le_trans a.minSvn b.minSvn⟩

/-- A change of nothing but groups that the relation does not speak of. -/
theorem Keeps.of_same {sB s t : State} (h : Keeps sB s) (h1 : t.pending = s.pending) (h2 : t.clock = s.clock)
    (h3 : t.mem.cells = s.mem.cells) (h4 : t.sec = s.sec) (h5 : t.fw.minSvn = s.fw.minSvn) : Keeps sB t :=
  h.trans ⟨h1, by rw [h2], by rw [h2], fun k => by rw [h3]; exact k, by rw [h4]; exact SecKeeps.refl _,
    Nat.le_of_eq h5.symm⟩

/-- What an act of a mailbox opcode keeps. -/
def ActKeeps (sB : State) : Act → Prop
  | .refuse _ _ => True
  | .done s _ _ _ => Keeps sB s
  | .long s _ _ _ => Keeps sB s
  | .wait => True

theorem mem_wf_nil : Memory.wf [] = true := rfl

variable {sB : State}

theorem act_refuse (st d : Nat) : ActKeeps sB (.refuse st d) := trivial
theorem act_wait : ActKeeps sB .wait := trivial
theorem act_done {s : State} (st d : Nat) (b : Bytes) (h : Keeps sB s) : ActKeeps sB (.done s st d b) := h
theorem act_long {s : State} (o a : List Nat) (b : Bytes) (h : Keeps sB s) : ActKeeps sB (.long s o a b) := h
theorem act_ite (p : Prop) [Decidable p] {a b : Act} (ha : ActKeeps sB a) (hb : ActKeeps sB b) : ActKeeps sB (if p then a else b) := by
  by_cases h : p
  · rw [if_pos h]; exact ha
  · rw [if_neg h]; exact hb

/-- What an operation that may find no room keeps. -/
def OptKeeps (sB : State) : Option State → Prop
  | some t => Keeps sB t
  | none => True

def OptKeeps1 {α : Type} (sB : State) : Option (State × α) → Prop
  | some t => Keeps sB t.1
  | none => True

def SumKeeps (sB : State) : State ⊕ Nat → Prop
  | .inl t => Keeps sB t
  | .inr _ => True

theorem opt_none : OptKeeps sB none := trivial
theorem opt_some {t : State} (h : Keeps sB t) : OptKeeps sB (some t) := h
theorem opt_get {o : Option State} {t : State} (h : OptKeeps sB o) (e : o = some t) : Keeps sB t := by
  rw [e] at h; exact h
theorem opt_getD {o : Option State} {t : State} (h : OptKeeps sB o) (k : Keeps sB t) : Keeps sB (o.getD t) := by
  cases o <;> assumption
theorem opt_map {o : Option State} (g : State → State) (h : OptKeeps sB o) (hg : ∀ a, Keeps sB a → Keeps sB (g a)) :
    OptKeeps sB (o.map g) := by
  cases o with
  | none => trivial
  | some a => exact hg a h
theorem opt_mapTo {α : Type} (o : Option α) (g : α → State) (hg : ∀ a, Keeps sB (g a)) : OptKeeps sB (o.map g) := by
  cases o with
  | none => trivial
  | some a => exact hg a
theorem opt1_none {α : Type} : OptKeeps1 (α := α) sB none := trivial
theorem opt1_some {α : Type} {t : State} (x : α) (h : Keeps sB t) : OptKeeps1 sB (some (t, x)) := h
theorem opt1_get {α : Type} {o : Option (State × α)} {t : State} {x : α} (h : OptKeeps1 sB o) (e : o = some (t, x)) :
    Keeps sB t := by
  rw [e] at h; exact h
theorem opt1_map {α : Type} {o : Option State} (g : State → State × α) (h : OptKeeps sB o)
    (hg : ∀ a, Keeps sB a → Keeps sB (g a).1) : OptKeeps1 sB (o.map g) := by
  cases o with
  | none => trivial
  | some a => exact hg a h
theorem pair_get {α : Type} {p : State × α} {t : State} {x : α} (h : Keeps sB p.1) (e : p = (t, x)) : Keeps sB t := by
  rw [e] at h; exact h
theorem pair_fst {α : Type} {t : State} (x : α) (h : Keeps sB t) : Keeps sB (t, x).1 := h
theorem pairr_get {α : Type} {p : α × State} {t : State} {x : α} (h : Keeps sB p.2) (e : p = (x, t)) : Keeps sB t := by
  rw [e] at h; exact h
theorem trip_get {α β : Type} {p : α × β × State} {t : State} {x : α} {y : β} (h : Keeps sB p.2.2) (e : p = (x, y, t)) :
    Keeps sB t := by
  rw [e] at h; exact h
theorem sum_inl {t : State} (h : Keeps sB t) : SumKeeps sB (.inl t) := h
theorem sum_inr (n : Nat) : SumKeeps sB (.inr n) := trivial
theorem sum_get {o : State ⊕ Nat} {t : State} (h : SumKeeps sB o) (e : o = .inl t) : Keeps sB t := by
  rw [e] at h; exact h

theorem keeps_foldl {α : Type} (g : State → α → State) (l : List α) (s : State)
    (hg : ∀ a x, Keeps sB a → Keeps sB (g a x)) (h : Keeps sB s) : Keeps sB (l.foldl g s) := by
  induction l generalizing s with
  | nil => exact h
  | cons x r ih => exact ih _ (hg s x h)

theorem keeps_foldl_fst {α β : Type} (g : State × β → α → State × β) (l : List α) (s : State × β)
    (hg : ∀ a x, Keeps sB a.1 → Keeps sB (g a x).1) (h : Keeps sB s.1) : Keeps sB (l.foldl g s).1 := by
  induction l generalizing s with
  | nil => exact h
  | cons x r ih => exact ih _ (hg s x h)

theorem keeps_foldl_opt {α : Type} (g : Option State → α → Option State) (l : List α) (o : Option State)
    (hg : ∀ a x, OptKeeps sB a → OptKeeps sB (g a x)) (h : OptKeeps sB o) : OptKeeps sB (l.foldl g o) := by
  induction l generalizing o with
  | nil => exact h
  | cons x r ih => exact ih _ (hg o x h)

theorem keeps_foldl_opt1 {α β : Type} (g : Option (State × β) → α → Option (State × β)) (l : List α) (o : Option (State × β))
    (hg : ∀ a x, OptKeeps1 sB a → OptKeeps1 sB (g a x)) (h : OptKeeps1 sB o) : OptKeeps1 sB (l.foldl g o) := by
  induction l generalizing o with
  | nil => exact h
  | cons x r ih => exact ih _ (hg o x h)

theorem opt1_map1 {α β : Type} {o : Option (State × α)} (g : State × α → State × β) (h : OptKeeps1 sB o)
    (hg : ∀ a, Keeps sB a.1 → Keeps sB (g a).1) : OptKeeps1 sB (o.map g) := by
  cases o with
  | none => trivial
  | some a => exact hg a h

/-! ### One group changed -/

theorem keeps_onClock (s : State) (f : Clock → Clock) (ht : ∀ c, (f c).timeNs = c.timeNs) (hl : ∀ c, (f c).lifeS = c.lifeS)
    (h : Keeps sB s) : Keeps sB (s.onClock f) :=
  h.trans ⟨rfl, ht _, hl _, id, SecKeeps.refl _, Nat.le_refl _⟩
theorem keeps_onMem (s : State) (f : Mem → Mem) (hf : ∀ m, Memory.wf m.cells = true → Memory.wf (f m).cells = true)
    (h : Keeps sB s) : Keeps sB (s.onMem f) := h.trans ⟨rfl, rfl, rfl, hf _, SecKeeps.refl _, Nat.le_refl _⟩
theorem keeps_onSec (s : State) (f : Security → Security) (hf : ∀ c, SecKeeps c (f c)) (h : Keeps sB s) :
    Keeps sB (s.onSec f) := h.trans ⟨rfl, rfl, rfl, id, hf _, Nat.le_refl _⟩
theorem keeps_onFw (s : State) (f : Firmware → Firmware) (hf : ∀ c, c.minSvn ≤ (f c).minSvn) (h : Keeps sB s) :
    Keeps sB (s.onFw f) := h.trans ⟨rfl, rfl, rfl, id, SecKeeps.refl _, hf _⟩
theorem keeps_onMbox (s : State) (f : Mbox → Mbox) (h : Keeps sB s) : Keeps sB (s.onMbox f) := h.of_same rfl rfl rfl rfl rfl
theorem keeps_onCfg (s : State) (f : Cfg → Cfg) (h : Keeps sB s) : Keeps sB (s.onCfg f) := h.of_same rfl rfl rfl rfl rfl
theorem keeps_onWts (s : State) (f : Weights → Weights) (h : Keeps sB s) : Keeps sB (s.onWts f) := h.of_same rfl rfl rfl rfl rfl
theorem keeps_onTiles (s : State) (f : Tiles → Tiles) (h : Keeps sB s) : Keeps sB (s.onTiles f) := h.of_same rfl rfl rfl rfl rfl
theorem keeps_onSteps (s : State) (f : Steps → Steps) (h : Keeps sB s) : Keeps sB (s.onSteps f) := h.of_same rfl rfl rfl rfl rfl
theorem keeps_onSrv (s : State) (f : Serving → Serving) (h : Keeps sB s) : Keeps sB (s.onSrv f) := h.of_same rfl rfl rfl rfl rfl
theorem keeps_onKv (s : State) (f : Kv → Kv) (h : Keeps sB s) : Keeps sB (s.onKv f) := h.of_same rfl rfl rfl rfl rfl
theorem keeps_onAdp (s : State) (f : Adapters → Adapters) (h : Keeps sB s) : Keeps sB (s.onAdp f) := h.of_same rfl rfl rfl rfl rfl
theorem keeps_onFab (s : State) (f : Fabric → Fabric) (h : Keeps sB s) : Keeps sB (s.onFab f) := h.of_same rfl rfl rfl rfl rfl
theorem keeps_onPwr (s : State) (f : Power → Power) (h : Keeps sB s) : Keeps sB (s.onPwr f) := h.of_same rfl rfl rfl rfl rfl
theorem keeps_onInteg (s : State) (f : Integ → Integ) (h : Keeps sB s) : Keeps sB (s.onInteg f) := h.of_same rfl rfl rfl rfl rfl
theorem keeps_onPins (s : State) (f : Pins → Pins) (h : Keeps sB s) : Keeps sB (s.onPins f) := h.of_same rfl rfl rfl rfl rfl
theorem keeps_onCounters (s : State) (f : Tbl Nat → Tbl Nat) (h : Keeps sB s) : Keeps sB (s.onCounters f) := h.of_same rfl rfl rfl rfl rfl

end Sys2Proof.Laws
end

