-- ==== Sys2Proof/Laws/KeepsOps.lean ====
section
/-! SUPPORT. What the operations of Machine/Ops.lean keep (Laws/Keeps.lean says what that is). -/

namespace Sys2Proof.Laws

open Sys2Proof Sys2Proof.Machine

variable {sB : State}

theorem keeps_State_emit (s : State) (o : Out)  (hK : Keeps sB s) : Keeps sB (State.emit s o) := by
  unfold State.emit
  repeat' first
    | with_reducible assumption
    | intro _
    | split
    | dsimp only
    | exact Keeps.of_same hK rfl rfl rfl rfl rfl

theorem keeps_State_emits (s : State) (os : List Out)  (hK : Keeps sB s) : Keeps sB (State.emits s os) := by
  unfold State.emits
  repeat' first
    | with_reducible assumption
    | intro _
    | split
    | dsimp only
    | exact Keeps.of_same hK rfl rfl rfl rfl rfl

theorem keeps_State_drawn (s : State)  (hK : Keeps sB s) : Keeps sB (State.drawn s) := by
  unfold State.drawn
  repeat' first
    | with_reducible assumption
    | intro _
    | split
    | dsimp only
    | exact Keeps.of_same hK rfl rfl rfl rfl rfl

theorem keeps_State_count (s : State) (id inst n : Nat)  (hK : Keeps sB s) : Keeps sB (State.count s id inst n) := by
  unfold State.count
  repeat' first
    | with_reducible assumption
    | intro _
    | split
    | dsimp only
    | exact Keeps.of_same hK rfl rfl rfl rfl rfl

theorem keeps_State_gauge (s : State) (id inst v : Nat)  (hK : Keeps sB s) : Keeps sB (State.gauge s id inst v) := by
  unfold State.gauge
  repeat' first
    | with_reducible assumption
    | intro _
    | split
    | dsimp only
    | exact Keeps.of_same hK rfl rfl rfl rfl rfl

theorem keeps_State_vector (s : State) (n : Nat)  (hK : Keeps sB s) : Keeps sB (State.vector s n) := by
  unfold State.vector
  repeat' first
    | with_reducible assumption
    | with_reducible apply keeps_State_emit
    | with_reducible apply keeps_onMbox
    | intro _
    | split
    | dsimp only

theorem keeps_State_msixWrite (s : State) (i : Nat) (w : Word32)  (hK : Keeps sB s) : Keeps sB (State.msixWrite s i w) := by
  unfold State.msixWrite
  repeat' first
    | with_reducible assumption
    | with_reducible apply keeps_State_emit
    | with_reducible apply keeps_State_vector
    | with_reducible apply keeps_onMbox
    | intro _
    | split
    | dsimp only

theorem keeps_State_raiseIrq (s : State) (c : Nat)  (hK : Keeps sB s) : Keeps sB (State.raiseIrq s c) := by
  unfold State.raiseIrq
  repeat' first
    | with_reducible assumption
    | with_reducible apply keeps_State_vector
    | with_reducible apply keeps_State_log
    | with_reducible apply keeps_onMbox
    | intro _
    | split
    | dsimp only

theorem keeps_State_event (s : State) (code : Nat) (u : UnitId) (a0 a1 : Nat)  (hK : Keeps sB s) : Keeps sB (State.event s code u a0 a1) := by
  unfold State.event
  repeat' first
    | with_reducible assumption
    | with_reducible apply keeps_State_raiseIrq
    | with_reducible apply keeps_onInteg
    | intro _
    | split
    | dsimp only

theorem keeps_State_log (s : State) (code : Nat) (u : UnitId) (a0 a1 : Nat)  (hK : Keeps sB s) : Keeps sB (State.log s code u a0 a1) := by
  unfold State.log
  repeat' first
    | with_reducible assumption
    | with_reducible apply keeps_onInteg
    | intro _
    | split
    | dsimp only

theorem keeps_State_setAlert (s : State)  (hK : Keeps sB s) : Keeps sB (State.setAlert s) := by
  unfold State.setAlert
  repeat' first
    | with_reducible assumption
    | with_reducible apply keeps_onPins
    | intro _
    | split
    | dsimp only

theorem keeps_State_exportPldm (s : State)  (hK : Keeps sB s) : Keeps sB (State.exportPldm s) := by
  unfold State.exportPldm
  repeat' first
    | with_reducible assumption
    | with_reducible apply keeps_State_emit
    | with_reducible apply keeps_onInteg
    | intro _
    | split
    | dsimp only

theorem keeps_State_putCollector (s : State) (c : Nat) (x : Collector)  (hK : Keeps sB s) : Keeps sB (State.putCollector s c x) := by
  unfold State.putCollector
  repeat' first
    | with_reducible assumption
    | with_reducible apply keeps_onInteg
    | intro _
    | split
    | dsimp only

theorem keeps_State_exportTo (s : State) (c : Nat) (z0 : Nat)  (hK : Keeps sB s) : Keeps sB (State.exportTo s c z0) := by
  induction z0 generalizing s c with
  | zero =>
    unfold State.exportTo
    repeat' first
      | with_reducible assumption
      | with_reducible apply ih
      | with_reducible apply keeps_State_emit
      | with_reducible apply keeps_State_putCollector
      | intro _
      | split
      | dsimp only
  | succ n ih =>
    unfold State.exportTo
    repeat' first
      | with_reducible assumption
      | with_reducible apply ih
      | with_reducible apply keeps_State_emit
      | with_reducible apply keeps_State_putCollector
      | intro _
      | split
      | dsimp only

theorem keeps_State_exportCollectors (s : State)  (hK : Keeps sB s) : Keeps sB (State.exportCollectors s) := by
  unfold State.exportCollectors
  repeat' first
    | with_reducible assumption
    | with_reducible apply keeps_foldl
    | with_reducible apply keeps_State_exportTo
    | intro _
    | split
    | dsimp only

theorem keeps_State_exportFaults (s : State)  (hK : Keeps sB s) : Keeps sB (State.exportFaults s) := by
  unfold State.exportFaults
  repeat' first
    | with_reducible assumption
    | with_reducible apply keeps_State_exportPldm
    | with_reducible apply keeps_State_exportCollectors
    | with_reducible apply keeps_State_fault
    | intro _
    | split
    | dsimp only

theorem keeps_State_storeFault (s : State) (r : FaultRec)  (hK : Keeps sB s) : Keeps sB (State.storeFault s r) := by
  unfold State.storeFault
  repeat' first
    | with_reducible assumption
    | with_reducible apply keeps_State_count
    | with_reducible apply keeps_State_raiseIrq
    | with_reducible apply keeps_State_log
    | with_reducible apply keeps_State_setAlert
    | with_reducible apply keeps_State_exportFaults
    | with_reducible apply keeps_onInteg
    | intro _
    | split
    | dsimp only

theorem keeps_State_faultRecord (s : State) (code : Nat) (u : UnitId) (c : FaultCtx) (n : Nat)  (hK : Keeps sB s) : Keeps sB (State.faultRecord s code u c n) := by
  unfold State.faultRecord
  repeat' first
    | with_reducible assumption
    | with_reducible apply keeps_State_count
    | with_reducible apply keeps_State_storeFault
    | intro _
    | split
    | dsimp only

theorem keeps_State_fault (s : State) (code : Nat) (u : UnitId) (c : FaultCtx)  (hK : Keeps sB s) : Keeps sB (State.fault s code u c) := by
  unfold State.fault
  repeat' first
    | with_reducible assumption
    | with_reducible apply keeps_State_count
    | with_reducible apply keeps_State_faultRecord
    | with_reducible apply keeps_onInteg
    | intro _
    | split
    | dsimp only

theorem keeps_State_write (s : State) (a : Nat) (b : Bytes)  (hK : Keeps sB s) : Keeps sB (State.write s a b) := by
  unfold State.write
  repeat' first
    | with_reducible assumption
    | with_reducible apply keeps_onMem
    | (show Memory.wf _ = true; first | exact mem_wf_nil | exact mem_wf_filter _ _ (by assumption) | exact mem_wf_write _ _ _ (by assumption) | exact mem_wf_clear _ _ _ (by assumption) | assumption)
    | intro _
    | split
    | dsimp only

theorem keeps_State_writeBlock (s : State) (a : Nat) (b : Bytes) (exp : Int) (a8d : Nat)  (hK : Keeps sB s) : Keeps sB (State.writeBlock s a b exp a8d) := by
  unfold State.writeBlock
  repeat' first
    | with_reducible assumption
    | with_reducible apply keeps_State_write
    | with_reducible apply keeps_onMem
    | (show Memory.wf _ = true; first | exact mem_wf_nil | exact mem_wf_filter _ _ (by assumption) | exact mem_wf_write _ _ _ (by assumption) | exact mem_wf_clear _ _ _ (by assumption) | assumption)
    | intro _
    | split
    | dsimp only

theorem keeps_writeRangeBytes (s : State) (a : Nat) (z0 : Bytes)  (hK : Keeps sB s) : Keeps sB (writeRangeBytes s a z0) := by
  induction z0 generalizing s a with
  | nil =>
    unfold writeRangeBytes
    repeat' first
      | with_reducible assumption
      | with_reducible apply ih
      | with_reducible apply keeps_State_write
      | intro _
      | split
      | dsimp only
  | cons y r ih =>
    unfold writeRangeBytes
    repeat' first
      | with_reducible assumption
      | with_reducible apply ih
      | with_reducible apply keeps_State_write
      | intro _
      | split
      | dsimp only

theorem keeps_State_writeRange (s : State) (a : Nat) (b : Bytes)  (hK : Keeps sB s) : Keeps sB (State.writeRange s a b) := by
  unfold State.writeRange
  repeat' first
    | with_reducible assumption
    | with_reducible apply keeps_writeRangeBytes
    | intro _
    | split
    | dsimp only

theorem keeps_State_writeRangeBlock (s : State) (a : Nat) (b : Bytes) (exp : Int) (a8d : Nat)  (hK : Keeps sB s) : Keeps sB (State.writeRangeBlock s a b exp a8d) := by
  unfold State.writeRangeBlock
  repeat' first
    | with_reducible assumption
    | with_reducible apply keeps_State_writeBlock
    | intro _
    | split
    | dsimp only

end Sys2Proof.Laws
end

