-- ==== Sys2Proof/Laws/KeepsFlags.lean ====
section
/-! SUPPORT. What the operations of Machine/Flags.lean keep (Laws/Keeps.lean says what that is). -/

namespace Sys2Proof.Laws

open Sys2Proof Sys2Proof.Machine

variable {sB : State}

theorem keeps_State_noteState (s0 s1 : State)  (hK : Keeps sB s1) : Keeps sB (State.noteState s0 s1) := by
  unfold State.noteState
  repeat' first
    | with_reducible assumption
    | with_reducible apply keeps_State_raiseIrq
    | intro _
    | split
    | dsimp only

theorem keeps_State_traceRec (s : State) (kind layer tile desc step arg : Nat)  (hK : Keeps sB s) : Keeps sB (State.traceRec s kind layer tile desc step arg) := by
  unfold State.traceRec
  repeat' first
    | with_reducible assumption
    | with_reducible apply keeps_onSec
    | (show SecKeeps _ _; exact SecKeeps.of_same rfl rfl rfl rfl (by first | exact Or.inl rfl | exact Or.inr rfl))
    | intro _
    | split
    | dsimp only

theorem keeps_State_stall (s : State) (ct inst ns layer tile desc step : Nat) (cause : Nat)  (hK : Keeps sB s) : Keeps sB (State.stall s ct inst ns layer tile desc step cause) := by
  unfold State.stall
  repeat' first
    | with_reducible assumption
    | with_reducible apply keeps_State_count
    | with_reducible apply keeps_State_traceRec
    | intro _
    | split
    | dsimp only

end Sys2Proof.Laws
end

