-- ==== Sys2Proof/Laws/KeepsSlots.lean ====
section
/-! SUPPORT. What the operations of Machine/Slots.lean keep (Laws/Keeps.lean says what that is). -/

namespace Sys2Proof.Laws

open Sys2Proof Sys2Proof.Machine

variable {sB : State}

theorem keeps_State_putSlot (s : State) (p : MPort) (i : Nat) (x : Slot)  (hK : Keeps sB s) : Keeps sB (State.putSlot s p i x) := by
  unfold State.putSlot
  repeat' first
    | with_reducible assumption
    | with_reducible apply keeps_onMbox
    | intro _
    | split
    | dsimp only

theorem keeps_State_post (s : State) (p : MPort) (i : Nat) (img : SlotImage) (path : MPath)  (hK : Keeps sB s) : Keeps sB (State.post s p i img path) := by
  unfold State.post
  repeat' first
    | with_reducible assumption
    | with_reducible apply keeps_State_putSlot
    | intro _
    | split
    | dsimp only

theorem keeps_State_signal (s : State) (p : MPort) (i : Nat) (x : Slot)  (hK : Keeps sB s) : Keeps sB (State.signal s p i x) := by
  unfold State.signal
  repeat' first
    | with_reducible assumption
    | with_reducible apply keeps_State_emit
    | with_reducible apply keeps_State_vector
    | with_reducible apply keeps_onMbox
    | intro _
    | split
    | dsimp only

theorem keeps_State_handBack (s : State) (p : MPort) (i st det : Nat) (pay : Bytes) (acc : Bool)  (hK : Keeps sB s) : Keeps sB (State.handBack s p i st det pay acc) := by
  unfold State.handBack
  repeat' first
    | with_reducible assumption
    | with_reducible apply keeps_State_putSlot
    | with_reducible apply keeps_State_signal
    | intro _
    | split
    | dsimp only

theorem keeps_State_interim (s : State) (p : MPort) (i prog : Nat) (loud : Bool)  (hK : Keeps sB s) : Keeps sB (State.interim s p i prog loud) := by
  unfold State.interim
  repeat' first
    | with_reducible assumption
    | with_reducible apply keeps_State_putSlot
    | with_reducible apply keeps_State_signal
    | intro _
    | split
    | dsimp only

theorem keeps_State_setTxnField (s : State) (p : MPort) (i txn : Nat)  (hK : Keeps sB s) : Keeps sB (State.setTxnField s p i txn) := by
  unfold State.setTxnField
  repeat' first
    | with_reducible assumption
    | with_reducible apply keeps_State_putSlot
    | intro _
    | split
    | dsimp only

theorem keeps_State_dropRunning (s : State) (r : Running)  (hK : Keeps sB s) : Keeps sB (State.dropRunning s r) := by
  unfold State.dropRunning
  repeat' first
    | with_reducible assumption
    | with_reducible apply keeps_onMbox
    | intro _
    | split
    | dsimp only

theorem keeps_State_finishRun (s : State) (r : Running) (st det : Nat) (pay : Bytes)  (hK : Keeps sB s) : Keeps sB (State.finishRun s r st det pay) := by
  unfold State.finishRun
  repeat' first
    | with_reducible assumption
    | with_reducible apply keeps_State_handBack
    | with_reducible apply keeps_State_dropRunning
    | intro _
    | split
    | dsimp only

theorem keeps_State_finishAt (s : State) (p : MPort) (i st det : Nat) (pay : Bytes)  (hK : Keeps sB s) : Keeps sB (State.finishAt s p i st det pay) := by
  unfold State.finishAt
  repeat' first
    | with_reducible assumption
    | with_reducible apply keeps_State_finishRun
    | intro _
    | split
    | dsimp only

theorem keeps_State_carryOut (s : State) (c : Cmd) (z0 : Act) (hz0 : ActKeeps sB z0) (hK : Keeps sB s) : Keeps sB (State.carryOut s c z0) := by
  unfold State.carryOut
  repeat' first
    | with_reducible assumption
    | with_reducible exact act_refuse _ _
    | with_reducible exact act_wait
    | with_reducible apply act_done
    | with_reducible apply act_long
    | exact hz0
    | with_reducible apply keeps_State_handBack
    | with_reducible apply keeps_State_interim
    | with_reducible apply keeps_onMbox
    | intro _
    | split
    | dsimp only

/-- An act that a command's checks reach, and what it rests on. -/
theorem keeps_State_runOp_checked (s0 : State) (q : Req) (op : Nat) (mine : Cmd → Bool) (own : State → Cmd → List (Bool × Nat × Nat))
    (act : State → Cmd → Act)
    (hact : ∀ a c, Keeps sB a → (c.hdr.opcode = op ∨ (opInfo c.hdr.opcode).isNone = true) → a.refusal c (own a c) = none →
      ActKeeps sB (act a c)) (hK : Keeps sB s0) : Keeps sB (State.runOp s0 q op mine own act) := by
  unfold State.runOp
  extract_lets s c
  have hs : Keeps sB s := by
    unfold s; split
    · exact keeps_State_post _ _ _ _ _ hK
    · exact hK
  split
  · rename_i hc
    split
    · exact keeps_State_carryOut _ _ _ trivial hs
    · rename_i hn
      refine keeps_State_carryOut _ _ _ (hact _ _ hs ?_ hn) hs
      simp only [Bool.and_eq_true, Bool.or_eq_true, beq_iff_eq] at hc
      rcases hc.2 with h | h
      · exact Or.inl h.1
      · exact Or.inr h
  · exact hs

theorem keeps_State_runOp (s0 : State) (q : Req) (op : Nat) (mine : Cmd → Bool) (own : State → Cmd → List (Bool × Nat × Nat))
    (act : State → Cmd → Act) (hact : ∀ a0 a1, Keeps sB a0 → ActKeeps sB (act a0 a1)) (hK : Keeps sB s0) :
    Keeps sB (State.runOp s0 q op mine own act) :=
  keeps_State_runOp_checked _ _ _ _ _ _ (fun a c h _ _ => hact a c h) hK

theorem keeps_State_runOpThen (s0 : State) (q : Req) (op : Nat) (mine : Cmd → Bool) (own : State → Cmd → List (Bool × Nat × Nat))
    (act : State → Cmd → Act) (after : State → State) (hact : ∀ a0 a1, Keeps sB a0 → ActKeeps sB (act a0 a1))
    (ha : ∀ t, Keeps sB t → Keeps sB (after t)) (hK : Keeps sB s0) :
    Keeps sB (State.runOpThen s0 q op mine own act after) := by
  have h := keeps_State_runOp s0 q op mine own act hact hK
  unfold State.runOpThen
  dsimp only
  split
  · exact ha _ h
  · exact h

theorem firstFail_none {l : List (Bool × Nat × Nat)} (h : firstFail l = none) {x : Bool × Nat × Nat} (hx : x ∈ l) :
    x.1 = false := by
  induction l with
  | nil => exact absurd hx (by simp)
  | cons y r ih =>
    obtain ⟨b, st, d⟩ := y
    unfold firstFail at h
    split at h
    · exact absurd h (by simp)
    · rename_i hb
      rcases List.mem_cons.mp hx with e | e
      · rw [e]; simpa using hb
      · exact ih h e

/-- A command past its checks stands in its opcode's row, and the row admits the module's state. -/
theorem refusal_none_state {s : State} {c : Cmd} {own : List (Bool × Nat × Nat)} (h : s.refusal c own = none) :
    (opInfo c.hdr.opcode).isNone = false ∧
      s.opState ((opInfo c.hdr.opcode).getD ⟨0, 0, 0, false, false⟩) c.port (rd 4 c.pay 0) = true := by
  unfold State.refusal at h
  constructor
  · exact firstFail_none h (x := ((opInfo c.hdr.opcode).isNone, stBadOpcode, 0x02)) (by simp [State.headChecks])
  · have := firstFail_none h (x := (!s.opState ((opInfo c.hdr.opcode).getD ⟨0, 0, 0, false, false⟩) c.port (rd 4 c.pay 0),
      stStateDenied, 0x02)) (by simp [State.headChecks])
    simpa using this

theorem opInfo_ownership : opInfo 0x0902 = some ⟨0x0902, 2, 1, false, true⟩ := by decide

theorem keeps_State_objAct (s : State) (op : Nat) (obj : List Nat) (k : Act) (hk : ActKeeps sB k) (hK : Keeps sB s) : ActKeeps sB (State.objAct s op obj k) := by
  unfold State.objAct
  repeat' first
    | with_reducible assumption
    | with_reducible exact act_refuse _ _
    | with_reducible exact act_wait
    | with_reducible apply act_done
    | with_reducible apply act_long
    | exact hk
    | intro _
    | split
    | dsimp only

end Sys2Proof.Laws
end

