-- ==== Sys2Proof/Laws/Slots.lean ====
section
/-! SUPPORT. The frame of a mailbox opcode: where its checks pass, a command does what its home rule's act says. -/

namespace Sys2Proof.Laws

open Sys2Proof Sys2Proof.Machine

theorem lt_false {a b : Nat} (h : b ≤ a) : decide (a < b) = false := decide_eq_false (Nat.not_lt.mpr h)
theorem le_false {a b : Nat} (h : b < a) : decide (a ≤ b) = false := decide_eq_false (Nat.not_le.mpr h)

theorem firstFail_of_all {l : List (Bool × Nat × Nat)} (h : ∀ x ∈ l, x.1 = false) : firstFail l = none := by
  induction l with
  | nil => rfl
  | cons x r ih =>
    obtain ⟨b, st, d⟩ := x
    have hb : b = false := h (b, st, d) (by simp)
    rw [hb]
    exact ih (fun y hy => h y (by simp [hy]))

variable {s t : State} {q : Req} {c : Cmd} {op len : Nat}

theorem finds_head (h : Finds s q t c op len) : ∀ x ∈ t.headChecks c, x.1 = false := by
  obtain ⟨o, ho, hp, hs⟩ := h.allowed
  intro x hx
  simp only [State.headChecks, h.opcode, ho, Option.getD_some, List.mem_cons, List.not_mem_nil, or_false] at hx
  rcases hx with rfl | rfl | rfl | rfl | rfl | rfl | rfl
  · simpa using h.seq
  · have hr := h.rsv0
    cases hn : c.hdr.noIrq with
    | false => simp [hr]
    | true => simp [hr, h.noIrq hn]
  · simp [h.rsvC]
  · exact h.rsvTail
  · rfl
  · simp [hp]
  · simp [hs]

theorem finds_txn (h : Finds s q t c op len) : ∀ x ∈ t.txnCheck c, x.1 = false := by
  intro x hx
  simp only [State.txnCheck, List.mem_cons, List.not_mem_nil, or_false] at hx
  subst hx
  rcases h.txn with e | e | e <;> simp [e]

theorem noPayload_ok (h : Finds s q t c op 0) : ∀ x ∈ noPayload t c, x.1 = false := by
  simp [noPayload, lenIs, h.lenEq]

/-- A command that `Finds` describes, with its own checks passed, is not refused. -/
theorem finds_refusal (h : Finds s q t c op len) {own : State → Cmd → List (Bool × Nat × Nat)}
    (ho : ∀ x ∈ own t c, x.1 = false) : t.refusal c (own t c) = none := by
  unfold State.refusal
  refine firstFail_of_all (fun x hx => ?_)
  simp only [List.mem_append] at hx
  rcases hx with ((hx | hx) | hx) | hx
  · exact finds_head h x hx
  · simp only [List.mem_cons, List.not_mem_nil, or_false] at hx
    subst hx
    have hl := h.lenEq
    have hr := h.room
    simp [hl, hr]
  · exact ho x hx
  · exact finds_txn h x hx

/-- A command whose own checks pass is carried out. -/
theorem runOp_finds (h : Finds s q t c op len) {mine : Cmd → Bool} {own : State → Cmd → List (Bool × Nat × Nat)}
    {act : State → Cmd → Act} (hm : mine c = true) (ho : ∀ x ∈ own t c, x.1 = false) :
    s.runOp q op mine own act = t.carryOut c (act t c) := by
  have e : s.runOp q op mine own act = (let t := foundIn s q
      let c := t.cmdAt q.port q.slot
      if t.served q.port && q.slot < slotCount q.port && c.hdr.owner && !c.hdr.started &&
          ((c.hdr.opcode == op && mine c) || (opInfo c.hdr.opcode).isNone) then
        match t.refusal c (own t c) with
        | some (st, d) => t.carryOut c (.refuse st d)
        | none => t.carryOut c (act t c)
      else t) := rfl
  have hport : q.port = c.port := by rw [← h.here]; rfl
  have hslot : q.slot = c.slot := by rw [← h.here]; rfl
  rw [e]
  dsimp only
  rw [h.found, h.here]
  rw [finds_refusal h ho, hport, hslot]
  simp [h.owner, h.fresh, h.served, h.inRange, h.opcode, hm]

/-- A command with a short act ends as the act says. -/
theorem runOp_done (h : Finds s q t c op len) {mine : Cmd → Bool} {own : State → Cmd → List (Bool × Nat × Nat)}
    {act : State → Cmd → Act} {u : State} {pay : Bytes} (hm : mine c = true) (ho : ∀ x ∈ own t c, x.1 = false)
    (ha : act t c = .done u stOk 0 pay) : s.runOp q op mine own act = endsIn u c pay := by
  rw [runOp_finds h hm ho, ha]
  rfl

/-- A command with long work starts as the act says. -/
theorem runOp_long (h : Finds s q t c op len) {mine : Cmd → Bool} {own : State → Cmd → List (Bool × Nat × Nat)}
    {act : State → Cmd → Act} {u : State} {obj args : List Nat} {body : Bytes} (hm : mine c = true)
    (ho : ∀ x ∈ own t c, x.1 = false) (ha : act t c = .long u obj args body) (hn : u.now = t.now) :
    s.runOp q op mine own act = runsIn u c obj args body := by
  rw [runOp_finds h hm ho, ha]
  unfold State.carryOut runsIn
  rw [hn]

/-- What follows a command follows it where it is carried out. -/
theorem runOpThen_finds (h : Finds s q t c op len) {mine : Cmd → Bool} {own : State → Cmd → List (Bool × Nat × Nat)}
    {act : State → Cmd → Act} (after : State → State) (hm : mine c = true) (ho : ∀ x ∈ own t c, x.1 = false)
    (ha : ∀ st d, act t c ≠ .refuse st d) (hw : act t c ≠ .wait) : s.runOpThen q op mine own act after = after (t.carryOut c (act t c)) := by
  have hr : s.runs q op mine own act = true := by
    have e : s.runs q op mine own act = (let t := foundIn s q
        let c := t.cmdAt q.port q.slot
        t.served q.port && decide (q.slot < slotCount q.port) && c.hdr.owner && !c.hdr.started && c.hdr.opcode == op && mine c &&
          (t.refusal c (own t c)).isNone && (match act t c with
            | .done _ _ _ _ => true
            | .long _ _ _ _ => true
            | _ => false)) := rfl
    have hport : q.port = c.port := by rw [← h.here]; rfl
    have hslot : q.slot = c.slot := by rw [← h.here]; rfl
    rw [e]
    dsimp only
    rw [h.found, h.here, finds_refusal h ho, hport, hslot]
    cases hx : act t c with
    | refuse st d => exact absurd hx (ha st d)
    | wait => exact absurd hx hw
    | _ => simp [h.owner, h.fresh, h.served, h.inRange, h.opcode, hm]
  unfold State.runOpThen
  dsimp only
  rw [hr, if_pos rfl, runOp_finds h hm ho]

theorem objAct_free {obj : List Nat} {k : Act} (h : objFree t obj) : t.objAct op obj k = k := by
  unfold State.objAct
  have : t.mbox.running.find? (fun r => r.obj == obj) = none := by
    rw [List.find?_eq_none]
    intro x hx
    have := h
    unfold objFree at this
    rw [List.any_eq_false] at this
    exact this x hx
  rw [this]

end Sys2Proof.Laws
end

