-- ==== Sys2Proof/Laws/Arrive.lean ====
section
/-! SUPPORT. The frames of packets, messages and requests: where their checks pass, each is given to its rule. -/

namespace Sys2Proof.Laws

open Sys2Proof Sys2Proof.Machine

variable {s u : State} {port : Nat} {k k1 : Packet}

/-- A packet that lands is given to its row's rule. -/
theorem arrive_lands (h : Lands s port k k1 u) {mine : Packet → Bool} (hm : mine k = true) (rule : State → Packet → State) :
    s.arrive port k mine rule = rule u k1 := by
  unfold State.arrive
  rw [if_neg (by simp [h.up, h.main]), if_neg (by simp [hm])]
  dsimp only
  rw [← h.released, if_neg (by simp [h.good]), if_neg (by simp [h.marked]), if_neg (by simp [h.ours]), if_neg (by simp [h.fresh])]
  rcases h.reached with ⟨h1, h2⟩ | ⟨h1, h2, h3⟩
  · rw [if_pos (by simp [h1]), h2]
  · rw [if_neg (by simp [h1]), ← h2, h3]

theorem parseMsg_lands (h : Lands s port k k1 u) : parseMsg k1 = parseMsg k := by
  rcases h.reached with ⟨_, h2⟩ | ⟨_, h2, _⟩
  · rw [h2]
  · rw [h2]
    split <;> rfl

/-- A whole message is given to its rule. -/
theorem recvMsg_hears {msg : Nat} {m : Msg} (h : Hears s port k msg u m) (rule : State → Msg → State) :
    s.recvMsg port k msg rule = rule u m := by
  obtain ⟨k1, v, m1, hl, hp, hm, hj⟩ := h.lands
  unfold State.recvMsg
  dsimp only
  rw [arrive_lands hl]
  · rw [parseMsg_lands hl, hp]
    dsimp only
    rw [hj]
  · rcases h.onType with e | e <;> simp [e, hp, hm]

/-- A request whose form passes is given to its rule. -/
theorem request_asks {qp ty client : Nat} {msg : Bytes} {own : Nat → List (Bool × Nat × Nat)}
    (h : Asks s qp msg ty own u client) (needSession needEpoch : Bool) (rule : State → Nat → ReqRec → Option Sess → Verdict) {v : State}
    (hs : (needSession && !((u.sessById (hdSession msg)).any fun y => y.client == client)) = false)
    (he : (needEpoch && !((u.sessById (hdSession msg)).any fun y => y.epoch == hdEpoch msg)) = false)
    (hr : rule u client (asked u qp msg) (u.sessById (hdSession msg)) = .yes v) :
    s.request qp msg ty own needSession needEpoch rule =
      (v.modSess (hdSession msg % 4096) fun y => if needSession then { y with lastQp := qp } else y).count ctRequests
        (client * 256 + hdType msg) 1 := by
  obtain ⟨q, hq, hc⟩ := h.pair
  obtain ⟨h1, h2, h3⟩ := h.long
  have hty := h.ofType
  unfold State.request
  dsimp only
  rw [← h.found, hq]
  dsimp only
  rw [if_neg (by simp [h.lead, hty]), hc]
  have hf : firstFail ([ (rd 4 msg 4 != msg.length || decide (msg.length < 32), stLenRange, 4) ] ++ reservedBad msg ++
      [ (partsLen msg != msg.length, stLenRange, 4) ] ++ own client) = none := by
    refine firstFail_of_all (fun e he => ?_)
    simp only [List.mem_append, List.mem_cons, List.not_mem_nil, or_false] at he
    rcases he with ((rfl | he) | rfl) | he
    · simp [h2]; omega
    · exact h.form e (List.mem_append_left _ he)
    · simp [h3]
    · exact h.form e (List.mem_append_right _ he)
  rw [hf]
  dsimp only
  rw [if_neg (by simp [hs]), if_neg (by simp [he])]
  have ha : ({ qp := qp, tag := hdTag msg, mtype := ty, startedNs := u.now } : ReqRec) = asked u qp msg := by
    rw [← hty]; rfl
  rw [ha, hr, hty]

theorem request_session {qp ty client : Nat} {msg : Bytes} {own : Nat → List (Bool × Nat × Nat)} {x : Sess}
    (h : Asks s qp msg ty own u client) (hx : ofSession u msg client x) (needEpoch : Bool)
    (rule : State → Nat → ReqRec → Option Sess → Verdict) {v : State} (hr : rule u client (asked u qp msg) (some x) = .yes v) :
    s.request qp msg ty own true needEpoch rule = taken v qp client msg := by
  obtain ⟨h1, h2, h3⟩ := hx
  rw [request_asks h true needEpoch rule (v := v) (by simp [h1, h2]) (by simp [h1, h3]) (by rw [h1]; exact hr)]
  rfl

/-- An operator whose inputs can be read computes on them. -/
theorem withInputs_ready {r : Run} {phys range : List (Nat × Nat)} (h : inputsReady s phys range) (f : State → State) :
    s.withInputs r phys range f = f (accessed s range) := by
  obtain ⟨h1, h2⟩ := h
  unfold State.withInputs
  rw [h1]
  dsimp only
  rw [show (phys.flatMap (fun x : Nat × Nat => (rangeFrom (blockOf x.1) (blockOf (x.1 + x.2 - 1) + 1 - blockOf x.1)).map (· * blockBytes)) ++
    (range.flatMap (fun x : Nat × Nat => (rangeFrom (blockOf x.1) (blockOf (x.1 + x.2 - 1) + 1 - blockOf x.1)).map (· * blockBytes))).map s.phys).find?
      s.poisoned = none from h2]
  rfl

/-- An operator whose descriptor has started is carried out. -/
theorem operate_run {l opc unit : Nat} {r : Run} (h : s.run? l opc unit = some r) (f : State → Run → State) :
    s.operate l opc unit f = f s r := by
  unfold State.operate
  rw [h]

end Sys2Proof.Laws
end

