-- ==== Sys2Proof/Laws/KeepsLife.lean ====
section
/-! SUPPORT. What the operations of Machine/Life.lean keep (Laws/Keeps.lean says what that is). -/

namespace Sys2Proof.Laws

open Sys2Proof Sys2Proof.Machine

variable {sB : State}

theorem keeps_State_unmapAll (s : State)  (hK : Keeps sB s) : Keeps sB (State.unmapAll s) := by
  unfold State.unmapAll
  repeat' first
    | with_reducible assumption
    | with_reducible apply keeps_onMem
    | (show Memory.wf _ = true; first | exact mem_wf_nil | exact mem_wf_filter _ _ (by assumption) | exact mem_wf_write _ _ _ (by assumption) | exact mem_wf_clear _ _ _ (by assumption) | assumption)
    | intro _
    | split
    | dsimp only

theorem keeps_State_freeWeights (s : State)  (hK : Keeps sB s) : Keeps sB (State.freeWeights s) := by
  unfold State.freeWeights
  repeat' first
    | with_reducible assumption
    | with_reducible apply keeps_onWts
    | intro _
    | split
    | dsimp only

theorem keeps_State_freeStaged (s : State)  (hK : Keeps sB s) : Keeps sB (State.freeStaged s) := by
  unfold State.freeStaged
  repeat' first
    | with_reducible assumption
    | with_reducible apply keeps_onWts
    | intro _
    | split
    | dsimp only

theorem keeps_State_unloadPlan (s : State)  (hK : Keeps sB s) : Keeps sB (State.unloadPlan s) := by
  unfold State.unloadPlan
  repeat' first
    | with_reducible assumption
    | with_reducible apply keeps_State_unmapAll
    | with_reducible apply keeps_State_freeWeights
    | with_reducible apply keeps_onWts
    | with_reducible apply keeps_onSrv
    | with_reducible apply keeps_onFab
    | intro _
    | split
    | dsimp only

theorem keeps_State_resetHostSlots (s : State)  (hK : Keeps sB s) : Keeps sB (State.resetHostSlots s) := by
  unfold State.resetHostSlots
  repeat' first
    | with_reducible assumption
    | with_reducible apply keeps_onMbox
    | with_reducible apply keeps_onCfg
    | intro _
    | split
    | dsimp only

theorem keeps_State_loseVolatile (s : State) (keepT3 : Bool)  (hK : Keeps sB s) : Keeps sB (State.loseVolatile s keepT3) := by
  unfold State.loseVolatile
  repeat' first
    | with_reducible assumption
    | with_reducible apply keeps_onMem
    | with_reducible apply keeps_onSec
    | with_reducible apply keeps_onCfg
    | with_reducible apply keeps_onWts
    | with_reducible apply keeps_onTiles
    | with_reducible apply keeps_onSteps
    | with_reducible apply keeps_onSrv
    | with_reducible apply keeps_onKv
    | with_reducible apply keeps_onAdp
    | with_reducible apply keeps_onFab
    | with_reducible apply keeps_onPwr
    | (show Memory.wf _ = true; first | exact mem_wf_nil | exact mem_wf_filter _ _ (by assumption) | exact mem_wf_write _ _ _ (by assumption) | exact mem_wf_clear _ _ _ (by assumption) | assumption)
    | (show SecKeeps _ _; exact SecKeeps.of_same rfl rfl rfl rfl (by first | exact Or.inl rfl | exact Or.inr rfl))
    | intro _
    | split
    | dsimp only

theorem keeps_State_railsOff (s : State) (keepT3 : Bool)  (hK : Keeps sB s) : Keeps sB (State.railsOff s keepT3) := by
  unfold State.railsOff
  repeat' first
    | with_reducible assumption
    | with_reducible apply keeps_State_resetHostSlots
    | with_reducible apply keeps_State_loseVolatile
    | with_reducible apply keeps_onMbox
    | with_reducible apply keeps_onPwr
    | with_reducible apply keeps_onPins
    | intro _
    | split
    | dsimp only

theorem keeps_State_clearConfig (s : State)  (hK : Keeps sB s) : Keeps sB (State.clearConfig s) := by
  unfold State.clearConfig
  repeat' first
    | with_reducible assumption
    | with_reducible apply keeps_onCfg
    | intro _
    | split
    | dsimp only

theorem keeps_State_eraseData (s : State)  (hK : Keeps sB s) : Keeps sB (State.eraseData s) := by
  unfold State.eraseData
  repeat' first
    | with_reducible assumption
    | with_reducible apply keeps_State_unloadPlan
    | with_reducible apply keeps_onMem
    | with_reducible apply keeps_onSec
    | with_reducible apply keeps_onWts
    | with_reducible apply keeps_onTiles
    | with_reducible apply keeps_onSteps
    | with_reducible apply keeps_onSrv
    | with_reducible apply keeps_onKv
    | with_reducible apply keeps_onAdp
    | with_reducible apply keeps_onFab
    | with_reducible apply keeps_onCounters
    | (show Memory.wf _ = true; first | exact mem_wf_nil | exact mem_wf_filter _ _ (by assumption) | exact mem_wf_write _ _ _ (by assumption) | exact mem_wf_clear _ _ _ (by assumption) | assumption)
    | (show SecKeeps _ _; exact SecKeeps.of_same rfl rfl rfl rfl (by first | exact Or.inl rfl | exact Or.inr rfl))
    | intro _
    | split
    | dsimp only

theorem keeps_State_eraseNow (s : State) (keep : Bool)  (hK : Keeps sB s) : Keeps sB (State.eraseNow s keep) := by
  unfold State.eraseNow
  repeat' first
    | with_reducible assumption
    | with_reducible apply keeps_State_clearConfig
    | with_reducible apply keeps_State_eraseData
    | with_reducible apply keeps_onSec
    | (show SecKeeps _ _; exact SecKeeps.of_same rfl rfl rfl rfl (by first | exact Or.inl rfl | exact Or.inr rfl))
    | intro _
    | split
    | dsimp only

theorem keeps_State_dataArrives (s : State)  (hK : Keeps sB s) : Keeps sB (State.dataArrives s) := by
  unfold State.dataArrives
  repeat' first
    | with_reducible assumption
    | with_reducible apply keeps_onSec
    | (show SecKeeps _ _; exact SecKeeps.of_same rfl rfl rfl rfl (by first | exact Or.inl rfl | exact Or.inr rfl))
    | intro _
    | split
    | dsimp only

theorem keeps_State_putBank (s : State) (b : Bool) (x : Bank)  (hK : Keeps sB s) : Keeps sB (State.putBank s b x) := by
  unfold State.putBank
  repeat' first
    | with_reducible assumption
    | with_reducible apply keeps_onFw
    | (show _ ≤ _; exact Nat.le_refl _)
    | intro _
    | split
    | dsimp only

theorem keeps_State_enterSafelight (s : State)  (hK : Keeps sB s) : Keeps sB (State.enterSafelight s) := by
  unfold State.enterSafelight
  repeat' first
    | with_reducible assumption
    | with_reducible apply keeps_State_event
    | with_reducible apply keeps_onFw
    | with_reducible apply keeps_onMbox
    | (show _ ≤ _; exact Nat.le_refl _)
    | intro _
    | split
    | dsimp only

theorem keeps_State_failBank (s : State) (b : Bool)  (hK : Keeps sB s) : Keeps sB (State.failBank s b) := by
  unfold State.failBank
  repeat' first
    | with_reducible assumption
    | with_reducible apply keeps_State_fault
    | with_reducible apply keeps_State_putBank
    | with_reducible apply keeps_onFw
    | (show _ ≤ _; exact Nat.le_refl _)
    | intro _
    | split
    | dsimp only

theorem keeps_State_romTry (s : State) (b : Bool)  (hK : Keeps sB s) : Keeps sB (State.romTry s b) := by
  unfold State.romTry
  repeat' first
    | with_reducible assumption
    | with_reducible apply keeps_State_enterSafelight
    | with_reducible apply keeps_State_failBank
    | with_reducible apply keeps_onFw
    | (show _ ≤ _; exact Nat.le_refl _)
    | intro _
    | split
    | dsimp only

theorem keeps_State_dropWriting (s : State)  (hK : Keeps sB s) : Keeps sB (State.dropWriting s) := by
  unfold State.dropWriting
  repeat' first
    | with_reducible assumption
    | with_reducible apply keeps_onFw
    | (show _ ≤ _; exact Nat.le_refl _)
    | intro _
    | split
    | dsimp only

theorem keeps_State_romSelect (s : State)  (hK : Keeps sB s) : Keeps sB (State.romSelect s) := by
  unfold State.romSelect
  repeat' first
    | with_reducible assumption
    | with_reducible apply keeps_State_fault
    | with_reducible apply keeps_State_putBank
    | with_reducible apply keeps_State_romTry
    | with_reducible apply keeps_State_dropWriting
    | with_reducible apply keeps_onFw
    | (show _ ≤ _; exact Nat.le_refl _)
    | intro _
    | split
    | dsimp only

theorem keeps_State_startUp (s : State) (cause : Nat)  (hK : Keeps sB s) : Keeps sB (State.startUp s cause) := by
  unfold State.startUp
  repeat' first
    | with_reducible assumption
    | with_reducible apply keeps_State_stage
    | with_reducible apply keeps_onClock
    | with_reducible apply keeps_onSec
    | with_reducible apply keeps_onFw
    | with_reducible apply keeps_onMbox
    | with_reducible apply keeps_onPwr
    | with_reducible apply keeps_onPins
    | (show SecKeeps _ _; exact SecKeeps.of_same rfl rfl rfl rfl (by first | exact Or.inl rfl | exact Or.inr rfl))
    | (show _ ≤ _; exact Nat.le_refl _)
    | (show _ = (_ : Nat); rfl)
    | intro _
    | split
    | dsimp only

theorem keeps_State_warmReset (s : State) (cause : Nat)  (hK : Keeps sB s) : Keeps sB (State.warmReset s cause) := by
  unfold State.warmReset
  repeat' first
    | with_reducible assumption
    | with_reducible apply keeps_State_unloadPlan
    | with_reducible apply keeps_State_railsOff
    | with_reducible apply keeps_State_startUp
    | with_reducible apply keeps_onMem
    | with_reducible apply keeps_onWts
    | (show Memory.wf _ = true; first | exact mem_wf_nil | exact mem_wf_filter _ _ (by assumption) | exact mem_wf_write _ _ _ (by assumption) | exact mem_wf_clear _ _ _ (by assumption) | assumption)
    | intro _
    | split
    | dsimp only

end Sys2Proof.Laws
end

