-- ==== Sys2Proof/Laws/KeepsMessages.lean ====
section
/-! SUPPORT. What the operations of Machine/Messages.lean keep (Laws/Keeps.lean says what that is). -/

namespace Sys2Proof.Laws

open Sys2Proof Sys2Proof.Machine

variable {sB : State}

theorem keeps_State_modPort (s : State) (p : Nat) (f : Port → Port)  (hK : Keeps sB s) : Keeps sB (State.modPort s p f) := by
  unfold State.modPort
  repeat' first
    | with_reducible assumption
    | with_reducible apply keeps_onFab
    | intro _
    | split
    | dsimp only

theorem keeps_State_sendOn (s : State) (port : Nat) (k : Packet)  (hK : Keeps sB s) : Keeps sB (State.sendOn s port k) := by
  unfold State.sendOn
  repeat' first
    | with_reducible assumption
    | with_reducible apply keeps_State_emit
    | with_reducible apply keeps_State_count
    | with_reducible apply keeps_State_modPort
    | intro _
    | split
    | dsimp only

theorem keeps_State_sendPacket (s : State) (k : Packet)  (hK : Keeps sB s) : Keeps sB (State.sendPacket s k) := by
  unfold State.sendPacket
  repeat' first
    | with_reducible assumption
    | with_reducible apply keeps_State_emit
    | with_reducible apply keeps_State_sendOn
    | intro _
    | split
    | dsimp only

theorem keeps_State_sendMsg (s : State) (dest m hb step : Nat) (es : List Bytes)  (hK : Keeps sB s) : Keeps sB (State.sendMsg s dest m hb step es) := by
  unfold State.sendMsg
  repeat' first
    | with_reducible assumption
    | with_reducible apply keeps_foldl
    | with_reducible apply keeps_State_sendPacket
    | intro _
    | split
    | dsimp only

theorem keeps_State_sendAll (s : State) (m hb step : Nat) (es : List Bytes)  (hK : Keeps sB s) : Keeps sB (State.sendAll s m hb step es) := by
  unfold State.sendAll
  repeat' first
    | with_reducible assumption
    | with_reducible apply keeps_foldl
    | with_reducible apply keeps_State_sendMsg
    | intro _
    | split
    | dsimp only

theorem keeps_State_sendLead (s : State) (m hb step : Nat) (es : List Bytes)  (hK : Keeps sB s) : Keeps sB (State.sendLead s m hb step es) := by
  unfold State.sendLead
  repeat' first
    | with_reducible assumption
    | with_reducible apply keeps_State_sendMsg
    | intro _
    | split
    | dsimp only

theorem keeps_State_joinMsg (s : State) (m : Msg)  (hK : Keeps sB s) : Keeps sB (State.joinMsg s m).1 := by
  unfold State.joinMsg
  repeat' first
    | with_reducible assumption
    | with_reducible apply keeps_onFab
    | intro _
    | split
    | dsimp only

end Sys2Proof.Laws
end

