-- ==== Sys2Proof/Laws/KeepsKvPages.lean ====
section
/-! SUPPORT. What the operations of Machine/KvPages.lean keep (Laws/Keeps.lean says what that is). -/

namespace Sys2Proof.Laws

open Sys2Proof Sys2Proof.Machine

variable {sB : State}

theorem keeps_State_putEnt (s : State) (g sess chunk : Nat) (e : MapEnt)  (hK : Keeps sB s) : Keeps sB (State.putEnt s g sess chunk e) := by
  unfold State.putEnt
  repeat' first
    | with_reducible assumption
    | with_reducible apply keeps_State_writeRange
    | intro _
    | split
    | dsimp only

theorem keeps_State_putKvRow (s : State) (a : Nat) (k8 : Bool) (h d i : Nat) (r : KvRow)  (hK : Keeps sB s) : Keeps sB (State.putKvRow s a k8 h d i r) := by
  unfold State.putKvRow
  repeat' first
    | with_reducible assumption
    | with_reducible apply keeps_State_writeRange
    | intro _
    | split
    | dsimp only

theorem keeps_State_reformPage (s : State) (src : Nat) (k8 : Bool) (dst : Nat) (to8 : Bool) (h d limit : Nat)  (hK : Keeps sB s) : Keeps sB (State.reformPage s src k8 dst to8 h d limit) := by
  unfold State.reformPage
  repeat' first
    | with_reducible assumption
    | with_reducible apply keeps_foldl
    | with_reducible apply keeps_State_putKvRow
    | intro _
    | split
    | dsimp only

theorem keeps_State_writeImage (s : State) (m : PauseImg) (off : Nat) (b : Bytes)  (hK : Keeps sB s) : Keeps sB (State.writeImage s m off b) := by
  unfold State.writeImage
  repeat' first
    | with_reducible assumption
    | with_reducible apply keeps_foldl
    | with_reducible apply keeps_State_writeRange
    | intro _
    | split
    | dsimp only

theorem keeps_State_mapOwnAt (s : State) (tier hint at_ : Nat) (z0 : Nat)  (hK : Keeps sB s) : OptKeeps sB (State.mapOwnAt s tier hint at_ z0) := by
  induction z0 generalizing s tier hint at_ with
  | zero =>
    unfold State.mapOwnAt
    repeat' first
      | with_reducible assumption
      | with_reducible apply ih
      | with_reducible exact opt_none
      | with_reducible apply opt_some
      | with_reducible apply opt_map
      | with_reducible apply opt_mapTo
      | (refine opt_get ?_ (by assumption); with_reducible apply ih)
      | with_reducible apply keeps_onMem
      | (show Memory.wf _ = true; first | exact mem_wf_nil | exact mem_wf_filter _ _ (by assumption) | exact mem_wf_write _ _ _ (by assumption) | exact mem_wf_clear _ _ _ (by assumption) | assumption)
      | intro _
      | split
      | dsimp only
  | succ n ih =>
    unfold State.mapOwnAt
    repeat' first
      | with_reducible assumption
      | with_reducible apply ih
      | with_reducible exact opt_none
      | with_reducible apply opt_some
      | with_reducible apply opt_map
      | with_reducible apply opt_mapTo
      | (refine opt_get ?_ (by assumption); with_reducible apply ih)
      | with_reducible apply keeps_onMem
      | (show Memory.wf _ = true; first | exact mem_wf_nil | exact mem_wf_filter _ _ (by assumption) | exact mem_wf_write _ _ _ (by assumption) | exact mem_wf_clear _ _ _ (by assumption) | assumption)
      | intro _
      | split
      | dsimp only

theorem keeps_State_mapOwn (s : State) (tier hint n : Nat)  (hK : Keeps sB s) : OptKeeps1 sB (State.mapOwn s tier hint n) := by
  unfold State.mapOwn
  repeat' first
    | with_reducible assumption
    | with_reducible apply keeps_foldl
    | with_reducible exact opt1_none
    | with_reducible apply opt1_some
    | with_reducible apply opt1_map
    | (refine opt_get ?_ (by assumption); with_reducible apply keeps_State_mapOwnAt)
    | with_reducible apply keeps_State_mapOwnAt
    | intro _
    | split
    | dsimp only

theorem keeps_State_unmapOwn (s : State) (ps : List Nat)  (hK : Keeps sB s) : Keeps sB (State.unmapOwn s ps) := by
  unfold State.unmapOwn
  repeat' first
    | with_reducible assumption
    | with_reducible apply keeps_onMem
    | (show Memory.wf _ = true; first | exact mem_wf_nil | exact mem_wf_filter _ _ (by assumption) | exact mem_wf_write _ _ _ (by assumption) | exact mem_wf_clear _ _ _ (by assumption) | assumption)
    | intro _
    | split
    | dsimp only

theorem keeps_State_freeImage (s : State) (sess : Nat)  (hK : Keeps sB s) : Keeps sB (State.freeImage s sess) := by
  unfold State.freeImage
  repeat' first
    | with_reducible assumption
    | with_reducible apply keeps_State_unmapOwn
    | with_reducible apply keeps_onKv
    | intro _
    | split
    | dsimp only

theorem keeps_State_applyGrant (s : State) (g : Grant)  (hK : Keeps sB s) : OptKeeps sB (State.applyGrant s g) := by
  unfold State.applyGrant
  repeat' first
    | with_reducible assumption
    | with_reducible exact opt_none
    | with_reducible apply opt_some
    | with_reducible apply opt_map
    | with_reducible apply opt_mapTo
    | with_reducible apply keeps_State_putEnt
    | with_reducible apply keeps_onKv
    | intro _
    | split
    | dsimp only

theorem keeps_State_countGroups (s : State) (id n : Nat)  (hK : Keeps sB s) : Keeps sB (State.countGroups s id n) := by
  unfold State.countGroups
  repeat' first
    | with_reducible assumption
    | with_reducible apply keeps_foldl
    | with_reducible apply keeps_State_count
    | intro _
    | split
    | dsimp only

theorem keeps_State_applyGrants (z0 : List Grant) (z1 : State)  (hK : Keeps sB z1) : Keeps sB (State.applyGrants z0 z1).1 := by
  induction z0 generalizing z1 with
  | nil =>
    unfold State.applyGrants
    repeat' first
      | with_reducible assumption
      | with_reducible apply ih
      | (refine opt_get ?_ (by assumption); with_reducible apply keeps_State_applyGrant)
      | (refine pair_get ?_ (by assumption); with_reducible apply ih)
      | with_reducible apply keeps_State_applyGrant
      | intro _
      | split
      | dsimp only
  | cons y r ih =>
    unfold State.applyGrants
    repeat' first
      | with_reducible assumption
      | with_reducible apply ih
      | (refine opt_get ?_ (by assumption); with_reducible apply keeps_State_applyGrant)
      | (refine pair_get ?_ (by assumption); with_reducible apply ih)
      | with_reducible apply keeps_State_applyGrant
      | intro _
      | split
      | dsimp only

theorem keeps_State_finishMove (s : State) (m : KvMove)  (hK : Keeps sB s) : Keeps sB (State.finishMove s m) := by
  unfold State.finishMove
  repeat' first
    | with_reducible assumption
    | with_reducible apply keeps_foldl
    | with_reducible apply keeps_State_count
    | with_reducible apply keeps_State_writeRange
    | with_reducible apply keeps_State_putEnt
    | with_reducible apply keeps_State_reformPage
    | with_reducible apply keeps_onKv
    | intro _
    | split
    | dsimp only

theorem keeps_State_addRef (s : State) (g slot : Nat)  (hK : Keeps sB s) : Keeps sB (State.addRef s g slot) := by
  unfold State.addRef
  repeat' first
    | with_reducible assumption
    | with_reducible apply keeps_onKv
    | intro _
    | split
    | dsimp only

theorem keeps_State_dropRef (s : State) (g slot : Nat)  (hK : Keeps sB s) : Keeps sB (State.dropRef s g slot) := by
  unfold State.dropRef
  repeat' first
    | with_reducible assumption
    | with_reducible apply keeps_onKv
    | intro _
    | split
    | dsimp only

theorem keeps_State_csEvict (s : State)  (hK : Keeps sB s) : OptKeeps sB (State.csEvict s) := by
  unfold State.csEvict
  repeat' first
    | with_reducible assumption
    | with_reducible apply keeps_foldl
    | with_reducible exact opt_none
    | with_reducible apply opt_some
    | with_reducible apply opt_map
    | with_reducible apply opt_mapTo
    | with_reducible apply keeps_State_countGroups
    | with_reducible apply keeps_State_dropRef
    | with_reducible apply keeps_onKv
    | intro _
    | split
    | dsimp only

theorem keeps_State_takeSlot (s : State) (g : Nat) (z0 : Nat)  (hK : Keeps sB s) : OptKeeps1 sB (State.takeSlot s g z0) := by
  induction z0 generalizing s g with
  | zero =>
    unfold State.takeSlot
    repeat' first
      | with_reducible assumption
      | with_reducible apply ih
      | with_reducible exact opt1_none
      | with_reducible apply opt1_some
      | with_reducible apply opt1_map
      | (refine opt_get ?_ (by assumption); with_reducible apply keeps_State_csEvict)
      | (refine opt1_get ?_ (by assumption); with_reducible apply ih)
      | with_reducible apply keeps_State_addRef
      | with_reducible apply keeps_State_csEvict
      | intro _
      | split
      | dsimp only
  | succ n ih =>
    unfold State.takeSlot
    repeat' first
      | with_reducible assumption
      | with_reducible apply ih
      | with_reducible exact opt1_none
      | with_reducible apply opt1_some
      | with_reducible apply opt1_map
      | (refine opt_get ?_ (by assumption); with_reducible apply keeps_State_csEvict)
      | (refine opt1_get ?_ (by assumption); with_reducible apply ih)
      | with_reducible apply keeps_State_addRef
      | with_reducible apply keeps_State_csEvict
      | intro _
      | split
      | dsimp only

end Sys2Proof.Laws
end

