-- ==== Sys2Proof/Laws/KeepsServe.lean ====
section
/-! SUPPORT. What the operations of Machine/Serve.lean keep (Laws/Keeps.lean says what that is). -/

namespace Sys2Proof.Laws

open Sys2Proof Sys2Proof.Machine

variable {sB : State}

theorem keeps_State_putSess (s : State) (x : Sess)  (hK : Keeps sB s) : Keeps sB (State.putSess s x) := by
  unfold State.putSess
  repeat' first
    | with_reducible assumption
    | with_reducible apply keeps_onSrv
    | intro _
    | split
    | dsimp only

theorem keeps_State_modSess (s : State) (i : Nat) (f : Sess → Sess)  (hK : Keeps sB s) : Keeps sB (State.modSess s i f) := by
  unfold State.modSess
  repeat' first
    | with_reducible assumption
    | with_reducible apply keeps_State_putSess
    | intro _
    | split
    | dsimp only

theorem keeps_State_pushUpdate (s : State) (i : Nat)  (hK : Keeps sB s) : Keeps sB (State.pushUpdate s i) := by
  unfold State.pushUpdate
  repeat' first
    | with_reducible assumption
    | with_reducible apply keeps_State_sendAll
    | intro _
    | split
    | dsimp only

theorem keeps_State_pushClosed (s : State) (id : Nat)  (hK : Keeps sB s) : Keeps sB (State.pushClosed s id) := by
  unfold State.pushClosed
  repeat' first
    | with_reducible assumption
    | with_reducible apply keeps_State_sendAll
    | intro _
    | split
    | dsimp only

theorem keeps_State_replyTo (s : State) (x : Sess) (r : ReqRec) (mtype a0 a1 : Nat) (items : List (Nat × Word32))  (hK : Keeps sB s) : Keeps sB (State.replyTo s x r mtype a0 a1 items) := by
  unfold State.replyTo
  repeat' first
    | with_reducible assumption
    | with_reducible apply keeps_State_emit
    | intro _
    | split
    | dsimp only

theorem keeps_State_repDone (s : State) (x : Sess) (r : ReqRec) (reason : Nat)  (hK : Keeps sB s) : Keeps sB (State.repDone s x r reason) := by
  unfold State.repDone
  repeat' first
    | with_reducible assumption
    | with_reducible apply keeps_State_replyTo
    | intro _
    | split
    | dsimp only

theorem keeps_State_repError (s : State) (x : Sess) (r : ReqRec) (reason : Nat)  (hK : Keeps sB s) : Keeps sB (State.repError s x r reason) := by
  unfold State.repError
  repeat' first
    | with_reducible assumption
    | with_reducible apply keeps_State_count
    | with_reducible apply keeps_State_replyTo
    | intro _
    | split
    | dsimp only

theorem keeps_State_replyFree (s : State) (x : Sess) (mtype a0 a1 : Nat)  (hK : Keeps sB s) : Keeps sB (State.replyFree s x mtype a0 a1) := by
  unfold State.replyFree
  repeat' first
    | with_reducible assumption
    | with_reducible apply keeps_State_emit
    | intro _
    | split
    | dsimp only

theorem keeps_State_advanceEpoch (s : State) (i : Nat)  (hK : Keeps sB s) : Keeps sB (State.advanceEpoch s i) := by
  unfold State.advanceEpoch
  repeat' first
    | with_reducible assumption
    | with_reducible apply keeps_State_count
    | with_reducible apply keeps_State_putSess
    | with_reducible apply keeps_State_pushUpdate
    | intro _
    | split
    | dsimp only

theorem keeps_State_freeUnbound (s : State)  (hK : Keeps sB s) : Keeps sB (State.freeUnbound s) := by
  unfold State.freeUnbound
  repeat' first
    | with_reducible assumption
    | with_reducible apply keeps_foldl
    | with_reducible apply keeps_State_event
    | with_reducible apply keeps_onWts
    | with_reducible apply keeps_onAdp
    | intro _
    | split
    | dsimp only

theorem keeps_State_endGen (s : State) (i : Nat) (how : State → Sess → ReqRec → State) (hhow : ∀ a0 a1 a2, Keeps sB a0 → Keeps sB (how a0 a1 a2)) (hK : Keeps sB s) : Keeps sB (State.endGen s i how) := by
  unfold State.endGen
  repeat' first
    | with_reducible assumption
    | with_reducible apply hhow
    | with_reducible apply keeps_State_putSess
    | with_reducible apply keeps_State_pushUpdate
    | with_reducible apply keeps_State_freeUnbound
    | intro _
    | split
    | dsimp only

theorem keeps_State_failPending (s : State) (i reason : Nat)  (hK : Keeps sB s) : Keeps sB (State.failPending s i reason) := by
  unfold State.failPending
  repeat' first
    | with_reducible assumption
    | with_reducible apply keeps_State_modSess
    | with_reducible apply keeps_State_repError
    | with_reducible apply keeps_State_endGen
    | intro _
    | split
    | dsimp only

theorem keeps_State_dropChunkRefs (s : State) (x : Sess) (gs : List Grant)  (hK : Keeps sB s) : Keeps sB (State.dropChunkRefs s x gs) := by
  unfold State.dropChunkRefs
  repeat' first
    | with_reducible assumption
    | with_reducible apply keeps_foldl
    | with_reducible apply keeps_State_dropRef
    | intro _
    | split
    | dsimp only

theorem keeps_State_issueGrants (s : State) (gs : List Grant) (hb step : Nat)  (hK : Keeps sB s) : Keeps sB (State.issueGrants s gs hb step) := by
  unfold State.issueGrants
  repeat' first
    | with_reducible assumption
    | (refine pair_get ?_ (by assumption); with_reducible apply keeps_State_applyGrants)
    | with_reducible apply keeps_State_sendAll
    | with_reducible apply keeps_State_applyGrants
    | intro _
    | split
    | dsimp only

theorem keeps_State_unmapSession (s : State) (i : Nat)  (hK : Keeps sB s) : Keeps sB (State.unmapSession s i) := by
  unfold State.unmapSession
  repeat' first
    | with_reducible assumption
    | with_reducible apply keeps_State_dropChunkRefs
    | with_reducible apply keeps_State_issueGrants
    | intro _
    | split
    | dsimp only

theorem keeps_State_dropSession (s : State) (i : Nat)  (hK : Keeps sB s) : Keeps sB (State.dropSession s i) := by
  unfold State.dropSession
  repeat' first
    | with_reducible assumption
    | with_reducible apply keeps_State_freeImage
    | with_reducible apply keeps_onSrv
    | with_reducible apply keeps_onKv
    | intro _
    | split
    | dsimp only

theorem keeps_State_freeSession (s : State) (i : Nat)  (hK : Keeps sB s) : Keeps sB (State.freeSession s i) := by
  unfold State.freeSession
  repeat' first
    | with_reducible assumption
    | with_reducible apply keeps_State_pushClosed
    | with_reducible apply keeps_State_freeUnbound
    | with_reducible apply keeps_State_unmapSession
    | with_reducible apply keeps_State_dropSession
    | intro _
    | split
    | dsimp only

theorem keeps_State_beginClose (s : State) (i : Nat) (r : Option ReqRec)  (hK : Keeps sB s) : Keeps sB (State.beginClose s i r) := by
  unfold State.beginClose
  repeat' first
    | with_reducible assumption
    | with_reducible apply keeps_foldl
    | with_reducible apply keeps_State_modSess
    | with_reducible apply keeps_State_repDone
    | with_reducible apply keeps_State_advanceEpoch
    | with_reducible apply keeps_State_endGen
    | intro _
    | split
    | dsimp only

theorem keeps_State_cancelSession (s : State) (i : Nat)  (hK : Keeps sB s) : Keeps sB (State.cancelSession s i) := by
  unfold State.cancelSession
  repeat' first
    | with_reducible assumption
    | with_reducible apply keeps_State_repDone
    | with_reducible apply keeps_State_advanceEpoch
    | with_reducible apply keeps_State_endGen
    | intro _
    | split
    | dsimp only

theorem keeps_State_cancelQp (s : State) (qp : Nat)  (hK : Keeps sB s) : Keeps sB (State.cancelQp s qp) := by
  unfold State.cancelQp
  repeat' first
    | with_reducible assumption
    | with_reducible apply keeps_foldl
    | with_reducible apply keeps_State_putSess
    | with_reducible apply keeps_State_advanceEpoch
    | with_reducible apply keeps_State_cancelSession
    | intro _
    | split
    | dsimp only

theorem keeps_State_endQp (s : State) (qp : Nat)  (hK : Keeps sB s) : Keeps sB (State.endQp s qp) := by
  unfold State.endQp
  repeat' first
    | with_reducible assumption
    | with_reducible apply keeps_State_cancelQp
    | with_reducible apply keeps_onSrv
    | intro _
    | split
    | dsimp only

theorem keeps_State_dropQp (s : State) (qp : Nat)  (hK : Keeps sB s) : Keeps sB (State.dropQp s qp) := by
  unfold State.dropQp
  repeat' first
    | with_reducible assumption
    | with_reducible apply keeps_State_emit
    | with_reducible apply keeps_State_endQp
    | intro _
    | split
    | dsimp only

theorem keeps_State_settleClients (s : State) (old : Bytes)  (hK : Keeps sB s) : Keeps sB (State.settleClients s old) := by
  unfold State.settleClients
  repeat' first
    | with_reducible assumption
    | with_reducible apply keeps_foldl
    | with_reducible apply keeps_State_beginClose
    | with_reducible apply keeps_State_dropQp
    | intro _
    | split
    | dsimp only

end Sys2Proof.Laws
end

