-- ==== Sys2Proof/Laws/KeepsWeightOps.lean ====
section
/-! SUPPORT. What the operations of Machine/WeightOps.lean keep (Laws/Keeps.lean says what that is). -/

namespace Sys2Proof.Laws

open Sys2Proof Sys2Proof.Machine

variable {sB : State}

theorem keeps_State_countBw (s : State) (tier cls n : Nat)  (hK : Keeps sB s) : Keeps sB (State.countBw s tier cls n) := by
  unfold State.countBw
  repeat' first
    | with_reducible assumption
    | with_reducible apply keeps_State_count
    | intro _
    | split
    | dsimp only

theorem keeps_State_putCopy (s : State) (c : ShardCopy)  (hK : Keeps sB s) : Keeps sB (State.putCopy s c) := by
  unfold State.putCopy
  repeat' first
    | with_reducible assumption
    | with_reducible apply keeps_onWts
    | intro _
    | split
    | dsimp only

theorem keeps_State_unpoison (s : State) (a n : Nat)  (hK : Keeps sB s) : Keeps sB (State.unpoison s a n) := by
  unfold State.unpoison
  repeat' first
    | with_reducible assumption
    | with_reducible apply keeps_State_poison
    | with_reducible apply keeps_onMem
    | (show Memory.wf _ = true; first | exact mem_wf_nil | exact mem_wf_filter _ _ (by assumption) | exact mem_wf_write _ _ _ (by assumption) | exact mem_wf_clear _ _ _ (by assumption) | assumption)
    | intro _
    | split
    | dsimp only

theorem keeps_State_writeHome (s : State) (gen : Nat) (x : PlanObj × List Nat)  (hK : Keeps sB s) : Keeps sB (State.writeHome s gen x) := by
  unfold State.writeHome
  repeat' first
    | with_reducible assumption
    | with_reducible apply keeps_State_writeRange
    | with_reducible apply keeps_State_unpoison
    | intro _
    | split
    | dsimp only

theorem keeps_State_writeHomes (s : State) (gen ph : Nat)  (hK : Keeps sB s) : Keeps sB (State.writeHomes s gen ph) := by
  unfold State.writeHomes
  repeat' first
    | with_reducible assumption
    | with_reducible apply keeps_foldl
    | with_reducible apply keeps_State_writeHome
    | intro _
    | split
    | dsimp only

theorem keeps_State_makeWorking (s : State) (gen : Nat)  (hK : Keeps sB s) : Keeps sB (State.makeWorking s gen) := by
  unfold State.makeWorking
  repeat' first
    | with_reducible assumption
    | with_reducible apply keeps_foldl
    | with_reducible apply keeps_onWts
    | intro _
    | split
    | dsimp only

theorem keeps_State_freeOldCopies (s : State)  (hK : Keeps sB s) : Keeps sB (State.freeOldCopies s) := by
  unfold State.freeOldCopies
  repeat' first
    | with_reducible assumption
    | with_reducible apply keeps_onWts
    | intro _
    | split
    | dsimp only

theorem keeps_State_becomeCurrent (s : State) (gen : Nat)  (hK : Keeps sB s) : Keeps sB (State.becomeCurrent s gen) := by
  unfold State.becomeCurrent
  repeat' first
    | with_reducible assumption
    | with_reducible apply keeps_State_makeWorking
    | with_reducible apply keeps_State_freeOldCopies
    | with_reducible apply keeps_onWts
    | intro _
    | split
    | dsimp only

theorem keeps_State_finishSwapWrites (s : State)  (hK : Keeps sB s) : Keeps sB (State.finishSwapWrites s) := by
  unfold State.finishSwapWrites
  repeat' first
    | with_reducible assumption
    | with_reducible apply keeps_foldl
    | with_reducible apply keeps_State_writeHomes
    | with_reducible apply keeps_State_becomeCurrent
    | intro _
    | split
    | dsimp only

end Sys2Proof.Laws
end

