-- ==== Sys2Proof/Laws/KeepsAdapterOps.lean ====
section
/-! SUPPORT. What the operations of Machine/AdapterOps.lean keep (Laws/Keeps.lean says what that is). -/

namespace Sys2Proof.Laws

open Sys2Proof Sys2Proof.Machine

variable {sB : State}

theorem keeps_State_putAdapter (s : State) (a : Adapter)  (hK : Keeps sB s) : Keeps sB (State.putAdapter s a) := by
  unfold State.putAdapter
  repeat' first
    | with_reducible assumption
    | with_reducible apply keeps_onAdp
    | intro _
    | split
    | dsimp only

theorem keeps_State_modAdapter (s : State) (id : Nat) (f : Adapter → Adapter)  (hK : Keeps sB s) : Keeps sB (State.modAdapter s id f) := by
  unfold State.modAdapter
  repeat' first
    | with_reducible assumption
    | with_reducible apply keeps_onAdp
    | intro _
    | split
    | dsimp only

theorem keeps_State_installAdapter (s : State) (x : AdInstall)  (hK : Keeps sB s) : Keeps sB (State.installAdapter s x) := by
  unfold State.installAdapter
  repeat' first
    | with_reducible assumption
    | with_reducible apply keeps_State_event
    | with_reducible apply keeps_State_freeUnbound
    | with_reducible apply keeps_State_putAdapter
    | with_reducible apply keeps_onAdp
    | intro _
    | split
    | dsimp only

theorem keeps_State_installPending (s : State)  (hK : Keeps sB s) : Keeps sB (State.installPending s) := by
  unfold State.installPending
  repeat' first
    | with_reducible assumption
    | with_reducible apply keeps_foldl
    | with_reducible apply keeps_State_finishAt
    | with_reducible apply keeps_State_installAdapter
    | with_reducible apply keeps_onAdp
    | intro _
    | split
    | dsimp only

theorem keeps_State_leavePool (s : State) (id gen : Nat)  (hK : Keeps sB s) : Keeps sB (State.leavePool s id gen) := by
  unfold State.leavePool
  repeat' first
    | with_reducible assumption
    | with_reducible apply keeps_State_modAdapter
    | intro _
    | split
    | dsimp only

theorem keeps_State_poolRoom (s : State) (n : Nat) (z0 : Nat)  (hK : Keeps sB s) : OptKeeps sB (State.poolRoom s n z0) := by
  induction z0 generalizing s n with
  | zero =>
    unfold State.poolRoom
    repeat' first
      | with_reducible assumption
      | with_reducible apply ih
      | with_reducible exact opt_none
      | with_reducible apply opt_some
      | with_reducible apply opt_map
      | with_reducible apply opt_mapTo
      | (refine opt_get ?_ (by assumption); with_reducible apply ih)
      | with_reducible apply keeps_State_leavePool
      | intro _
      | split
      | dsimp only
  | succ n ih =>
    unfold State.poolRoom
    repeat' first
      | with_reducible assumption
      | with_reducible apply ih
      | with_reducible exact opt_none
      | with_reducible apply opt_some
      | with_reducible apply opt_map
      | with_reducible apply opt_mapTo
      | (refine opt_get ?_ (by assumption); with_reducible apply ih)
      | with_reducible apply keeps_State_leavePool
      | intro _
      | split
      | dsimp only

theorem keeps_State_touchPool (s : State) (handle : Nat)  (hK : Keeps sB s) : Keeps sB (State.touchPool s handle) := by
  unfold State.touchPool
  repeat' first
    | with_reducible assumption
    | with_reducible apply keeps_State_modAdapter
    | intro _
    | split
    | dsimp only

theorem keeps_State_endBound (s : State) (id : Nat)  (hK : Keeps sB s) : Keeps sB (State.endBound s id) := by
  unfold State.endBound
  repeat' first
    | with_reducible assumption
    | with_reducible apply keeps_foldl
    | with_reducible apply keeps_State_modSess
    | with_reducible apply keeps_State_pushUpdate
    | with_reducible apply keeps_State_repError
    | with_reducible apply keeps_State_advanceEpoch
    | with_reducible apply keeps_State_endGen
    | intro _
    | split
    | dsimp only

theorem keeps_State_removeAdapter (s : State) (a : Adapter) (code : Nat)  (hK : Keeps sB s) : Keeps sB (State.removeAdapter s a code) := by
  unfold State.removeAdapter
  repeat' first
    | with_reducible assumption
    | with_reducible apply keeps_State_event
    | with_reducible apply keeps_onWts
    | with_reducible apply keeps_onAdp
    | intro _
    | split
    | dsimp only

end Sys2Proof.Laws
end

