-- ==== Sys2Proof/Laws/KeepsPorts.lean ====
section
/-! SUPPORT. What the operations of Machine/Ports.lean keep (Laws/Keeps.lean says what that is). -/

namespace Sys2Proof.Laws

open Sys2Proof Sys2Proof.Machine

variable {sB : State}

theorem keeps_State_sendCard (s : State) (p : Nat) (leaving : Bool)  (hK : Keeps sB s) : Keeps sB (State.sendCard s p leaving) := by
  unfold State.sendCard
  repeat' first
    | with_reducible assumption
    | with_reducible apply keeps_State_emit
    | intro _
    | split
    | dsimp only

theorem keeps_State_sendCards (s : State) (leaving : Bool)  (hK : Keeps sB s) : Keeps sB (State.sendCards s leaving) := by
  unfold State.sendCards
  repeat' first
    | with_reducible assumption
    | with_reducible apply keeps_foldl
    | with_reducible apply keeps_State_sendCard
    | intro _
    | split
    | dsimp only

theorem keeps_State_enterOutcome (s : State) (p : Nat) (o : PortOutcome)  (hK : Keeps sB s) : Keeps sB (State.enterOutcome s p o) := by
  unfold State.enterOutcome
  repeat' first
    | with_reducible assumption
    | with_reducible apply keeps_State_event
    | with_reducible apply keeps_State_fault
    | with_reducible apply keeps_State_modPort
    | intro _
    | split
    | dsimp only

theorem keeps_State_evalPorts (s : State)  (hK : Keeps sB s) : Keeps sB (State.evalPorts s) := by
  unfold State.evalPorts
  repeat' first
    | with_reducible assumption
    | with_reducible apply keeps_foldl
    | with_reducible apply keeps_State_modPort
    | with_reducible apply keeps_State_sendCards
    | with_reducible apply keeps_State_enterOutcome
    | intro _
    | split
    | dsimp only

theorem keeps_State_endRemap (s : State)  (hK : Keeps sB s) : Keeps sB (State.endRemap s) := by
  unfold State.endRemap
  repeat' first
    | with_reducible assumption
    | with_reducible apply keeps_onFab
    | intro _
    | split
    | dsimp only

end Sys2Proof.Laws
end

