-- ==== Sys2Proof/Laws/KeepsPlanOps.lean ====
section
/-! SUPPORT. What the operations of Machine/PlanOps.lean keep (Laws/Keeps.lean says what that is). -/

namespace Sys2Proof.Laws

open Sys2Proof Sys2Proof.Machine

variable {sB : State}

theorem keeps_State_mapTensor (s : State) (p : PlanObj) (off : Nat → Nat) (t : List Nat) (z0 : Nat)  (hK : Keeps sB s) : OptKeeps sB (State.mapTensor s p off t z0) := by
  induction z0 generalizing s p off t with
  | zero =>
    unfold State.mapTensor
    repeat' first
      | with_reducible assumption
      | with_reducible apply ih
      | with_reducible exact opt_none
      | with_reducible apply opt_some
      | with_reducible apply opt_map
      | with_reducible apply opt_mapTo
      | (refine opt_get ?_ (by assumption); with_reducible apply ih)
      | with_reducible apply keeps_onMem
      | (show Memory.wf _ = true; first | exact mem_wf_nil | exact mem_wf_filter _ _ (by assumption) | exact mem_wf_write _ _ _ (by assumption) | exact mem_wf_clear _ _ _ (by assumption) | assumption)
      | intro _
      | split
      | dsimp only
  | succ n ih =>
    unfold State.mapTensor
    repeat' first
      | with_reducible assumption
      | with_reducible apply ih
      | with_reducible exact opt_none
      | with_reducible apply opt_some
      | with_reducible apply opt_map
      | with_reducible apply opt_mapTo
      | (refine opt_get ?_ (by assumption); with_reducible apply ih)
      | with_reducible apply keeps_onMem
      | (show Memory.wf _ = true; first | exact mem_wf_nil | exact mem_wf_filter _ _ (by assumption) | exact mem_wf_write _ _ _ (by assumption) | exact mem_wf_clear _ _ _ (by assumption) | assumption)
      | intro _
      | split
      | dsimp only

theorem keeps_State_mapPlan (s : State) (p : PlanObj) (off : Nat → Nat) (hK : Keeps sB s) : OptKeeps sB (State.mapPlan s p off) := by
  unfold State.mapPlan
  refine keeps_foldl_opt _ _ _ (fun a t ha => ?_) hK
  split
  · trivial
  · exact keeps_State_mapTensor _ _ _ _ _ ha

theorem keeps_State_unmapPlan (s : State) (p : PlanObj)  (hK : Keeps sB s) : Keeps sB (State.unmapPlan s p) := by
  unfold State.unmapPlan
  repeat' first
    | with_reducible assumption
    | with_reducible apply keeps_onMem
    | (show Memory.wf _ = true; first | exact mem_wf_nil | exact mem_wf_filter _ _ (by assumption) | exact mem_wf_write _ _ _ (by assumption) | exact mem_wf_clear _ _ _ (by assumption) | assumption)
    | intro _
    | split
    | dsimp only

theorem keeps_State_freeImages (s : State)  (hK : Keeps sB s) : Keeps sB (State.freeImages s) := by
  unfold State.freeImages
  repeat' first
    | with_reducible assumption
    | with_reducible apply keeps_foldl
    | with_reducible apply keeps_State_freeImage
    | intro _
    | split
    | dsimp only

theorem keeps_State_zeroTables (s : State)  (hK : Keeps sB s) : Keeps sB (State.zeroTables s) := by
  unfold State.zeroTables
  repeat' first
    | with_reducible assumption
    | with_reducible apply keeps_foldl
    | with_reducible apply keeps_onMem
    | (show Memory.wf _ = true; first | exact mem_wf_nil | exact mem_wf_filter _ _ (by assumption) | exact mem_wf_write _ _ _ (by assumption) | exact mem_wf_clear _ _ _ (by assumption) | assumption)
    | intro _
    | split
    | dsimp only

theorem keeps_State_kvDiscard (s : State)  (hK : Keeps sB s) : Keeps sB (State.kvDiscard s) := by
  unfold State.kvDiscard
  repeat' first
    | with_reducible assumption
    | with_reducible apply keeps_State_freeImages
    | with_reducible apply keeps_State_zeroTables
    | with_reducible apply keeps_onSrv
    | with_reducible apply keeps_onKv
    | intro _
    | split
    | dsimp only

theorem keeps_State_kvKeep (s : State) (gen : Nat)  (hK : Keeps sB s) : Keeps sB (State.kvKeep s gen) := by
  unfold State.kvKeep
  repeat' first
    | with_reducible assumption
    | with_reducible apply keeps_onKv
    | intro _
    | split
    | dsimp only

theorem keeps_State_dropHighAdapters (s : State) (p : PlanObj)  (hK : Keeps sB s) : Keeps sB (State.dropHighAdapters s p) := by
  unfold State.dropHighAdapters
  repeat' first
    | with_reducible assumption
    | with_reducible apply keeps_foldl
    | with_reducible apply keeps_State_removeAdapter
    | intro _
    | split
    | dsimp only

theorem keeps_State_rehome (s : State) (p : PlanObj)  (hK : Keeps sB s) : Keeps sB (State.rehome s p) := by
  unfold State.rehome
  repeat' first
    | with_reducible assumption
    | with_reducible apply keeps_foldl
    | with_reducible apply keeps_onTiles
    | intro _
    | split
    | dsimp only

theorem keeps_State_loadMain (s : State) (p : PlanObj)  (hK : Keeps sB s) : Keeps sB (State.loadMain s p) := by
  unfold State.loadMain
  repeat' first
    | with_reducible assumption
    | with_reducible apply keeps_foldl
    | (refine opt_get ?_ (by assumption); with_reducible apply keeps_State_mapPlan)
    | (with_reducible apply opt_getD)
    | with_reducible apply keeps_State_freeWeights
    | with_reducible apply keeps_State_dataArrives
    | with_reducible apply keeps_State_evalPorts
    | with_reducible apply keeps_State_endRemap
    | with_reducible apply keeps_State_mapPlan
    | with_reducible apply keeps_State_unmapPlan
    | with_reducible apply keeps_State_kvDiscard
    | with_reducible apply keeps_State_dropHighAdapters
    | with_reducible apply keeps_State_rehome
    | with_reducible apply keeps_onCfg
    | with_reducible apply keeps_onWts
    | with_reducible apply keeps_onTiles
    | with_reducible apply keeps_onSrv
    | with_reducible apply keeps_onAdp
    | with_reducible apply keeps_onFab
    | intro _
    | split
    | dsimp only

theorem keeps_State_loadDraft (s : State) (p : PlanObj)  (hK : Keeps sB s) : Keeps sB (State.loadDraft s p) := by
  unfold State.loadDraft
  repeat' first
    | with_reducible assumption
    | with_reducible apply keeps_foldl
    | (refine opt_get ?_ (by assumption); with_reducible apply keeps_State_mapPlan)
    | (with_reducible apply opt_getD)
    | with_reducible apply keeps_State_dataArrives
    | with_reducible apply keeps_State_mapPlan
    | with_reducible apply keeps_State_unmapPlan
    | with_reducible apply keeps_onWts
    | intro _
    | split
    | dsimp only

theorem keeps_State_takeNext (s : State)  (hK : Keeps sB s) : Keeps sB (State.takeNext s) := by
  unfold State.takeNext
  repeat' first
    | with_reducible assumption
    | with_reducible apply keeps_State_loadMain
    | with_reducible apply keeps_State_loadDraft
    | with_reducible apply keeps_onWts
    | intro _
    | split
    | dsimp only

end Sys2Proof.Laws
end

