-- ==== Sys2Proof/Laws/KeepsAdapters.lean ====
section
/-! SUPPORT. What the operations of Machine/Adapters.lean keep (Laws/Keeps.lean says what that is). -/

namespace Sys2Proof.Laws

open Sys2Proof Sys2Proof.Machine

variable {sB : State}

theorem keeps_State_installAct (s : State) (c : Cmd)  (hK : Keeps sB s) : ActKeeps sB (State.installAct s c) := by
  unfold State.installAct
  repeat' first
    | with_reducible assumption
    | with_reducible exact act_refuse _ _
    | with_reducible exact act_wait
    | with_reducible apply act_done
    | with_reducible apply act_long
    | with_reducible apply keeps_State_installAdapter
    | with_reducible apply keeps_onAdp
    | intro _
    | split
    | dsimp only

theorem keeps_execOpAdapterLoad (q : Req) (s : State) (hK : Keeps sB s) : ∃ u, (execOpAdapterLoad q s) = .next u ∧ Keeps sB u := by
  unfold execOpAdapterLoad
  refine ⟨_, rfl, ?_⟩
  refine keeps_State_runOp _ _ _ _ _ _ (fun a c ha => ?_) hK
  refine keeps_State_objAct _ _ _ _ ?_ ha
  split
  · trivial
  · exact keeps_State_installAct _ _ ha

theorem keeps_execOpAdapterReplace (q : Req) (s : State) (hK : Keeps sB s) : ∃ u, (execOpAdapterReplace q s) = .next u ∧ Keeps sB u := by
  unfold execOpAdapterReplace
  refine ⟨_, rfl, ?_⟩
  refine keeps_State_runOp _ _ _ _ _ _ (fun a c ha => ?_) hK
  refine keeps_State_objAct _ _ _ _ ?_ ha
  split
  · split
    · exact keeps_State_installAct _ _ (keeps_State_endBound _ _ ha)
    · trivial
  · exact keeps_State_installAct _ _ ha

theorem keeps_execOpAdapterUnload (q : Req) (s : State) (hK : Keeps sB s) : ∃ u, (execOpAdapterUnload q s) = .next u ∧ Keeps sB u := by
  unfold execOpAdapterUnload
  refine ⟨_, rfl, ?_⟩
  refine keeps_State_runOp _ _ _ _ _ _ (fun a c ha => ?_) hK
  refine keeps_State_objAct _ _ _ _ ?_ ha
  split
  · trivial
  · split
    · trivial
    · exact keeps_State_removeAdapter _ _ _ (keeps_State_endBound _ _ ha)

theorem keeps_execOpAdapterList (q : Req) (s : State)  (hK : Keeps sB s) : ∃ u, (execOpAdapterList q s) = .next u ∧ Keeps sB u := by
  unfold execOpAdapterList
  refine ⟨_, rfl, ?_⟩
  repeat' first
    | with_reducible assumption
    | with_reducible exact act_refuse _ _
    | with_reducible exact act_wait
    | with_reducible apply act_done
    | with_reducible apply act_long
    | with_reducible apply keeps_State_runOp
    | intro _
    | split
    | dsimp only

theorem keeps_execAdapterGatherDone (id gen : Nat) (s : State)  (hK : Keeps sB s) : ∃ u, (execAdapterGatherDone id gen s) = .next u ∧ Keeps sB u := by
  unfold execAdapterGatherDone
  refine ⟨_, rfl, ?_⟩
  repeat' first
    | with_reducible assumption
    | (refine opt_get ?_ (by assumption); with_reducible apply keeps_State_poolRoom)
    | with_reducible apply keeps_State_modAdapter
    | with_reducible apply keeps_State_poolRoom
    | intro _
    | split
    | dsimp only

end Sys2Proof.Laws
end

