-- ==== Sys2Proof/Laws/KeepsPowerOps.lean ====
section
/-! SUPPORT. What the operations of Machine/PowerOps.lean keep (Laws/Keeps.lean says what that is). -/

namespace Sys2Proof.Laws

open Sys2Proof Sys2Proof.Machine

variable {sB : State}

theorem keeps_State_startFade (s : State)  (hK : Keeps sB s) : Keeps sB (State.startFade s) := by
  unfold State.startFade
  repeat' first
    | with_reducible assumption
    | with_reducible apply keeps_State_count
    | with_reducible apply keeps_onPwr
    | intro _
    | split
    | dsimp only

theorem keeps_State_sendBudget (s : State) (dest kind m watts slack step : Nat)  (hK : Keeps sB s) : Keeps sB (State.sendBudget s dest kind m watts slack step) := by
  unfold State.sendBudget
  repeat' first
    | with_reducible assumption
    | with_reducible apply keeps_State_sendMsg
    | intro _
    | split
    | dsimp only

theorem keeps_State_revertBorrower (s : State)  (hK : Keeps sB s) : Keeps sB (State.revertBorrower s) := by
  unfold State.revertBorrower
  repeat' first
    | with_reducible assumption
    | with_reducible apply keeps_onPwr
    | intro _
    | split
    | dsimp only

theorem keeps_State_revertLender (s : State)  (hK : Keeps sB s) : Keeps sB (State.revertLender s) := by
  unfold State.revertLender
  repeat' first
    | with_reducible assumption
    | with_reducible apply keeps_onPwr
    | intro _
    | split
    | dsimp only

theorem keeps_State_settleRevert (s : State)  (hK : Keeps sB s) : Keeps sB (State.settleRevert s) := by
  unfold State.settleRevert
  repeat' first
    | with_reducible assumption
    | with_reducible apply keeps_foldl
    | with_reducible apply keeps_State_count
    | with_reducible apply keeps_State_event
    | with_reducible apply keeps_State_sendBudget
    | with_reducible apply keeps_State_revertLender
    | with_reducible apply keeps_onPwr
    | intro _
    | split
    | dsimp only

theorem keeps_State_revertLoans (s : State)  (hK : Keeps sB s) : Keeps sB (State.revertLoans s) := by
  unfold State.revertLoans
  repeat' first
    | with_reducible assumption
    | with_reducible apply keeps_foldl
    | with_reducible apply keeps_State_sendBudget
    | with_reducible apply keeps_State_revertBorrower
    | with_reducible apply keeps_State_settleRevert
    | with_reducible apply keeps_onPwr
    | intro _
    | split
    | dsimp only

theorem keeps_State_capChanged (s : State)  (hK : Keeps sB s) : Keeps sB (State.capChanged s) := by
  unfold State.capChanged
  repeat' first
    | with_reducible assumption
    | with_reducible apply keeps_State_sendBudget
    | with_reducible apply keeps_State_revertLoans
    | with_reducible apply keeps_onPwr
    | intro _
    | split
    | dsimp only

end Sys2Proof.Laws
end

