-- ==== Sys2Proof/Laws/KeepsTxnOps.lean ====
section
/-! SUPPORT. What the operations of Machine/TxnOps.lean keep (Laws/Keeps.lean says what that is). -/

namespace Sys2Proof.Laws

open Sys2Proof Sys2Proof.Machine

variable {sB : State}

theorem keeps_State_collectorsChanged (s : State) (old : Bytes)  (hK : Keeps sB s) : Keeps sB (State.collectorsChanged s old) := by
  unfold State.collectorsChanged
  repeat' first
    | with_reducible assumption
    | with_reducible apply keeps_State_exportFaults
    | with_reducible apply keeps_onInteg
    | intro _
    | split
    | dsimp only

theorem keeps_State_afterSet (s : State) (old : Tbl SetVal) (keys : List Nat)  (hK : Keeps sB s) : Keeps sB (State.afterSet s old keys) := by
  unfold State.afterSet
  repeat' first
    | with_reducible assumption
    | with_reducible apply keeps_State_settleClients
    | with_reducible apply keeps_State_revertLoans
    | with_reducible apply keeps_State_capChanged
    | with_reducible apply keeps_State_collectorsChanged
    | intro _
    | split
    | dsimp only

theorem keeps_State_takeSet (s : State) (staged : Tbl Bytes) (gen : Nat)  (hK : Keeps sB s) : Keeps sB (State.takeSet s staged gen) := by
  unfold State.takeSet
  repeat' first
    | with_reducible assumption
    | with_reducible apply keeps_foldl
    | with_reducible apply keeps_State_afterSet
    | with_reducible apply keeps_onCfg
    | intro _
    | split
    | dsimp only

theorem keeps_State_endCommit (s : State) (r : CommitRun)  (hK : Keeps sB s) : Keeps sB (State.endCommit s r) := by
  unfold State.endCommit
  repeat' first
    | with_reducible assumption
    | with_reducible apply keeps_State_finishAt
    | with_reducible apply keeps_onCfg
    | intro _
    | split
    | dsimp only

theorem keeps_State_assignCommits (s : State) (step : Nat)  (hK : Keeps sB s) : Keeps sB (State.assignCommits s step) := by
  unfold State.assignCommits
  repeat' first
    | with_reducible assumption
    | with_reducible apply keeps_foldl
    | with_reducible exact act_refuse _ _
    | with_reducible exact act_wait
    | with_reducible apply act_done
    | with_reducible apply act_long
    | with_reducible apply keeps_State_sendAll
    | with_reducible apply keeps_State_takeSet
    | with_reducible apply keeps_State_endCommit
    | with_reducible apply keeps_onCfg
    | intro _
    | split
    | dsimp only

theorem keeps_State_dropTxn (s : State) (slice : Bool)  (hK : Keeps sB s) : Keeps sB (State.dropTxn s slice) := by
  unfold State.dropTxn
  repeat' first
    | with_reducible assumption
    | with_reducible apply keeps_onCfg
    | intro _
    | split
    | dsimp only

theorem keeps_State_haltTxns (s : State)  (hK : Keeps sB s) : Keeps sB (State.haltTxns s) := by
  unfold State.haltTxns
  repeat' first
    | with_reducible assumption
    | with_reducible apply keeps_State_finishAt
    | with_reducible apply keeps_State_sendAll
    | with_reducible apply keeps_onCfg
    | intro _
    | split
    | dsimp only

end Sys2Proof.Laws
end

