-- ==== Sys2Proof/Laws/KeepsHalt.lean ====
section
/-! SUPPORT. What the operations of Machine/Halt.lean keep (Laws/Keeps.lean says what that is). -/

namespace Sys2Proof.Laws

open Sys2Proof Sys2Proof.Machine

variable {sB : State}

theorem keeps_State_modStep (s : State) (n : Nat) (f : Step → Step)  (hK : Keeps sB s) : Keeps sB (State.modStep s n f) := by
  unfold State.modStep
  repeat' first
    | with_reducible assumption
    | with_reducible apply keeps_onSteps
    | intro _
    | split
    | dsimp only

theorem keeps_State_applyAbort (s : State) (first code : Nat)  (hK : Keeps sB s) : Keeps sB (State.applyAbort s first code) := by
  unfold State.applyAbort
  repeat' first
    | with_reducible assumption
    | with_reducible apply keeps_foldl
    | with_reducible apply keeps_State_count
    | with_reducible apply keeps_State_sendLead
    | with_reducible apply keeps_onTiles
    | with_reducible apply keeps_onSteps
    | with_reducible apply keeps_onSrv
    | with_reducible apply keeps_onKv
    | with_reducible apply keeps_onFab
    | intro _
    | split
    | dsimp only

theorem keeps_State_noteClear (s : State) (m : Nat)  (hK : Keeps sB s) : Keeps sB (State.noteClear s m) := by
  unfold State.noteClear
  repeat' first
    | with_reducible assumption
    | with_reducible apply keeps_onSteps
    | intro _
    | split
    | dsimp only

theorem keeps_State_releaseFrom (s : State) (first : Nat)  (hK : Keeps sB s) : Keeps sB (State.releaseFrom s first) := by
  unfold State.releaseFrom
  repeat' first
    | with_reducible assumption
    | with_reducible apply keeps_onSrv
    | intro _
    | split
    | dsimp only

theorem keeps_State_stopTests (s : State)  (hK : Keeps sB s) : Keeps sB (State.stopTests s) := by
  unfold State.stopTests
  repeat' first
    | with_reducible assumption
    | with_reducible apply keeps_onTiles
    | intro _
    | split
    | dsimp only

theorem keeps_State_pruneSteps (s : State)  (hK : Keeps sB s) : Keeps sB (State.pruneSteps s) := by
  unfold State.pruneSteps
  repeat' first
    | with_reducible assumption
    | with_reducible apply keeps_onSteps
    | intro _
    | split
    | dsimp only

theorem keeps_State_settleStop (s : State)  (hK : Keeps sB s) : Keeps sB (State.settleStop s) := by
  unfold State.settleStop
  repeat' first
    | with_reducible assumption
    | with_reducible apply keeps_State_installPending
    | with_reducible apply keeps_State_takeNext
    | with_reducible apply keeps_State_startFade
    | with_reducible apply keeps_State_revertLoans
    | with_reducible apply keeps_State_stopTests
    | intro _
    | split
    | dsimp only

theorem keeps_State_breakDrain (s : State)  (hK : Keeps sB s) : Keeps sB (State.breakDrain s) := by
  unfold State.breakDrain
  repeat' first
    | with_reducible assumption
    | with_reducible apply keeps_State_finishAt
    | with_reducible apply keeps_onSrv
    | intro _
    | split
    | dsimp only

theorem keeps_State_settleCommit (s : State)  (hK : Keeps sB s) : Keeps sB (State.settleCommit s) := by
  unfold State.settleCommit
  repeat' first
    | with_reducible assumption
    | with_reducible apply keeps_State_assignCommits
    | intro _
    | split
    | dsimp only

theorem keeps_State_softHalt (s : State)  (hK : Keeps sB s) : Keeps sB (State.softHalt s) := by
  unfold State.softHalt
  repeat' first
    | with_reducible assumption
    | with_reducible apply keeps_foldl
    | with_reducible apply keeps_State_repError
    | with_reducible apply keeps_State_endGen
    | with_reducible apply keeps_State_settleStop
    | with_reducible apply keeps_State_breakDrain
    | with_reducible apply keeps_State_settleCommit
    | with_reducible apply keeps_onSrv
    | intro _
    | split
    | dsimp only

theorem keeps_State_haltSwap (s : State)  (hK : Keeps sB s) : Keeps sB (State.haltSwap s) := by
  unfold State.haltSwap
  repeat' first
    | with_reducible assumption
    | with_reducible apply keeps_State_finishAt
    | with_reducible apply keeps_State_finishSwapWrites
    | with_reducible apply keeps_onWts
    | intro _
    | split
    | dsimp only

theorem keeps_State_hardHalt (s : State)  (hK : Keeps sB s) : Keeps sB (State.hardHalt s) := by
  unfold State.hardHalt
  repeat' first
    | with_reducible assumption
    | with_reducible apply keeps_foldl
    | with_reducible apply keeps_State_fault
    | with_reducible apply keeps_State_sendLead
    | with_reducible apply keeps_State_revertBorrower
    | with_reducible apply keeps_State_haltTxns
    | with_reducible apply keeps_State_applyAbort
    | with_reducible apply keeps_State_settleStop
    | with_reducible apply keeps_State_breakDrain
    | with_reducible apply keeps_State_haltSwap
    | with_reducible apply keeps_onSrv
    | intro _
    | split
    | dsimp only

theorem keeps_State_failSessions (s : State) (first : Nat)  (hK : Keeps sB s) : Keeps sB (State.failSessions s first) := by
  unfold State.failSessions
  repeat' first
    | with_reducible assumption
    | with_reducible apply keeps_foldl
    | with_reducible apply keeps_State_advanceEpoch
    | with_reducible apply keeps_State_failPending
    | intro _
    | split
    | dsimp only

theorem keeps_State_leadAbort (s : State) (first code m : Nat)  (hK : Keeps sB s) : Keeps sB (State.leadAbort s first code m) := by
  unfold State.leadAbort
  repeat' first
    | with_reducible assumption
    | with_reducible apply keeps_State_fault
    | with_reducible apply keeps_State_sendAll
    | with_reducible apply keeps_State_applyAbort
    | with_reducible apply keeps_State_noteClear
    | with_reducible apply keeps_State_releaseFrom
    | with_reducible apply keeps_State_softHalt
    | with_reducible apply keeps_State_hardHalt
    | with_reducible apply keeps_State_failSessions
    | with_reducible apply keeps_onSteps
    | intro _
    | split
    | dsimp only

theorem keeps_State_raiseAbort (s : State) (step code : Nat)  (hK : Keeps sB s) : Keeps sB (State.raiseAbort s step code) := by
  unfold State.raiseAbort
  repeat' first
    | with_reducible assumption
    | with_reducible apply keeps_State_sendLead
    | with_reducible apply keeps_State_leadAbort
    | intro _
    | split
    | dsimp only

theorem keeps_State_stepFault (s : State) (code : Nat) (u : UnitId) (step : Nat) (c : FaultCtx)  (hK : Keeps sB s) : Keeps sB (State.stepFault s code u step c) := by
  unfold State.stepFault
  repeat' first
    | with_reducible assumption
    | with_reducible apply keeps_State_fault
    | with_reducible apply keeps_State_raiseAbort
    | intro _
    | split
    | dsimp only

theorem keeps_State_askHalt (s : State) (code step : Nat)  (hK : Keeps sB s) : Keeps sB (State.askHalt s code step) := by
  unfold State.askHalt
  repeat' first
    | with_reducible assumption
    | with_reducible apply keeps_State_raiseAbort
    | intro _
    | split
    | dsimp only

theorem keeps_State_loseSession (s : State) (i : Nat)  (hK : Keeps sB s) : Keeps sB (State.loseSession s i) := by
  unfold State.loseSession
  repeat' first
    | with_reducible assumption
    | with_reducible apply keeps_foldl
    | with_reducible apply keeps_State_event
    | with_reducible apply keeps_State_pushClosed
    | with_reducible apply keeps_State_repError
    | with_reducible apply keeps_State_replyFree
    | with_reducible apply keeps_State_freeUnbound
    | with_reducible apply keeps_State_dropSession
    | intro _
    | split
    | dsimp only

theorem keeps_State_markLost (s : State)  (hK : Keeps sB s) : Keeps sB (State.markLost s) := by
  unfold State.markLost
  repeat' first
    | with_reducible assumption
    | with_reducible apply keeps_foldl
    | with_reducible apply keeps_State_repError
    | with_reducible apply keeps_State_advanceEpoch
    | with_reducible apply keeps_State_endGen
    | with_reducible apply keeps_State_dropSession
    | with_reducible apply keeps_State_releaseFrom
    | with_reducible apply keeps_State_loseSession
    | with_reducible apply keeps_onSrv
    | intro _
    | split
    | dsimp only

end Sys2Proof.Laws
end

