-- ==== Sys2Proof/Laws/KeepsUnits.lean ====
section
/-! SUPPORT. What the operations of Machine/Units.lean keep (Laws/Keeps.lean says what that is). -/

namespace Sys2Proof.Laws

open Sys2Proof Sys2Proof.Machine

variable {sB : State}

theorem keeps_State_modUnit (s : State) (u : UnitId) (f : UnitEnt → UnitEnt)  (hK : Keeps sB s) : Keeps sB (State.modUnit s u f) := by
  unfold State.modUnit
  repeat' first
    | with_reducible assumption
    | with_reducible apply keeps_onInteg
    | intro _
    | split
    | dsimp only

theorem keeps_State_addCause (s : State) (p cause : Nat)  (hK : Keeps sB s) : Keeps sB (State.addCause s p cause) := by
  unfold State.addCause
  repeat' first
    | with_reducible assumption
    | with_reducible apply keeps_onTiles
    | intro _
    | split
    | dsimp only

theorem keeps_State_moveBuffer (s : State) (old new : Nat) (planned : Bool)  (hK : Keeps sB s) : Keeps sB (State.moveBuffer s old new planned) := by
  unfold State.moveBuffer
  repeat' first
    | with_reducible assumption
    | with_reducible apply keeps_foldl
    | with_reducible apply keeps_State_write
    | with_reducible apply keeps_State_writeHome
    | with_reducible apply keeps_onMem
    | (show Memory.wf _ = true; first | exact mem_wf_nil | exact mem_wf_filter _ _ (by assumption) | exact mem_wf_write _ _ _ (by assumption) | exact mem_wf_clear _ _ _ (by assumption) | assumption)
    | intro _
    | split
    | dsimp only

theorem keeps_State_swapTile (s : State) (l old new cause : Nat)  (hK : Keeps sB s) : Keeps sB (State.swapTile s l old new cause) := by
  unfold State.swapTile
  repeat' first
    | with_reducible assumption
    | with_reducible apply keeps_State_event
    | with_reducible apply keeps_State_log
    | with_reducible apply keeps_State_traceRec
    | with_reducible apply keeps_State_stall
    | with_reducible apply keeps_State_modUnit
    | with_reducible apply keeps_State_moveBuffer
    | with_reducible apply keeps_onTiles
    | intro _
    | split
    | dsimp only

theorem keeps_State_deplete (s : State) (l p : Nat)  (hK : Keeps sB s) : Keeps sB (State.deplete s l p) := by
  unfold State.deplete
  repeat' first
    | with_reducible assumption
    | with_reducible apply keeps_State_fault
    | with_reducible apply keeps_State_askHalt
    | with_reducible apply keeps_onTiles
    | intro _
    | split
    | dsimp only

theorem keeps_State_boundary (s : State) (l : Nat)  (hK : Keeps sB s) : Keeps sB (State.boundary s l) := by
  unfold State.boundary
  repeat' first
    | with_reducible assumption
    | with_reducible apply keeps_State_swapTile
    | with_reducible apply keeps_State_deplete
    | intro _
    | split
    | dsimp only

theorem keeps_State_beginTest (s : State) (p : Nat)  (hK : Keeps sB s) : Keeps sB (State.beginTest s p) := by
  unfold State.beginTest
  repeat' first
    | with_reducible assumption
    | with_reducible apply keeps_onTiles
    | with_reducible apply keeps_onInteg
    | intro _
    | split
    | dsimp only

theorem keeps_State_startTests (s : State) (d : Nat)  (hK : Keeps sB s) : Keeps sB (State.startTests s d) := by
  unfold State.startTests
  repeat' first
    | with_reducible assumption
    | with_reducible apply keeps_foldl
    | with_reducible apply keeps_State_beginTest
    | with_reducible apply keeps_State_permanent
    | intro _
    | split
    | dsimp only

theorem keeps_State_permanent (s : State) (u : UnitId)  (hK : Keeps sB s) : Keeps sB (State.permanent s u) := by
  unfold State.permanent
  repeat' first
    | with_reducible assumption
    | with_reducible apply keeps_State_log
    | with_reducible apply keeps_State_fault
    | with_reducible apply keeps_State_stepFault
    | with_reducible apply keeps_State_askHalt
    | with_reducible apply keeps_State_modUnit
    | with_reducible apply keeps_State_addCause
    | with_reducible apply keeps_State_boundary
    | intro _
    | split
    | dsimp only

theorem keeps_State_transient (s : State) (u : UnitId) (vote : Bool)  (hK : Keeps sB s) : Keeps sB (State.transient s u vote) := by
  unfold State.transient
  repeat' first
    | with_reducible assumption
    | with_reducible apply keeps_State_event
    | with_reducible apply keeps_State_log
    | with_reducible apply keeps_State_modUnit
    | with_reducible apply keeps_State_permanent
    | intro _
    | split
    | dsimp only

theorem keeps_State_selfTested (s : State) (p result : Nat)  (hK : Keeps sB s) : Keeps sB (State.selfTested s p result) := by
  unfold State.selfTested
  repeat' first
    | with_reducible assumption
    | with_reducible exact act_refuse _ _
    | with_reducible exact act_wait
    | with_reducible apply act_done
    | with_reducible apply act_long
    | with_reducible apply keeps_State_finishAt
    | with_reducible apply keeps_onInteg
    | intro _
    | split
    | dsimp only

theorem keeps_State_logTest (s : State) (p result : Nat)  (hK : Keeps sB s) : Keeps sB (State.logTest s p result) := by
  unfold State.logTest
  repeat' first
    | with_reducible assumption
    | with_reducible apply keeps_State_log
    | intro _
    | split
    | dsimp only

theorem keeps_State_testPassed (s : State) (p result : Nat)  (hK : Keeps sB s) : Keeps sB (State.testPassed s p result) := by
  unfold State.testPassed
  repeat' first
    | with_reducible assumption
    | with_reducible apply keeps_State_modUnit
    | with_reducible apply keeps_State_startTests
    | with_reducible apply keeps_State_transient
    | with_reducible apply keeps_State_selfTested
    | with_reducible apply keeps_State_logTest
    | with_reducible apply keeps_onTiles
    | intro _
    | split
    | dsimp only

theorem keeps_State_endTest (s : State) (p : Nat) (pass : Bool)  (hK : Keeps sB s) : Keeps sB (State.endTest s p pass) := by
  unfold State.endTest
  repeat' first
    | with_reducible assumption
    | with_reducible apply keeps_State_count
    | with_reducible apply keeps_State_event
    | with_reducible apply keeps_State_startTests
    | with_reducible apply keeps_State_permanent
    | with_reducible apply keeps_State_selfTested
    | with_reducible apply keeps_State_logTest
    | with_reducible apply keeps_State_testPassed
    | with_reducible apply keeps_onTiles
    | intro _
    | split
    | dsimp only

theorem keeps_State_checkerResult (s : State) (f : Option (Nat × UnitId))  (hK : Keeps sB s) : Keeps sB (State.checkerResult s f) := by
  unfold State.checkerResult
  repeat' first
    | with_reducible assumption
    | with_reducible apply keeps_State_log
    | with_reducible apply keeps_State_fault
    | with_reducible apply keeps_State_permanent
    | with_reducible apply keeps_onInteg
    | intro _
    | split
    | dsimp only

end Sys2Proof.Laws
end

