-- ==== Sys2Proof/Laws/KeepsArrive.lean ====
section
/-! SUPPORT. What the operations of Machine/Arrive.lean keep (Laws/Keeps.lean says what that is). -/

namespace Sys2Proof.Laws

open Sys2Proof Sys2Proof.Machine

variable {sB : State}

theorem keeps_State_badPacketAt (s : State) (port step : Nat)  (hK : Keeps sB s) : Keeps sB (State.badPacketAt s port step) := by
  unfold State.badPacketAt
  repeat' first
    | with_reducible assumption
    | with_reducible apply keeps_State_count
    | with_reducible apply keeps_State_stepFault
    | intro _
    | split
    | dsimp only

theorem keeps_State_arrive (s0 : State) (port : Nat) (k : Packet) (mine : Packet → Bool) (rule : State → Packet → State) (hrule : ∀ a0 a1, Keeps sB a0 → Keeps sB (rule a0 a1)) (hK : Keeps sB s0) : Keeps sB (State.arrive s0 port k mine rule) := by
  unfold State.arrive
  repeat' first
    | with_reducible assumption
    | with_reducible apply hrule
    | with_reducible apply keeps_State_emit
    | with_reducible apply keeps_State_count
    | with_reducible apply keeps_State_sendOn
    | with_reducible apply keeps_State_badPacketAt
    | with_reducible apply keeps_State_release
    | intro _
    | split
    | dsimp only

theorem keeps_State_recvMsg (s : State) (port : Nat) (k : Packet) (msg : Nat) (rule : State → Msg → State) (hrule : ∀ a0 a1, Keeps sB a0 → Keeps sB (rule a0 a1)) (hK : Keeps sB s) : Keeps sB (State.recvMsg s port k msg rule) := by
  unfold State.recvMsg
  repeat' first
    | with_reducible assumption
    | with_reducible apply hrule
    | (refine pair_get ?_ (by assumption); with_reducible apply keeps_State_joinMsg)
    | with_reducible apply keeps_State_joinMsg
    | with_reducible apply keeps_State_badPacketAt
    | with_reducible apply keeps_State_arrive
    | intro _
    | split
    | dsimp only

end Sys2Proof.Laws
end

