-- ==== Sys2Proof/Laws/KeepsPower.lean ====
section
/-! SUPPORT. What the operations of Machine/Power.lean keep (Laws/Keeps.lean says what that is). -/

namespace Sys2Proof.Laws

open Sys2Proof Sys2Proof.Machine

variable {sB : State}

theorem keeps_execRailCurrentSample (rail milliamps : Nat) (s : State)  (hK : Keeps sB s) : ∃ u, (execRailCurrentSample rail milliamps s) = .next u ∧ Keeps sB u := by
  unfold execRailCurrentSample
  refine ⟨_, rfl, ?_⟩
  repeat' first
    | with_reducible assumption
    | with_reducible apply keeps_State_count
    | with_reducible apply keeps_onPwr
    | intro _
    | split
    | dsimp only

theorem keeps_State_setPoint (s : State) (c p : Nat)  (hK : Keeps sB s) : Keeps sB (State.setPoint s c p) := by
  unfold State.setPoint
  repeat' first
    | with_reducible assumption
    | with_reducible apply keeps_onPwr
    | intro _
    | split
    | dsimp only

theorem keeps_execOppointSettled (cdie : Nat) (s : State)  (hK : Keeps sB s) : ∃ u, (execOppointSettled cdie s) = .next u ∧ Keeps sB u := by
  unfold execOppointSettled
  refine ⟨_, rfl, ?_⟩
  repeat' first
    | with_reducible assumption
    | with_reducible apply keeps_onPwr
    | intro _
    | split
    | dsimp only

theorem keeps_State_shareBudget (s : State) (ph : Nat)  (hK : Keeps sB s) : Keeps sB (State.shareBudget s ph) := by
  unfold State.shareBudget
  repeat' first
    | with_reducible assumption
    | with_reducible apply keeps_foldl
    | with_reducible apply keeps_State_setPoint
    | with_reducible apply keeps_onPwr
    | intro _
    | split
    | dsimp only

theorem keeps_State_learnStep (s : State) (hK : Keeps sB s) : Keeps sB (State.learnStep s) := by
  unfold State.learnStep
  refine keeps_foldl _ _ _ (fun a ph ha => ?_) hK
  refine keeps_foldl _ _ _ (fun b c hb => ?_) ha
  exact keeps_foldl _ _ _ (fun d cls hd => Keeps.of_same hd rfl rfl rfl rfl rfl) hb

theorem keeps_execOpOppointSet (q : Req) (s : State)  (hK : Keeps sB s) : ∃ u, (execOpOppointSet q s) = .next u ∧ Keeps sB u := by
  unfold execOpOppointSet
  refine ⟨_, rfl, ?_⟩
  repeat' first
    | with_reducible assumption
    | with_reducible apply keeps_foldl
    | with_reducible exact act_refuse _ _
    | with_reducible exact act_wait
    | with_reducible apply act_done
    | with_reducible apply act_long
    | with_reducible apply keeps_State_runOp
    | with_reducible apply keeps_onPwr
    | intro _
    | split
    | dsimp only

theorem keeps_execOpCapSet (q : Req) (s : State)  (hK : Keeps sB s) : ∃ u, (execOpCapSet q s) = .next u ∧ Keeps sB u := by
  unfold execOpCapSet
  refine ⟨_, rfl, ?_⟩
  repeat' first
    | with_reducible assumption
    | with_reducible exact act_refuse _ _
    | with_reducible exact act_wait
    | with_reducible apply act_done
    | with_reducible apply act_long
    | with_reducible apply keeps_State_runOp
    | with_reducible apply keeps_State_capChanged
    | with_reducible apply keeps_onCfg
    | with_reducible apply keeps_onPwr
    | intro _
    | split
    | dsimp only

theorem keeps_execClampAdjust (mean10usW : Nat) (s : State)  (hK : Keeps sB s) : ∃ u, (execClampAdjust mean10usW s) = .next u ∧ Keeps sB u := by
  unfold execClampAdjust
  refine ⟨_, rfl, ?_⟩
  repeat' first
    | with_reducible assumption
    | with_reducible apply keeps_foldl
    | with_reducible apply keeps_State_count
    | with_reducible apply keeps_State_setPoint
    | with_reducible apply keeps_onPwr
    | intro _
    | split
    | dsimp only

theorem keeps_execCapReachDecision (reachW : Nat) (s : State)  (hK : Keeps sB s) : ∃ u, (execCapReachDecision reachW s) = .next u ∧ Keeps sB u := by
  unfold execCapReachDecision
  refine ⟨_, rfl, ?_⟩
  repeat' first
    | with_reducible assumption
    | with_reducible apply keeps_onPwr
    | intro _
    | split
    | dsimp only

theorem keeps_State_s3Exit (s : State)  (hK : Keeps sB s) : Keeps sB (State.s3Exit s) := by
  unfold State.s3Exit
  repeat' first
    | with_reducible assumption
    | with_reducible apply keeps_State_stage
    | with_reducible apply keeps_onFw
    | (show _ ≤ _; exact Nat.le_refl _)
    | intro _
    | split
    | dsimp only

theorem keeps_execOpPowerStateSet (q : Req) (s : State)  (hK : Keeps sB s) : ∃ u, (execOpPowerStateSet q s) = .next u ∧ Keeps sB u := by
  unfold execOpPowerStateSet
  refine ⟨_, rfl, ?_⟩
  repeat' first
    | with_reducible assumption
    | with_reducible exact act_refuse _ _
    | with_reducible exact act_wait
    | with_reducible apply act_done
    | with_reducible apply act_long
    | with_reducible apply keeps_State_runOp
    | with_reducible apply keeps_State_s3Exit
    | with_reducible apply keeps_onPwr
    | intro _
    | split
    | dsimp only

theorem keeps_State_endChange (s : State) (r : StateRun)  (hK : Keeps sB s) : Keeps sB (State.endChange s r) := by
  unfold State.endChange
  repeat' first
    | with_reducible assumption
    | with_reducible apply keeps_State_finishAt
    | with_reducible apply keeps_onPwr
    | intro _
    | split
    | dsimp only

theorem keeps_State_startStagger (s : State)  (hK : Keeps sB s) : Keeps sB (State.startStagger s) := by
  unfold State.startStagger
  repeat' first
    | with_reducible assumption
    | with_reducible apply keeps_onPwr
    | intro _
    | split
    | dsimp only

theorem keeps_State_enterS3 (s : State)  (hK : Keeps sB s) : Keeps sB (State.enterS3 s) := by
  unfold State.enterS3
  repeat' first
    | with_reducible assumption
    | with_reducible apply keeps_State_railsOff
    | with_reducible apply keeps_State_sendCards
    | with_reducible apply keeps_State_stage
    | with_reducible apply keeps_onFw
    | (show _ ≤ _; exact Nat.le_refl _)
    | intro _
    | split
    | dsimp only

theorem keeps_execPowerStateEntered (s : State)  (hK : Keeps sB s) : ∃ u, (execPowerStateEntered s) = .next u ∧ Keeps sB u := by
  unfold execPowerStateEntered
  refine ⟨_, rfl, ?_⟩
  repeat' first
    | with_reducible assumption
    | with_reducible exact act_refuse _ _
    | with_reducible exact act_wait
    | with_reducible apply act_done
    | with_reducible apply act_long
    | with_reducible apply keeps_State_event
    | with_reducible apply keeps_State_noteState
    | with_reducible apply keeps_State_sendCards
    | with_reducible apply keeps_State_evalPorts
    | with_reducible apply keeps_State_stopTests
    | with_reducible apply keeps_State_endChange
    | with_reducible apply keeps_State_startStagger
    | with_reducible apply keeps_State_enterS3
    | with_reducible apply keeps_State_stage
    | with_reducible apply keeps_onPwr
    | intro _
    | split
    | dsimp only

theorem keeps_State_payBudget (s : State)  (hK : Keeps sB s) : Keeps sB (State.payBudget s) := by
  unfold State.payBudget
  repeat' first
    | with_reducible assumption
    | with_reducible apply keeps_State_sendBudget
    | with_reducible apply keeps_State_settleRevert
    | with_reducible apply keeps_onPwr
    | intro _
    | split
    | dsimp only

theorem keeps_State_stepFiller (s : State) (meanW : Nat)  (hK : Keeps sB s) : Keeps sB (State.stepFiller s meanW) := by
  unfold State.stepFiller
  repeat' first
    | with_reducible assumption
    | with_reducible apply keeps_State_count
    | with_reducible apply keeps_onPwr
    | intro _
    | split
    | dsimp only

theorem keeps_execPowerWindowEnd (meanW vIn100mV : Nat) (s : State) (hK : Keeps sB s) : ∃ u, (execPowerWindowEnd meanW vIn100mV s) = .next u ∧ Keeps sB u := by
  unfold execPowerWindowEnd
  refine ⟨_, rfl, ?_⟩
  extract_lets uj s1 s2 s3 s4 done s5 s6 s7 s8
  have h1 : Keeps sB s1 := keeps_onPwr _ _ hK
  have h2 : Keeps sB s2 := keeps_onPwr _ _ h1
  have h3 : Keeps sB s3 := by
    unfold s3; split
    · exact keeps_State_count _ _ _ _ h2
    · exact h2
  have h4 : Keeps sB s4 := keeps_State_stepFiller _ _ h3
  have h5 : Keeps sB s5 := keeps_onPwr _ _ h4
  have h6 : Keeps sB s6 := keeps_foldl _ _ _ (fun a r ha => keeps_State_finishAt _ _ _ _ _ _ ha) h5
  have h7 : Keeps sB s7 := by
    unfold s7; split
    · exact keeps_State_payBudget _ h6
    · exact h6
  have h8 : Keeps sB s8 := by
    unfold s8; split
    · split
      · exact h7
      · split
        · exact keeps_State_fault _ _ _ _ (keeps_onPwr _ _ h7)
        · exact keeps_onPwr _ _ h7
    · exact h7
  split
  · exact h1
  · split
    · exact keeps_onPwr _ _ h8
    · exact h8

theorem keeps_execStaggerHoldEnd (s : State)  (hK : Keeps sB s) : ∃ u, (execStaggerHoldEnd s) = .next u ∧ Keeps sB u := by
  unfold execStaggerHoldEnd
  refine ⟨_, rfl, ?_⟩
  repeat' first
    | with_reducible assumption
    | with_reducible apply keeps_onPwr
    | intro _
    | split
    | dsimp only

theorem keeps_execFadeEnd (s : State)  (hK : Keeps sB s) : ∃ u, (execFadeEnd s) = .next u ∧ Keeps sB u := by
  unfold execFadeEnd
  refine ⟨_, rfl, ?_⟩
  repeat' first
    | with_reducible assumption
    | with_reducible apply keeps_onPwr
    | intro _
    | split
    | dsimp only

theorem keeps_execThermalSupervisor (temps : List Int) (s : State)  (hK : Keeps sB s) : ∃ u, (execThermalSupervisor temps s) = .next u ∧ Keeps sB u := by
  unfold execThermalSupervisor
  refine ⟨_, rfl, ?_⟩
  repeat' first
    | with_reducible assumption
    | with_reducible apply keeps_foldl
    | with_reducible apply keeps_State_gauge
    | with_reducible apply keeps_State_event
    | with_reducible apply keeps_onPwr
    | intro _
    | split
    | dsimp only

theorem keeps_execOpPowerRead (q : Req) (s : State)  (hK : Keeps sB s) : ∃ u, (execOpPowerRead q s) = .next u ∧ Keeps sB u := by
  unfold execOpPowerRead
  refine ⟨_, rfl, ?_⟩
  repeat' first
    | with_reducible assumption
    | with_reducible exact act_refuse _ _
    | with_reducible exact act_wait
    | with_reducible apply act_done
    | with_reducible apply act_long
    | with_reducible apply keeps_State_runOp
    | intro _
    | split
    | dsimp only

theorem keeps_execOpBudgetRead (q : Req) (s : State)  (hK : Keeps sB s) : ∃ u, (execOpBudgetRead q s) = .next u ∧ Keeps sB u := by
  unfold execOpBudgetRead
  refine ⟨_, rfl, ?_⟩
  repeat' first
    | with_reducible assumption
    | with_reducible exact act_refuse _ _
    | with_reducible exact act_wait
    | with_reducible apply act_done
    | with_reducible apply act_long
    | with_reducible apply keeps_State_runOp
    | intro _
    | split
    | dsimp only

theorem keeps_State_recvBudget (s : State) (port : Nat) (k : Packet) (kind : Nat) (rule : State → Bytes → State) (hrule : ∀ a0 a1, Keeps sB a0 → Keeps sB (rule a0 a1)) (hK : Keeps sB s) : Keeps sB (State.recvBudget s port k kind rule) := by
  unfold State.recvBudget
  repeat' first
    | with_reducible assumption
    | with_reducible apply keeps_foldl
    | with_reducible apply hrule
    | with_reducible apply keeps_State_badPacketAt
    | with_reducible apply keeps_State_recvMsg
    | intro _
    | split
    | dsimp only

theorem keeps_execBudgetSlack (port : Nat) (k : Packet) (s : State)  (hK : Keeps sB s) : ∃ u, (execBudgetSlack port k s) = .next u ∧ Keeps sB u := by
  unfold execBudgetSlack
  refine ⟨_, rfl, ?_⟩
  repeat' first
    | with_reducible assumption
    | with_reducible apply keeps_State_recvBudget
    | with_reducible apply keeps_onPwr
    | intro _
    | split
    | dsimp only

theorem keeps_State_takeGrant (s : State) (w : Nat)  (hK : Keeps sB s) : Keeps sB (State.takeGrant s w) := by
  unfold State.takeGrant
  repeat' first
    | with_reducible assumption
    | with_reducible apply keeps_onPwr
    | intro _
    | split
    | dsimp only

theorem keeps_State_grantLoans (s : State)  (hK : Keeps sB s) : Keeps sB (State.grantLoans s) := by
  unfold State.grantLoans
  repeat' first
    | with_reducible assumption
    | with_reducible apply keeps_foldl
    | with_reducible apply keeps_State_count
    | with_reducible apply keeps_State_event
    | with_reducible apply keeps_State_sendBudget
    | with_reducible apply keeps_State_takeGrant
    | with_reducible apply keeps_onPwr
    | intro _
    | split
    | dsimp only

theorem keeps_execBudgetLent (port : Nat) (k : Packet) (s : State)  (hK : Keeps sB s) : ∃ u, (execBudgetLent port k s) = .next u ∧ Keeps sB u := by
  unfold execBudgetLent
  refine ⟨_, rfl, ?_⟩
  repeat' first
    | with_reducible assumption
    | with_reducible apply keeps_State_recvBudget
    | with_reducible apply keeps_State_grantLoans
    | with_reducible apply keeps_onPwr
    | intro _
    | split
    | dsimp only

theorem keeps_execBudgetGrant (port : Nat) (k : Packet) (s : State)  (hK : Keeps sB s) : ∃ u, (execBudgetGrant port k s) = .next u ∧ Keeps sB u := by
  unfold execBudgetGrant
  refine ⟨_, rfl, ?_⟩
  repeat' first
    | with_reducible assumption
    | with_reducible apply keeps_State_recvBudget
    | with_reducible apply keeps_State_takeGrant
    | intro _
    | split
    | dsimp only

theorem keeps_execBudgetRevert (port : Nat) (k : Packet) (s : State)  (hK : Keeps sB s) : ∃ u, (execBudgetRevert port k s) = .next u ∧ Keeps sB u := by
  unfold execBudgetRevert
  refine ⟨_, rfl, ?_⟩
  repeat' first
    | with_reducible assumption
    | with_reducible apply keeps_State_revertBorrower
    | with_reducible apply keeps_State_revertLender
    | with_reducible apply keeps_State_revertLoans
    | with_reducible apply keeps_State_recvBudget
    | intro _
    | split
    | dsimp only

theorem keeps_execBudgetReverted (port : Nat) (k : Packet) (s : State)  (hK : Keeps sB s) : ∃ u, (execBudgetReverted port k s) = .next u ∧ Keeps sB u := by
  unfold execBudgetReverted
  refine ⟨_, rfl, ?_⟩
  repeat' first
    | with_reducible assumption
    | with_reducible apply keeps_State_settleRevert
    | with_reducible apply keeps_State_recvBudget
    | with_reducible apply keeps_onPwr
    | intro _
    | split
    | dsimp only

theorem keeps_execBudgetWindow (s : State)  (hK : Keeps sB s) : ∃ u, (execBudgetWindow s) = .next u ∧ Keeps sB u := by
  unfold execBudgetWindow
  refine ⟨_, rfl, ?_⟩
  repeat' first
    | with_reducible assumption
    | with_reducible apply keeps_State_fault
    | with_reducible apply keeps_State_sendBudget
    | with_reducible apply keeps_onPwr
    | intro _
    | split
    | dsimp only

theorem keeps_execLenderSelfRevert (s : State)  (hK : Keeps sB s) : ∃ u, (execLenderSelfRevert s) = .next u ∧ Keeps sB u := by
  unfold execLenderSelfRevert
  refine ⟨_, rfl, ?_⟩
  repeat' first
    | with_reducible assumption
    | with_reducible apply keeps_State_revertLender
    | intro _
    | split
    | dsimp only

end Sys2Proof.Laws
end

