-- ==== Sys2Proof/Laws/KeepsSettings.lean ====
section
/-! SUPPORT. What the operations of Machine/Settings.lean keep (Laws/Keeps.lean says what that is). -/

namespace Sys2Proof.Laws

open Sys2Proof Sys2Proof.Machine

variable {sB : State}

theorem keeps_State_putTxn (s : State) (t : Txn)  (hK : Keeps sB s) : Keeps sB (State.putTxn s t) := by
  unfold State.putTxn
  repeat' first
    | with_reducible assumption
    | with_reducible apply keeps_onCfg
    | intro _
    | split
    | dsimp only

theorem keeps_State_setNow (s : State) (t : Tbl Bytes)  (hK : Keeps sB s) : Keeps sB (State.setNow s t) := by
  unfold State.setNow
  repeat' first
    | with_reducible assumption
    | with_reducible apply keeps_foldl
    | with_reducible apply keeps_State_afterSet
    | with_reducible apply keeps_onCfg
    | intro _
    | split
    | dsimp only

theorem keeps_State_stageInto (s : State) (c : Cmd) (t : Txn) (es : List SetEntry) (op : Nat) (k : State → Act) (hk : ∀ a0, Keeps sB a0 → ActKeeps sB (k a0)) (hK : Keeps sB s) : ActKeeps sB (State.stageInto s c t es op k) := by
  unfold State.stageInto
  repeat' first
    | with_reducible assumption
    | with_reducible exact act_refuse _ _
    | with_reducible exact act_wait
    | with_reducible apply act_done
    | with_reducible apply act_long
    | with_reducible apply hk
    | with_reducible apply keeps_State_objAct
    | with_reducible apply keeps_State_putTxn
    | intro _
    | split
    | dsimp only

theorem keeps_execOpBegin (q : Req) (s : State)  (hK : Keeps sB s) : ∃ u, (execOpBegin q s) = .next u ∧ Keeps sB u := by
  unfold execOpBegin
  refine ⟨_, rfl, ?_⟩
  repeat' first
    | with_reducible assumption
    | with_reducible exact act_refuse _ _
    | with_reducible exact act_wait
    | with_reducible apply act_done
    | with_reducible apply act_long
    | with_reducible apply keeps_State_drawn
    | with_reducible apply keeps_State_setTxnField
    | with_reducible apply keeps_State_runOp
    | with_reducible apply keeps_State_putTxn
    | intro _
    | split
    | dsimp only

theorem keeps_execOpStage (q : Req) (s : State)  (hK : Keeps sB s) : ∃ u, (execOpStage q s) = .next u ∧ Keeps sB u := by
  unfold execOpStage
  refine ⟨_, rfl, ?_⟩
  repeat' first
    | with_reducible assumption
    | with_reducible exact act_refuse _ _
    | with_reducible exact act_wait
    | with_reducible apply act_done
    | with_reducible apply act_long
    | with_reducible apply keeps_State_runOp
    | with_reducible apply keeps_State_setNow
    | with_reducible apply keeps_State_stageInto
    | intro _
    | split
    | dsimp only

theorem keeps_execOpRead (q : Req) (s : State)  (hK : Keeps sB s) : ∃ u, (execOpRead q s) = .next u ∧ Keeps sB u := by
  unfold execOpRead
  refine ⟨_, rfl, ?_⟩
  repeat' first
    | with_reducible assumption
    | with_reducible exact act_refuse _ _
    | with_reducible exact act_wait
    | with_reducible apply act_done
    | with_reducible apply act_long
    | with_reducible apply keeps_State_runOp
    | with_reducible apply keeps_State_putTxn
    | intro _
    | split
    | dsimp only

theorem keeps_execOpFactoryView (q : Req) (s : State)  (hK : Keeps sB s) : ∃ u, (execOpFactoryView q s) = .next u ∧ Keeps sB u := by
  unfold execOpFactoryView
  refine ⟨_, rfl, ?_⟩
  repeat' first
    | with_reducible assumption
    | with_reducible exact act_refuse _ _
    | with_reducible exact act_wait
    | with_reducible apply act_done
    | with_reducible apply act_long
    | with_reducible apply keeps_State_runOp
    | with_reducible apply keeps_State_stageInto
    | intro _
    | split
    | dsimp only

theorem keeps_State_failCommit (s : State) (r : CommitRun) (st : Nat)  (hK : Keeps sB s) : Keeps sB (State.failCommit s r st) := by
  unfold State.failCommit
  repeat' first
    | with_reducible assumption
    | with_reducible apply keeps_State_finishAt
    | with_reducible apply keeps_onCfg
    | intro _
    | split
    | dsimp only

theorem keeps_State_commitReady (s : State)  (hK : Keeps sB s) : Keeps sB (State.commitReady s) := by
  unfold State.commitReady
  repeat' first
    | with_reducible assumption
    | with_reducible apply keeps_State_interim
    | with_reducible apply keeps_State_assignCommits
    | intro _
    | split
    | dsimp only

theorem keeps_State_prepareCommit (s : State)  (hK : Keeps sB s) : Keeps sB (State.prepareCommit s) := by
  unfold State.prepareCommit
  repeat' first
    | with_reducible assumption
    | with_reducible apply keeps_State_sendAll
    | with_reducible apply keeps_State_sendLead
    | with_reducible apply keeps_State_failCommit
    | with_reducible apply keeps_State_commitReady
    | with_reducible apply keeps_onCfg
    | intro _
    | split
    | dsimp only

theorem keeps_execOpCommit (q : Req) (s : State)  (hK : Keeps sB s) : ∃ u, (execOpCommit q s) = .next u ∧ Keeps sB u := by
  unfold execOpCommit
  refine ⟨_, rfl, ?_⟩
  repeat' first
    | with_reducible assumption
    | with_reducible exact act_refuse _ _
    | with_reducible exact act_wait
    | with_reducible apply act_done
    | with_reducible apply act_long
    | with_reducible apply keeps_State_runOpThen
    | with_reducible apply keeps_State_objAct
    | with_reducible apply keeps_State_prepareCommit
    | with_reducible apply keeps_onCfg
    | intro _
    | split
    | dsimp only

theorem keeps_execOpRollback (q : Req) (s : State)  (hK : Keeps sB s) : ∃ u, (execOpRollback q s) = .next u ∧ Keeps sB u := by
  unfold execOpRollback
  refine ⟨_, rfl, ?_⟩
  repeat' first
    | with_reducible assumption
    | with_reducible exact act_refuse _ _
    | with_reducible exact act_wait
    | with_reducible apply act_done
    | with_reducible apply act_long
    | with_reducible apply keeps_State_runOp
    | with_reducible apply keeps_State_objAct
    | with_reducible apply keeps_State_dropTxn
    | intro _
    | split
    | dsimp only

theorem keeps_execTxnTimeout (sliceScope : Bool) (s : State)  (hK : Keeps sB s) : ∃ u, (execTxnTimeout sliceScope s) = .next u ∧ Keeps sB u := by
  unfold execTxnTimeout
  refine ⟨_, rfl, ?_⟩
  repeat' first
    | with_reducible assumption
    | with_reducible apply keeps_State_dropTxn
    | intro _
    | split
    | dsimp only

theorem keeps_State_applyTxn (s : State) (m : Msg)  (hK : Keeps sB s) : Keeps sB (State.applyTxn s m) := by
  unfold State.applyTxn
  repeat' first
    | with_reducible assumption
    | with_reducible apply keeps_State_sendLead
    | with_reducible apply keeps_State_takeSet
    | with_reducible apply keeps_State_endCommit
    | with_reducible apply keeps_onCfg
    | intro _
    | split
    | dsimp only

theorem keeps_execTxnApply (port : Nat) (k : Packet) (s : State)  (hK : Keeps sB s) : ∃ u, (execTxnApply port k s) = .next u ∧ Keeps sB u := by
  unfold execTxnApply
  refine ⟨_, rfl, ?_⟩
  repeat' first
    | with_reducible assumption
    | with_reducible apply keeps_State_recvMsg
    | with_reducible apply keeps_State_applyTxn
    | intro _
    | split
    | dsimp only

theorem keeps_State_txnReplied (s : State) (src : Nat) (b : Bytes)  (hK : Keeps sB s) : Keeps sB (State.txnReplied s src b) := by
  unfold State.txnReplied
  repeat' first
    | with_reducible assumption
    | with_reducible exact act_refuse _ _
    | with_reducible exact act_wait
    | with_reducible apply act_done
    | with_reducible apply act_long
    | with_reducible apply keeps_State_endCommit
    | with_reducible apply keeps_State_failCommit
    | with_reducible apply keeps_State_commitReady
    | with_reducible apply keeps_onCfg
    | intro _
    | split
    | dsimp only

theorem keeps_State_writeConfig (s : State)  (hK : Keeps sB s) : Keeps sB (State.writeConfig s) := by
  unfold State.writeConfig
  repeat' first
    | with_reducible assumption
    | with_reducible apply keeps_foldl
    | with_reducible apply keeps_onCfg
    | intro _
    | split
    | dsimp only

theorem keeps_execOpPersist (q : Req) (s : State)  (hK : Keeps sB s) : ∃ u, (execOpPersist q s) = .next u ∧ Keeps sB u := by
  unfold execOpPersist
  refine ⟨_, rfl, ?_⟩
  repeat' first
    | with_reducible assumption
    | with_reducible exact act_refuse _ _
    | with_reducible exact act_wait
    | with_reducible apply act_done
    | with_reducible apply act_long
    | with_reducible apply keeps_State_runOp
    | with_reducible apply keeps_onCfg
    | intro _
    | split
    | dsimp only

theorem keeps_execPersistDone (s : State)  (hK : Keeps sB s) : ∃ u, (execPersistDone s) = .next u ∧ Keeps sB u := by
  unfold execPersistDone
  refine ⟨_, rfl, ?_⟩
  repeat' first
    | with_reducible assumption
    | with_reducible apply keeps_State_finishAt
    | with_reducible apply keeps_State_writeConfig
    | with_reducible apply keeps_onCfg
    | intro _
    | split
    | dsimp only

end Sys2Proof.Laws
end

