-- ==== Sys2Proof/Laws/KeepsSliceStart.lean ====
section
/-! SUPPORT. What the operations of Machine/SliceStart.lean keep (Laws/Keeps.lean says what that is). -/

namespace Sys2Proof.Laws

open Sys2Proof Sys2Proof.Machine

variable {sB : State}

theorem keeps_State_clearRun (s : State)  (hK : Keeps sB s) : Keeps sB (State.clearRun s) := by
  unfold State.clearRun
  repeat' first
    | with_reducible assumption
    | with_reducible apply keeps_State_zeroTables
    | with_reducible apply keeps_onTiles
    | with_reducible apply keeps_onSteps
    | with_reducible apply keeps_onSrv
    | with_reducible apply keeps_onKv
    | with_reducible apply keeps_onAdp
    | with_reducible apply keeps_onFab
    | intro _
    | split
    | dsimp only

theorem keeps_State_sendMarkers (s : State)  (hK : Keeps sB s) : Keeps sB (State.sendMarkers s) := by
  unfold State.sendMarkers
  repeat' first
    | with_reducible assumption
    | with_reducible apply keeps_foldl
    | with_reducible apply keeps_State_emit
    | with_reducible apply keeps_State_modPort
    | intro _
    | split
    | dsimp only

theorem keeps_State_tellStop (s : State)  (hK : Keeps sB s) : Keeps sB (State.tellStop s) := by
  unfold State.tellStop
  repeat' first
    | with_reducible assumption
    | with_reducible apply keeps_State_sendAll
    | intro _
    | split
    | dsimp only

theorem keeps_State_failStart (s : State) (st det : Nat)  (hK : Keeps sB s) : Keeps sB (State.failStart s st det) := by
  unfold State.failStart
  repeat' first
    | with_reducible assumption
    | with_reducible apply keeps_State_finishAt
    | with_reducible apply keeps_State_tellStop
    | with_reducible apply keeps_onSrv
    | intro _
    | split
    | dsimp only

theorem keeps_State_beginServing (s : State) (r : StartRun) (holes : List (Nat × Nat)) (anyMissing : Bool)  (hK : Keeps sB s) : Keeps sB (State.beginServing s r holes anyMissing) := by
  unfold State.beginServing
  repeat' first
    | with_reducible assumption
    | with_reducible apply keeps_State_event
    | with_reducible apply keeps_State_finishAt
    | with_reducible apply keeps_State_sendAll
    | with_reducible apply keeps_State_startStagger
    | with_reducible apply keeps_onSrv
    | with_reducible apply keeps_onFab
    | intro _
    | split
    | dsimp only

theorem keeps_State_decideStart (s : State)  (hK : Keeps sB s) : Keeps sB (State.decideStart s) := by
  unfold State.decideStart
  repeat' first
    | with_reducible assumption
    | with_reducible apply keeps_State_failStart
    | with_reducible apply keeps_State_beginServing
    | intro _
    | split
    | dsimp only

theorem keeps_State_barrierDone (s : State)  (hK : Keeps sB s) : Keeps sB (State.barrierDone s) := by
  unfold State.barrierDone
  repeat' first
    | with_reducible assumption
    | with_reducible apply keeps_foldl
    | with_reducible apply keeps_State_sendLead
    | with_reducible apply keeps_State_decideStart
    | with_reducible apply keeps_onSrv
    | intro _
    | split
    | dsimp only

theorem keeps_State_prepareRun (s : State)  (hK : Keeps sB s) : Keeps sB (State.prepareRun s) := by
  unfold State.prepareRun
  repeat' first
    | with_reducible assumption
    | with_reducible apply keeps_State_clearRun
    | with_reducible apply keeps_State_sendMarkers
    | with_reducible apply keeps_State_barrierDone
    | with_reducible apply keeps_onSrv
    | intro _
    | split
    | dsimp only

theorem keeps_execOpSliceStart (q : Req) (s : State) (hK : Keeps sB s) : ∃ u, (execOpSliceStart q s) = .next u ∧ Keeps sB u := by
  unfold execOpSliceStart
  refine ⟨_, rfl, ?_⟩
  generalize hrun : s.runOp q _ _ _ _ = t
  have ht : Keeps sB t := by
    subst hrun
    refine keeps_State_runOp _ _ _ _ _ _ (fun a c ha => ?_) hK
    with_reducible refine act_ite _ (act_refuse _ _) ?_
    with_reducible refine act_ite _ (act_refuse _ _) ?_
    with_reducible refine act_ite _ (act_refuse _ _) ?_
    extract_lets s1 keys s2 s3
    have h1 : Keeps sB s1 := keeps_onCfg _ _ ha
    have h2 : Keeps sB s2 := keeps_State_sendAll _ _ _ _ _ h1
    have h3 : Keeps sB s3 := keeps_onSrv _ _ h2
    exact act_long _ _ _ (keeps_onSrv _ _ (keeps_State_clearRun _ h3))
  clear hrun
  refine keeps_State_noteState _ _ ?_
  by_cases h : (t.srv.start.isSome && s.srv.start.isNone) = true
  · rw [if_pos h]; exact keeps_State_barrierDone _ (keeps_State_sendMarkers _ ht)
  · rw [if_neg h]; exact ht

theorem keeps_State_joinStart (s : State) (m : Msg)  (hK : Keeps sB s) : Keeps sB (State.joinStart s m) := by
  unfold State.joinStart
  repeat' first
    | with_reducible assumption
    | with_reducible apply keeps_foldl
    | with_reducible apply keeps_State_sendLead
    | with_reducible apply keeps_State_prepareRun
    | with_reducible apply keeps_onCfg
    | intro _
    | split
    | dsimp only

theorem keeps_execTxnStage (port : Nat) (k : Packet) (s : State)  (hK : Keeps sB s) : ∃ u, (execTxnStage port k s) = .next u ∧ Keeps sB u := by
  unfold execTxnStage
  refine ⟨_, rfl, ?_⟩
  repeat' first
    | with_reducible assumption
    | with_reducible apply keeps_State_noteState
    | with_reducible apply keeps_State_sendLead
    | with_reducible apply keeps_State_recvMsg
    | with_reducible apply keeps_State_joinStart
    | with_reducible apply keeps_onCfg
    | intro _
    | split
    | dsimp only

theorem keeps_execTxnReply (port : Nat) (k : Packet) (s : State)  (hK : Keeps sB s) : ∃ u, (execTxnReply port k s) = .next u ∧ Keeps sB u := by
  unfold execTxnReply
  refine ⟨_, rfl, ?_⟩
  repeat' first
    | with_reducible assumption
    | with_reducible apply keeps_foldl
    | with_reducible apply keeps_State_noteState
    | with_reducible apply keeps_State_recvMsg
    | with_reducible apply keeps_State_txnReplied
    | with_reducible apply keeps_State_failStart
    | intro _
    | split
    | dsimp only

theorem keeps_execStartInfo (port : Nat) (k : Packet) (s : State)  (hK : Keeps sB s) : ∃ u, (execStartInfo port k s) = .next u ∧ Keeps sB u := by
  unfold execStartInfo
  refine ⟨_, rfl, ?_⟩
  repeat' first
    | with_reducible assumption
    | with_reducible apply keeps_foldl
    | with_reducible apply keeps_State_noteState
    | with_reducible apply keeps_State_recvMsg
    | with_reducible apply keeps_State_decideStart
    | with_reducible apply keeps_onSrv
    | intro _
    | split
    | dsimp only

theorem keeps_execHoleTable (port : Nat) (k : Packet) (s : State)  (hK : Keeps sB s) : ∃ u, (execHoleTable port k s) = .next u ∧ Keeps sB u := by
  unfold execHoleTable
  refine ⟨_, rfl, ?_⟩
  repeat' first
    | with_reducible assumption
    | with_reducible apply keeps_foldl
    | with_reducible apply keeps_State_noteState
    | with_reducible apply keeps_State_recvMsg
    | with_reducible apply keeps_State_startStagger
    | with_reducible apply keeps_onSrv
    | with_reducible apply keeps_onFab
    | intro _
    | split
    | dsimp only

theorem keeps_execClear (port : Nat) (k : Packet) (s : State)  (hK : Keeps sB s) : ∃ u, (execClear port k s) = .next u ∧ Keeps sB u := by
  unfold execClear
  refine ⟨_, rfl, ?_⟩
  repeat' first
    | with_reducible assumption
    | with_reducible apply keeps_State_noteState
    | with_reducible apply keeps_State_noteClear
    | with_reducible apply keeps_State_recvMsg
    | with_reducible apply keeps_State_decideStart
    | with_reducible apply keeps_onSrv
    | intro _
    | split
    | dsimp only

theorem keeps_execFlushMarker (port : Nat) (k : Packet) (s : State)  (hK : Keeps sB s) : ∃ u, (execFlushMarker port k s) = .next u ∧ Keeps sB u := by
  unfold execFlushMarker
  refine ⟨_, rfl, ?_⟩
  repeat' first
    | with_reducible assumption
    | with_reducible apply keeps_State_emit
    | with_reducible apply keeps_State_noteState
    | with_reducible apply keeps_State_modPort
    | with_reducible apply keeps_State_badPacketAt
    | with_reducible apply keeps_State_barrierDone
    | with_reducible apply keeps_State_release
    | intro _
    | split
    | dsimp only

end Sys2Proof.Laws
end

