-- ==== Sys2Proof/Laws/KeepsSessions.lean ====
section
/-! SUPPORT. What the operations of Machine/Sessions.lean keep (Laws/Keeps.lean says what that is). -/

namespace Sys2Proof.Laws

open Sys2Proof Sys2Proof.Machine

variable {sB : State}

theorem keeps_State_modQp (s : State) (qp : Nat) (f : Qp → Qp)  (hK : Keeps sB s) : Keeps sB (State.modQp s qp f) := by
  unfold State.modQp
  repeat' first
    | with_reducible assumption
    | with_reducible apply keeps_onSrv
    | intro _
    | split
    | dsimp only

theorem keeps_State_refuseReq (s : State) (qp client : Nat) (b : Bytes) (status reason off : Nat)  (hK : Keeps sB s) : Keeps sB (State.refuseReq s qp client b status reason off) := by
  unfold State.refuseReq
  repeat' first
    | with_reducible assumption
    | with_reducible apply keeps_State_emit
    | with_reducible apply keeps_State_count
    | intro _
    | split
    | dsimp only

/-- A verdict whose state keeps what every command keeps. -/
def VerdictKeeps (sB : State) : Verdict → Prop
  | .no _ _ => True
  | .yes t => Keeps sB t

theorem verdict_no (a b : Nat) : VerdictKeeps sB (.no a b) := trivial
theorem verdict_yes {t : State} (h : Keeps sB t) : VerdictKeeps sB (.yes t) := h
theorem verdict_get {v : Verdict} {t : State} (h : VerdictKeeps sB v) (e : v = .yes t) : Keeps sB t := by
  rw [e] at h; exact h

theorem verdict_ite (p : Prop) [Decidable p] {a b : Verdict} (ha : VerdictKeeps sB a) (hb : VerdictKeeps sB b) :
    VerdictKeeps sB (if p then a else b) := by
  by_cases h : p
  · rw [if_pos h]; exact ha
  · rw [if_neg h]; exact hb

theorem keeps_State_request (s0 : State) (qp : Nat) (b : Bytes) (ty : Nat) (own : Nat → List (Bool × Nat × Nat)) (needSession : Bool)
    (needEpoch : Bool) (rule : State → Nat → ReqRec → Option Sess → Verdict)
    (hrule : ∀ t c r x, Keeps sB t → VerdictKeeps sB (rule t c r x)) (hK : Keeps sB s0) :
    Keeps sB (State.request s0 qp b ty own needSession needEpoch rule) := by
  unfold State.request
  extract_lets s x r
  have hs : Keeps sB s := keeps_State_modQp _ _ _ hK
  split
  · exact hs
  · rename_i q _
    have hno : ∀ a c d, Keeps sB (s.refuseReq qp q.client b a c d) := fun a c d => keeps_State_refuseReq _ _ _ _ _ _ _ hs
    split
    · exact hs
    · extract_lets no
      split
      · exact hno _ _ _
      · split
        · exact hno _ _ _
        · split
          · exact hno _ _ _
          · split
            · exact hno _ _ _
            · rename_i e
              exact keeps_State_count _ _ _ _ (keeps_State_modSess _ _ _ (verdict_get (hrule _ _ _ _ hs) e))

theorem keeps_execReqOpen (qp : Nat) (msg : Bytes) (s : State)  (hK : Keeps sB s) : ∃ u, (execReqOpen qp msg s) = .next u ∧ Keeps sB u := by
  unfold execReqOpen
  refine ⟨_, rfl, ?_⟩
  repeat' first
    | with_reducible assumption
    | with_reducible exact verdict_no _ _
    | with_reducible apply verdict_yes
    | with_reducible apply keeps_State_dataArrives
    | with_reducible apply keeps_State_putSess
    | with_reducible apply keeps_State_pushUpdate
    | with_reducible apply keeps_State_repDone
    | with_reducible apply keeps_State_request
    | with_reducible apply keeps_onSrv
    | intro _
    | split
    | dsimp only

theorem keeps_execReqAppend (qp : Nat) (msg : Bytes) (s : State)  (hK : Keeps sB s) : ∃ u, (execReqAppend qp msg s) = .next u ∧ Keeps sB u := by
  unfold execReqAppend
  refine ⟨_, rfl, ?_⟩
  repeat' first
    | with_reducible assumption
    | with_reducible exact verdict_no _ _
    | with_reducible apply verdict_yes
    | with_reducible apply keeps_State_putSess
    | with_reducible apply keeps_State_pushUpdate
    | with_reducible apply keeps_State_repDone
    | with_reducible apply keeps_State_request
    | intro _
    | split
    | dsimp only

theorem keeps_State_sendParams (s : State) (x : Sess) (body : Bytes)  (hK : Keeps sB s) : Keeps sB (State.sendParams s x body) := by
  unfold State.sendParams
  repeat' first
    | with_reducible assumption
    | with_reducible apply keeps_foldl
    | with_reducible apply keeps_State_sendMsg
    | intro _
    | split
    | dsimp only

theorem keeps_execReqGenerate (qp : Nat) (msg : Bytes) (s : State) (hK : Keeps sB s) : ∃ u, (execReqGenerate qp msg s) = .next u ∧ Keeps sB u := by
  unfold execReqGenerate
  refine ⟨_, rfl, ?_⟩
  refine keeps_State_request _ _ _ _ _ _ _ _ (fun s c r o hK => ?_) hK
  cases o with
  | none => exact verdict_no _ _
  | some x =>
    dsimp -zeta only
    extract_lets g ts
    with_reducible refine verdict_ite _ (verdict_no _ _) ?_
    with_reducible refine verdict_ite _ (verdict_no _ _) ?_
    with_reducible refine verdict_ite _ (verdict_no _ _) ?_
    generalize s.bindHandle x = h
    cases h with
    | none => exact verdict_no _ _
    | some h =>
      dsimp -zeta only
      with_reducible refine verdict_ite _ (verdict_no _ _) ?_
      with_reducible refine verdict_ite _ (verdict_no _ _) ?_
      with_reducible refine verdict_ite _ (verdict_no _ _) ?_
      dsimp only
      exact verdict_yes (keeps_State_sendParams _ _ _ (keeps_State_pushUpdate _ _ (keeps_State_putSess _ _ hK)))

theorem keeps_State_settleCancel (s : State) (x : Sess)  (hK : Keeps sB s) : Keeps sB (State.settleCancel s x) := by
  unfold State.settleCancel
  repeat' first
    | with_reducible assumption
    | with_reducible apply keeps_foldl
    | with_reducible apply keeps_State_modSess
    | with_reducible apply keeps_State_repDone
    | intro _
    | split
    | dsimp only

theorem keeps_execReqCancel (qp : Nat) (msg : Bytes) (s : State)  (hK : Keeps sB s) : ∃ u, (execReqCancel qp msg s) = .next u ∧ Keeps sB u := by
  unfold execReqCancel
  refine ⟨_, rfl, ?_⟩
  repeat' first
    | with_reducible assumption
    | with_reducible exact verdict_no _ _
    | with_reducible apply verdict_yes
    | with_reducible apply keeps_State_modSess
    | with_reducible apply keeps_State_repDone
    | with_reducible apply keeps_State_cancelSession
    | with_reducible apply keeps_State_request
    | intro _
    | split
    | dsimp only

theorem keeps_execCancelSettled (session : Nat) (s : State)  (hK : Keeps sB s) : ∃ u, (execCancelSettled session s) = .next u ∧ Keeps sB u := by
  unfold execCancelSettled
  refine ⟨_, rfl, ?_⟩
  repeat' first
    | with_reducible assumption
    | with_reducible apply keeps_State_settleCancel
    | intro _
    | split
    | dsimp only

theorem keeps_execReqPause (qp : Nat) (msg : Bytes) (s : State)  (hK : Keeps sB s) : ∃ u, (execReqPause qp msg s) = .next u ∧ Keeps sB u := by
  unfold execReqPause
  refine ⟨_, rfl, ?_⟩
  repeat' first
    | with_reducible assumption
    | with_reducible exact verdict_no _ _
    | with_reducible apply verdict_yes
    | with_reducible apply keeps_State_putSess
    | with_reducible apply keeps_State_pushUpdate
    | with_reducible apply keeps_State_request
    | intro _
    | split
    | dsimp only

theorem keeps_State_restoreChunk (s : State) (x : Sess) (g c : Nat) (hK : Keeps sB s) : OptKeeps1 sB (State.restoreChunk s x g c) := by
  unfold State.restoreChunk
  split
  · exact hK
  · exact opt1_map1 _ (keeps_State_takeSlot _ _ _ hK) (fun b hb => hb)

theorem keeps_State_restoreAll (s : State) (x : Sess) (hK : Keeps sB s) : OptKeeps1 sB (State.restoreAll s x) := by
  unfold State.restoreAll
  refine keeps_foldl_opt1 _ _ _ (fun a g ha => ?_) hK
  split
  · trivial
  · exact opt1_map1 _ (keeps_State_restoreChunk _ _ _ _ ha) (fun b hb => hb)

theorem keeps_State_tryRestore (s : State) (i : Nat)  (hK : Keeps sB s) : Keeps sB (State.tryRestore s i) := by
  unfold State.tryRestore
  repeat' first
    | with_reducible assumption
    | with_reducible exact act_refuse _ _
    | with_reducible exact act_wait
    | with_reducible apply act_done
    | with_reducible apply act_long
    | (refine opt1_get ?_ (by assumption); with_reducible apply keeps_State_restoreAll)
    | with_reducible apply keeps_State_countGroups
    | with_reducible apply keeps_State_modSess
    | with_reducible apply keeps_State_issueGrants
    | with_reducible apply keeps_State_restoreAll
    | intro _
    | split
    | dsimp only

theorem keeps_execReqResume (qp : Nat) (msg : Bytes) (s : State)  (hK : Keeps sB s) : ∃ u, (execReqResume qp msg s) = .next u ∧ Keeps sB u := by
  unfold execReqResume
  refine ⟨_, rfl, ?_⟩
  repeat' first
    | with_reducible assumption
    | with_reducible exact verdict_no _ _
    | with_reducible apply verdict_yes
    | with_reducible apply keeps_State_freeImage
    | with_reducible apply keeps_State_putSess
    | with_reducible apply keeps_State_pushUpdate
    | with_reducible apply keeps_State_repDone
    | with_reducible apply keeps_State_endGen
    | with_reducible apply keeps_State_request
    | with_reducible apply keeps_State_tryRestore
    | intro _
    | split
    | dsimp only

theorem keeps_execReqClose (qp : Nat) (msg : Bytes) (s : State)  (hK : Keeps sB s) : ∃ u, (execReqClose qp msg s) = .next u ∧ Keeps sB u := by
  unfold execReqClose
  refine ⟨_, rfl, ?_⟩
  repeat' first
    | with_reducible assumption
    | with_reducible exact verdict_no _ _
    | with_reducible apply verdict_yes
    | with_reducible apply keeps_State_beginClose
    | with_reducible apply keeps_State_request
    | intro _
    | split
    | dsimp only

theorem keeps_execCloseSettled (session : Nat) (s : State)  (hK : Keeps sB s) : ∃ u, (execCloseSettled session s) = .next u ∧ Keeps sB u := by
  unfold execCloseSettled
  refine ⟨_, rfl, ?_⟩
  repeat' first
    | with_reducible assumption
    | with_reducible apply keeps_foldl
    | with_reducible apply keeps_State_repDone
    | with_reducible apply keeps_State_replyFree
    | with_reducible apply keeps_State_freeSession
    | intro _
    | split
    | dsimp only

theorem keeps_execUnknownType (qp : Nat) (msg : Bytes) (s : State)  (hK : Keeps sB s) : ∃ u, (execUnknownType qp msg s) = .next u ∧ Keeps sB u := by
  unfold execUnknownType
  refine ⟨_, rfl, ?_⟩
  repeat' first
    | with_reducible assumption
    | with_reducible exact act_refuse _ _
    | with_reducible exact act_wait
    | with_reducible apply act_done
    | with_reducible apply act_long
    | with_reducible apply keeps_State_refuseReq
    | intro _
    | split
    | dsimp only

theorem keeps_execKvWaitExpiry (session : Nat) (s : State)  (hK : Keeps sB s) : ∃ u, (execKvWaitExpiry session s) = .next u ∧ Keeps sB u := by
  unfold execKvWaitExpiry
  refine ⟨_, rfl, ?_⟩
  repeat' first
    | with_reducible assumption
    | with_reducible exact act_refuse _ _
    | with_reducible exact act_wait
    | with_reducible apply act_done
    | with_reducible apply act_long
    | with_reducible apply keeps_State_count
    | with_reducible apply keeps_State_advanceEpoch
    | with_reducible apply keeps_State_failPending
    | intro _
    | split
    | dsimp only

theorem keeps_execOpSessionQuery (q : Req) (s : State)  (hK : Keeps sB s) : ∃ u, (execOpSessionQuery q s) = .next u ∧ Keeps sB u := by
  unfold execOpSessionQuery
  refine ⟨_, rfl, ?_⟩
  repeat' first
    | with_reducible assumption
    | with_reducible exact act_refuse _ _
    | with_reducible exact act_wait
    | with_reducible apply act_done
    | with_reducible apply act_long
    | with_reducible apply keeps_State_runOp
    | intro _
    | split
    | dsimp only

theorem keeps_execOpSessionEvict (q : Req) (s : State)  (hK : Keeps sB s) : ∃ u, (execOpSessionEvict q s) = .next u ∧ Keeps sB u := by
  unfold execOpSessionEvict
  refine ⟨_, rfl, ?_⟩
  repeat' first
    | with_reducible assumption
    | with_reducible exact act_refuse _ _
    | with_reducible exact act_wait
    | with_reducible apply act_done
    | with_reducible apply act_long
    | with_reducible apply keeps_State_runOp
    | with_reducible apply keeps_State_beginClose
    | intro _
    | split
    | dsimp only

theorem keeps_execCmReq (client : Nat) (ipv6 : Bool) (addr remoteQp : Nat) (s : State)  (hK : Keeps sB s) : ∃ u, (execCmReq client ipv6 addr remoteQp s) = .next u ∧ Keeps sB u := by
  unfold execCmReq
  refine ⟨_, rfl, ?_⟩
  repeat' first
    | with_reducible assumption
    | with_reducible apply keeps_State_emit
    | with_reducible apply keeps_onSrv
    | intro _
    | split
    | dsimp only

theorem keeps_execCmDreq (qp : Nat) (s : State)  (hK : Keeps sB s) : ∃ u, (execCmDreq qp s) = .next u ∧ Keeps sB u := by
  unfold execCmDreq
  refine ⟨_, rfl, ?_⟩
  repeat' first
    | with_reducible assumption
    | with_reducible apply keeps_State_endQp
    | intro _
    | split
    | dsimp only

theorem keeps_execInvalidRequestNak (qp : Nat) (_why : NakCause) (s : State)  (hK : Keeps sB s) : ∃ u, (execInvalidRequestNak qp _why s) = .next u ∧ Keeps sB u := by
  unfold execInvalidRequestNak
  refine ⟨_, rfl, ?_⟩
  repeat' first
    | with_reducible assumption
    | with_reducible apply keeps_State_emit
    | with_reducible apply keeps_State_endQp
    | intro _
    | split
    | dsimp only

theorem keeps_execCnpReceived (qp : Nat) (s : State)  (hK : Keeps sB s) : ∃ u, (execCnpReceived qp s) = .next u ∧ Keeps sB u := by
  unfold execCnpReceived
  refine ⟨_, rfl, ?_⟩
  repeat' first
    | with_reducible assumption
    | with_reducible apply keeps_State_modQp
    | intro _
    | split
    | dsimp only

theorem keeps_execCeMarkedPacket (qp : Nat) (s : State)  (hK : Keeps sB s) : ∃ u, (execCeMarkedPacket qp s) = .next u ∧ Keeps sB u := by
  unfold execCeMarkedPacket
  refine ⟨_, rfl, ?_⟩
  repeat' first
    | with_reducible assumption
    | with_reducible apply keeps_State_emit
    | with_reducible apply keeps_State_modQp
    | intro _
    | split
    | dsimp only

theorem keeps_execLocalAckTimeout (qp : Nat) (s : State)  (hK : Keeps sB s) : ∃ u, (execLocalAckTimeout qp s) = .next u ∧ Keeps sB u := by
  unfold execLocalAckTimeout
  refine ⟨_, rfl, ?_⟩
  repeat' first
    | with_reducible assumption
    | with_reducible apply keeps_State_emit
    | with_reducible apply keeps_State_endQp
    | with_reducible apply keeps_State_modQp
    | intro _
    | split
    | dsimp only

end Sys2Proof.Laws
end

