-- ==== Sys2Proof/Laws/KeepsPause.lean ====
section
/-! SUPPORT. What the operations of Machine/Pause.lean keep (Laws/Keeps.lean says what that is). -/

namespace Sys2Proof.Laws

open Sys2Proof Sys2Proof.Machine

variable {sB : State}

theorem keeps_State_imagePage (s : State) (img : PauseImg) (x : Sess) (g c : Nat) (q : Pool)  (hK : Keeps sB s) : Keeps sB (State.imagePage s img x g c q) := by
  unfold State.imagePage
  repeat' first
    | with_reducible assumption
    | with_reducible apply keeps_State_reformPage
    | intro _
    | split
    | dsimp only

theorem keeps_State_fillImage (s : State) (img : PauseImg) (x : Sess)  (hK : Keeps sB s) : Keeps sB (State.fillImage s img x) := by
  unfold State.fillImage
  repeat' first
    | with_reducible assumption
    | with_reducible apply keeps_foldl
    | with_reducible apply keeps_State_count
    | with_reducible apply keeps_State_imagePage
    | intro _
    | split
    | dsimp only

theorem keeps_State_pauseFails (s : State) (x : Sess)  (hK : Keeps sB s) : Keeps sB (State.pauseFails s x) := by
  unfold State.pauseFails
  repeat' first
    | with_reducible assumption
    | with_reducible apply keeps_State_putSess
    | with_reducible apply keeps_State_pushUpdate
    | with_reducible apply keeps_State_repError
    | intro _
    | split
    | dsimp only

theorem keeps_State_endDrain (s : State) (d : Drain)  (hK : Keeps sB s) : Keeps sB (State.endDrain s d) := by
  unfold State.endDrain
  repeat' first
    | with_reducible assumption
    | with_reducible apply keeps_foldl
    | with_reducible apply keeps_State_event
    | with_reducible apply keeps_State_finishRun
    | with_reducible apply keeps_State_settleStop
    | with_reducible apply keeps_State_settleCommit
    | with_reducible apply keeps_State_tellStop
    | with_reducible apply keeps_onSrv
    | intro _
    | split
    | dsimp only

theorem keeps_State_settleDrain (s0 : State)  (hK : Keeps sB s0) : Keeps sB (State.settleDrain s0) := by
  unfold State.settleDrain
  repeat' first
    | with_reducible assumption
    | with_reducible apply keeps_State_pruneSteps
    | with_reducible apply keeps_State_endDrain
    | intro _
    | split
    | dsimp only

theorem keeps_State_endAllGens (s : State) (reason : Nat)  (hK : Keeps sB s) : Keeps sB (State.endAllGens s reason) := by
  unfold State.endAllGens
  repeat' first
    | with_reducible assumption
    | with_reducible apply keeps_foldl
    | with_reducible apply keeps_State_repDone
    | with_reducible apply keeps_State_endGen
    | intro _
    | split
    | dsimp only

theorem keeps_State_pauseAll (s : State)  (hK : Keeps sB s) : Keeps sB (State.pauseAll s) := by
  unfold State.pauseAll
  repeat' first
    | with_reducible assumption
    | with_reducible apply keeps_foldl
    | with_reducible apply keeps_State_modSess
    | with_reducible apply keeps_State_pushUpdate
    | intro _
    | split
    | dsimp only

theorem keeps_State_abandonPauses (s : State)  (hK : Keeps sB s) : Keeps sB (State.abandonPauses s) := by
  unfold State.abandonPauses
  repeat' first
    | with_reducible assumption
    | with_reducible apply keeps_foldl
    | with_reducible apply keeps_State_freeImage
    | with_reducible apply keeps_State_modSess
    | with_reducible apply keeps_State_pushUpdate
    | with_reducible apply keeps_State_repDone
    | intro _
    | split
    | dsimp only

theorem keeps_execOpSliceStop (q : Req) (s : State)  (hK : Keeps sB s) : ∃ u, (execOpSliceStop q s) = .next u ∧ Keeps sB u := by
  unfold execOpSliceStop
  refine ⟨_, rfl, ?_⟩
  repeat' first
    | with_reducible assumption
    | with_reducible exact act_refuse _ _
    | with_reducible exact act_wait
    | with_reducible apply act_done
    | with_reducible apply act_long
    | with_reducible apply keeps_State_noteState
    | with_reducible apply keeps_State_runOpThen
    | with_reducible apply keeps_State_settleDrain
    | with_reducible apply keeps_State_endAllGens
    | with_reducible apply keeps_State_pauseAll
    | with_reducible apply keeps_onSrv
    | intro _
    | split
    | dsimp only

theorem keeps_execDrainDeadline (s : State)  (hK : Keeps sB s) : ∃ u, (execDrainDeadline s) = .next u ∧ Keeps sB u := by
  unfold execDrainDeadline
  refine ⟨_, rfl, ?_⟩
  repeat' first
    | with_reducible assumption
    | with_reducible apply keeps_State_noteState
    | with_reducible apply keeps_State_settleDrain
    | with_reducible apply keeps_State_endAllGens
    | with_reducible apply keeps_State_abandonPauses
    | with_reducible apply keeps_onSrv
    | intro _
    | split
    | dsimp only

theorem keeps_State_fixStarted (s s1 : State) (x : Sess) (o : Option (State × List Nat)) (hK : Keeps sB s) (h1 : Keeps sB s1)
    (ho : OptKeeps1 sB o) : Keeps sB (State.fixStarted s s1 x o) := by
  unfold State.fixStarted
  split
  · split
    · exact keeps_State_noteState _ _ (keeps_State_settleDrain _ (keeps_State_pauseFails _ _ h1))
    · exact h1
  · exact keeps_State_fillImage _ _ _ (keeps_onKv _ _ ho)

theorem keeps_execPauseFixStart (session : Nat) (s : State) (hK : Keeps sB s) : ∃ u, (execPauseFixStart session s) = .next u ∧ Keeps sB u := by
  unfold execPauseFixStart
  refine ⟨_, rfl, ?_⟩
  split
  · exact hK
  · split
    · exact hK
    · extract_lets s1
      have h1 : Keeps sB s1 := by
        unfold s1; split
        · exact keeps_State_endGen _ _ _ (fun t y r ht => keeps_State_repDone _ _ _ _ ht) hK
        · exact hK
      split
      · exact h1
      · exact keeps_State_fixStarted _ _ _ _ hK h1 (keeps_State_mapOwn _ _ _ _ h1)

theorem keeps_execPauseComplete (session : Nat) (s : State)  (hK : Keeps sB s) : ∃ u, (execPauseComplete session s) = .next u ∧ Keeps sB u := by
  unfold execPauseComplete
  refine ⟨_, rfl, ?_⟩
  repeat' first
    | with_reducible assumption
    | with_reducible apply keeps_State_noteState
    | with_reducible apply keeps_State_putSess
    | with_reducible apply keeps_State_pushUpdate
    | with_reducible apply keeps_State_repDone
    | with_reducible apply keeps_State_unmapSession
    | with_reducible apply keeps_State_settleDrain
    | with_reducible apply keeps_onKv
    | intro _
    | split
    | dsimp only

theorem keeps_execPauseExpiry (session : Nat) (s : State)  (hK : Keeps sB s) : ∃ u, (execPauseExpiry session s) = .next u ∧ Keeps sB u := by
  unfold execPauseExpiry
  refine ⟨_, rfl, ?_⟩
  repeat' first
    | with_reducible assumption
    | with_reducible apply keeps_State_event
    | with_reducible apply keeps_State_replyFree
    | with_reducible apply keeps_State_freeSession
    | intro _
    | split
    | dsimp only

theorem keeps_execRestoreComplete (session : Nat) (s : State)  (hK : Keeps sB s) : ∃ u, (execRestoreComplete session s) = .next u ∧ Keeps sB u := by
  unfold execRestoreComplete
  refine ⟨_, rfl, ?_⟩
  repeat' first
    | with_reducible assumption
    | with_reducible apply keeps_State_freeImage
    | with_reducible apply keeps_State_putSess
    | with_reducible apply keeps_State_pushUpdate
    | with_reducible apply keeps_State_repDone
    | with_reducible apply keeps_State_arrive
    | with_reducible apply keeps_State_pauseAll
    | intro _
    | split
    | dsimp only

theorem keeps_execStepAbort (port : Nat) (k : Packet) (s : State)  (hK : Keeps sB s) : ∃ u, (execStepAbort port k s) = .next u ∧ Keeps sB u := by
  unfold execStepAbort
  refine ⟨_, rfl, ?_⟩
  repeat' first
    | with_reducible assumption
    | with_reducible apply keeps_foldl
    | with_reducible apply keeps_State_noteState
    | with_reducible apply keeps_State_applyAbort
    | with_reducible apply keeps_State_settleStop
    | with_reducible apply keeps_State_settleCommit
    | with_reducible apply keeps_State_softHalt
    | with_reducible apply keeps_State_hardHalt
    | with_reducible apply keeps_State_leadAbort
    | with_reducible apply keeps_State_recvMsg
    | with_reducible apply keeps_onSrv
    | intro _
    | split
    | dsimp only

theorem keeps_execLostModuleMark (s : State)  (hK : Keeps sB s) : ∃ u, (execLostModuleMark s) = .next u ∧ Keeps sB u := by
  unfold execLostModuleMark
  refine ⟨_, rfl, ?_⟩
  repeat' first
    | with_reducible assumption
    | with_reducible apply keeps_State_markLost
    | intro _
    | split
    | dsimp only

end Sys2Proof.Laws
end

