-- ==== Sys2Proof/Laws/KeepsStepOps.lean ====
section
/-! SUPPORT. What the operations of Machine/StepOps.lean keep (Laws/Keeps.lean says what that is). -/

namespace Sys2Proof.Laws

open Sys2Proof Sys2Proof.Machine

variable {sB : State}

theorem keeps_State_sendTables (s : State) (n : Nat)  (hK : Keeps sB s) : Keeps sB (State.sendTables s n) := by
  unfold State.sendTables
  repeat' first
    | with_reducible assumption
    | with_reducible apply keeps_foldl
    | with_reducible apply keeps_State_sendAll
    | intro _
    | split
    | dsimp only

end Sys2Proof.Laws
end

