-- ==== Sys2Proof/Laws/KeepsKvOps.lean ====
section
/-! SUPPORT. What the operations of Machine/KvOps.lean keep (Laws/Keeps.lean says what that is). -/

namespace Sys2Proof.Laws

open Sys2Proof Sys2Proof.Machine

variable {sB : State}

theorem keeps_State_badMsg (s : State) (port : Nat) (m : Msg)  (hK : Keeps sB s) : Keeps sB (State.badMsg s port m) := by
  unfold State.badMsg
  repeat' first
    | with_reducible assumption
    | with_reducible apply keeps_State_badPacketAt
    | intro _
    | split
    | dsimp only

theorem keeps_State_takeGrants (s : State) (gs : List Grant) (step : Nat)  (hK : Keeps sB s) : Keeps sB (State.takeGrants s gs step) := by
  unfold State.takeGrants
  repeat' first
    | with_reducible assumption
    | (refine pair_get ?_ (by assumption); with_reducible apply keeps_State_applyGrants)
    | with_reducible apply keeps_State_applyGrants
    | with_reducible apply keeps_State_stepFault
    | intro _
    | split
    | dsimp only

theorem keeps_State_sendGrants (s : State) (gs : List Grant) (hb step : Nat)  (hK : Keeps sB s) : Keeps sB (State.sendGrants s gs hb step) := by
  unfold State.sendGrants
  repeat' first
    | with_reducible assumption
    | with_reducible apply keeps_State_sendAll
    | with_reducible apply keeps_State_takeGrants
    | intro _
    | split
    | dsimp only

theorem keeps_execGrantList (port : Nat) (k : Packet) (s : State)  (hK : Keeps sB s) : ∃ u, (execGrantList port k s) = .next u ∧ Keeps sB u := by
  unfold execGrantList
  refine ⟨_, rfl, ?_⟩
  repeat' first
    | with_reducible assumption
    | with_reducible apply keeps_State_recvMsg
    | with_reducible apply keeps_State_badMsg
    | with_reducible apply keeps_State_takeGrants
    | intro _
    | split
    | dsimp only

theorem keeps_State_csTouch (s : State) (ids : List Nat)  (hK : Keeps sB s) : Keeps sB (State.csTouch s ids) := by
  unfold State.csTouch
  repeat' first
    | with_reducible assumption
    | with_reducible apply keeps_onKv
    | intro _
    | split
    | dsimp only

theorem keeps_State_takeSlots (s : State) (gs : List Nat) (hK : Keeps sB s) : OptKeeps1 sB (State.takeSlots s gs) := by
  unfold State.takeSlots
  refine keeps_foldl_opt1 _ _ _ (fun a g ha => ?_) hK
  split
  · trivial
  · exact opt1_map1 _ (keeps_State_takeSlot _ _ _ ha) (fun b hb => hb)

theorem keeps_execCsLookup (session : Nat) (s : State)  (hK : Keeps sB s) : ∃ u, (execCsLookup session s) = .next u ∧ Keeps sB u := by
  unfold execCsLookup
  refine ⟨_, rfl, ?_⟩
  repeat' first
    | with_reducible assumption
    | with_reducible apply keeps_foldl
    | (refine opt1_get ?_ (by assumption); with_reducible apply keeps_State_takeSlots)
    | with_reducible apply keeps_State_countGroups
    | with_reducible apply keeps_State_addRef
    | with_reducible apply keeps_State_modSess
    | with_reducible apply keeps_State_pushUpdate
    | with_reducible apply keeps_State_sendGrants
    | with_reducible apply keeps_State_csTouch
    | with_reducible apply keeps_State_takeSlots
    | intro _
    | split
    | dsimp only

theorem keeps_State_csRoom (s : State)  (hK : Keeps sB s) : OptKeeps sB (State.csRoom s) := by
  unfold State.csRoom
  repeat' first
    | with_reducible assumption
    | with_reducible exact opt_none
    | with_reducible apply opt_some
    | with_reducible apply opt_map
    | with_reducible apply opt_mapTo
    | (refine opt_get ?_ (by assumption); with_reducible apply keeps_State_csEvict)
    | with_reducible apply keeps_State_csEvict
    | intro _
    | split
    | dsimp only

theorem keeps_State_csInsert (s : State) (i : Nat) (z0 : Nat)  (hK : Keeps sB s) : Keeps sB (State.csInsert s i z0) := by
  induction z0 generalizing s i with
  | zero =>
    unfold State.csInsert
    repeat' first
      | with_reducible assumption
      | with_reducible apply ih
      | with_reducible apply keeps_foldl
      | (refine opt_get ?_ (by assumption); with_reducible apply keeps_State_csRoom)
      | (with_reducible apply opt_getD)
      | with_reducible apply keeps_State_countGroups
      | with_reducible apply keeps_State_addRef
      | with_reducible apply keeps_State_sendGrants
      | with_reducible apply keeps_State_csRoom
      | with_reducible apply keeps_onKv
      | intro _
      | split
      | dsimp only
  | succ n ih =>
    unfold State.csInsert
    repeat' first
      | with_reducible assumption
      | with_reducible apply ih
      | with_reducible apply keeps_foldl
      | (refine opt_get ?_ (by assumption); with_reducible apply keeps_State_csRoom)
      | (with_reducible apply opt_getD)
      | with_reducible apply keeps_State_countGroups
      | with_reducible apply keeps_State_addRef
      | with_reducible apply keeps_State_sendGrants
      | with_reducible apply keeps_State_csRoom
      | with_reducible apply keeps_onKv
      | intro _
      | split
      | dsimp only

theorem keeps_State_copyKvPos (s : State) (g : Nat) (q : Pool) (sess src dst : Nat)  (hK : Keeps sB s) : Keeps sB (State.copyKvPos s g q sess src dst) := by
  unfold State.copyKvPos
  repeat' first
    | with_reducible assumption
    | with_reducible apply keeps_foldl
    | with_reducible apply keeps_State_putKvRow
    | intro _
    | split
    | dsimp only

theorem keeps_State_movePath (s : State) (sess kvLen count path : Nat)  (hK : Keeps sB s) : Keeps sB (State.movePath s sess kvLen count path) := by
  unfold State.movePath
  repeat' first
    | with_reducible assumption
    | with_reducible apply keeps_foldl
    | with_reducible apply keeps_State_count
    | with_reducible apply keeps_State_copyKvPos
    | intro _
    | split
    | dsimp only

theorem keeps_State_applyCommit (s0 : State) (c : Notice)  (hK : Keeps sB s0) : Keeps sB (State.applyCommit s0 c) := by
  unfold State.applyCommit
  repeat' first
    | with_reducible assumption
    | with_reducible apply keeps_State_count
    | with_reducible apply keeps_State_countGroups
    | with_reducible apply keeps_State_modSess
    | with_reducible apply keeps_State_stepFault
    | with_reducible apply keeps_State_movePath
    | with_reducible apply keeps_onKv
    | intro _
    | split
    | dsimp only

theorem keeps_execCommit (port : Nat) (k : Packet) (s : State)  (hK : Keeps sB s) : ∃ u, (execCommit port k s) = .next u ∧ Keeps sB u := by
  unfold execCommit
  refine ⟨_, rfl, ?_⟩
  repeat' first
    | with_reducible assumption
    | with_reducible apply keeps_foldl
    | with_reducible apply keeps_State_pruneSteps
    | with_reducible apply keeps_State_recvMsg
    | with_reducible apply keeps_State_badMsg
    | with_reducible apply keeps_State_applyCommit
    | intro _
    | split
    | dsimp only

theorem keeps_State_releaseHold (s : State) (i step : Nat)  (hK : Keeps sB s) : Keeps sB (State.releaseHold s i step) := by
  unfold State.releaseHold
  repeat' first
    | with_reducible assumption
    | with_reducible apply keeps_State_modSess
    | intro _
    | split
    | dsimp only

theorem keeps_State_sendCommit (s : State) (c : Notice)  (hK : Keeps sB s) : Keeps sB (State.sendCommit s c) := by
  unfold State.sendCommit
  repeat' first
    | with_reducible assumption
    | with_reducible apply keeps_State_sendAll
    | with_reducible apply keeps_State_applyCommit
    | with_reducible apply keeps_State_releaseHold
    | intro _
    | split
    | dsimp only

end Sys2Proof.Laws
end

