-- ==== Sys2Proof/Laws/KeepsCompose.lean ====
section
/-! SUPPORT. What the operations of Machine/Compose.lean keep (Laws/Keeps.lean says what that is). -/

namespace Sys2Proof.Laws

open Sys2Proof Sys2Proof.Machine

variable {sB : State}

theorem keeps_State_groupGrants (s : State) (x : Sess) (rows kvAfter g : Nat) (hK : Keeps sB s) :
    OptKeeps1 sB (State.groupGrants s x rows kvAfter g) := by
  unfold State.groupGrants
  extract_lets k4 c0 inWin old new fixed freed busy
  have hf : OptKeeps1 sB fixed := by
    refine keeps_foldl_opt1 _ _ _ (fun a c ha => ?_) hK
    split
    · trivial
    · exact opt1_map1 _ (keeps_State_takeSlot _ _ _ ha) (fun b hb => hb)
  refine opt1_map1 _ (keeps_foldl_opt1 _ _ _ (fun a c ha => ?_) (opt1_map1 _ hf (fun b hb => hb))) (fun b hb => hb)
  split
  · trivial
  · split
    · exact ha
    · exact opt1_map1 _ (keeps_State_takeSlot _ _ _ ha) (fun b hb => hb)

theorem keeps_State_kvGrants (s : State) (x : Sess) (rows kvAfter : Nat) (hK : Keeps sB s) :
    OptKeeps1 sB (State.kvGrants s x rows kvAfter) := by
  unfold State.kvGrants
  refine keeps_foldl_opt1 _ _ _ (fun a g ha => ?_) hK
  split
  · trivial
  · exact opt1_map1 _ (keeps_State_groupGrants _ _ _ _ _ ha) (fun b hb => hb)

theorem keeps_State_topUp (s : State) (clients : List Nat)  (hK : Keeps sB s) : Keeps sB (State.topUp s clients) := by
  unfold State.topUp
  repeat' first
    | with_reducible assumption
    | with_reducible apply keeps_foldl
    | with_reducible apply keeps_onSrv
    | intro _
    | split
    | dsimp only

theorem keeps_State_holdCand (s : State) (n : Nat) (verify : Bool) (c : Cand)  (hK : Keeps sB s) : Keeps sB (State.holdCand s n verify c) := by
  unfold State.holdCand
  repeat' first
    | with_reducible assumption
    | with_reducible apply keeps_State_count
    | with_reducible apply keeps_State_modSess
    | with_reducible apply keeps_State_touchPool
    | with_reducible apply keeps_onKv
    | intro _
    | split
    | dsimp only

theorem keeps_State_leaveOut (s : State) (i : Nat)  (hK : Keeps sB s) : Keeps sB (State.leaveOut s i) := by
  unfold State.leaveOut
  repeat' first
    | with_reducible assumption
    | with_reducible exact act_refuse _ _
    | with_reducible exact act_wait
    | with_reducible apply act_done
    | with_reducible apply act_long
    | with_reducible apply keeps_State_countGroups
    | with_reducible apply keeps_State_modSess
    | intro _
    | split
    | dsimp only

theorem keeps_State_countStep (s : State) (verify : Bool) (ver : List Sess)  (hK : Keeps sB s) : Keeps sB (State.countStep s verify ver) := by
  unfold State.countStep
  repeat' first
    | with_reducible assumption
    | with_reducible apply keeps_State_count
    | with_reducible apply keeps_onSrv
    | intro _
    | split
    | dsimp only

theorem keeps_State_closeDarkslide (s : State)  (hK : Keeps sB s) : Keeps sB (State.closeDarkslide s) := by
  unfold State.closeDarkslide
  repeat' first
    | with_reducible assumption
    | with_reducible apply keeps_onWts
    | with_reducible apply keeps_onSrv
    | intro _
    | split
    | dsimp only

theorem keeps_compTurn (q : Comp) (as_ : List (Nat × Nat × List Nat × Nat)) (verify : Bool) (cls : Nat) (r : Comp)
    (hK : Keeps sB q.st) (e : q.turn as_ verify cls = some r) : Keeps sB r.st := by
  unfold Comp.turn at e
  extract_lets ok fit at e
  split at e
  · cases e
  · rename_i c _
    extract_lets rest hb at e
    have hg := keeps_State_kvGrants q.st c.x c.rows (if verify then c.x.kvLen else c.x.kvLen + c.rows) hK
    split at e
    · cases e; exact hK
    · rename_i t gs e2
      have h2 : Keeps sB t := opt1_get hg e2
      dsimp only at e
      split at e
      all_goals
        cases e
        dsimp only
        exact keeps_onSrv _ _ h2

theorem keeps_compFill (q : Comp) (as_ : List (Nat × Nat × List Nat × Nat)) (verify : Bool) (cls fuel : Nat)
    (hK : Keeps sB q.st) : Keeps sB (q.fill as_ verify cls fuel).st := by
  induction fuel generalizing q with
  | zero => exact hK
  | succ n ih =>
    unfold Comp.fill
    split
    · exact hK
    · rename_i e
      exact ih _ (keeps_compTurn _ _ _ _ _ hK e)

theorem keeps_compFills (as_ : List (Nat × Nat × List Nat × Nat)) (verify : Bool) (n : Nat) (l : List Nat) (q : Comp)
    (hK : Keeps sB q.st) : Keeps sB (l.foldl (fun (c : Comp) cls => c.fill as_ verify cls n) q).st := by
  induction l generalizing q with
  | nil => exact hK
  | cons x r ih => exact ih _ (keeps_compFill _ _ _ _ _ hK)

theorem keeps_compFinish (q : Comp) (verify : Bool) (ver : List Sess) (hK : Keeps sB q.st) : Keeps sB (q.finish verify ver) := by
  unfold Comp.finish
  extract_lets s s1 placed n held t s2 s3 s4
  have hs : Keeps sB s := keeps_foldl _ _ _ (fun a i ha => keeps_State_leaveOut _ _ ha) hK
  have h1 : Keeps sB s1 := keeps_onSrv _ _ hs
  have h2 : Keeps sB s2 := keeps_onSteps _ _ h1
  have h3 : Keeps sB s3 := keeps_State_countStep _ _ _ (keeps_foldl _ _ _ (fun a c ha => keeps_State_holdCand _ _ _ _ ha) h2)
  have h4 : Keeps sB s4 := keeps_State_sendGrants _ _ _ _ (keeps_State_sendGrants _ _ _ _ h3)
  split
  · exact h1
  · split
    · exact h4
    · exact keeps_State_sendTables _ _ h4

theorem keeps_execStepCompose (s : State) (hK : Keeps sB s) : ∃ u, (execStepCompose s) = .next u ∧ Keeps sB u := by
  unfold execStepCompose
  refine ⟨_, rfl, ?_⟩
  extract_lets s1 s2 ver pre s3
  have h1 : Keeps sB s1 := keeps_State_installPending _ (keeps_State_assignCommits _ _ (keeps_State_closeDarkslide _ hK))
  have h2 : Keeps sB s2 := keeps_foldl _ _ _ (fun a i ha => keeps_State_tryRestore _ _ ha) h1
  have h3 : Keeps sB s3 := by
    unfold s3; split
    · exact h2
    · dsimp only
      exact keeps_compFinish _ _ _ (keeps_compFills _ _ _ _ _ (keeps_State_topUp _ _ h2))
  split
  · exact hK
  · exact keeps_State_noteState _ _ (keeps_State_settleDrain _ h3)

end Sys2Proof.Laws
end

