-- ==== Sys2Proof/Laws/KeepsWeights.lean ====
section
/-! SUPPORT. What the operations of Machine/Weights.lean keep (Laws/Keeps.lean says what that is). -/

namespace Sys2Proof.Laws

open Sys2Proof Sys2Proof.Machine

variable {sB : State}

theorem keeps_State_putPart (s : State) (c : ShardCopy) (off : Nat) (b : Bytes)  (hK : Keeps sB s) : Keeps sB (State.putPart s c off b) := by
  unfold State.putPart
  repeat' first
    | with_reducible assumption
    | with_reducible apply keeps_State_count
    | with_reducible apply keeps_State_dataArrives
    | with_reducible apply keeps_State_countBw
    | with_reducible apply keeps_State_putCopy
    | intro _
    | split
    | dsimp only

theorem keeps_State_putPlanPart (s : State) (total off : Nat) (b : Bytes)  (hK : Keeps sB s) : Keeps sB (State.putPlanPart s total off b) := by
  unfold State.putPlanPart
  repeat' first
    | with_reducible assumption
    | with_reducible apply keeps_State_count
    | with_reducible apply keeps_State_dataArrives
    | with_reducible apply keeps_State_countBw
    | with_reducible apply keeps_onWts
    | intro _
    | split
    | dsimp only

theorem keeps_State_shardPart (s1 : State) (c : Cmd) (x : ShardCmd) (land : State → Bytes → State) (hland : ∀ a0 a1, Keeps sB a0 → Keeps sB (land a0 a1)) (hK : Keeps sB s1) : ActKeeps sB (State.shardPart s1 c x land) := by
  unfold State.shardPart
  repeat' first
    | with_reducible assumption
    | with_reducible exact act_refuse _ _
    | with_reducible exact act_wait
    | with_reducible apply act_done
    | with_reducible apply act_long
    | with_reducible apply hland
    | intro _
    | split
    | dsimp only

theorem keeps_execOpShardWrite (q : Req) (s : State)  (hK : Keeps sB s) : ∃ u, (execOpShardWrite q s) = .next u ∧ Keeps sB u := by
  unfold execOpShardWrite
  refine ⟨_, rfl, ?_⟩
  repeat' first
    | with_reducible assumption
    | with_reducible exact act_refuse _ _
    | with_reducible exact act_wait
    | with_reducible apply act_done
    | with_reducible apply act_long
    | with_reducible apply keeps_State_runOp
    | with_reducible apply keeps_State_objAct
    | with_reducible apply keeps_State_putCopy
    | with_reducible apply keeps_State_putPart
    | with_reducible apply keeps_State_putPlanPart
    | with_reducible apply keeps_State_shardPart
    | with_reducible apply keeps_onWts
    | intro _
    | split
    | dsimp only

theorem keeps_State_shardDmaDone (s : State) (r : Running) (result : Nat ⊕ Bytes)  (hK : Keeps sB s) : Keeps sB (State.shardDmaDone s r result) := by
  unfold State.shardDmaDone
  repeat' first
    | with_reducible assumption
    | with_reducible apply keeps_State_finishRun
    | with_reducible apply keeps_State_putPart
    | with_reducible apply keeps_State_putPlanPart
    | intro _
    | split
    | dsimp only

theorem keeps_execOpShardVerify (q : Req) (s : State)  (hK : Keeps sB s) : ∃ u, (execOpShardVerify q s) = .next u ∧ Keeps sB u := by
  unfold execOpShardVerify
  refine ⟨_, rfl, ?_⟩
  repeat' first
    | with_reducible assumption
    | with_reducible exact act_refuse _ _
    | with_reducible exact act_wait
    | with_reducible apply act_done
    | with_reducible apply act_long
    | with_reducible apply keeps_State_runOp
    | with_reducible apply keeps_State_objAct
    | with_reducible apply keeps_State_putCopy
    | intro _
    | split
    | dsimp only

theorem keeps_State_shardVerified (s : State) (c : ShardCopy) (narrow digest : Bytes)  (hK : Keeps sB s) : Keeps sB (State.shardVerified s c narrow digest) := by
  unfold State.shardVerified
  repeat' first
    | with_reducible assumption
    | with_reducible apply keeps_State_count
    | with_reducible apply keeps_State_putCopy
    | with_reducible apply keeps_State_writeHome
    | with_reducible apply keeps_State_makeWorking
    | with_reducible apply keeps_State_becomeCurrent
    | with_reducible apply keeps_onWts
    | intro _
    | split
    | dsimp only

theorem keeps_execShardVerifyDone (kind id gen : Nat) (s : State)  (hK : Keeps sB s) : ∃ u, (execShardVerifyDone kind id gen s) = .next u ∧ Keeps sB u := by
  unfold execShardVerifyDone
  refine ⟨_, rfl, ?_⟩
  repeat' first
    | with_reducible assumption
    | with_reducible apply keeps_State_count
    | with_reducible apply keeps_State_finishRun
    | with_reducible apply keeps_State_putCopy
    | with_reducible apply keeps_State_shardVerified
    | intro _
    | split
    | dsimp only

theorem keeps_State_replaceCopy (s : State) (c : ShardCopy)  (hK : Keeps sB s) : Keeps sB (State.replaceCopy s c) := by
  unfold State.replaceCopy
  repeat' first
    | with_reducible assumption
    | with_reducible apply keeps_onWts
    | intro _
    | split
    | dsimp only

theorem keeps_State_weightLost (s : State) (id gen chunk step : Nat)  (hK : Keeps sB s) : Keeps sB (State.weightLost s id gen chunk step) := by
  unfold State.weightLost
  repeat' first
    | with_reducible assumption
    | with_reducible apply keeps_State_fault
    | with_reducible apply keeps_State_raiseAbort
    | with_reducible apply keeps_State_askHalt
    | with_reducible apply keeps_onWts
    | intro _
    | split
    | dsimp only

theorem keeps_State_chunkError (s : State) (id gen role chunk step : Nat)  (hK : Keeps sB s) : Keeps sB (State.chunkError s id gen role chunk step) := by
  unfold State.chunkError
  repeat' first
    | with_reducible assumption
    | with_reducible apply keeps_State_count
    | with_reducible apply keeps_State_fault
    | with_reducible apply keeps_State_replaceCopy
    | with_reducible apply keeps_State_weightLost
    | with_reducible apply keeps_onWts
    | intro _
    | split
    | dsimp only

theorem keeps_State_repairHome (s : State) (page step : Nat)  (hK : Keeps sB s) : Keeps sB (State.repairHome s page step) := by
  unfold State.repairHome
  repeat' first
    | with_reducible assumption
    | with_reducible apply keeps_foldl
    | with_reducible apply keeps_State_count
    | with_reducible apply keeps_State_writeHome
    | with_reducible apply keeps_State_weightLost
    | intro _
    | split
    | dsimp only

theorem keeps_State_beginSweep (s : State)  (hK : Keeps sB s) : Keeps sB (State.beginSweep s) := by
  unfold State.beginSweep
  repeat' first
    | with_reducible assumption
    | with_reducible apply keeps_onWts
    | intro _
    | split
    | dsimp only

theorem keeps_execSweepPeriod (s : State)  (hK : Keeps sB s) : ∃ u, (execSweepPeriod s) = .next u ∧ Keeps sB u := by
  unfold execSweepPeriod
  refine ⟨_, rfl, ?_⟩
  repeat' first
    | with_reducible assumption
    | with_reducible apply keeps_State_event
    | with_reducible apply keeps_State_beginSweep
    | intro _
    | split
    | dsimp only

theorem keeps_execOpDigestSweep (q : Req) (s : State)  (hK : Keeps sB s) : ∃ u, (execOpDigestSweep q s) = .next u ∧ Keeps sB u := by
  unfold execOpDigestSweep
  refine ⟨_, rfl, ?_⟩
  repeat' first
    | with_reducible assumption
    | with_reducible exact act_refuse _ _
    | with_reducible exact act_wait
    | with_reducible apply act_done
    | with_reducible apply act_long
    | with_reducible apply keeps_State_runOp
    | with_reducible apply keeps_State_beginSweep
    | with_reducible apply keeps_onWts
    | intro _
    | split
    | dsimp only

theorem keeps_State_sweepShard (s : State) (x : PlanObj × List Nat)  (hK : Keeps sB s) : Keeps sB (State.sweepShard s x).1 := by
  unfold State.sweepShard
  repeat' first
    | with_reducible assumption
    | with_reducible apply keeps_State_count
    | with_reducible apply keeps_State_fault
    | with_reducible apply keeps_State_writeHome
    | with_reducible apply keeps_State_replaceCopy
    | with_reducible apply keeps_State_weightLost
    | intro _
    | split
    | dsimp only

theorem keeps_State_sweepStaged (s : State)  (hK : Keeps sB s) : Keeps sB (State.sweepStaged s).1 := by
  unfold State.sweepStaged
  repeat' first
    | with_reducible assumption
    | with_reducible apply keeps_foldl
    | with_reducible apply keeps_State_fault
    | with_reducible apply keeps_onWts
    | intro _
    | split
    | dsimp only

theorem keeps_execSweepDone (s : State) (hK : Keeps sB s) : ∃ u, (execSweepDone s) = .next u ∧ Keeps sB u := by
  unfold execSweepDone
  refine ⟨_, rfl, ?_⟩
  split
  · exact hK
  · dsimp only
    refine keeps_State_event _ _ _ _ _ (keeps_State_count _ _ _ _ (keeps_onWts _ _ (keeps_State_sweepStaged _ ?_)))
    exact keeps_foldl_fst _ _ _ (fun a x ha => keeps_State_sweepShard _ _ ha) hK

theorem keeps_execBackingCopyDone (id : Nat) (s : State)  (hK : Keeps sB s) : ∃ u, (execBackingCopyDone id s) = .next u ∧ Keeps sB u := by
  unfold execBackingCopyDone
  refine ⟨_, rfl, ?_⟩
  repeat' first
    | with_reducible assumption
    | with_reducible apply keeps_State_countBw
    | with_reducible apply keeps_State_putCopy
    | intro _
    | split
    | dsimp only

theorem keeps_execStreamFetchStart (layer : Nat) (s : State)  (hK : Keeps sB s) : ∃ u, (execStreamFetchStart layer s) = .next u ∧ Keeps sB u := by
  unfold execStreamFetchStart
  refine ⟨_, rfl, ?_⟩
  repeat' first
    | with_reducible assumption
    | with_reducible apply keeps_onWts
    | intro _
    | split
    | dsimp only

theorem keeps_execStreamFetchDone (layer tier cause : Nat) (s : State)  (hK : Keeps sB s) : ∃ u, (execStreamFetchDone layer tier cause s) = .next u ∧ Keeps sB u := by
  unfold execStreamFetchDone
  refine ⟨_, rfl, ?_⟩
  repeat' first
    | with_reducible assumption
    | with_reducible apply keeps_State_count
    | with_reducible apply keeps_State_stall
    | with_reducible apply keeps_State_countBw
    | with_reducible apply keeps_onWts
    | with_reducible apply keeps_onSteps
    | intro _
    | split
    | dsimp only

theorem keeps_State_swapKv (s : State) (discard : Bool) (gen : Nat)  (hK : Keeps sB s) : Keeps sB (State.swapKv s discard gen) := by
  unfold State.swapKv
  repeat' first
    | with_reducible assumption
    | with_reducible apply keeps_foldl
    | with_reducible apply keeps_State_unmapSession
    | with_reducible apply keeps_State_kvDiscard
    | with_reducible apply keeps_State_kvKeep
    | intro _
    | split
    | dsimp only

theorem keeps_State_resumeSweep (s : State)  (hK : Keeps sB s) : Keeps sB (State.resumeSweep s) := by
  unfold State.resumeSweep
  repeat' first
    | with_reducible assumption
    | with_reducible apply keeps_State_beginSweep
    | with_reducible apply keeps_onWts
    | intro _
    | split
    | dsimp only

theorem keeps_execOpWeightSwap (q : Req) (s : State)  (hK : Keeps sB s) : ∃ u, (execOpWeightSwap q s) = .next u ∧ Keeps sB u := by
  unfold execOpWeightSwap
  refine ⟨_, rfl, ?_⟩
  repeat' first
    | with_reducible assumption
    | with_reducible exact act_refuse _ _
    | with_reducible exact act_wait
    | with_reducible apply act_done
    | with_reducible apply act_long
    | with_reducible apply keeps_State_count
    | with_reducible apply keeps_State_runOp
    | with_reducible apply keeps_State_finishSwapWrites
    | with_reducible apply keeps_State_swapKv
    | with_reducible apply keeps_State_resumeSweep
    | with_reducible apply keeps_onWts
    | intro _
    | split
    | dsimp only

theorem keeps_execHomePhaseWrite (phase : Nat) (s : State)  (hK : Keeps sB s) : ∃ u, (execHomePhaseWrite phase s) = .next u ∧ Keeps sB u := by
  unfold execHomePhaseWrite
  refine ⟨_, rfl, ?_⟩
  repeat' first
    | with_reducible assumption
    | with_reducible apply keeps_onWts
    | intro _
    | split
    | dsimp only

theorem keeps_execHomePhaseWritten (phase : Nat) (s : State)  (hK : Keeps sB s) : ∃ u, (execHomePhaseWritten phase s) = .next u ∧ Keeps sB u := by
  unfold execHomePhaseWritten
  refine ⟨_, rfl, ?_⟩
  repeat' first
    | with_reducible assumption
    | with_reducible apply keeps_State_countBw
    | with_reducible apply keeps_State_writeHomes
    | with_reducible apply keeps_State_makeWorking
    | with_reducible apply keeps_State_becomeCurrent
    | with_reducible apply keeps_onWts
    | intro _
    | split
    | dsimp only

theorem keeps_State_uncompose (s : State) (n : Nat)  (hK : Keeps sB s) : Keeps sB (State.uncompose s n) := by
  unfold State.uncompose
  repeat' first
    | with_reducible assumption
    | with_reducible apply keeps_State_releaseFrom
    | with_reducible apply keeps_onSteps
    | with_reducible apply keeps_onKv
    | intro _
    | split
    | dsimp only

theorem keeps_execDarkslideOpen (s : State)  (hK : Keeps sB s) : ∃ u, (execDarkslideOpen s) = .next u ∧ Keeps sB u := by
  unfold execDarkslideOpen
  refine ⟨_, rfl, ?_⟩
  repeat' first
    | with_reducible assumption
    | with_reducible apply keeps_foldl
    | with_reducible apply keeps_State_count
    | with_reducible apply keeps_State_finishAt
    | with_reducible apply keeps_State_becomeCurrent
    | with_reducible apply keeps_State_modStep
    | with_reducible apply keeps_State_sendTables
    | with_reducible apply keeps_State_swapKv
    | with_reducible apply keeps_State_resumeSweep
    | with_reducible apply keeps_State_uncompose
    | with_reducible apply keeps_onWts
    | with_reducible apply keeps_onSrv
    | intro _
    | split
    | dsimp only

theorem keeps_execOpPlanUnload (q : Req) (s : State)  (hK : Keeps sB s) : ∃ u, (execOpPlanUnload q s) = .next u ∧ Keeps sB u := by
  unfold execOpPlanUnload
  refine ⟨_, rfl, ?_⟩
  repeat' first
    | with_reducible assumption
    | with_reducible exact act_refuse _ _
    | with_reducible exact act_wait
    | with_reducible apply act_done
    | with_reducible apply act_long
    | with_reducible apply keeps_State_noteState
    | with_reducible apply keeps_State_runOp
    | with_reducible apply keeps_State_objAct
    | with_reducible apply keeps_State_freeStaged
    | with_reducible apply keeps_State_unloadPlan
    | with_reducible apply keeps_State_evalPorts
    | with_reducible apply keeps_State_endRemap
    | with_reducible apply keeps_State_kvDiscard
    | with_reducible apply keeps_onCfg
    | intro _
    | split
    | dsimp only

end Sys2Proof.Laws
end

