-- ==== Sys2Proof/Laws/KeepsMemErr.lean ====
section
/-! SUPPORT. What the operations of Machine/MemErr.lean keep (Laws/Keeps.lean says what that is). -/

namespace Sys2Proof.Laws

open Sys2Proof Sys2Proof.Machine

variable {sB : State}

theorem keeps_State_bucketFull (s : State) (u : UnitId) (level : Nat)  (hK : Keeps sB s) : Keeps sB (State.bucketFull s u level) := by
  unfold State.bucketFull
  repeat' first
    | with_reducible assumption
    | with_reducible apply keeps_State_event
    | with_reducible apply keeps_State_log
    | with_reducible apply keeps_State_modUnit
    | with_reducible apply keeps_State_transient
    | with_reducible apply keeps_onInteg
    | intro _
    | split
    | dsimp only

theorem keeps_State_fillBucket (s : State) (u : UnitId)  (hK : Keeps sB s) : Keeps sB (State.fillBucket s u) := by
  unfold State.fillBucket
  repeat' first
    | with_reducible assumption
    | with_reducible apply keeps_State_bucketFull
    | with_reducible apply keeps_onInteg
    | intro _
    | split
    | dsimp only

theorem keeps_State_retireFrame (s : State) (u : UnitId) (tier f : Nat)  (hK : Keeps sB s) : Keeps sB (State.retireFrame s u tier f) := by
  unfold State.retireFrame
  repeat' first
    | with_reducible assumption
    | with_reducible apply keeps_State_count
    | with_reducible apply keeps_State_event
    | with_reducible apply keeps_State_log
    | with_reducible apply keeps_State_fault
    | with_reducible apply keeps_State_modUnit
    | with_reducible apply keeps_onMem
    | (show Memory.wf _ = true; first | exact mem_wf_nil | exact mem_wf_filter _ _ (by assumption) | exact mem_wf_write _ _ _ (by assumption) | exact mem_wf_clear _ _ _ (by assumption) | assumption)
    | intro _
    | split
    | dsimp only

theorem keeps_State_trackCe (s : State) (u : UnitId) (a : Nat)  (hK : Keeps sB s) : Keeps sB (State.trackCe s u a) := by
  unfold State.trackCe
  repeat' first
    | with_reducible assumption
    | with_reducible apply keeps_foldl
    | with_reducible apply keeps_State_retireFrame
    | with_reducible apply keeps_onMem
    | (show Memory.wf _ = true; first | exact mem_wf_nil | exact mem_wf_filter _ _ (by assumption) | exact mem_wf_write _ _ _ (by assumption) | exact mem_wf_clear _ _ _ (by assumption) | assumption)
    | intro _
    | split
    | dsimp only

theorem keeps_execCeDetected (unit : UnitId) (addr : Nat) (s : State)  (hK : Keeps sB s) : ∃ u, (execCeDetected unit addr s) = .next u ∧ Keeps sB u := by
  unfold execCeDetected
  refine ⟨_, rfl, ?_⟩
  repeat' first
    | with_reducible assumption
    | with_reducible apply keeps_State_count
    | with_reducible apply keeps_State_fillBucket
    | with_reducible apply keeps_State_trackCe
    | intro _
    | split
    | dsimp only

theorem keeps_execLeakyBucketLeak (unit : UnitId) (s : State)  (hK : Keeps sB s) : ∃ u, (execLeakyBucketLeak unit s) = .next u ∧ Keeps sB u := by
  unfold execLeakyBucketLeak
  refine ⟨_, rfl, ?_⟩
  repeat' first
    | with_reducible assumption
    | with_reducible apply keeps_onInteg
    | intro _
    | split
    | dsimp only

theorem keeps_State_restartKv (s : State) (i : Nat)  (hK : Keeps sB s) : Keeps sB (State.restartKv s i) := by
  unfold State.restartKv
  repeat' first
    | with_reducible assumption
    | with_reducible apply keeps_State_modSess
    | with_reducible apply keeps_State_pushUpdate
    | with_reducible apply keeps_State_unmapSession
    | intro _
    | split
    | dsimp only

theorem keeps_State_csDrop (s : State) (ids : List Nat)  (hK : Keeps sB s) : Keeps sB (State.csDrop s ids) := by
  unfold State.csDrop
  repeat' first
    | with_reducible assumption
    | with_reducible apply keeps_foldl
    | with_reducible apply keeps_State_countGroups
    | with_reducible apply keeps_State_dropRef
    | with_reducible apply keeps_onKv
    | intro _
    | split
    | dsimp only

theorem keeps_State_kvLost (s : State) (a : Nat)  (hK : Keeps sB s) : Keeps sB (State.kvLost s a) := by
  unfold State.kvLost
  repeat' first
    | with_reducible assumption
    | with_reducible apply keeps_foldl
    | with_reducible apply keeps_State_restartKv
    | with_reducible apply keeps_State_csDrop
    | intro _
    | split
    | dsimp only

theorem keeps_State_rangeLost (s : State) (addr step : Nat)  (hK : Keeps sB s) : Keeps sB (State.rangeLost s addr step) := by
  unfold State.rangeLost
  repeat' first
    | with_reducible assumption
    | with_reducible apply keeps_foldl
    | with_reducible apply keeps_State_freeImage
    | with_reducible apply keeps_State_repairHome
    | with_reducible apply keeps_State_kvLost
    | intro _
    | split
    | dsimp only

theorem keeps_State_contentLost (s : State) (u : UnitId) (addr step : Nat) (z0 : Content)  (hK : Keeps sB s) : Keeps sB (State.contentLost s u addr step z0) := by
  unfold State.contentLost
  repeat' first
    | with_reducible assumption
    | with_reducible apply keeps_foldl
    | with_reducible apply keeps_State_fault
    | with_reducible apply keeps_State_finishAt
    | with_reducible apply keeps_State_leavePool
    | with_reducible apply keeps_State_endBound
    | with_reducible apply keeps_State_removeAdapter
    | with_reducible apply keeps_State_askHalt
    | with_reducible apply keeps_State_loseSession
    | with_reducible apply keeps_State_chunkError
    | with_reducible apply keeps_State_csDrop
    | with_reducible apply keeps_State_rangeLost
    | with_reducible apply keeps_onCfg
    | with_reducible apply keeps_onSrv
    | with_reducible apply keeps_onFab
    | intro _
    | split
    | dsimp only

theorem keeps_State_blockLost (s : State) (code : Nat) (u : UnitId) (addr : Nat) (holds : Content) (step : Nat)  (hK : Keeps sB s) : Keeps sB (State.blockLost s code u addr holds step) := by
  unfold State.blockLost
  repeat' first
    | with_reducible assumption
    | with_reducible apply keeps_State_fault
    | with_reducible apply keeps_State_stepFault
    | with_reducible apply keeps_State_contentLost
    | intro _
    | split
    | dsimp only

theorem keeps_State_poison (s : State) (a : Nat)  (hK : Keeps sB s) : Keeps sB (State.poison s a) := by
  unfold State.poison
  repeat' first
    | with_reducible assumption
    | with_reducible apply keeps_onMem
    | (show Memory.wf _ = true; first | exact mem_wf_nil | exact mem_wf_filter _ _ (by assumption) | exact mem_wf_write _ _ _ (by assumption) | exact mem_wf_clear _ _ _ (by assumption) | assumption)
    | intro _
    | split
    | dsimp only

theorem keeps_State_memUe (s : State) (u : UnitId) (addr : Nat) (holds : Content) (step : Nat)  (hK : Keeps sB s) : Keeps sB (State.memUe s u addr holds step) := by
  unfold State.memUe
  repeat' first
    | with_reducible assumption
    | with_reducible apply keeps_State_count
    | with_reducible apply keeps_State_retireFrame
    | with_reducible apply keeps_State_blockLost
    | with_reducible apply keeps_State_poison
    | intro _
    | split
    | dsimp only

theorem keeps_execUeDetected (unit : UnitId) (addr : Nat) (holds : Content) (recurs : Bool) (step : Nat) (s : State)  (hK : Keeps sB s) : ∃ u, (execUeDetected unit addr holds recurs step s) = .next u ∧ Keeps sB u := by
  unfold execUeDetected
  refine ⟨_, rfl, ?_⟩
  repeat' first
    | with_reducible assumption
    | with_reducible apply keeps_State_permanent
    | with_reducible apply keeps_State_transient
    | with_reducible apply keeps_State_memUe
    | intro _
    | split
    | dsimp only

theorem keeps_execParityError (unit : UnitId) (step : Nat) (s : State)  (hK : Keeps sB s) : ∃ u, (execParityError unit step s) = .next u ∧ Keeps sB u := by
  unfold execParityError
  refine ⟨_, rfl, ?_⟩
  repeat' first
    | with_reducible assumption
    | with_reducible apply keeps_State_stepFault
    | intro _
    | split
    | dsimp only

theorem keeps_execBlockCrcFail (unit : UnitId) (addr : Nat) (holds : Content) (step : Nat) (s : State)  (hK : Keeps sB s) : ∃ u, (execBlockCrcFail unit addr holds step s) = .next u ∧ Keeps sB u := by
  unfold execBlockCrcFail
  refine ⟨_, rfl, ?_⟩
  repeat' first
    | with_reducible assumption
    | with_reducible apply keeps_State_count
    | with_reducible apply keeps_State_blockLost
    | intro _
    | split
    | dsimp only

theorem keeps_execAgitationScrub (unit : UnitId) (words corrected : Nat) (s : State)  (hK : Keeps sB s) : ∃ u, (execAgitationScrub unit words corrected s) = .next u ∧ Keeps sB u := by
  unfold execAgitationScrub
  refine ⟨_, rfl, ?_⟩
  repeat' first
    | with_reducible assumption
    | with_reducible apply keeps_State_count
    | with_reducible apply keeps_onInteg
    | intro _
    | split
    | dsimp only

theorem keeps_execAgitationLapLate (unit : UnitId) (s : State)  (hK : Keeps sB s) : ∃ u, (execAgitationLapLate unit s) = .next u ∧ Keeps sB u := by
  unfold execAgitationLapLate
  refine ⟨_, rfl, ?_⟩
  repeat' first
    | with_reducible assumption
    | with_reducible apply keeps_State_event
    | with_reducible apply keeps_onInteg
    | intro _
    | split
    | dsimp only

theorem keeps_execPageMoveStart (page tier frame : Nat) (s : State)  (hK : Keeps sB s) : ∃ u, (execPageMoveStart page tier frame s) = .next u ∧ Keeps sB u := by
  unfold execPageMoveStart
  refine ⟨_, rfl, ?_⟩
  repeat' first
    | with_reducible assumption
    | with_reducible apply keeps_onMem
    | (show Memory.wf _ = true; first | exact mem_wf_nil | exact mem_wf_filter _ _ (by assumption) | exact mem_wf_write _ _ _ (by assumption) | exact mem_wf_clear _ _ _ (by assumption) | assumption)
    | intro _
    | split
    | dsimp only

theorem keeps_State_copyFrame (s : State) (src dst : Nat) (hK : Keeps sB s) : Keeps sB (State.copyFrame s src dst) := by
  unfold State.copyFrame
  exact keeps_onMem _ _ (fun m h => mem_wf_copyFrame _ _ _ _ h) hK

theorem keeps_execPageMoveDone (page : Nat) (dirtyAfter : List Nat) (s : State)  (hK : Keeps sB s) : ∃ u, (execPageMoveDone page dirtyAfter s) = .next u ∧ Keeps sB u := by
  unfold execPageMoveDone
  refine ⟨_, rfl, ?_⟩
  repeat' first
    | with_reducible assumption
    | with_reducible apply keeps_State_count
    | with_reducible apply keeps_State_countBw
    | with_reducible apply keeps_State_copyFrame
    | with_reducible apply keeps_onMem
    | (show Memory.wf _ = true; first | exact mem_wf_nil | exact mem_wf_filter _ _ (by assumption) | exact mem_wf_write _ _ _ (by assumption) | exact mem_wf_clear _ _ _ (by assumption) | assumption)
    | intro _
    | split
    | dsimp only

end Sys2Proof.Laws
end

