-- ==== Sys2Proof/Laws/KeepsSecurity.lean ====
section
/-! SUPPORT. What the operations of Machine/Security.lean keep (Laws/Keeps.lean says what that is). -/

namespace Sys2Proof.Laws

open Sys2Proof Sys2Proof.Machine

variable {sB : State}

theorem keeps_State_beginErase (s : State) (r : EraseRun)
    (hr : RetiredFinal sB.sec → r.why = 1 → lifecycleOf r.target = .retired) (hK : Keeps sB s) :
    Keeps sB (State.beginErase s r) := by
  have ht : Keeps sB (s.eraseData) := keeps_State_eraseData _ hK
  have h1 : Keeps sB ((s.eraseData.onMem fun m => { m with cells := s.mem.cells, side := s.mem.side }).onSec fun c =>
      { c with erasing := some r, erasePending := true }) :=
    ⟨ht.pending, ht.timeNs, ht.lifeS, hK.memWf,
      ⟨fun h => ⟨(ht.sec.retired h).1, fun r' e w => by
        have e' : r = r' := Option.some.inj e
        subst e'; exact hr h w⟩, ht.sec.factory, ht.sec.retire, ht.sec.fuses⟩, ht.minSvn⟩
  unfold State.beginErase
  dsimp only
  split
  · exact h1
  · split
    · exact keeps_onMbox _ _ h1
    · exact keeps_onPwr _ _ (keeps_onMbox _ _ h1)

theorem keeps_beginErase_other (s : State) (r : EraseRun) (w : Nat) (hw : r.why = w) (hne : w ≠ 1) (hK : Keeps sB s) :
    Keeps sB (State.beginErase s r) := keeps_State_beginErase s r (fun _ h => absurd (hw.symm.trans h) hne) hK

theorem keeps_State_setLifecycle (s : State) (target ceiling : Nat) (owner : Bytes)
    (hr : RetiredFinal sB.sec → lifecycleOf target = .retired) (hK : Keeps sB s) :
    Keeps sB (State.setLifecycle s target ceiling owner) := by
  have hx := hK.sec
  refine ⟨hK.pending, hK.timeNs, hK.lifeS, hK.memWf, ⟨fun h => ⟨hr h, (hx.retired h).2⟩, fun h => ?_, fun h => ?_, ?_⟩, hK.minSvn⟩
  · show (s.sec.factoryExit || _) = true
    rw [hx.factory h]; rfl
  · show (s.sec.retireFuse || _) = true
    rw [hx.retire h]; rfl
  · exact Nat.le_trans hx.fuses (Nat.le_add_right _ _)

theorem keeps_State_setDebug (s : State) (level : Nat)  (hK : Keeps sB s) : Keeps sB (State.setDebug s level) := by
  unfold State.setDebug
  repeat' first
    | with_reducible assumption
    | with_reducible apply keeps_State_event
    | with_reducible apply keeps_onSec
    | (show SecKeeps _ _; exact SecKeeps.of_same rfl rfl rfl rfl (by first | exact Or.inl rfl | exact Or.inr rfl))
    | intro _
    | split
    | dsimp only

theorem keeps_State_afterErase (s : State) (r : EraseRun) (ms : Nat)
    (hr : RetiredFinal sB.sec → r.why = 1 → lifecycleOf r.target = .retired) (hK : Keeps sB s) :
    Keeps sB (State.afterErase s r ms) := by
  unfold State.afterErase
  extract_lets tell
  have ht : ∀ t b, Keeps sB t → Keeps sB (tell t b) := by
    intro t b h
    unfold tell
    split
    · exact keeps_State_finishAt _ _ _ _ _ _ h
    · exact h
  split
  · exact ht _ _ hK
  · rename_i hw
    exact keeps_onMbox _ _ (keeps_State_event _ _ _ _ _ (ht _ _ (keeps_State_setLifecycle _ _ _ _ (fun h => hr h hw) hK)))
  · exact ht _ _ (keeps_State_setDebug _ _ hK)
  · exact hK

theorem keeps_State_endErase (s : State) (r : EraseRun) (failed : Option UnitId)
    (hr : RetiredFinal sB.sec → r.why = 1 → lifecycleOf r.target = .retired) (hK : Keeps sB s) :
    Keeps sB (State.endErase s r failed) := by
  unfold State.endErase
  extract_lets keeps later s1 s2 s3
  have h1 : Keeps sB s1 := keeps_onMem _ _ (fun m h => mem_wf_filter _ _ h) hK
  have h2 : Keeps sB s2 := by
    unfold s2; split
    · exact h1
    · exact keeps_State_clearConfig _ h1
  have h3 : Keeps sB s3 :=
    keeps_onMbox _ _ (keeps_onSec _ _ (fun c => SecKeeps.of_same rfl rfl rfl rfl (Or.inr rfl)) h2)
  split
  · dsimp only
    split
    · exact keeps_State_finishAt _ _ _ _ _ _ (keeps_State_fault _ _ _ _ h3)
    · exact keeps_State_fault _ _ _ _ h3
  · exact keeps_State_afterErase _ _ _ hr (keeps_State_event _ _ _ _ _ h3)

theorem keeps_execEraseDone (failed : Option UnitId) (s : State) (hK : Keeps sB s) : ∃ u, (execEraseDone failed s) = .next u ∧ Keeps sB u := by
  unfold execEraseDone
  refine ⟨_, rfl, ?_⟩
  split
  · exact hK
  · rename_i r e
    split
    · exact hK
    · exact keeps_State_noteState _ _ (keeps_State_endErase _ _ _ (fun h => (hK.sec.retired h).2 r e) hK)

theorem keeps_execOpErase (q : Req) (s : State) (hK : Keeps sB s) : ∃ u, (execOpErase q s) = .next u ∧ Keeps sB u := by
  unfold execOpErase
  refine ⟨_, rfl, ?_⟩
  refine keeps_State_noteState _ _ (keeps_State_runOp _ _ _ _ _ _ (fun a c ha => ?_) hK)
  split
  · trivial
  · exact keeps_State_beginErase _ _ (fun _ h => absurd (show (0 : Nat) = 1 from h) (by decide)) ha

theorem keeps_State_lifecycleAct (s : State) (c : Cmd) (target ceiling : Nat) (owner : Bytes)
    (hr : RetiredFinal sB.sec → lifecycleOf target = .retired) (hK : Keeps sB s) :
    ActKeeps sB (State.lifecycleAct s c target ceiling owner) := by
  unfold State.lifecycleAct
  split
  · trivial
  · split
    · trivial
    · split
      · trivial
      · exact keeps_State_beginErase _ _ (fun h _ => hr h) hK

theorem keeps_execOpLifecycleSet (q : Req) (s : State) (hK : Keeps sB s) : ∃ u, (execOpLifecycleSet q s) = .next u ∧ Keeps sB u := by
  unfold execOpLifecycleSet
  refine ⟨_, rfl, ?_⟩
  refine keeps_State_noteState _ _ (keeps_State_runOp _ _ _ _ _ _ (fun a c ha => ?_) hK)
  dsimp only
  split
  · trivial
  · rename_i hok
    split
    · trivial
    · refine keeps_State_lifecycleAct _ _ _ _ _ (fun h => ?_) ha
      rw [(ha.sec.retired h).1] at hok
      exact absurd rfl hok

theorem keeps_execOpOwnershipTake (q : Req) (s : State) (hK : Keeps sB s) : ∃ u, (execOpOwnershipTake q s) = .next u ∧ Keeps sB u := by
  unfold execOpOwnershipTake
  refine ⟨_, rfl, ?_⟩
  refine keeps_State_noteState _ _ (keeps_State_runOp_checked _ _ _ _ _ _ (fun a c ha ho hn => ?_) hK)
  refine keeps_State_lifecycleAct _ _ _ _ _ (fun h => ?_) ha
  obtain ⟨h1, h2⟩ := refusal_none_state hn
  rcases ho with ho | ho
  · rw [ho] at h2
    unfold State.opState at h2
    rw [(ha.sec.retired h).1] at h2
    exact absurd h2 (by simp [opInfo_ownership, bitOf, lifecycleCode])
  · rw [ho] at h1; exact absurd h1 (by simp)

theorem keeps_execOpRightsNarrow (q : Req) (s : State)  (hK : Keeps sB s) : ∃ u, (execOpRightsNarrow q s) = .next u ∧ Keeps sB u := by
  unfold execOpRightsNarrow
  refine ⟨_, rfl, ?_⟩
  repeat' first
    | with_reducible assumption
    | with_reducible apply keeps_foldl
    | with_reducible exact act_refuse _ _
    | with_reducible exact act_wait
    | with_reducible apply act_done
    | with_reducible apply act_long
    | with_reducible apply keeps_State_event
    | with_reducible apply keeps_State_runOp
    | with_reducible apply keeps_onSec
    | (show SecKeeps _ _; exact SecKeeps.of_same rfl rfl rfl rfl (by first | exact Or.inl rfl | exact Or.inr rfl))
    | intro _
    | split
    | dsimp only

theorem keeps_execOpDebugLevelSet (q : Req) (s : State)  (hK : Keeps sB s) : ∃ u, (execOpDebugLevelSet q s) = .next u ∧ Keeps sB u := by
  unfold execOpDebugLevelSet
  refine ⟨_, rfl, ?_⟩
  repeat' first
    | with_reducible assumption
    | with_reducible exact act_refuse _ _
    | with_reducible exact act_wait
    | with_reducible apply act_done
    | with_reducible apply act_long
    | with_reducible apply keeps_State_noteState
    | with_reducible apply keeps_State_runOp
    | (with_reducible refine keeps_beginErase_other _ _ 2 ?_ (by decide) ?_; on_goal 1 => rfl)
    | with_reducible apply keeps_State_setDebug
    | intro _
    | split
    | dsimp only

theorem keeps_execTraceRead (q : Req) (s : State)  (hK : Keeps sB s) : ∃ u, (execTraceRead q s) = .next u ∧ Keeps sB u := by
  unfold execTraceRead
  refine ⟨_, rfl, ?_⟩
  repeat' first
    | with_reducible assumption
    | with_reducible exact act_refuse _ _
    | with_reducible exact act_wait
    | with_reducible apply act_done
    | with_reducible apply act_long
    | with_reducible apply keeps_State_runOp
    | intro _
    | split
    | dsimp only

theorem keeps_execTraceStart (q : Req) (s : State)  (hK : Keeps sB s) : ∃ u, (execTraceStart q s) = .next u ∧ Keeps sB u := by
  unfold execTraceStart
  refine ⟨_, rfl, ?_⟩
  repeat' first
    | with_reducible assumption
    | with_reducible exact act_refuse _ _
    | with_reducible exact act_wait
    | with_reducible apply act_done
    | with_reducible apply act_long
    | with_reducible apply keeps_State_runOp
    | with_reducible apply keeps_onSec
    | (show SecKeeps _ _; exact SecKeeps.of_same rfl rfl rfl rfl (by first | exact Or.inl rfl | exact Or.inr rfl))
    | intro _
    | split
    | dsimp only

theorem keeps_execTraceStop (q : Req) (s : State)  (hK : Keeps sB s) : ∃ u, (execTraceStop q s) = .next u ∧ Keeps sB u := by
  unfold execTraceStop
  refine ⟨_, rfl, ?_⟩
  repeat' first
    | with_reducible assumption
    | with_reducible exact act_refuse _ _
    | with_reducible exact act_wait
    | with_reducible apply act_done
    | with_reducible apply act_long
    | with_reducible apply keeps_State_runOp
    | with_reducible apply keeps_onSec
    | (show SecKeeps _ _; exact SecKeeps.of_same rfl rfl rfl rfl (by first | exact Or.inl rfl | exact Or.inr rfl))
    | intro _
    | split
    | dsimp only

theorem keeps_execOpPhysRead (q : Req) (s : State)  (hK : Keeps sB s) : ∃ u, (execOpPhysRead q s) = .next u ∧ Keeps sB u := by
  unfold execOpPhysRead
  refine ⟨_, rfl, ?_⟩
  repeat' first
    | with_reducible assumption
    | with_reducible exact act_refuse _ _
    | with_reducible exact act_wait
    | with_reducible apply act_done
    | with_reducible apply act_long
    | with_reducible apply keeps_State_runOp
    | with_reducible apply keeps_State_memUe
    | intro _
    | split
    | dsimp only

theorem keeps_execOpPhysWrite (q : Req) (s : State)  (hK : Keeps sB s) : ∃ u, (execOpPhysWrite q s) = .next u ∧ Keeps sB u := by
  unfold execOpPhysWrite
  refine ⟨_, rfl, ?_⟩
  repeat' first
    | with_reducible assumption
    | with_reducible exact act_refuse _ _
    | with_reducible exact act_wait
    | with_reducible apply act_done
    | with_reducible apply act_long
    | with_reducible apply keeps_State_write
    | with_reducible apply keeps_State_runOp
    | intro _
    | split
    | dsimp only

theorem keeps_execScanList (q : Req) (s : State)  (hK : Keeps sB s) : ∃ u, (execScanList q s) = .next u ∧ Keeps sB u := by
  unfold execScanList
  refine ⟨_, rfl, ?_⟩
  repeat' first
    | with_reducible assumption
    | with_reducible exact act_refuse _ _
    | with_reducible exact act_wait
    | with_reducible apply act_done
    | with_reducible apply act_long
    | with_reducible apply keeps_State_runOp
    | intro _
    | split
    | dsimp only

theorem keeps_execScanCapture (q : Req) (s : State)  (hK : Keeps sB s) : ∃ u, (execScanCapture q s) = .next u ∧ Keeps sB u := by
  unfold execScanCapture
  refine ⟨_, rfl, ?_⟩
  repeat' first
    | with_reducible assumption
    | with_reducible exact act_refuse _ _
    | with_reducible exact act_wait
    | with_reducible apply act_done
    | with_reducible apply act_long
    | with_reducible apply keeps_State_drawn
    | with_reducible apply keeps_State_runOp
    | with_reducible apply keeps_onSec
    | (show SecKeeps _ _; exact SecKeeps.of_same rfl rfl rfl rfl (by first | exact Or.inl rfl | exact Or.inr rfl))
    | intro _
    | split
    | dsimp only

theorem keeps_execScanShiftOut (q : Req) (s : State)  (hK : Keeps sB s) : ∃ u, (execScanShiftOut q s) = .next u ∧ Keeps sB u := by
  unfold execScanShiftOut
  refine ⟨_, rfl, ?_⟩
  repeat' first
    | with_reducible assumption
    | with_reducible exact act_refuse _ _
    | with_reducible exact act_wait
    | with_reducible apply act_done
    | with_reducible apply act_long
    | with_reducible apply keeps_State_runOp
    | intro _
    | split
    | dsimp only

theorem keeps_execScanShiftIn (q : Req) (s : State)  (hK : Keeps sB s) : ∃ u, (execScanShiftIn q s) = .next u ∧ Keeps sB u := by
  unfold execScanShiftIn
  refine ⟨_, rfl, ?_⟩
  repeat' first
    | with_reducible assumption
    | with_reducible exact act_refuse _ _
    | with_reducible exact act_wait
    | with_reducible apply act_done
    | with_reducible apply act_long
    | with_reducible apply keeps_State_runOp
    | with_reducible apply keeps_onSec
    | (show SecKeeps _ _; exact SecKeeps.of_same rfl rfl rfl rfl (by first | exact Or.inl rfl | exact Or.inr rfl))
    | intro _
    | split
    | dsimp only

end Sys2Proof.Laws
end

