-- ==== Sys2Proof/Laws/KeepsTileOps.lean ====
section
/-! SUPPORT. What the operations of Machine/TileOps.lean keep (Laws/Keeps.lean says what that is). -/

namespace Sys2Proof.Laws

open Sys2Proof Sys2Proof.Machine

variable {sB : State}

theorem keeps_State_modTile (s : State) (l : Nat) (f : TileX → TileX)  (hK : Keeps sB s) : Keeps sB (State.modTile s l f) := by
  unfold State.modTile
  repeat' first
    | with_reducible assumption
    | with_reducible apply keeps_onTiles
    | intro _
    | split
    | dsimp only

theorem keeps_State_modChan (s : State) (k : Nat) (f : Chan → Chan)  (hK : Keeps sB s) : Keeps sB (State.modChan s k f) := by
  unfold State.modChan
  repeat' first
    | with_reducible assumption
    | with_reducible apply keeps_onTiles
    | intro _
    | split
    | dsimp only

theorem keeps_State_chanFault (s : State) (code k step : Nat) (layer : Option Nat)  (hK : Keeps sB s) : Keeps sB (State.chanFault s code k step layer) := by
  unfold State.chanFault
  repeat' first
    | with_reducible assumption
    | with_reducible apply keeps_State_stepFault
    | intro _
    | split
    | dsimp only

theorem keeps_State_addMarks (s : State) (k n step : Nat)  (hK : Keeps sB s) : Keeps sB (State.addMarks s k n step) := by
  unfold State.addMarks
  repeat' first
    | with_reducible assumption
    | with_reducible apply keeps_State_modChan
    | with_reducible apply keeps_State_chanFault
    | intro _
    | split
    | dsimp only

theorem keeps_State_addCredits (s : State) (k n step : Nat)  (hK : Keeps sB s) : Keeps sB (State.addCredits s k n step) := by
  unfold State.addCredits
  repeat' first
    | with_reducible assumption
    | with_reducible apply keeps_State_modChan
    | with_reducible apply keeps_State_chanFault
    | intro _
    | split
    | dsimp only

theorem keeps_State_landBlock (s : State) (a : Nat) (b : Blk)  (hK : Keeps sB s) : Keeps sB (State.landBlock s a b) := by
  unfold State.landBlock
  repeat' first
    | with_reducible assumption
    | with_reducible apply keeps_State_writeBlock
    | with_reducible apply keeps_onTiles
    | intro _
    | split
    | dsimp only

theorem keeps_State_rangeFault (s : State) (u : UnitId) (a step : Nat)  (hK : Keeps sB s) : Keeps sB (State.rangeFault s u a step) := by
  unfold State.rangeFault
  repeat' first
    | with_reducible assumption
    | with_reducible apply keeps_State_stepFault
    | intro _
    | split
    | dsimp only

theorem keeps_State_dropLine (s : State) (a : Nat)  (hK : Keeps sB s) : Keeps sB (State.dropLine s a) := by
  unfold State.dropLine
  repeat' first
    | with_reducible assumption
    | with_reducible apply keeps_onFab
    | intro _
    | split
    | dsimp only

theorem keeps_State_fillLine (s : State) (c : CacheLine)  (hK : Keeps sB s) : Keeps sB (State.fillLine s c) := by
  unfold State.fillLine
  repeat' first
    | with_reducible assumption
    | with_reducible apply keeps_onFab
    | intro _
    | split
    | dsimp only

theorem keeps_State_sendBlock (s : State) (u : UnitId) (step : Nat) (d : Dest) (off : Nat) (b : Blk)  (hK : Keeps sB s) : Keeps sB (State.sendBlock s u step d off b) := by
  unfold State.sendBlock
  repeat' first
    | with_reducible assumption
    | with_reducible apply keeps_State_sendPacket
    | with_reducible apply keeps_State_stepFault
    | with_reducible apply keeps_State_dropLine
    | intro _
    | split
    | dsimp only

theorem keeps_State_putBlocks (s : State) (u : UnitId) (step : Nat) (d : Dest) (bs : List Blk)  (hK : Keeps sB s) : Keeps sB (State.putBlocks s u step d bs) := by
  unfold State.putBlocks
  repeat' first
    | with_reducible assumption
    | with_reducible apply keeps_foldl
    | with_reducible apply keeps_State_log
    | with_reducible apply keeps_State_landBlock
    | with_reducible apply keeps_State_rangeFault
    | with_reducible apply keeps_State_sendBlock
    | intro _
    | split
    | dsimp only

theorem keeps_State_reserve (s : State) (k a blocks : Nat)  (hK : Keeps sB s) : Keeps sB (State.reserve s k a blocks) := by
  unfold State.reserve
  repeat' first
    | with_reducible assumption
    | with_reducible apply keeps_onTiles
    | intro _
    | split
    | dsimp only

theorem keeps_State_fillSpace (s : State) (k a blocks src : Nat)  (hK : Keeps sB s) : Keeps sB (State.fillSpace s k a blocks src) := by
  unfold State.fillSpace
  repeat' first
    | with_reducible assumption
    | with_reducible apply keeps_onTiles
    | intro _
    | split
    | dsimp only

theorem keeps_State_sendCredit (s : State) (f : Space) (step : Nat)  (hK : Keeps sB s) : Keeps sB (State.sendCredit s f step) := by
  unfold State.sendCredit
  repeat' first
    | with_reducible assumption
    | with_reducible apply keeps_State_sendPacket
    | intro _
    | split
    | dsimp only

theorem keeps_State_freeReads (s : State) (i step : Nat)  (hK : Keeps sB s) : Keeps sB (State.freeReads s i step) := by
  unfold State.freeReads
  repeat' first
    | with_reducible assumption
    | with_reducible apply keeps_foldl
    | with_reducible apply keeps_State_sendCredit
    | with_reducible apply keeps_onTiles
    | intro _
    | split
    | dsimp only

theorem keeps_State_putDisp (s : State) (r : DispRec)  (hK : Keeps sB s) : Keeps sB (State.putDisp s r) := by
  unfold State.putDisp
  repeat' first
    | with_reducible assumption
    | with_reducible apply keeps_onFab
    | intro _
    | split
    | dsimp only

theorem keeps_State_executed (s : State) (r : Run)  (hK : Keeps sB s) : Keeps sB (State.executed s r) := by
  unfold State.executed
  repeat' first
    | with_reducible assumption
    | with_reducible apply keeps_State_modTile
    | intro _
    | split
    | dsimp only

theorem keeps_State_withInputs (s : State) (r : Run) (phys range : List (Nat × Nat)) (f : State → State) (hf : ∀ a0, Keeps sB a0 → Keeps sB (f a0)) (hK : Keeps sB s) : Keeps sB (State.withInputs s r phys range f) := by
  unfold State.withInputs
  repeat' first
    | with_reducible assumption
    | with_reducible apply hf
    | with_reducible apply keeps_State_memUe
    | with_reducible apply keeps_State_rangeFault
    | with_reducible apply keeps_onMem
    | (show Memory.wf _ = true; first | exact mem_wf_nil | exact mem_wf_filter _ _ (by assumption) | exact mem_wf_write _ _ _ (by assumption) | exact mem_wf_clear _ _ _ (by assumption) | assumption)
    | intro _
    | split
    | dsimp only

theorem keeps_State_operate (s : State) (l opc unit : Nat) (f : State → Run → State) (hf : ∀ a0 a1, Keeps sB a0 → Keeps sB (f a0 a1)) (hK : Keeps sB s) : Keeps sB (State.operate s l opc unit f) := by
  unfold State.operate
  repeat' first
    | with_reducible assumption
    | with_reducible apply hf
    | intro _
    | split
    | dsimp only

end Sys2Proof.Laws
end

