-- ==== Sys2Proof/Laws/KeepsExpert.lean ====
section
/-! SUPPORT. What the operations of Machine/Expert.lean keep (Laws/Keeps.lean says what that is). -/

namespace Sys2Proof.Laws

open Sys2Proof Sys2Proof.Machine

variable {sB : State}

theorem keeps_State_giveList (s : State) (r : DispRec) (l : Nat)  (hK : Keeps sB s) : Keeps sB (State.giveList s r l) := by
  unfold State.giveList
  repeat' first
    | with_reducible assumption
    | with_reducible apply keeps_State_addMarks
    | with_reducible apply keeps_State_landBlock
    | intro _
    | split
    | dsimp only

theorem keeps_State_noteFree (s : State) (m step layer hb : Nat)  (hK : Keeps sB s) : Keeps sB (State.noteFree s m step layer hb) := by
  unfold State.noteFree
  repeat' first
    | with_reducible assumption
    | with_reducible apply keeps_foldl
    | with_reducible apply keeps_State_stall
    | with_reducible apply keeps_State_putDisp
    | intro _
    | split
    | dsimp only

theorem keeps_State_checkFree (s : State) (step layer hb : Nat)  (hK : Keeps sB s) : Keeps sB (State.checkFree s step layer hb) := by
  unfold State.checkFree
  repeat' first
    | with_reducible assumption
    | with_reducible apply keeps_foldl
    | with_reducible apply keeps_State_sendPacket
    | with_reducible apply keeps_State_putDisp
    | with_reducible apply keeps_State_noteFree
    | intro _
    | split
    | dsimp only

theorem keeps_State_chainDone (s : State) (l step layer hb : Nat)  (hK : Keeps sB s) : Keeps sB (State.chainDone s l step layer hb) := by
  unfold State.chainDone
  repeat' first
    | with_reducible assumption
    | with_reducible apply keeps_State_putDisp
    | with_reducible apply keeps_State_checkFree
    | intro _
    | split
    | dsimp only

theorem keeps_State_landSlot (s : State) (u : UnitId) (src expert session epoch step addr : Nat) (data : Bytes)  (hK : Keeps sB s) : Keeps sB (State.landSlot s u src expert session epoch step addr data) := by
  unfold State.landSlot
  repeat' first
    | with_reducible assumption
    | with_reducible apply keeps_State_count
    | with_reducible apply keeps_State_writeRange
    | with_reducible apply keeps_State_rangeFault
    | with_reducible apply keeps_State_putDisp
    | intro _
    | split
    | dsimp only

theorem keeps_State_noteEnd (s : State) (m step layer hb : Nat)  (hK : Keeps sB s) : Keeps sB (State.noteEnd s m step layer hb) := by
  unfold State.noteEnd
  repeat' first
    | with_reducible assumption
    | with_reducible apply keeps_foldl
    | with_reducible apply keeps_State_putDisp
    | with_reducible apply keeps_State_giveList
    | with_reducible apply keeps_State_checkFree
    | intro _
    | split
    | dsimp only

theorem keeps_State_stage (s : State) (l layer hb : Nat) (d : List Nat) (slots : List Nat)  (hK : Keeps sB s) : Keeps sB (State.stage s l layer hb d slots) := by
  unfold State.stage
  repeat' first
    | with_reducible assumption
    | with_reducible apply keeps_foldl
    | with_reducible apply keeps_State_landBlock
    | intro _
    | split
    | dsimp only

theorem keeps_State_checkResolved (s : State) (step layer hb : Nat)  (hK : Keeps sB s) : Keeps sB (State.checkResolved s step layer hb) := by
  unfold State.checkResolved
  repeat' first
    | with_reducible assumption
    | with_reducible apply keeps_State_addMarks
    | with_reducible apply keeps_State_putDisp
    | intro _
    | split
    | dsimp only

theorem keeps_State_lateReturn (s : State)  (hK : Keeps sB s) : Keeps sB (State.lateReturn s) := by
  unfold State.lateReturn
  repeat' first
    | with_reducible assumption
    | with_reducible apply keeps_State_count
    | with_reducible apply keeps_State_fault
    | with_reducible apply keeps_onSteps
    | intro _
    | split
    | dsimp only

theorem keeps_State_landReturn (s : State) (u : UnitId) (session epoch step addr : Nat) (data : Bytes)  (hK : Keeps sB s) : Keeps sB (State.landReturn s u session epoch step addr data) := by
  unfold State.landReturn
  repeat' first
    | with_reducible assumption
    | with_reducible apply keeps_State_count
    | with_reducible apply keeps_State_writeRange
    | with_reducible apply keeps_State_rangeFault
    | with_reducible apply keeps_State_putDisp
    | with_reducible apply keeps_State_checkResolved
    | with_reducible apply keeps_State_lateReturn
    | intro _
    | split
    | dsimp only

theorem keeps_State_sendReturn (s : State) (u : UnitId) (step layer hb : Nat) (addr slot : Nat) (row : Bytes)  (hK : Keeps sB s) : Keeps sB (State.sendReturn s u step layer hb addr slot row) := by
  unfold State.sendReturn
  repeat' first
    | with_reducible assumption
    | with_reducible apply keeps_foldl
    | with_reducible apply keeps_State_sendPacket
    | with_reducible apply keeps_State_landReturn
    | intro _
    | split
    | dsimp only

end Sys2Proof.Laws
end

