-- ==== Sys2Proof/Laws/KeepsConvert.lean ====
section
/-! SUPPORT. What the operations of Machine/Convert.lean keep (Laws/Keeps.lean says what that is). -/

namespace Sys2Proof.Laws

open Sys2Proof Sys2Proof.Machine

variable {sB : State}

theorem keeps_State_countConv (s : State) (code : Nat) (c : Converted)  (hK : Keeps sB s) : Keeps sB (State.countConv s code c) := by
  unfold State.countConv
  repeat' first
    | with_reducible assumption
    | with_reducible apply keeps_State_count
    | intro _
    | split
    | dsimp only

theorem keeps_State_emitRows (s : State) (r : Run) (form rows width : Nat) (vals : List (Nat × List Word32))  (hK : Keeps sB s) : Keeps sB (State.emitRows s r form rows width vals) := by
  unfold State.emitRows
  repeat' first
    | with_reducible assumption
    | with_reducible apply keeps_foldl
    | with_reducible apply keeps_State_putBlocks
    | with_reducible apply keeps_State_sendReturn
    | with_reducible apply keeps_State_countConv
    | intro _
    | split
    | dsimp only

theorem keeps_State_emitBytes (s : State) (r : Run) (b : Bytes) (live : Nat → Bool)  (hK : Keeps sB s) : Keeps sB (State.emitBytes s r b live) := by
  unfold State.emitBytes
  repeat' first
    | with_reducible assumption
    | with_reducible apply keeps_foldl
    | with_reducible apply keeps_State_putBlocks
    | intro _
    | split
    | dsimp only

end Sys2Proof.Laws
end

