-- ==== Sys2Proof/Laws/KeepsSampling.lean ====
section
/-! SUPPORT. What the operations of Machine/Sampling.lean keep (Laws/Keeps.lean says what that is). -/

namespace Sys2Proof.Laws

open Sys2Proof Sys2Proof.Machine

variable {sB : State}

theorem keeps_State_drawUndrawn (s : State) (g : GenParams) (u : List (Nat × Word32))  (hK : Keeps sB s) : Keeps sB (State.drawUndrawn s g u).2 := by
  unfold State.drawUndrawn
  repeat' first
    | with_reducible assumption
    | intro _
    | split
    | dsimp only
    | exact Keeps.of_same hK rfl rfl rfl rfl rfl

theorem keeps_growTree (g : GenParams) (d b : Nat) (z0 : Nat) (z1 : List Grow) (z2 : List (List (Nat × Word32))) (z3 : State)  (hK : Keeps sB z3) : Keeps sB (growTree g d b z0 z1 z2 z3).2.2 := by
  induction z0 generalizing g d b z1 z2 z3 with
  | zero =>
    unfold growTree
    repeat' first
      | with_reducible assumption
      | with_reducible apply ih
      | (refine pairr_get ?_ (by assumption); with_reducible apply keeps_State_drawUndrawn)
      | (refine trip_get ?_ (by assumption); with_reducible apply ih)
      | with_reducible apply keeps_State_drawUndrawn
      | intro _
      | split
      | dsimp only
  | succ n ih =>
    unfold growTree
    repeat' first
      | with_reducible assumption
      | with_reducible apply ih
      | (refine pairr_get ?_ (by assumption); with_reducible apply keeps_State_drawUndrawn)
      | (refine trip_get ?_ (by assumption); with_reducible apply ih)
      | with_reducible apply keeps_State_drawUndrawn
      | intro _
      | split
      | dsimp only

theorem keeps_buildTree (g : GenParams) (d b root : Nat) (zs : List (List (Nat × Word32))) (s : State)  (hK : Keeps sB s) : Keeps sB (buildTree g d b root zs s).2.2 := by
  unfold buildTree
  repeat' first
    | with_reducible assumption
    | (refine trip_get ?_ (by assumption); with_reducible apply keeps_growTree)
    | with_reducible apply keeps_growTree
    | intro _
    | split
    | dsimp only

end Sys2Proof.Laws
end

