-- ==== Sys2Proof/Laws/KeepsStepMsgs.lean ====
section
/-! SUPPORT. What the operations of Machine/StepMsgs.lean keep (Laws/Keeps.lean says what that is). -/

namespace Sys2Proof.Laws

open Sys2Proof Sys2Proof.Machine

variable {sB : State}

theorem keeps_State_hearStep (s : State) (n : Nat)  (hK : Keeps sB s) : Keeps sB (State.hearStep s n) := by
  unfold State.hearStep
  repeat' first
    | with_reducible assumption
    | with_reducible apply keeps_onSteps
    | with_reducible apply keeps_onKv
    | intro _
    | split
    | dsimp only

theorem keeps_execSessionTable (port : Nat) (k : Packet) (s : State)  (hK : Keeps sB s) : ∃ u, (execSessionTable port k s) = .next u ∧ Keeps sB u := by
  unfold execSessionTable
  refine ⟨_, rfl, ?_⟩
  repeat' first
    | with_reducible assumption
    | with_reducible apply keeps_State_modStep
    | with_reducible apply keeps_State_recvMsg
    | with_reducible apply keeps_State_badMsg
    | with_reducible apply keeps_State_hearStep
    | with_reducible apply keeps_onKv
    | intro _
    | split
    | dsimp only

theorem keeps_execAttnRecords (port : Nat) (k : Packet) (s : State)  (hK : Keeps sB s) : ∃ u, (execAttnRecords port k s) = .next u ∧ Keeps sB u := by
  unfold execAttnRecords
  refine ⟨_, rfl, ?_⟩
  repeat' first
    | with_reducible assumption
    | with_reducible apply keeps_foldl
    | with_reducible apply keeps_State_modSess
    | with_reducible apply keeps_State_modStep
    | with_reducible apply keeps_State_stepFault
    | with_reducible apply keeps_State_recvMsg
    | with_reducible apply keeps_State_badMsg
    | with_reducible apply keeps_State_hearStep
    | intro _
    | split
    | dsimp only

theorem keeps_State_takeUpdate (s : State) (b : Bytes)  (hK : Keeps sB s) : Keeps sB (State.takeUpdate s b) := by
  unfold State.takeUpdate
  repeat' first
    | with_reducible assumption
    | with_reducible apply keeps_State_dataArrives
    | with_reducible apply keeps_State_putSess
    | with_reducible apply keeps_State_dropSession
    | intro _
    | split
    | dsimp only

theorem keeps_execSessionUpdate (port : Nat) (k : Packet) (s : State)  (hK : Keeps sB s) : ∃ u, (execSessionUpdate port k s) = .next u ∧ Keeps sB u := by
  unfold execSessionUpdate
  refine ⟨_, rfl, ?_⟩
  repeat' first
    | with_reducible assumption
    | with_reducible apply keeps_foldl
    | with_reducible apply keeps_State_recvMsg
    | with_reducible apply keeps_State_takeUpdate
    | intro _
    | split
    | dsimp only

theorem keeps_execGenParams (port : Nat) (k : Packet) (s : State)  (hK : Keeps sB s) : ∃ u, (execGenParams port k s) = .next u ∧ Keeps sB u := by
  unfold execGenParams
  refine ⟨_, rfl, ?_⟩
  repeat' first
    | with_reducible assumption
    | with_reducible apply keeps_State_putSess
    | with_reducible apply keeps_State_recvMsg
    | intro _
    | split
    | dsimp only

theorem keeps_State_notePromotion (s : State) (id layer : Nat)  (hK : Keeps sB s) : Keeps sB (State.notePromotion s id layer) := by
  unfold State.notePromotion
  repeat' first
    | with_reducible assumption
    | with_reducible apply keeps_onSrv
    | intro _
    | split
    | dsimp only

theorem keeps_execPromotion (port : Nat) (k : Packet) (s : State)  (hK : Keeps sB s) : ∃ u, (execPromotion port k s) = .next u ∧ Keeps sB u := by
  unfold execPromotion
  refine ⟨_, rfl, ?_⟩
  repeat' first
    | with_reducible assumption
    | with_reducible apply keeps_foldl
    | with_reducible apply keeps_State_recvMsg
    | with_reducible apply keeps_State_badMsg
    | with_reducible apply keeps_State_notePromotion
    | intro _
    | split
    | dsimp only

theorem keeps_State_takeBranch (s : State) (id step : Nat) (b : Branch)  (hK : Keeps sB s) : Keeps sB (State.takeBranch s id step b) := by
  unfold State.takeBranch
  repeat' first
    | with_reducible assumption
    | with_reducible apply keeps_State_putSess
    | intro _
    | split
    | dsimp only

theorem keeps_execDraftTree (port : Nat) (k : Packet) (s : State)  (hK : Keeps sB s) : ∃ u, (execDraftTree port k s) = .next u ∧ Keeps sB u := by
  unfold execDraftTree
  refine ⟨_, rfl, ?_⟩
  repeat' first
    | with_reducible assumption
    | with_reducible apply keeps_State_recvMsg
    | with_reducible apply keeps_State_badMsg
    | with_reducible apply keeps_State_takeBranch
    | intro _
    | split
    | dsimp only

theorem keeps_State_joinTokens (s : State) (i step : Nat) (items : List (Nat × Word32)) (why : Option Nat) (row : Nat)  (hK : Keeps sB s) : Keeps sB (State.joinTokens s i step items why row) := by
  unfold State.joinTokens
  repeat' first
    | with_reducible assumption
    | with_reducible apply keeps_State_count
    | with_reducible apply keeps_State_putSess
    | with_reducible apply keeps_State_pushUpdate
    | with_reducible apply keeps_State_replyTo
    | with_reducible apply keeps_State_repDone
    | with_reducible apply keeps_State_endGen
    | with_reducible apply keeps_State_csInsert
    | intro _
    | split
    | dsimp only

theorem keeps_State_leadOutcome (s : State) (id epoch path step : Nat) (items : List (Nat × Word32))  (hK : Keeps sB s) : Keeps sB (State.leadOutcome s id epoch path step items) := by
  unfold State.leadOutcome
  repeat' first
    | with_reducible assumption
    | with_reducible apply keeps_State_count
    | with_reducible apply keeps_State_modSess
    | with_reducible apply keeps_State_pushUpdate
    | with_reducible apply keeps_State_repError
    | with_reducible apply keeps_State_endGen
    | with_reducible apply keeps_State_settleDrain
    | with_reducible apply keeps_State_csInsert
    | with_reducible apply keeps_State_releaseHold
    | with_reducible apply keeps_State_sendCommit
    | with_reducible apply keeps_State_joinTokens
    | with_reducible apply keeps_onKv
    | intro _
    | split
    | dsimp only

theorem keeps_State_noteOutcome (s : State) (id epoch path : Nat) (items : List (Nat × Word32))  (hK : Keeps sB s) : Keeps sB (State.noteOutcome s id epoch path items) := by
  unfold State.noteOutcome
  repeat' first
    | with_reducible assumption
    | with_reducible apply keeps_State_putSess
    | intro _
    | split
    | dsimp only

theorem keeps_execOutcome (port : Nat) (k : Packet) (s : State)  (hK : Keeps sB s) : ∃ u, (execOutcome port k s) = .next u ∧ Keeps sB u := by
  unfold execOutcome
  refine ⟨_, rfl, ?_⟩
  repeat' first
    | with_reducible assumption
    | with_reducible apply keeps_State_noteState
    | with_reducible apply keeps_State_recvMsg
    | with_reducible apply keeps_State_badMsg
    | with_reducible apply keeps_State_leadOutcome
    | with_reducible apply keeps_State_noteOutcome
    | intro _
    | split
    | dsimp only

theorem keeps_State_sendOutcome (s : State) (x : Sess) (epoch step path : Nat) (items : List (Nat × Word32))  (hK : Keeps sB s) : Keeps sB (State.sendOutcome s x epoch step path items) := by
  unfold State.sendOutcome
  repeat' first
    | with_reducible assumption
    | with_reducible apply keeps_State_sendMsg
    | with_reducible apply keeps_State_sendLead
    | with_reducible apply keeps_State_leadOutcome
    | with_reducible apply keeps_State_noteOutcome
    | intro _
    | split
    | dsimp only

theorem keeps_State_charge (s : State) (client ns pos : Nat)  (hK : Keeps sB s) : Keeps sB (State.charge s client ns pos) := by
  unfold State.charge
  repeat' first
    | with_reducible assumption
    | with_reducible apply keeps_onSrv
    | intro _
    | split
    | dsimp only

theorem keeps_State_chargeStep (s : State) (t : Step) (ns : Nat)  (hK : Keeps sB s) : Keeps sB (State.chargeStep s t ns) := by
  unfold State.chargeStep
  repeat' first
    | with_reducible assumption
    | with_reducible apply keeps_foldl
    | with_reducible apply keeps_State_count
    | with_reducible apply keeps_State_charge
    | intro _
    | split
    | dsimp only

theorem keeps_State_commitPrefill (s : State) (t : Step)  (hK : Keeps sB s) : Keeps sB (State.commitPrefill s t) := by
  unfold State.commitPrefill
  repeat' first
    | with_reducible assumption
    | with_reducible apply keeps_foldl
    | with_reducible apply keeps_State_count
    | with_reducible apply keeps_State_modSess
    | with_reducible apply keeps_State_pushUpdate
    | with_reducible apply keeps_State_csInsert
    | with_reducible apply keeps_State_sendCommit
    | intro _
    | split
    | dsimp only

theorem keeps_State_stepDone (s : State) (r : StepRep)  (hK : Keeps sB s) : Keeps sB (State.stepDone s r) := by
  unfold State.stepDone
  repeat' first
    | with_reducible assumption
    | with_reducible apply keeps_State_chargeStep
    | with_reducible apply keeps_State_commitPrefill
    | with_reducible apply keeps_onSrv
    | intro _
    | split
    | dsimp only

theorem keeps_State_noteReport (s : State) (m n stall cause : Nat)  (hK : Keeps sB s) : Keeps sB (State.noteReport s m n stall cause) := by
  unfold State.noteReport
  repeat' first
    | with_reducible assumption
    | with_reducible apply keeps_State_stall
    | with_reducible apply keeps_State_settleDrain
    | with_reducible apply keeps_State_stepDone
    | with_reducible apply keeps_onSrv
    | intro _
    | split
    | dsimp only

theorem keeps_execStepReport (port : Nat) (k : Packet) (s : State)  (hK : Keeps sB s) : ∃ u, (execStepReport port k s) = .next u ∧ Keeps sB u := by
  unfold execStepReport
  refine ⟨_, rfl, ?_⟩
  repeat' first
    | with_reducible assumption
    | with_reducible apply keeps_State_noteState
    | with_reducible apply keeps_State_recvMsg
    | with_reducible apply keeps_State_badMsg
    | with_reducible apply keeps_State_noteReport
    | intro _
    | split
    | dsimp only

theorem keeps_execStreamStallWindow (s : State)  (hK : Keeps sB s) : ∃ u, (execStreamStallWindow s) = .next u ∧ Keeps sB u := by
  unfold execStreamStallWindow
  refine ⟨_, rfl, ?_⟩
  repeat' first
    | with_reducible assumption
    | with_reducible apply keeps_foldl
    | with_reducible apply keeps_State_event
    | with_reducible apply keeps_State_stall
    | with_reducible apply keeps_onSrv
    | intro _
    | split
    | dsimp only

theorem keeps_State_noteRate (s : State) (i count ns : Nat)  (hK : Keeps sB s) : Keeps sB (State.noteRate s i count ns) := by
  unfold State.noteRate
  repeat' first
    | with_reducible assumption
    | with_reducible apply keeps_State_count
    | with_reducible apply keeps_State_gauge
    | with_reducible apply keeps_State_putSess
    | intro _
    | split
    | dsimp only

theorem keeps_freeCtr (p : Prop) [Decidable p] (s : State) (n : Nat) (hK : Keeps sB s) :
    Keeps sB (if p then { s with freeCtr := n } else s) := by
  split
  · exact Keeps.of_same hK rfl rfl rfl rfl rfl
  · exact hK

theorem keeps_acceptFrom (g : GenParams) (tree : List TreeRow) (rows : List SampRow) (fuel v : Nat) (a b : Accept)
    (hK : Keeps sB a.st) (e : acceptFrom g tree rows fuel v a = some b) : Keeps sB b.st := by
  induction fuel generalizing v a with
  | zero => unfold acceptFrom at e; cases e; exact hK
  | succ n ih =>
    unfold acceptFrom at e
    dsimp only at e
    split at e
    · cases e
    · split at e
      · split at e
        · refine ih _ _ ?_ e; exact hK
        · cases e; exact hK
      · split at e
        · refine ih _ _ ?_ e; exact keeps_freeCtr _ _ _ hK
        · cases e; exact keeps_freeCtr _ _ _ hK

theorem keeps_State_sampleSession (s : State) (x : Sess) (t : Step) (row : SRow) (r : ARec) (zs : List (List Word32)) (hK : Keeps sB s) :
    Keeps sB (State.sampleSession s x t row r zs) := by
  unfold State.sampleSession
  extract_lets g tree base rows s0
  have h0 : Keeps sB s0 := keeps_onSrv _ _ hK
  split
  · exact keeps_State_sendOutcome _ _ _ _ _ _ h0
  · rename_i a e
    have ha : Keeps sB a.st := keeps_acceptFrom _ _ _ _ _ _ _ h0 e
    dsimp only
    split
    · exact keeps_State_sendOutcome _ _ _ _ _ _ (keeps_State_noteRate _ _ _ _ ha)
    · exact keeps_State_sendOutcome _ _ _ _ _ _ ha

theorem keeps_execSamplingRow (session row : Nat) (remote : List (Nat × List Word32)) (s : State)  (hK : Keeps sB s) : ∃ u, (execSamplingRow session row remote s) = .next u ∧ Keeps sB u := by
  unfold execSamplingRow
  refine ⟨_, rfl, ?_⟩
  repeat' first
    | with_reducible assumption
    | with_reducible apply keeps_State_noteState
    | with_reducible apply keeps_State_sampleSession
    | with_reducible apply keeps_onSrv
    | intro _
    | split
    | dsimp only

theorem keeps_State_buildBranches (s : State) (x : Sess) (g : GenParams) (rootOnly : Bool) (z0 : List (Nat × Nat))
    (z1 : List (List (Nat × Word32))) (hK : Keeps sB s) : Keeps sB (State.buildBranches s x g rootOnly z0 z1).2 := by
  induction z0 generalizing s z1 with
  | nil => unfold State.buildBranches; exact hK
  | cons o r ih =>
    unfold State.buildBranches
    exact ih _ _ (keeps_buildTree _ _ _ _ _ _ hK)

theorem keeps_execDraftStep (session : Nat) (logits : List (List Word32)) (s : State)  (hK : Keeps sB s) : ∃ u, (execDraftStep session logits s) = .next u ∧ Keeps sB u := by
  unfold execDraftStep
  refine ⟨_, rfl, ?_⟩
  repeat' first
    | with_reducible assumption
    | with_reducible apply keeps_foldl
    | (refine pairr_get ?_ (by assumption); with_reducible apply keeps_State_buildBranches)
    | with_reducible apply keeps_State_sendMsg
    | with_reducible apply keeps_State_takeBranch
    | with_reducible apply keeps_State_buildBranches
    | intro _
    | split
    | dsimp only

end Sys2Proof.Laws
end

