-- ==== Sys2Proof/Laws/KeepsArrayOps.lean ====
section
/-! SUPPORT. What the operations of Machine/ArrayOps.lean keep (Laws/Keeps.lean says what that is). -/

namespace Sys2Proof.Laws

open Sys2Proof Sys2Proof.Machine

variable {sB : State}

theorem keeps_State_putAccRow (s : State) (l base n row : Nat) (ws : List Word32)  (hK : Keeps sB s) : Keeps sB (State.putAccRow s l base n row ws) := by
  unfold State.putAccRow
  repeat' first
    | with_reducible assumption
    | with_reducible apply keeps_foldl
    | with_reducible apply keeps_State_write
    | intro _
    | split
    | dsimp only

theorem keeps_State_mmCompute (s : State) (r : Run) (rows : List Nat)  (hK : Keeps sB s) : Keeps sB (State.mmCompute s r rows) := by
  unfold State.mmCompute
  repeat' first
    | with_reducible assumption
    | with_reducible apply keeps_foldl
    | with_reducible apply keeps_State_write
    | with_reducible apply keeps_State_putAccRow
    | intro _
    | split
    | dsimp only

theorem keeps_State_mmSend (s : State) (r : Run) (rows : List Nat)  (hK : Keeps sB s) : Keeps sB (State.mmSend s r rows) := by
  unfold State.mmSend
  repeat' first
    | with_reducible assumption
    | with_reducible apply keeps_State_emitRows
    | intro _
    | split
    | dsimp only

theorem keeps_State_drawSome (s : State) (z0 : Nat) (z1 : List Nat)  (hK : Keeps sB s) : Keeps sB (State.drawSome s z0 z1).1 := by
  induction z0 generalizing s z1 with
  | zero =>
    unfold State.drawSome
    repeat' first
      | with_reducible assumption
      | with_reducible apply ih
      | (refine pair_get ?_ (by assumption); with_reducible apply ih)
      | with_reducible apply keeps_State_drawn
      | intro _
      | split
      | dsimp only
  | succ n ih =>
    unfold State.drawSome
    repeat' first
      | with_reducible assumption
      | with_reducible apply ih
      | (refine pair_get ?_ (by assumption); with_reducible apply ih)
      | with_reducible apply keeps_State_drawn
      | intro _
      | split
      | dsimp only

theorem keeps_State_drawStrip (s : State) (r : Run)  (hK : Keeps sB s) : Keeps sB (State.drawStrip s r).1 := by
  unfold State.drawStrip
  repeat' first
    | with_reducible assumption
    | with_reducible apply keeps_State_drawn
    | intro _
    | split
    | dsimp only

theorem keeps_State_drawShadow (s : State) (r : Run) (rows : List Nat)  (hK : Keeps sB s) : Keeps sB (State.drawShadow s r rows).1 := by
  unfold State.drawShadow
  repeat' first
    | with_reducible assumption
    | (refine pair_get ?_ (by assumption); with_reducible apply keeps_State_drawSome)
    | with_reducible apply keeps_State_drawn
    | with_reducible apply keeps_State_drawSome
    | intro _
    | split
    | dsimp only

theorem keeps_State_mmOutput (s : State) (r : Run) (rows : List Nat)  (hK : Keeps sB s) : Keeps sB (State.mmOutput s r rows) := by
  unfold State.mmOutput
  repeat' first
    | with_reducible assumption
    | (refine pair_get ?_ (by assumption); with_reducible apply keeps_State_drawStrip)
    | (refine pair_get ?_ (by assumption); with_reducible apply keeps_State_drawShadow)
    | with_reducible apply keeps_State_modTile
    | with_reducible apply keeps_State_mmSend
    | with_reducible apply keeps_State_drawStrip
    | with_reducible apply keeps_State_drawShadow
    | with_reducible apply keeps_onTiles
    | intro _
    | split
    | dsimp only

theorem keeps_execMatmul (tile : Nat) (s : State)  (hK : Keeps sB s) : ∃ u, (execMatmul tile s) = .next u ∧ Keeps sB u := by
  unfold execMatmul
  refine ⟨_, rfl, ?_⟩
  repeat' first
    | with_reducible assumption
    | with_reducible apply keeps_State_log
    | with_reducible apply keeps_State_executed
    | with_reducible apply keeps_State_withInputs
    | with_reducible apply keeps_State_operate
    | with_reducible apply keeps_State_mmCompute
    | with_reducible apply keeps_State_mmOutput
    | intro _
    | split
    | dsimp only

theorem keeps_State_loraRow (s : State) (r : Run) (row : Nat)  (hK : Keeps sB s) : Keeps sB (State.loraRow s r row) := by
  unfold State.loraRow
  repeat' first
    | with_reducible assumption
    | with_reducible apply keeps_State_count
    | with_reducible apply keeps_State_putAccRow
    | intro _
    | split
    | dsimp only

theorem keeps_execLora (tile : Nat) (s : State)  (hK : Keeps sB s) : ∃ u, (execLora tile s) = .next u ∧ Keeps sB u := by
  unfold execLora
  refine ⟨_, rfl, ?_⟩
  repeat' first
    | with_reducible assumption
    | with_reducible apply keeps_foldl
    | with_reducible apply keeps_State_executed
    | with_reducible apply keeps_State_withInputs
    | with_reducible apply keeps_State_operate
    | with_reducible apply keeps_State_loraRow
    | intro _
    | split
    | dsimp only

end Sys2Proof.Laws
end

