-- ==== Sys2Proof/Laws/KeepsAttnOps.lean ====
section
/-! SUPPORT. What the operations of Machine/AttnOps.lean keep (Laws/Keeps.lean says what that is). -/

namespace Sys2Proof.Laws

open Sys2Proof Sys2Proof.Machine

variable {sB : State}

theorem keeps_State_appendRow (s : State) (r : Run) (g : Nat) (q : Pool) (attn : List Nat) (th : List Word32) (row : Nat)  (hK : Keeps sB s) : Keeps sB (State.appendRow s r g q attn th row) := by
  unfold State.appendRow
  repeat' first
    | with_reducible assumption
    | with_reducible apply keeps_foldl
    | with_reducible apply keeps_State_count
    | with_reducible apply keeps_State_putKvRow
    | intro _
    | split
    | dsimp only

theorem keeps_execKvAppend (tile : Nat) (s : State)  (hK : Keeps sB s) : ∃ u, (execKvAppend tile s) = .next u ∧ Keeps sB u := by
  unfold execKvAppend
  refine ⟨_, rfl, ?_⟩
  repeat' first
    | with_reducible assumption
    | with_reducible apply keeps_foldl
    | with_reducible apply keeps_State_stepFault
    | with_reducible apply keeps_State_executed
    | with_reducible apply keeps_State_withInputs
    | with_reducible apply keeps_State_operate
    | with_reducible apply keeps_State_appendRow
    | intro _
    | split
    | dsimp only

theorem keeps_execAttn (tile : Nat) (s : State)  (hK : Keeps sB s) : ∃ u, (execAttn tile s) = .next u ∧ Keeps sB u := by
  unfold execAttn
  refine ⟨_, rfl, ?_⟩
  repeat' first
    | with_reducible assumption
    | with_reducible apply keeps_State_count
    | with_reducible apply keeps_State_stepFault
    | with_reducible apply keeps_State_executed
    | with_reducible apply keeps_State_withInputs
    | with_reducible apply keeps_State_operate
    | with_reducible apply keeps_State_emitRows
    | intro _
    | split
    | dsimp only

end Sys2Proof.Laws
end

