-- ==== Sys2Proof/Laws/KeepsVectorOps.lean ====
section
/-! SUPPORT. What the operations of Machine/VectorOps.lean keep (Laws/Keeps.lean says what that is). -/

namespace Sys2Proof.Laws

open Sys2Proof Sys2Proof.Machine

variable {sB : State}

theorem keeps_execNorm (tile : Nat) (s : State)  (hK : Keeps sB s) : ∃ u, (execNorm tile s) = .next u ∧ Keeps sB u := by
  unfold execNorm
  refine ⟨_, rfl, ?_⟩
  repeat' first
    | with_reducible assumption
    | with_reducible apply keeps_State_executed
    | with_reducible apply keeps_State_withInputs
    | with_reducible apply keeps_State_operate
    | with_reducible apply keeps_State_emitRows
    | intro _
    | split
    | dsimp only

theorem keeps_execElemwise (tile : Nat) (s : State)  (hK : Keeps sB s) : ∃ u, (execElemwise tile s) = .next u ∧ Keeps sB u := by
  unfold execElemwise
  refine ⟨_, rfl, ?_⟩
  repeat' first
    | with_reducible assumption
    | with_reducible apply keeps_State_executed
    | with_reducible apply keeps_State_withInputs
    | with_reducible apply keeps_State_operate
    | with_reducible apply keeps_State_emitRows
    | intro _
    | split
    | dsimp only

theorem keeps_execRoute (tile : Nat) (s : State)  (hK : Keeps sB s) : ∃ u, (execRoute tile s) = .next u ∧ Keeps sB u := by
  unfold execRoute
  refine ⟨_, rfl, ?_⟩
  repeat' first
    | with_reducible assumption
    | with_reducible apply keeps_State_count
    | with_reducible apply keeps_State_executed
    | with_reducible apply keeps_State_withInputs
    | with_reducible apply keeps_State_operate
    | with_reducible apply keeps_State_emitBytes
    | intro _
    | split
    | dsimp only

theorem keeps_execSkipGate (tile : Nat) (s : State)  (hK : Keeps sB s) : ∃ u, (execSkipGate tile s) = .next u ∧ Keeps sB u := by
  unfold execSkipGate
  refine ⟨_, rfl, ?_⟩
  repeat' first
    | with_reducible assumption
    | with_reducible apply keeps_State_modStep
    | with_reducible apply keeps_State_executed
    | with_reducible apply keeps_State_withInputs
    | with_reducible apply keeps_State_operate
    | with_reducible apply keeps_State_emitBytes
    | intro _
    | split
    | dsimp only

theorem keeps_execCombine (tile : Nat) (s : State)  (hK : Keeps sB s) : ∃ u, (execCombine tile s) = .next u ∧ Keeps sB u := by
  unfold execCombine
  refine ⟨_, rfl, ?_⟩
  repeat' first
    | with_reducible assumption
    | with_reducible apply keeps_State_executed
    | with_reducible apply keeps_State_withInputs
    | with_reducible apply keeps_State_operate
    | with_reducible apply keeps_State_emitRows
    | intro _
    | split
    | dsimp only

end Sys2Proof.Laws
end

