-- ==== Sys2Proof/Laws/KeepsMoverOps.lean ====
section
/-! SUPPORT. What the operations of Machine/MoverOps.lean keep (Laws/Keeps.lean says what that is). -/

namespace Sys2Proof.Laws

open Sys2Proof Sys2Proof.Machine

variable {sB : State}

theorem keeps_State_sendSlot (s : State) (r : Run) (row slot expert owner : Nat) (b : Bytes)  (hK : Keeps sB s) : Keeps sB (State.sendSlot s r row slot expert owner b) := by
  unfold State.sendSlot
  repeat' first
    | with_reducible assumption
    | with_reducible apply keeps_foldl
    | with_reducible apply keeps_State_count
    | with_reducible apply keeps_State_sendPacket
    | with_reducible apply keeps_State_landSlot
    | intro _
    | split
    | dsimp only

theorem keeps_execDispatch (tile : Nat) (s : State)  (hK : Keeps sB s) : ∃ u, (execDispatch tile s) = .next u ∧ Keeps sB u := by
  unfold execDispatch
  refine ⟨_, rfl, ?_⟩
  repeat' first
    | with_reducible assumption
    | with_reducible apply keeps_foldl
    | with_reducible apply keeps_State_count
    | with_reducible apply keeps_State_sendPacket
    | with_reducible apply keeps_State_putDisp
    | with_reducible apply keeps_State_executed
    | with_reducible apply keeps_State_withInputs
    | with_reducible apply keeps_State_operate
    | with_reducible apply keeps_State_noteEnd
    | with_reducible apply keeps_State_checkResolved
    | with_reducible apply keeps_State_sendSlot
    | intro _
    | split
    | dsimp only

theorem keeps_State_putAt (s : State) (r : Run) (i : Nat) (b : Blk)  (hK : Keeps sB s) : Keeps sB (State.putAt s r i b) := by
  unfold State.putAt
  repeat' first
    | with_reducible assumption
    | with_reducible apply keeps_foldl
    | with_reducible apply keeps_State_landBlock
    | with_reducible apply keeps_State_sendBlock
    | intro _
    | split
    | dsimp only

theorem keeps_State_srcInputs (s : State) (r : Run) (src len : Nat) (range : Bool) (f : State → State) (hf : ∀ a0, Keeps sB a0 → Keeps sB (f a0)) (hK : Keeps sB s) : Keeps sB (State.srcInputs s r src len range f) := by
  unfold State.srcInputs
  repeat' first
    | with_reducible assumption
    | with_reducible apply hf
    | with_reducible apply keeps_State_withInputs
    | intro _
    | split
    | dsimp only

theorem keeps_State_readRemote (s : State) (r : Run) (i a : Nat)  (hK : Keeps sB s) : Keeps sB (State.readRemote s r i a) := by
  unfold State.readRemote
  repeat' first
    | with_reducible assumption
    | with_reducible apply keeps_State_count
    | with_reducible apply keeps_State_sendPacket
    | with_reducible apply keeps_State_fillLine
    | with_reducible apply keeps_State_putAt
    | with_reducible apply keeps_onFab
    | intro _
    | split
    | dsimp only

theorem keeps_execMove (tile : Nat) (s : State)  (hK : Keeps sB s) : ∃ u, (execMove tile s) = .next u ∧ Keeps sB u := by
  unfold execMove
  refine ⟨_, rfl, ?_⟩
  repeat' first
    | with_reducible assumption
    | with_reducible apply keeps_foldl
    | with_reducible apply keeps_State_count
    | with_reducible apply keeps_State_stepFault
    | with_reducible apply keeps_State_rangeFault
    | with_reducible apply keeps_State_executed
    | with_reducible apply keeps_State_operate
    | with_reducible apply keeps_State_putAt
    | with_reducible apply keeps_State_srcInputs
    | with_reducible apply keeps_State_readRemote
    | with_reducible apply keeps_onFab
    | intro _
    | split
    | dsimp only

theorem keeps_State_applyRed (s : State) (u : UnitId) (step op dch addr : Nat) (data : Bytes)  (hK : Keeps sB s) : Keeps sB (State.applyRed s u step op dch addr data) := by
  unfold State.applyRed
  repeat' first
    | with_reducible assumption
    | with_reducible apply keeps_State_count
    | with_reducible apply keeps_State_memUe
    | with_reducible apply keeps_State_addMarks
    | with_reducible apply keeps_State_landBlock
    | with_reducible apply keeps_State_rangeFault
    | with_reducible apply keeps_onFab
    | intro _
    | split
    | dsimp only

theorem keeps_execFabricRed (tile : Nat) (s : State)  (hK : Keeps sB s) : ∃ u, (execFabricRed tile s) = .next u ∧ Keeps sB u := by
  unfold execFabricRed
  refine ⟨_, rfl, ?_⟩
  repeat' first
    | with_reducible assumption
    | with_reducible apply keeps_foldl
    | with_reducible apply keeps_State_sendPacket
    | with_reducible apply keeps_State_stepFault
    | with_reducible apply keeps_State_dropLine
    | with_reducible apply keeps_State_executed
    | with_reducible apply keeps_State_operate
    | with_reducible apply keeps_State_srcInputs
    | with_reducible apply keeps_State_applyRed
    | intro _
    | split
    | dsimp only

theorem keeps_State_landMcast (s : State) (u : UnitId) (k : Packet)  (hK : Keeps sB s) : Keeps sB (State.landMcast s u k) := by
  unfold State.landMcast
  repeat' first
    | with_reducible assumption
    | with_reducible apply keeps_State_count
    | with_reducible apply keeps_State_addMarks
    | with_reducible apply keeps_State_landBlock
    | with_reducible apply keeps_State_rangeFault
    | with_reducible apply keeps_State_fillSpace
    | intro _
    | split
    | dsimp only

theorem keeps_State_mcastAt (s : State) (u : UnitId) (came : Option Nat) (k : Packet)  (hK : Keeps sB s) : Keeps sB (State.mcastAt s u came k) := by
  unfold State.mcastAt
  repeat' first
    | with_reducible assumption
    | with_reducible apply keeps_foldl
    | with_reducible apply keeps_State_sendOn
    | with_reducible apply keeps_State_landMcast
    | intro _
    | split
    | dsimp only

theorem keeps_execMcast (tile : Nat) (s : State)  (hK : Keeps sB s) : ∃ u, (execMcast tile s) = .next u ∧ Keeps sB u := by
  unfold execMcast
  refine ⟨_, rfl, ?_⟩
  repeat' first
    | with_reducible assumption
    | with_reducible apply keeps_foldl
    | with_reducible apply keeps_State_sendOn
    | with_reducible apply keeps_State_dropLine
    | with_reducible apply keeps_State_executed
    | with_reducible apply keeps_State_operate
    | with_reducible apply keeps_State_srcInputs
    | with_reducible apply keeps_State_mcastAt
    | intro _
    | split
    | dsimp only

theorem keeps_execEmbed (tile : Nat) (s : State)  (hK : Keeps sB s) : ∃ u, (execEmbed tile s) = .next u ∧ Keeps sB u := by
  unfold execEmbed
  refine ⟨_, rfl, ?_⟩
  repeat' first
    | with_reducible assumption
    | with_reducible apply keeps_State_executed
    | with_reducible apply keeps_State_withInputs
    | with_reducible apply keeps_State_operate
    | with_reducible apply keeps_State_emitRows
    | intro _
    | split
    | dsimp only

theorem keeps_State_sendLogits (s : State) (r : Run) (id row lo : Nat) (z : List Word32)  (hK : Keeps sB s) : Keeps sB (State.sendLogits s r id row lo z) := by
  unfold State.sendLogits
  repeat' first
    | with_reducible assumption
    | with_reducible apply keeps_State_emit
    | with_reducible apply keeps_onSrv
    | intro _
    | split
    | dsimp only

theorem keeps_execSample (tile : Nat) (s : State)  (hK : Keeps sB s) : ∃ u, (execSample tile s) = .next u ∧ Keeps sB u := by
  unfold execSample
  refine ⟨_, rfl, ?_⟩
  repeat' first
    | with_reducible assumption
    | with_reducible apply keeps_foldl
    | with_reducible apply keeps_State_executed
    | with_reducible apply keeps_State_withInputs
    | with_reducible apply keeps_State_operate
    | with_reducible apply keeps_State_sendLogits
    | intro _
    | split
    | dsimp only

end Sys2Proof.Laws
end

