-- ==== Sys2Proof/Laws/KeepsCollective.lean ====
section
/-! SUPPORT. What the operations of Machine/Collective.lean keep (Laws/Keeps.lean says what that is). -/

namespace Sys2Proof.Laws

open Sys2Proof Sys2Proof.Machine

variable {sB : State}

theorem keeps_State_putColl (s : State) (c : CollRec)  (hK : Keeps sB s) : Keeps sB (State.putColl s c) := by
  unfold State.putColl
  repeat' first
    | with_reducible assumption
    | with_reducible apply keeps_onFab
    | intro _
    | split
    | dsimp only

theorem keeps_State_addCollRoom (s : State) (step tile m n : Nat)  (hK : Keeps sB s) : Keeps sB (State.addCollRoom s step tile m n) := by
  unfold State.addCollRoom
  repeat' first
    | with_reducible assumption
    | with_reducible apply keeps_onFab
    | intro _
    | split
    | dsimp only

theorem keeps_State_useCollRoom (s : State) (step tile m : Nat)  (hK : Keeps sB s) : Keeps sB (State.useCollRoom s step tile m) := by
  unfold State.useCollRoom
  repeat' first
    | with_reducible assumption
    | with_reducible apply keeps_onFab
    | intro _
    | split
    | dsimp only

theorem keeps_State_grantRoom (s : State) (r : Run) (c : Coll)  (hK : Keeps sB s) : Keeps sB (State.grantRoom s r c) := by
  unfold State.grantRoom
  repeat' first
    | with_reducible assumption
    | with_reducible apply keeps_foldl
    | with_reducible apply keeps_State_sendPacket
    | intro _
    | split
    | dsimp only

theorem keeps_State_sendSeg (s : State) (r : Run) (kind k : Nat) (x : Nat × Seg)  (hK : Keeps sB s) : Keeps sB (State.sendSeg s r kind k x) := by
  unfold State.sendSeg
  repeat' first
    | with_reducible assumption
    | with_reducible apply keeps_State_sendPacket
    | with_reducible apply keeps_State_putColl
    | with_reducible apply keeps_State_useCollRoom
    | intro _
    | split
    | dsimp only

theorem keeps_State_collAdvance (s : State) (r : Run)  (hK : Keeps sB s) : Keeps sB (State.collAdvance s r) := by
  unfold State.collAdvance
  repeat' first
    | with_reducible assumption
    | with_reducible apply keeps_foldl
    | with_reducible apply keeps_State_count
    | with_reducible apply keeps_State_putBlocks
    | with_reducible apply keeps_State_executed
    | with_reducible apply keeps_State_sendSeg
    | with_reducible apply keeps_onFab
    | with_reducible apply keeps_onPwr
    | intro _
    | split
    | dsimp only

theorem keeps_execCollective (tile : Nat) (s : State)  (hK : Keeps sB s) : ∃ u, (execCollective tile s) = .next u ∧ Keeps sB u := by
  unfold execCollective
  refine ⟨_, rfl, ?_⟩
  repeat' first
    | with_reducible assumption
    | with_reducible apply keeps_State_count
    | with_reducible apply keeps_State_operate
    | with_reducible apply keeps_State_srcInputs
    | with_reducible apply keeps_State_putColl
    | with_reducible apply keeps_State_grantRoom
    | with_reducible apply keeps_State_collAdvance
    | intro _
    | split
    | dsimp only

theorem keeps_State_collGo (s : State) (tile : Nat)  (hK : Keeps sB s) : Keeps sB (State.collGo s tile) := by
  unfold State.collGo
  repeat' first
    | with_reducible assumption
    | with_reducible apply keeps_State_operate
    | with_reducible apply keeps_State_collAdvance
    | intro _
    | split
    | dsimp only

theorem keeps_State_takeSeg (s : State) (k : Packet)  (hK : Keeps sB s) : Keeps sB (State.takeSeg s k) := by
  unfold State.takeSeg
  repeat' first
    | with_reducible assumption
    | with_reducible apply keeps_State_putColl
    | with_reducible apply keeps_State_collGo
    | intro _
    | split
    | dsimp only

theorem keeps_State_takeCredit (s : State) (k : Packet)  (hK : Keeps sB s) : Keeps sB (State.takeCredit s k) := by
  unfold State.takeCredit
  repeat' first
    | with_reducible assumption
    | with_reducible apply keeps_State_addCredits
    | with_reducible apply keeps_State_addCollRoom
    | with_reducible apply keeps_State_collGo
    | intro _
    | split
    | dsimp only

end Sys2Proof.Laws
end

