-- ==== Sys2Proof/Laws/KeepsDescriptors.lean ====
section
/-! SUPPORT. What the operations of Machine/Descriptors.lean keep (Laws/Keeps.lean says what that is). -/

namespace Sys2Proof.Laws

open Sys2Proof Sys2Proof.Machine

variable {sB : State}

theorem keeps_State_takeProgram (s : State) (l : Nat)  (hK : Keeps sB s) : Keeps sB (State.takeProgram s l) := by
  unfold State.takeProgram
  repeat' first
    | with_reducible assumption
    | with_reducible apply keeps_foldl
    | with_reducible apply keeps_State_modTile
    | with_reducible apply keeps_State_giveList
    | intro _
    | split
    | dsimp only

theorem keeps_State_countOver (s : State) (t : Step)  (hK : Keeps sB s) : Keeps sB (State.countOver s t) := by
  unfold State.countOver
  repeat' first
    | with_reducible assumption
    | with_reducible apply keeps_foldl
    | with_reducible apply keeps_State_stall
    | intro _
    | split
    | dsimp only

theorem keeps_State_takePromotions (s : State)  (hK : Keeps sB s) : Keeps sB (State.takePromotions s) := by
  unfold State.takePromotions
  repeat' first
    | with_reducible assumption
    | with_reducible apply keeps_foldl
    | with_reducible apply keeps_State_modSess
    | with_reducible apply keeps_onSteps
    | with_reducible apply keeps_onSrv
    | with_reducible apply keeps_onFab
    | intro _
    | split
    | dsimp only

theorem keeps_State_pruneDisp (s : State) (n : Nat)  (hK : Keeps sB s) : Keeps sB (State.pruneDisp s n) := by
  unfold State.pruneDisp
  repeat' first
    | with_reducible assumption
    | with_reducible apply keeps_onFab
    | intro _
    | split
    | dsimp only

theorem keeps_State_enterStep (s : State) (t : Step)  (hK : Keeps sB s) : Keeps sB (State.enterStep s t) := by
  unfold State.enterStep
  repeat' first
    | with_reducible assumption
    | with_reducible apply keeps_State_modStep
    | with_reducible apply keeps_State_countOver
    | with_reducible apply keeps_State_takePromotions
    | with_reducible apply keeps_State_pruneDisp
    | with_reducible apply keeps_onMem
    | with_reducible apply keeps_onSteps
    | with_reducible apply keeps_onPwr
    | (show Memory.wf _ = true; first | exact mem_wf_nil | exact mem_wf_filter _ _ (by assumption) | exact mem_wf_write _ _ _ (by assumption) | exact mem_wf_clear _ _ _ (by assumption) | assumption)
    | intro _
    | split
    | dsimp only

theorem keeps_State_enterPhase (s : State) (l n ph : Nat)  (hK : Keeps sB s) : Keeps sB (State.enterPhase s l n ph) := by
  unfold State.enterPhase
  repeat' first
    | with_reducible assumption
    | with_reducible apply keeps_State_traceRec
    | with_reducible apply keeps_State_modStep
    | with_reducible apply keeps_State_shareBudget
    | with_reducible apply keeps_State_enterStep
    | intro _
    | split
    | dsimp only

theorem keeps_State_subtract (s : State) (l ph i : Nat)  (hK : Keeps sB s) : Keeps sB (State.subtract s l ph i) := by
  unfold State.subtract
  repeat' first
    | with_reducible assumption
    | with_reducible apply keeps_foldl
    | with_reducible apply keeps_State_modChan
    | with_reducible apply keeps_State_reserve
    | with_reducible apply keeps_onTiles
    | intro _
    | split
    | dsimp only

theorem keeps_State_stageRun (s : State) (l ph i : Nat)  (hK : Keeps sB s) : Keeps sB (State.stageRun s l ph i) := by
  unfold State.stageRun
  repeat' first
    | with_reducible assumption
    | with_reducible apply keeps_State_modTile
    | with_reducible apply keeps_State_stage
    | intro _
    | split
    | dsimp only

theorem keeps_State_noteSlack (s : State) (l ph i : Nat)  (hK : Keeps sB s) : Keeps sB (State.noteSlack s l ph i) := by
  unfold State.noteSlack
  repeat' first
    | with_reducible assumption
    | with_reducible apply keeps_foldl
    | with_reducible apply keeps_onPwr
    | intro _
    | split
    | dsimp only

theorem keeps_State_startDesc (s : State) (l i : Nat)  (hK : Keeps sB s) : Keeps sB (State.startDesc s l i) := by
  unfold State.startDesc
  repeat' first
    | with_reducible assumption
    | with_reducible apply keeps_State_vector
    | with_reducible apply keeps_State_traceRec
    | with_reducible apply keeps_State_modTile
    | with_reducible apply keeps_State_enterPhase
    | with_reducible apply keeps_State_subtract
    | with_reducible apply keeps_State_stageRun
    | with_reducible apply keeps_State_noteSlack
    | intro _
    | split
    | dsimp only

theorem keeps_State_startOn (s : State) (l unit : Nat)  (hK : Keeps sB s) : Keeps sB (State.startOn s l unit) := by
  unfold State.startOn
  repeat' first
    | with_reducible assumption
    | with_reducible apply keeps_State_startDesc
    | intro _
    | split
    | dsimp only

theorem keeps_execDescriptorStart (tile : Nat) (s : State)  (hK : Keeps sB s) : ∃ u, (execDescriptorStart tile s) = .next u ∧ Keeps sB u := by
  unfold execDescriptorStart
  refine ⟨_, rfl, ?_⟩
  repeat' first
    | with_reducible assumption
    | with_reducible apply keeps_foldl
    | with_reducible apply keeps_State_takeProgram
    | with_reducible apply keeps_State_startOn
    | intro _
    | split
    | dsimp only

theorem keeps_State_raiseMarks (s : State) (l n ph i : Nat)  (hK : Keeps sB s) : Keeps sB (State.raiseMarks s l n ph i) := by
  unfold State.raiseMarks
  repeat' first
    | with_reducible assumption
    | with_reducible apply keeps_foldl
    | with_reducible apply keeps_State_addMarks
    | with_reducible apply keeps_State_fillSpace
    | intro _
    | split
    | dsimp only

theorem keeps_State_advanceChain (s : State) (l i : Nat)  (hK : Keeps sB s) : Keeps sB (State.advanceChain s l i) := by
  unfold State.advanceChain
  repeat' first
    | with_reducible assumption
    | with_reducible apply keeps_State_modTile
    | with_reducible apply keeps_State_chainDone
    | intro _
    | split
    | dsimp only

theorem keeps_State_finishDesc (s : State) (l n ph i : Nat)  (hK : Keeps sB s) : Keeps sB (State.finishDesc s l n ph i) := by
  unfold State.finishDesc
  repeat' first
    | with_reducible assumption
    | with_reducible apply keeps_State_freeReads
    | with_reducible apply keeps_State_raiseMarks
    | with_reducible apply keeps_State_advanceChain
    | intro _
    | split
    | dsimp only

theorem keeps_execDescriptorComplete (tile unit : Nat) (s : State)  (hK : Keeps sB s) : ∃ u, (execDescriptorComplete tile unit s) = .next u ∧ Keeps sB u := by
  unfold execDescriptorComplete
  refine ⟨_, rfl, ?_⟩
  repeat' first
    | with_reducible assumption
    | with_reducible apply keeps_State_traceRec
    | with_reducible apply keeps_State_modTile
    | with_reducible apply keeps_State_executed
    | with_reducible apply keeps_State_finishDesc
    | intro _
    | split
    | dsimp only

theorem keeps_State_release (s : State) (r : Run) (h : Held)  (hK : Keeps sB s) : Keeps sB (State.release s r h) := by
  unfold State.release
  repeat' first
    | with_reducible assumption
    | with_reducible apply keeps_State_modTile
    | with_reducible apply keeps_State_mmSend
    | with_reducible apply keeps_State_finishDesc
    | intro _
    | split
    | dsimp only

theorem keeps_State_putHeld (s : State) (l : Nat) (h : Held)  (hK : Keeps sB s) : Keeps sB (State.putHeld s l h) := by
  unfold State.putHeld
  repeat' first
    | with_reducible assumption
    | with_reducible apply keeps_State_modTile
    | intro _
    | split
    | dsimp only

theorem keeps_State_leavePhase (s : State) (l n ph : Nat)  (hK : Keeps sB s) : Keeps sB (State.leavePhase s l n ph) := by
  unfold State.leavePhase
  repeat' first
    | with_reducible assumption
    | with_reducible apply keeps_State_traceRec
    | with_reducible apply keeps_State_modStep
    | intro _
    | split
    | dsimp only

theorem keeps_State_leaveStep (s : State) (n : Nat)  (hK : Keeps sB s) : Keeps sB (State.leaveStep s n) := by
  unfold State.leaveStep
  repeat' first
    | with_reducible assumption
    | with_reducible apply keeps_foldl
    | with_reducible apply keeps_State_stall
    | with_reducible apply keeps_State_sendLead
    | with_reducible apply keeps_State_takeNext
    | with_reducible apply keeps_State_modStep
    | with_reducible apply keeps_State_pruneSteps
    | with_reducible apply keeps_State_learnStep
    | with_reducible apply keeps_State_noteReport
    | with_reducible apply keeps_onTiles
    | with_reducible apply keeps_onSteps
    | with_reducible apply keeps_onPwr
    | intro _
    | split
    | dsimp only

theorem keeps_execPhaseBoundary (tile : Nat) (s : State)  (hK : Keeps sB s) : ∃ u, (execPhaseBoundary tile s) = .next u ∧ Keeps sB u := by
  unfold execPhaseBoundary
  refine ⟨_, rfl, ?_⟩
  repeat' first
    | with_reducible assumption
    | with_reducible apply keeps_State_noteState
    | with_reducible apply keeps_State_boundary
    | with_reducible apply keeps_State_modTile
    | with_reducible apply keeps_State_chanFault
    | with_reducible apply keeps_State_leavePhase
    | with_reducible apply keeps_State_leaveStep
    | with_reducible apply keeps_onTiles
    | intro _
    | split
    | dsimp only

theorem keeps_execMoeReserveExpiry (s : State)  (hK : Keeps sB s) : ∃ u, (execMoeReserveExpiry s) = .next u ∧ Keeps sB u := by
  unfold execMoeReserveExpiry
  refine ⟨_, rfl, ?_⟩
  repeat' first
    | with_reducible assumption
    | with_reducible apply keeps_foldl
    | with_reducible apply keeps_onTiles
    | intro _
    | split
    | dsimp only

theorem keeps_execMarkTimeout (tile : Nat) (s : State)  (hK : Keeps sB s) : ∃ u, (execMarkTimeout tile s) = .next u ∧ Keeps sB u := by
  unfold execMarkTimeout
  refine ⟨_, rfl, ?_⟩
  repeat' first
    | with_reducible assumption
    | with_reducible apply keeps_State_noteState
    | with_reducible apply keeps_State_chanFault
    | intro _
    | split
    | dsimp only

theorem keeps_execGrantMoveDone (group session chunk : Nat) (s : State)  (hK : Keeps sB s) : ∃ u, (execGrantMoveDone group session chunk s) = .next u ∧ Keeps sB u := by
  unfold execGrantMoveDone
  refine ⟨_, rfl, ?_⟩
  repeat' first
    | with_reducible assumption
    | with_reducible apply keeps_State_stall
    | with_reducible apply keeps_State_finishMove
    | with_reducible apply keeps_State_csInsert
    | intro _
    | split
    | dsimp only

end Sys2Proof.Laws
end

