-- ==== Sys2Proof/Laws/KeepsFirmware.lean ====
section
/-! SUPPORT. What the operations of Machine/Firmware.lean keep (Laws/Keeps.lean says what that is). -/

namespace Sys2Proof.Laws

open Sys2Proof Sys2Proof.Machine

variable {sB : State}

theorem keeps_execOpFwHeader (q : Req) (s : State) (hK : Keeps sB s) : ∃ u, (execOpFwHeader q s) = .next u ∧ Keeps sB u := by
  unfold execOpFwHeader
  refine ⟨_, rfl, ?_⟩
  refine keeps_State_runOp _ _ _ _ _ _ (fun a c ha => ?_) hK
  refine keeps_State_objAct _ _ _ _ ?_ ha
  split
  · trivial
  · split
    · trivial
    · exact keeps_onFw _ _ (fun _ => Nat.le_refl _) (keeps_State_putBank _ _ _ ha)

theorem keeps_State_fwPart (s : State) (b : Bool) (off : Nat) (bytes : Bytes)  (hK : Keeps sB s) : Keeps sB (State.fwPart s b off bytes).1 := by
  unfold State.fwPart
  repeat' first
    | with_reducible assumption
    | with_reducible apply keeps_State_event
    | with_reducible apply keeps_State_putBank
    | intro _
    | split
    | dsimp only

theorem keeps_execOpFwChunk (q : Req) (s : State)  (hK : Keeps sB s) : ∃ u, (execOpFwChunk q s) = .next u ∧ Keeps sB u := by
  unfold execOpFwChunk
  refine ⟨_, rfl, ?_⟩
  repeat' first
    | with_reducible assumption
    | with_reducible exact act_refuse _ _
    | with_reducible exact act_wait
    | with_reducible apply act_done
    | with_reducible apply act_long
    | (refine pair_get ?_ (by assumption); with_reducible apply keeps_State_fwPart)
    | with_reducible apply keeps_State_runOp
    | with_reducible apply keeps_State_objAct
    | with_reducible apply keeps_State_fwPart
    | intro _
    | split
    | dsimp only

theorem keeps_State_fwDmaDone (s : State) (r : Running) (result : Nat ⊕ Bytes)  (hK : Keeps sB s) : Keeps sB (State.fwDmaDone s r result) := by
  unfold State.fwDmaDone
  repeat' first
    | with_reducible assumption
    | (refine pair_get ?_ (by assumption); with_reducible apply keeps_State_fwPart)
    | with_reducible apply keeps_State_finishRun
    | with_reducible apply keeps_State_fwPart
    | intro _
    | split
    | dsimp only

theorem keeps_execDmaReadDone (port : MPort) (slot : Nat) (result : Nat ⊕ Bytes) (s : State)  (hK : Keeps sB s) : ∃ u, (execDmaReadDone port slot result s) = .next u ∧ Keeps sB u := by
  unfold execDmaReadDone
  refine ⟨_, rfl, ?_⟩
  repeat' first
    | with_reducible assumption
    | with_reducible apply keeps_State_shardDmaDone
    | with_reducible apply keeps_State_fwDmaDone
    | intro _
    | split
    | dsimp only

theorem keeps_State_setTrial (s : State) (b : Bool) (window : Nat)  (hK : Keeps sB s) : Keeps sB (State.setTrial s b window) := by
  unfold State.setTrial
  repeat' first
    | with_reducible assumption
    | with_reducible apply keeps_onFw
    | (show _ ≤ _; exact Nat.le_refl _)
    | intro _
    | split
    | dsimp only

theorem keeps_State_activated (s : State) (b : Bool) (mode : Nat)  (hK : Keeps sB s) : Keeps sB (State.activated s b mode) := by
  unfold State.activated
  repeat' first
    | with_reducible assumption
    | with_reducible apply keeps_State_event
    | intro _
    | split
    | dsimp only

theorem keeps_execFwActivateAtReset (q : Req) (s : State)  (hK : Keeps sB s) : ∃ u, (execFwActivateAtReset q s) = .next u ∧ Keeps sB u := by
  unfold execFwActivateAtReset
  refine ⟨_, rfl, ?_⟩
  repeat' first
    | with_reducible assumption
    | with_reducible exact act_refuse _ _
    | with_reducible exact act_wait
    | with_reducible apply act_done
    | with_reducible apply act_long
    | with_reducible apply keeps_State_runOp
    | with_reducible apply keeps_State_objAct
    | with_reducible apply keeps_State_setTrial
    | with_reducible apply keeps_State_activated
    | intro _
    | split
    | dsimp only

theorem keeps_execFwActivateWarm (q : Req) (s : State)  (hK : Keeps sB s) : ∃ u, (execFwActivateWarm q s) = .next u ∧ Keeps sB u := by
  unfold execFwActivateWarm
  refine ⟨_, rfl, ?_⟩
  repeat' first
    | with_reducible assumption
    | with_reducible exact act_refuse _ _
    | with_reducible exact act_wait
    | with_reducible apply act_done
    | with_reducible apply act_long
    | with_reducible apply keeps_State_runOp
    | with_reducible apply keeps_State_objAct
    | with_reducible apply keeps_State_setTrial
    | with_reducible apply keeps_State_activated
    | with_reducible apply keeps_onMbox
    | intro _
    | split
    | dsimp only

theorem keeps_execFwActivateLive (q : Req) (s : State)  (hK : Keeps sB s) : ∃ u, (execFwActivateLive q s) = .next u ∧ Keeps sB u := by
  unfold execFwActivateLive
  refine ⟨_, rfl, ?_⟩
  repeat' first
    | with_reducible assumption
    | with_reducible exact act_refuse _ _
    | with_reducible exact act_wait
    | with_reducible apply act_done
    | with_reducible apply act_long
    | with_reducible apply keeps_State_drawn
    | with_reducible apply keeps_State_runOp
    | with_reducible apply keeps_State_objAct
    | with_reducible apply keeps_State_setTrial
    | with_reducible apply keeps_onFw
    | (show _ ≤ _; exact Nat.le_refl _)
    | intro _
    | split
    | dsimp only

theorem keeps_execHandoverBlackout (s : State)  (hK : Keeps sB s) : ∃ u, (execHandoverBlackout s) = .next u ∧ Keeps sB u := by
  unfold execHandoverBlackout
  refine ⟨_, rfl, ?_⟩
  repeat' first
    | with_reducible assumption
    | with_reducible apply keeps_State_noteState
    | with_reducible apply keeps_onFw
    | with_reducible apply keeps_onMbox
    | (show _ ≤ _; exact Nat.le_refl _)
    | intro _
    | split
    | dsimp only

theorem keeps_execHandoverDone (s : State)  (hK : Keeps sB s) : ∃ u, (execHandoverDone s) = .next u ∧ Keeps sB u := by
  unfold execHandoverDone
  refine ⟨_, rfl, ?_⟩
  repeat' first
    | with_reducible assumption
    | with_reducible apply keeps_State_raiseIrq
    | with_reducible apply keeps_State_finishAt
    | with_reducible apply keeps_State_putBank
    | with_reducible apply keeps_State_activated
    | with_reducible apply keeps_onClock
    | with_reducible apply keeps_onSec
    | with_reducible apply keeps_onFw
    | with_reducible apply keeps_onMbox
    | (show SecKeeps _ _; exact SecKeeps.of_same rfl rfl rfl rfl (by first | exact Or.inl rfl | exact Or.inr rfl))
    | (show _ ≤ _; exact Nat.le_refl _)
    | (show _ = (_ : Nat); rfl)
    | intro _
    | split
    | dsimp only

theorem keeps_execOpHealthConfirm (q : Req) (s : State) (hK : Keeps sB s) : ∃ u, (execOpHealthConfirm q s) = .next u ∧ Keeps sB u := by
  unfold execOpHealthConfirm
  refine ⟨_, rfl, ?_⟩
  refine keeps_State_runOp _ _ _ _ _ _ (fun a c ha => ?_) hK
  dsimp only
  split
  · trivial
  · split
    · trivial
    · refine keeps_State_event _ _ _ _ _ ?_
      have h2 : ∀ (x : State) (f : Firmware → Firmware), Keeps sB x → (∀ k, k.minSvn ≤ (f k).minSvn) →
          Keeps sB (if (x.onFw f).cfg.migrated then ((x.onFw f).writeConfig).onCfg fun g => { g with migrated := false }
            else x.onFw f) := by
        intro x f hx hf
        split
        · exact keeps_onCfg _ _ (keeps_State_writeConfig _ (keeps_onFw _ _ hf hx))
        · exact keeps_onFw _ _ hf hx
      refine h2 _ _ (keeps_State_putBank _ _ _ (keeps_State_putBank _ _ _ ha)) (fun k => ?_)
      dsimp only
      split
      · exact Nat.le_max_left _ _
      · exact Nat.le_refl _

theorem keeps_State_fallbackReset (s : State)  (hK : Keeps sB s) : Keeps sB (State.fallbackReset s) := by
  unfold State.fallbackReset
  repeat' first
    | with_reducible assumption
    | with_reducible apply keeps_State_warmReset
    | with_reducible apply keeps_onFw
    | (show _ ≤ _; exact Nat.le_refl _)
    | intro _
    | split
    | dsimp only

theorem keeps_State_fallBack (s : State) (trigger : Nat)  (hK : Keeps sB s) : Keeps sB (State.fallBack s trigger) := by
  unfold State.fallBack
  repeat' first
    | with_reducible assumption
    | with_reducible apply keeps_State_fault
    | with_reducible apply keeps_State_putBank
    | with_reducible apply keeps_onFw
    | (show _ ≤ _; exact Nat.le_refl _)
    | intro _
    | split
    | dsimp only

theorem keeps_execTrialWindowExpiry (s : State)  (hK : Keeps sB s) : ∃ u, (execTrialWindowExpiry s) = .next u ∧ Keeps sB u := by
  unfold execTrialWindowExpiry
  refine ⟨_, rfl, ?_⟩
  repeat' first
    | with_reducible assumption
    | with_reducible apply keeps_State_fallbackReset
    | with_reducible apply keeps_State_fallBack
    | intro _
    | split
    | dsimp only

theorem keeps_execHeartbeatWatchdog (s : State)  (hK : Keeps sB s) : ∃ u, (execHeartbeatWatchdog s) = .next u ∧ Keeps sB u := by
  unfold execHeartbeatWatchdog
  refine ⟨_, rfl, ?_⟩
  repeat' first
    | with_reducible assumption
    | with_reducible apply keeps_State_fault
    | with_reducible apply keeps_State_warmReset
    | with_reducible apply keeps_State_hardHalt
    | with_reducible apply keeps_State_fallBack
    | with_reducible apply keeps_onFw
    | (show _ ≤ _; exact Nat.le_refl _)
    | intro _
    | split
    | dsimp only

theorem keeps_State_emptyBank (s : State)  (hK : Keeps sB s) : Keeps sB (State.emptyBank s) := by
  unfold State.emptyBank
  repeat' first
    | with_reducible assumption
    | with_reducible apply keeps_State_putBank
    | with_reducible apply keeps_onFw
    | (show _ ≤ _; exact Nat.le_refl _)
    | intro _
    | split
    | dsimp only

theorem keeps_execOpFwAbort (q : Req) (s : State)  (hK : Keeps sB s) : ∃ u, (execOpFwAbort q s) = .next u ∧ Keeps sB u := by
  unfold execOpFwAbort
  refine ⟨_, rfl, ?_⟩
  repeat' first
    | with_reducible assumption
    | with_reducible exact act_refuse _ _
    | with_reducible exact act_wait
    | with_reducible apply act_done
    | with_reducible apply act_long
    | with_reducible apply keeps_State_runOpThen
    | with_reducible apply keeps_State_objAct
    | with_reducible apply keeps_State_fallbackReset
    | with_reducible apply keeps_State_fallBack
    | with_reducible apply keeps_State_emptyBank
    | intro _
    | split
    | dsimp only

theorem keeps_execScheduledWarmReset (s : State)  (hK : Keeps sB s) : ∃ u, (execScheduledWarmReset s) = .next u ∧ Keeps sB u := by
  unfold execScheduledWarmReset
  refine ⟨_, rfl, ?_⟩
  repeat' first
    | with_reducible assumption
    | with_reducible apply keeps_State_warmReset
    | with_reducible apply keeps_State_fallbackReset
    | intro _
    | split
    | dsimp only

end Sys2Proof.Laws
end

