-- ==== Sys2Proof/Laws/KeepsIslands.lean ====
section
/-! SUPPORT. What the operations of Machine/Islands.lean keep (Laws/Keeps.lean says what that is). -/

namespace Sys2Proof.Laws

open Sys2Proof Sys2Proof.Machine

variable {sB : State}

theorem keeps_State_countIsland (s : State) (ct : Nat) (u : UnitId)  (hK : Keeps sB s) : Keeps sB (State.countIsland s ct u) := by
  unfold State.countIsland
  repeat' first
    | with_reducible assumption
    | with_reducible apply keeps_State_gauge
    | intro _
    | split
    | dsimp only

theorem keeps_State_putIsland (s : State) (u : UnitId) (x : Island)  (hK : Keeps sB s) : Keeps sB (State.putIsland s u x) := by
  unfold State.putIsland
  repeat' first
    | with_reducible assumption
    | with_reducible apply keeps_onTiles
    | intro _
    | split
    | dsimp only

theorem keeps_execDroopTrip (unit : UnitId) (fallPermille : Nat) (s : State)  (hK : Keeps sB s) : ∃ u, (execDroopTrip unit fallPermille s) = .next u ∧ Keeps sB u := by
  unfold execDroopTrip
  refine ⟨_, rfl, ?_⟩
  repeat' first
    | with_reducible assumption
    | with_reducible apply keeps_State_countIsland
    | with_reducible apply keeps_State_putIsland
    | intro _
    | split
    | dsimp only

theorem keeps_execDroopRecovery (unit : UnitId) (s : State)  (hK : Keeps sB s) : ∃ u, (execDroopRecovery unit s) = .next u ∧ Keeps sB u := by
  unfold execDroopRecovery
  refine ⟨_, rfl, ?_⟩
  repeat' first
    | with_reducible assumption
    | with_reducible apply keeps_State_putIsland
    | intro _
    | split
    | dsimp only

theorem keeps_execSlownessWindow (tile meanNs peerMeanNs : Nat) (s : State)  (hK : Keeps sB s) : ∃ u, (execSlownessWindow tile meanNs peerMeanNs s) = .next u ∧ Keeps sB u := by
  unfold execSlownessWindow
  refine ⟨_, rfl, ?_⟩
  repeat' first
    | with_reducible assumption
    | with_reducible apply keeps_State_addCause
    | with_reducible apply keeps_onTiles
    | intro _
    | split
    | dsimp only

end Sys2Proof.Laws
end

