-- ==== Sys2Proof/Laws/KeepsMailbox.lean ====
section
/-! SUPPORT. What the operations of Machine/Mailbox.lean keep (Laws/Keeps.lean says what that is). -/

namespace Sys2Proof.Laws

open Sys2Proof Sys2Proof.Machine

variable {sB : State}

theorem keeps_execOpIdentify (q : Req) (s : State)  (hK : Keeps sB s) : ∃ u, (execOpIdentify q s) = .next u ∧ Keeps sB u := by
  unfold execOpIdentify
  refine ⟨_, rfl, ?_⟩
  repeat' first
    | with_reducible assumption
    | with_reducible exact act_refuse _ _
    | with_reducible exact act_wait
    | with_reducible apply act_done
    | with_reducible apply act_long
    | with_reducible apply keeps_State_runOp
    | intro _
    | split
    | dsimp only

theorem keeps_execOpStatus (q : Req) (s : State)  (hK : Keeps sB s) : ∃ u, (execOpStatus q s) = .next u ∧ Keeps sB u := by
  unfold execOpStatus
  refine ⟨_, rfl, ?_⟩
  repeat' first
    | with_reducible assumption
    | with_reducible exact act_refuse _ _
    | with_reducible exact act_wait
    | with_reducible apply act_done
    | with_reducible apply act_long
    | with_reducible apply keeps_State_runOp
    | intro _
    | split
    | dsimp only

theorem keeps_execOpRightsRead (q : Req) (s : State)  (hK : Keeps sB s) : ∃ u, (execOpRightsRead q s) = .next u ∧ Keeps sB u := by
  unfold execOpRightsRead
  refine ⟨_, rfl, ?_⟩
  repeat' first
    | with_reducible assumption
    | with_reducible exact act_refuse _ _
    | with_reducible exact act_wait
    | with_reducible apply act_done
    | with_reducible apply act_long
    | with_reducible apply keeps_State_runOp
    | intro _
    | split
    | dsimp only

theorem keeps_State_resetHost (s : State) (cause : Nat)  (hK : Keeps sB s) : Keeps sB (State.resetHost s cause) := by
  unfold State.resetHost
  repeat' first
    | with_reducible assumption
    | with_reducible apply keeps_State_raiseIrq
    | with_reducible apply keeps_State_resetHostSlots
    | with_reducible apply keeps_onMbox
    | intro _
    | split
    | dsimp only

theorem keeps_execMailboxReset (word : Word32) (s : State)  (hK : Keeps sB s) : ∃ u, (execMailboxReset word s) = .next u ∧ Keeps sB u := by
  unfold execMailboxReset
  refine ⟨_, rfl, ?_⟩
  repeat' first
    | with_reducible assumption
    | with_reducible apply keeps_State_resetHost
    | intro _
    | split
    | dsimp only

theorem keeps_execWarmReset (word : Word32) (s : State)  (hK : Keeps sB s) : ∃ u, (execWarmReset word s) = .next u ∧ Keeps sB u := by
  unfold execWarmReset
  refine ⟨_, rfl, ?_⟩
  repeat' first
    | with_reducible assumption
    | with_reducible apply keeps_State_warmReset
    | intro _
    | split
    | dsimp only

theorem keeps_execPcieLinkReset (kind : PcieReset) (s : State)  (hK : Keeps sB s) : ∃ u, (execPcieLinkReset kind s) = .next u ∧ Keeps sB u := by
  unfold execPcieLinkReset
  refine ⟨_, rfl, ?_⟩
  repeat' first
    | with_reducible assumption
    | with_reducible apply keeps_State_resetHost
    | intro _
    | split
    | dsimp only

theorem keeps_execIrqClear (word : Word32) (s : State)  (hK : Keeps sB s) : ∃ u, (execIrqClear word s) = .next u ∧ Keeps sB u := by
  unfold execIrqClear
  refine ⟨_, rfl, ?_⟩
  repeat' first
    | with_reducible assumption
    | with_reducible apply keeps_onMbox
    | intro _
    | split
    | dsimp only

theorem keeps_execRegisterWrite (off : Nat) (word : Word32) (s : State)  (hK : Keeps sB s) : ∃ u, (execRegisterWrite off word s) = .next u ∧ Keeps sB u := by
  unfold execRegisterWrite
  refine ⟨_, rfl, ?_⟩
  repeat' first
    | with_reducible assumption
    | with_reducible apply keeps_State_msixWrite
    | with_reducible apply keeps_onMbox
    | intro _
    | split
    | dsimp only

theorem keeps_execSlotWriteDenied (slot _off : Nat) (_data : Bytes) (s : State)  (hK : Keeps sB s) : ∃ u, (execSlotWriteDenied slot _off _data s) = .next u ∧ Keeps sB u := by
  unfold execSlotWriteDenied
  refine ⟨_, rfl, ?_⟩
  repeat' first
    | with_reducible assumption
    | with_reducible apply keeps_onMbox
    | intro _
    | split
    | dsimp only

theorem keeps_execHeartbeat (s : State)  (hK : Keeps sB s) : ∃ u, (execHeartbeat s) = .next u ∧ Keeps sB u := by
  unfold execHeartbeat
  refine ⟨_, rfl, ?_⟩
  repeat' first
    | with_reducible assumption
    | with_reducible apply keeps_onClock
    | (show _ = (_ : Nat); rfl)
    | intro _
    | split
    | dsimp only

theorem keeps_execProgressRewrite (port : MPort) (slot progress : Nat) (s : State)  (hK : Keeps sB s) : ∃ u, (execProgressRewrite port slot progress s) = .next u ∧ Keeps sB u := by
  unfold execProgressRewrite
  refine ⟨_, rfl, ?_⟩
  repeat' first
    | with_reducible assumption
    | with_reducible apply keeps_State_interim
    | intro _
    | split
    | dsimp only

theorem keeps_execSlotMsgWrite (path : MPath) (slot : Nat) (image : SlotImage) (s : State)  (hK : Keeps sB s) : ∃ u, (execSlotMsgWrite path slot image s) = .next u ∧ Keeps sB u := by
  unfold execSlotMsgWrite
  refine ⟨_, rfl, ?_⟩
  repeat' first
    | with_reducible assumption
    | with_reducible apply keeps_State_emit
    | with_reducible apply keeps_State_post
    | intro _
    | split
    | dsimp only

theorem keeps_execSlotMsgRead (path : MPath) (slot : Nat) (s : State)  (hK : Keeps sB s) : ∃ u, (execSlotMsgRead path slot s) = .next u ∧ Keeps sB u := by
  unfold execSlotMsgRead
  refine ⟨_, rfl, ?_⟩
  repeat' first
    | with_reducible assumption
    | with_reducible apply keeps_State_emit
    | intro _
    | split
    | dsimp only

theorem keeps_execMboxAccess (slot : Nat) (write : Bool) (image : SlotImage) (s : State)  (hK : Keeps sB s) : ∃ u, (execMboxAccess slot write image s) = .next u ∧ Keeps sB u := by
  unfold execMboxAccess
  refine ⟨_, rfl, ?_⟩
  repeat' first
    | with_reducible assumption
    | with_reducible apply keeps_State_emit
    | with_reducible apply keeps_State_write
    | with_reducible apply keeps_State_post
    | intro _
    | split
    | dsimp only

end Sys2Proof.Laws
end

