-- ==== Sys2Proof/Laws/KeepsStartup.lean ====
section
/-! SUPPORT. What the operations of Machine/Startup.lean keep (Laws/Keeps.lean says what that is). -/

namespace Sys2Proof.Laws

open Sys2Proof Sys2Proof.Machine

variable {sB : State}

theorem keeps_State_standbyLost (s : State)  (hK : Keeps sB s) : Keeps sB (State.standbyLost s) := by
  unfold State.standbyLost
  repeat' first
    | with_reducible assumption
    | with_reducible apply keeps_onInteg
    | with_reducible apply keeps_onPins
    | with_reducible apply keeps_onCounters
    | intro _
    | split
    | dsimp only

theorem keeps_execColdStart (pwrEn dimmPwrOk : Bool) (s : State)  (hK : Keeps sB s) : ∃ u, (execColdStart pwrEn dimmPwrOk s) = .next u ∧ Keeps sB u := by
  unfold execColdStart
  refine ⟨_, rfl, ?_⟩
  repeat' first
    | with_reducible assumption
    | with_reducible apply keeps_State_noteState
    | with_reducible apply keeps_State_startUp
    | with_reducible apply keeps_State_standbyLost
    | with_reducible apply keeps_onClock
    | with_reducible apply keeps_onPins
    | (show _ = (_ : Nat); rfl)
    | intro _
    | split
    | dsimp only

theorem keeps_State_runFrom (s : State) (entries : Tbl Bytes)  (hK : Keeps sB s) : Keeps sB (State.runFrom s entries) := by
  unfold State.runFrom
  repeat' first
    | with_reducible assumption
    | with_reducible apply keeps_foldl
    | with_reducible apply keeps_State_event
    | with_reducible apply keeps_onCfg
    | intro _
    | split
    | dsimp only

theorem keeps_State_settingsInEffect (s : State)  (hK : Keeps sB s) : Keeps sB (State.settingsInEffect s) := by
  unfold State.settingsInEffect
  repeat' first
    | with_reducible assumption
    | with_reducible apply keeps_onSrv
    | with_reducible apply keeps_onKv
    | with_reducible apply keeps_onAdp
    | with_reducible apply keeps_onFab
    | with_reducible apply keeps_onPwr
    | intro _
    | split
    | dsimp only

theorem keeps_State_loadConfig (s : State)  (hK : Keeps sB s) : Keeps sB (State.loadConfig s) := by
  unfold State.loadConfig
  repeat' first
    | with_reducible assumption
    | with_reducible apply keeps_State_event
    | with_reducible apply keeps_State_fault
    | with_reducible apply keeps_State_runFrom
    | with_reducible apply keeps_State_settingsInEffect
    | with_reducible apply keeps_onCfg
    | intro _
    | split
    | dsimp only

theorem keeps_State_stageFaults (s : State) (stage : Nat) (failing : List UnitId)  (hK : Keeps sB s) : Keeps sB (State.stageFaults s stage failing) := by
  unfold State.stageFaults
  repeat' first
    | with_reducible assumption
    | with_reducible apply keeps_foldl
    | with_reducible apply keeps_State_fault
    | with_reducible apply keeps_State_stage
    | with_reducible apply keeps_onFw
    | (show _ ≤ _; exact Nat.le_refl _)
    | intro _
    | split
    | dsimp only

theorem keeps_State_romStage (s : State)  (hK : Keeps sB s) : Keeps sB (State.romStage s) := by
  unfold State.romStage
  repeat' first
    | with_reducible assumption
    | with_reducible apply keeps_State_fault
    | with_reducible apply keeps_State_enterSafelight
    | with_reducible apply keeps_State_dropWriting
    | with_reducible apply keeps_State_romSelect
    | with_reducible apply keeps_State_stage
    | with_reducible apply keeps_onSec
    | with_reducible apply keeps_onFw
    | (show SecKeeps _ _; exact SecKeeps.of_same rfl rfl rfl rfl (by first | exact Or.inl rfl | exact Or.inr rfl))
    | (show _ ≤ _; exact Nat.le_refl _)
    | intro _
    | split
    | dsimp only

theorem keeps_State_shuidStage (s : State)  (hK : Keeps sB s) : Keeps sB (State.shuidStage s) := by
  unfold State.shuidStage
  repeat' first
    | with_reducible assumption
    | with_reducible apply keeps_State_s3Exit
    | with_reducible apply keeps_State_stage
    | with_reducible apply keeps_State_loadConfig
    | with_reducible apply keeps_onFw
    | with_reducible apply keeps_onMbox
    | with_reducible apply keeps_onPins
    | (show _ ≤ _; exact Nat.le_refl _)
    | intro _
    | split
    | dsimp only

theorem keeps_State_l2Stage (s : State) (failing : List UnitId)  (hK : Keeps sB s) : Keeps sB (State.l2Stage s failing) := by
  unfold State.l2Stage
  repeat' first
    | with_reducible assumption
    | with_reducible apply keeps_State_fault
    | with_reducible apply keeps_State_putBank
    | with_reducible apply keeps_State_warmReset
    | with_reducible apply keeps_State_stage
    | with_reducible apply keeps_onFw
    | (show _ ≤ _; exact Nat.le_refl _)
    | intro _
    | split
    | dsimp only

theorem keeps_State_trainPorts (s : State)  (hK : Keeps sB s) : Keeps sB (State.trainPorts s) := by
  unfold State.trainPorts
  repeat' first
    | with_reducible assumption
    | with_reducible apply keeps_foldl
    | with_reducible apply keeps_State_emit
    | with_reducible apply keeps_State_modPort
    | intro _
    | split
    | dsimp only

theorem keeps_State_reloadT3 (s : State)  (hK : Keeps sB s) : Keeps sB (State.reloadT3 s) := by
  unfold State.reloadT3
  repeat' first
    | with_reducible assumption
    | with_reducible apply keeps_foldl
    | with_reducible apply keeps_State_writeHomes
    | with_reducible apply keeps_State_makeWorking
    | with_reducible apply keeps_State_beginSweep
    | with_reducible apply keeps_onWts
    | intro _
    | split
    | dsimp only

theorem keeps_State_t3Stage (s : State) (failing : List UnitId)  (hK : Keeps sB s) : Keeps sB (State.t3Stage s failing) := by
  unfold State.t3Stage
  repeat' first
    | with_reducible assumption
    | with_reducible apply keeps_State_fault
    | with_reducible apply keeps_State_reloadT3
    | with_reducible apply keeps_onWts
    | intro _
    | split
    | dsimp only

theorem keeps_State_tableLost (s : State)  (hK : Keeps sB s) : Keeps sB (State.tableLost s) := by
  unfold State.tableLost
  repeat' first
    | with_reducible assumption
    | with_reducible apply keeps_foldl
    | with_reducible apply keeps_State_fault
    | with_reducible apply keeps_State_startTests
    | with_reducible apply keeps_onMem
    | with_reducible apply keeps_onTiles
    | with_reducible apply keeps_onInteg
    | (show Memory.wf _ = true; first | exact mem_wf_nil | exact mem_wf_filter _ _ (by assumption) | exact mem_wf_write _ _ _ (by assumption) | exact mem_wf_clear _ _ _ (by assumption) | assumption)
    | intro _
    | split
    | dsimp only

theorem keeps_State_checkStage (s : State) (failing : List UnitId)  (hK : Keeps sB s) : Keeps sB (State.checkStage s failing) := by
  unfold State.checkStage
  repeat' first
    | with_reducible assumption
    | with_reducible apply keeps_foldl
    | with_reducible apply keeps_State_checkerResult
    | (with_reducible refine keeps_beginErase_other _ _ 3 ?_ (by decide) ?_; on_goal 1 => rfl)
    | with_reducible apply keeps_State_tableLost
    | with_reducible apply keeps_onInteg
    | intro _
    | split
    | dsimp only

theorem keeps_State_readyStage (s : State)  (hK : Keeps sB s) : Keeps sB (State.readyStage s) := by
  unfold State.readyStage
  repeat' first
    | with_reducible assumption
    | with_reducible exact act_refuse _ _
    | with_reducible exact act_wait
    | with_reducible apply act_done
    | with_reducible apply act_long
    | with_reducible apply keeps_State_stage
    | with_reducible apply keeps_onFw
    | with_reducible apply keeps_onMbox
    | with_reducible apply keeps_onInteg
    | (show _ ≤ _; exact Nat.le_refl _)
    | intro _
    | split
    | dsimp only

theorem keeps_State_idleStage (s : State)  (hK : Keeps sB s) : Keeps sB (State.idleStage s) := by
  unfold State.idleStage
  repeat' first
    | with_reducible assumption
    | with_reducible apply keeps_State_endChange
    | with_reducible apply keeps_State_stage
    | with_reducible apply keeps_onFw
    | (show _ ≤ _; exact Nat.le_refl _)
    | intro _
    | split
    | dsimp only

theorem keeps_State_completeStage (s : State) (stage : Nat) (failing : List UnitId)  (hK : Keeps sB s) : Keeps sB (State.completeStage s stage failing) := by
  unfold State.completeStage
  repeat' first
    | with_reducible assumption
    | with_reducible apply keeps_State_stage
    | with_reducible apply keeps_State_stageFaults
    | with_reducible apply keeps_State_romStage
    | with_reducible apply keeps_State_shuidStage
    | with_reducible apply keeps_State_l2Stage
    | with_reducible apply keeps_State_trainPorts
    | with_reducible apply keeps_State_t3Stage
    | with_reducible apply keeps_State_checkStage
    | with_reducible apply keeps_State_readyStage
    | with_reducible apply keeps_State_idleStage
    | with_reducible apply keeps_onFw
    | with_reducible apply keeps_onPwr
    | with_reducible apply keeps_onPins
    | (show _ ≤ _; exact Nat.le_refl _)
    | intro _
    | split
    | dsimp only

theorem keeps_execStartupStage (stage : Nat) (failing : List UnitId) (s : State)  (hK : Keeps sB s) : ∃ u, (execStartupStage stage failing s) = .next u ∧ Keeps sB u := by
  unfold execStartupStage
  refine ⟨_, rfl, ?_⟩
  repeat' first
    | with_reducible assumption
    | with_reducible apply keeps_State_noteState
    | with_reducible apply keeps_State_stage
    | with_reducible apply keeps_State_completeStage
    | intro _
    | split
    | dsimp only

end Sys2Proof.Laws
end

