-- ==== Sys2Proof/Laws/KeepsPinOps.lean ====
section
/-! SUPPORT. What the operations of Machine/PinOps.lean keep (Laws/Keeps.lean says what that is). -/

namespace Sys2Proof.Laws

open Sys2Proof Sys2Proof.Machine

variable {sB : State}

theorem keeps_execPwrEnRise (s : State)  (hK : Keeps sB s) : ∃ u, (execPwrEnRise s) = .next u ∧ Keeps sB u := by
  unfold execPwrEnRise
  refine ⟨_, rfl, ?_⟩
  repeat' first
    | with_reducible assumption
    | with_reducible apply keeps_State_s3Exit
    | with_reducible apply keeps_onPwr
    | with_reducible apply keeps_onPins
    | intro _
    | split
    | dsimp only

theorem keeps_execPwrEnFall (s : State)  (hK : Keeps sB s) : ∃ u, (execPwrEnFall s) = .next u ∧ Keeps sB u := by
  unfold execPwrEnFall
  refine ⟨_, rfl, ?_⟩
  repeat' first
    | with_reducible assumption
    | with_reducible apply keeps_State_event
    | with_reducible apply keeps_onPwr
    | with_reducible apply keeps_onPins
    | intro _
    | split
    | dsimp only

theorem keeps_execModResetN (lowNs : Nat) (s : State)  (hK : Keeps sB s) : ∃ u, (execModResetN lowNs s) = .next u ∧ Keeps sB u := by
  unfold execModResetN
  refine ⟨_, rfl, ?_⟩
  repeat' first
    | with_reducible assumption
    | with_reducible apply keeps_State_warmReset
    | with_reducible apply keeps_onPins
    | intro _
    | split
    | dsimp only

theorem keeps_execPerstN (s : State)  (hK : Keeps sB s) : ∃ u, (execPerstN s) = .next u ∧ Keeps sB u := by
  unfold execPerstN
  refine ⟨_, rfl, ?_⟩
  repeat' first
    | with_reducible assumption
    | with_reducible apply keeps_State_resetHost
    | intro _
    | split
    | dsimp only

theorem keeps_execStrapSample (slotId : Nat) (recoveryN : Bool) (s : State)  (hK : Keeps sB s) : ∃ u, (execStrapSample slotId recoveryN s) = .next u ∧ Keeps sB u := by
  unfold execStrapSample
  refine ⟨_, rfl, ?_⟩
  repeat' first
    | with_reducible assumption
    | with_reducible apply keeps_State_gauge
    | with_reducible apply keeps_onPins
    | intro _
    | split
    | dsimp only

theorem keeps_execStrapChange (s : State)  (hK : Keeps sB s) : ∃ u, (execStrapChange s) = .next u ∧ Keeps sB u := by
  unfold execStrapChange
  refine ⟨_, rfl, ?_⟩
  repeat' first
    | with_reducible assumption
    | with_reducible apply keeps_State_event
    | intro _
    | split
    | dsimp only

theorem keeps_State_t3PageLost (s : State) (base : Nat)  (hK : Keeps sB s) : Keeps sB (State.t3PageLost s base) := by
  unfold State.t3PageLost
  repeat' first
    | with_reducible assumption
    | with_reducible apply keeps_foldl
    | with_reducible apply keeps_State_rangeLost
    | with_reducible apply keeps_State_poison
    | intro _
    | split
    | dsimp only

theorem keeps_State_failPauses (s : State)  (hK : Keeps sB s) : Keeps sB (State.failPauses s) := by
  unfold State.failPauses
  repeat' first
    | with_reducible assumption
    | with_reducible apply keeps_foldl
    | with_reducible apply keeps_State_pauseFails
    | intro _
    | split
    | dsimp only

theorem keeps_execDimmPwrOkFall (s : State)  (hK : Keeps sB s) : ∃ u, (execDimmPwrOkFall s) = .next u ∧ Keeps sB u := by
  unfold execDimmPwrOkFall
  refine ⟨_, rfl, ?_⟩
  repeat' first
    | with_reducible assumption
    | with_reducible apply keeps_foldl
    | with_reducible apply keeps_State_fault
    | with_reducible apply keeps_State_t3PageLost
    | with_reducible apply keeps_State_failPauses
    | with_reducible apply keeps_onWts
    | with_reducible apply keeps_onPins
    | intro _
    | split
    | dsimp only

theorem keeps_State_trip (s : State)  (hK : Keeps sB s) : Keeps sB (State.trip s) := by
  unfold State.trip
  repeat' first
    | with_reducible assumption
    | with_reducible apply keeps_State_railsOff
    | with_reducible apply keeps_State_dropWriting
    | with_reducible apply keeps_State_stage
    | with_reducible apply keeps_onFw
    | (show _ ≤ _; exact Nat.le_refl _)
    | intro _
    | split
    | dsimp only

theorem keeps_State_tripWith (s : State) (code counter a0 : Nat)  (hK : Keeps sB s) : Keeps sB (State.tripWith s code counter a0) := by
  unfold State.tripWith
  repeat' first
    | with_reducible assumption
    | with_reducible apply keeps_State_count
    | with_reducible apply keeps_State_fault
    | with_reducible apply keeps_State_noteState
    | with_reducible apply keeps_State_trip
    | intro _
    | split
    | dsimp only

theorem keeps_execInputUndervoltage (lowestMv : Nat) (s : State)  (hK : Keeps sB s) : ∃ u, (execInputUndervoltage lowestMv s) = .next u ∧ Keeps sB u := by
  unfold execInputUndervoltage
  refine ⟨_, rfl, ?_⟩
  repeat' first
    | with_reducible assumption
    | with_reducible apply keeps_State_tripWith
    | intro _
    | split
    | dsimp only

theorem keeps_execInputOvervoltage (highestMv : Nat) (s : State)  (hK : Keeps sB s) : ∃ u, (execInputOvervoltage highestMv s) = .next u ∧ Keeps sB u := by
  unfold execInputOvervoltage
  refine ⟨_, rfl, ?_⟩
  repeat' first
    | with_reducible assumption
    | with_reducible apply keeps_State_tripWith
    | intro _
    | split
    | dsimp only

theorem keeps_execThermalTrip (sensor : Nat) (s : State)  (hK : Keeps sB s) : ∃ u, (execThermalTrip sensor s) = .next u ∧ Keeps sB u := by
  unfold execThermalTrip
  refine ⟨_, rfl, ?_⟩
  repeat' first
    | with_reducible assumption
    | with_reducible apply keeps_State_tripWith
    | with_reducible apply keeps_onPins
    | intro _
    | split
    | dsimp only

theorem keeps_execThermtripRelease (s : State)  (hK : Keeps sB s) : ∃ u, (execThermtripRelease s) = .next u ∧ Keeps sB u := by
  unfold execThermtripRelease
  refine ⟨_, rfl, ?_⟩
  repeat' first
    | with_reducible assumption
    | with_reducible apply keeps_onPins
    | intro _
    | split
    | dsimp only

theorem keeps_execCarrierLeak (s : State)  (hK : Keeps sB s) : ∃ u, (execCarrierLeak s) = .next u ∧ Keeps sB u := by
  unfold execCarrierLeak
  refine ⟨_, rfl, ?_⟩
  repeat' first
    | with_reducible assumption
    | with_reducible apply keeps_State_tripWith
    | with_reducible apply keeps_onPins
    | intro _
    | split
    | dsimp only

theorem keeps_execTrayLeakN (s : State)  (hK : Keeps sB s) : ∃ u, (execTrayLeakN s) = .next u ∧ Keeps sB u := by
  unfold execTrayLeakN
  refine ⟨_, rfl, ?_⟩
  repeat' first
    | with_reducible assumption
    | with_reducible apply keeps_State_tripWith
    | with_reducible apply keeps_onPins
    | intro _
    | split
    | dsimp only

theorem keeps_execVsbLoss (s : State)  (hK : Keeps sB s) : ∃ u, (execVsbLoss s) = .next u ∧ Keeps sB u := by
  unfold execVsbLoss
  refine ⟨_, rfl, ?_⟩
  repeat' first
    | with_reducible assumption
    | with_reducible apply keeps_State_unloadPlan
    | with_reducible apply keeps_State_railsOff
    | with_reducible apply keeps_State_dropWriting
    | with_reducible apply keeps_State_stage
    | with_reducible apply keeps_State_standbyLost
    | with_reducible apply keeps_onSec
    | with_reducible apply keeps_onFw
    | with_reducible apply keeps_onMbox
    | with_reducible apply keeps_onPwr
    | (show SecKeeps _ _; exact SecKeeps.of_same rfl rfl rfl rfl (by first | exact Or.inl rfl | exact Or.inr rfl))
    | (show _ ≤ _; exact Nat.le_refl _)
    | intro _
    | split
    | dsimp only

theorem keeps_execPpsEdge (s : State)  (hK : Keeps sB s) : ∃ u, (execPpsEdge s) = .next u ∧ Keeps sB u := by
  unfold execPpsEdge
  refine ⟨_, rfl, ?_⟩
  repeat' first
    | with_reducible assumption
    | with_reducible apply keeps_State_count
    | with_reducible apply keeps_State_gauge
    | with_reducible apply keeps_onPins
    | intro _
    | split
    | dsimp only

theorem keeps_execPpsLost (s : State)  (hK : Keeps sB s) : ∃ u, (execPpsLost s) = .next u ∧ Keeps sB u := by
  unfold execPpsLost
  refine ⟨_, rfl, ?_⟩
  repeat' first
    | with_reducible assumption
    | with_reducible apply keeps_State_event
    | with_reducible apply keeps_onPins
    | intro _
    | split
    | dsimp only

theorem keeps_execCoolantHigh (inletMilliC : Int) (s : State)  (hK : Keeps sB s) : ∃ u, (execCoolantHigh inletMilliC s) = .next u ∧ Keeps sB u := by
  unfold execCoolantHigh
  refine ⟨_, rfl, ?_⟩
  repeat' first
    | with_reducible assumption
    | with_reducible apply keeps_State_gauge
    | with_reducible apply keeps_State_event
    | with_reducible apply keeps_onPins
    | intro _
    | split
    | dsimp only

end Sys2Proof.Laws
end

