-- ==== Sys2Proof/Laws/KeepsLinks.lean ====
section
/-! SUPPORT. What the operations of Machine/Links.lean keep (Laws/Keeps.lean says what that is). -/

namespace Sys2Proof.Laws

open Sys2Proof Sys2Proof.Machine

variable {sB : State}

theorem keeps_State_noteWidth (s : State) (p : Nat) (old : Nat)  (hK : Keeps sB s) : Keeps sB (State.noteWidth s p old) := by
  unfold State.noteWidth
  repeat' first
    | with_reducible assumption
    | with_reducible apply keeps_State_fault
    | intro _
    | split
    | dsimp only

theorem keeps_State_loseSlice (s : State)  (hK : Keeps sB s) : Keeps sB (State.loseSlice s) := by
  unfold State.loseSlice
  repeat' first
    | with_reducible assumption
    | with_reducible apply keeps_foldl
    | with_reducible apply keeps_State_hardHalt
    | with_reducible apply keeps_State_raiseAbort
    | intro _
    | split
    | dsimp only

theorem keeps_State_departed (s : State) (p : Nat)  (hK : Keeps sB s) : Keeps sB (State.departed s p) := by
  unfold State.departed
  repeat' first
    | with_reducible assumption
    | with_reducible apply keeps_foldl
    | with_reducible apply keeps_State_dropSession
    | with_reducible apply keeps_State_freeImages
    | intro _
    | split
    | dsimp only

theorem keeps_State_takeDown (s : State) (p : Nat)  (hK : Keeps sB s) : Keeps sB (State.takeDown s p) := by
  unfold State.takeDown
  repeat' first
    | with_reducible assumption
    | with_reducible apply keeps_State_event
    | with_reducible apply keeps_State_fault
    | with_reducible apply keeps_State_modPort
    | with_reducible apply keeps_State_evalPorts
    | with_reducible apply keeps_State_loseSlice
    | with_reducible apply keeps_State_departed
    | intro _
    | split
    | dsimp only

theorem keeps_execPortDown (port : Nat) (cause : DownCause) (s : State)  (hK : Keeps sB s) : ∃ u, (execPortDown port cause s) = .next u ∧ Keeps sB u := by
  unfold execPortDown
  refine ⟨_, rfl, ?_⟩
  repeat' first
    | with_reducible assumption
    | with_reducible apply keeps_State_noteState
    | with_reducible apply keeps_State_takeDown
    | intro _
    | split
    | dsimp only

theorem keeps_State_startFast (s : State) (p : Nat)  (hK : Keeps sB s) : Keeps sB (State.startFast s p) := by
  unfold State.startFast
  repeat' first
    | with_reducible assumption
    | with_reducible apply keeps_State_emit
    | with_reducible apply keeps_State_count
    | with_reducible apply keeps_State_modPort
    | intro _
    | split
    | dsimp only

theorem keeps_State_refuseFlit (s : State) (p : Nat)  (hK : Keeps sB s) : Keeps sB (State.refuseFlit s p) := by
  unfold State.refuseFlit
  repeat' first
    | with_reducible assumption
    | with_reducible apply keeps_State_emit
    | with_reducible apply keeps_State_count
    | with_reducible apply keeps_State_modPort
    | with_reducible apply keeps_State_startFast
    | intro _
    | split
    | dsimp only

theorem keeps_State_takeAck (s : State) (p ack : Nat) (nak : Bool)  (hK : Keeps sB s) : Keeps sB (State.takeAck s p ack nak) := by
  unfold State.takeAck
  repeat' first
    | with_reducible assumption
    | with_reducible apply keeps_State_emit
    | with_reducible apply keeps_State_count
    | with_reducible apply keeps_State_modPort
    | intro _
    | split
    | dsimp only

theorem keeps_State_takeReleases (s : State) (p : Nat) (b : Bytes)  (hK : Keeps sB s) : Keeps sB (State.takeReleases s p b) := by
  unfold State.takeReleases
  repeat' first
    | with_reducible assumption
    | with_reducible apply keeps_State_modPort
    | intro _
    | split
    | dsimp only

theorem keeps_execFlitReceived (port : Nat) (f : FlitIn) (s : State)  (hK : Keeps sB s) : ∃ u, (execFlitReceived port f s) = .next u ∧ Keeps sB u := by
  unfold execFlitReceived
  refine ⟨_, rfl, ?_⟩
  repeat' first
    | with_reducible assumption
    | with_reducible apply keeps_foldl
    | with_reducible exact act_refuse _ _
    | with_reducible exact act_wait
    | with_reducible apply act_done
    | with_reducible apply act_long
    | with_reducible apply keeps_State_emit
    | with_reducible apply keeps_State_count
    | with_reducible apply keeps_State_modPort
    | with_reducible apply keeps_State_refuseFlit
    | with_reducible apply keeps_State_takeAck
    | with_reducible apply keeps_State_takeReleases
    | intro _
    | split
    | dsimp only

theorem keeps_execFastRetrainDone (port : Nat) (failing : List Nat) (restored : Bool) (s : State)  (hK : Keeps sB s) : ∃ u, (execFastRetrainDone port failing restored s) = .next u ∧ Keeps sB u := by
  unfold execFastRetrainDone
  refine ⟨_, rfl, ?_⟩
  repeat' first
    | with_reducible assumption
    | with_reducible apply keeps_foldl
    | with_reducible apply keeps_State_event
    | with_reducible apply keeps_State_noteState
    | with_reducible apply keeps_State_modPort
    | with_reducible apply keeps_State_noteWidth
    | with_reducible apply keeps_State_takeDown
    | intro _
    | split
    | dsimp only

theorem keeps_State_startTraining (s : State) (p : Nat)  (hK : Keeps sB s) : Keeps sB (State.startTraining s p) := by
  unfold State.startTraining
  repeat' first
    | with_reducible assumption
    | with_reducible apply keeps_State_emit
    | with_reducible apply keeps_State_modPort
    | intro _
    | split
    | dsimp only

theorem keeps_execLinkTrainingDone (port : Nat) (failing : List Nat) (s : State)  (hK : Keeps sB s) : ∃ u, (execLinkTrainingDone port failing s) = .next u ∧ Keeps sB u := by
  unfold execLinkTrainingDone
  refine ⟨_, rfl, ?_⟩
  repeat' first
    | with_reducible assumption
    | with_reducible apply keeps_State_noteState
    | with_reducible apply keeps_State_modPort
    | with_reducible apply keeps_State_sendCard
    | with_reducible apply keeps_State_evalPorts
    | with_reducible apply keeps_State_noteWidth
    | with_reducible apply keeps_State_takeDown
    | intro _
    | split
    | dsimp only

theorem keeps_execLinkTrainingRetry (port : Nat) (s : State)  (hK : Keeps sB s) : ∃ u, (execLinkTrainingRetry port s) = .next u ∧ Keeps sB u := by
  unfold execLinkTrainingRetry
  refine ⟨_, rfl, ?_⟩
  repeat' first
    | with_reducible assumption
    | with_reducible apply keeps_State_startTraining
    | intro _
    | split
    | dsimp only

theorem keeps_execHeldIdleRetrain (port : Nat) (s : State)  (hK : Keeps sB s) : ∃ u, (execHeldIdleRetrain port s) = .next u ∧ Keeps sB u := by
  unfold execHeldIdleRetrain
  refine ⟨_, rfl, ?_⟩
  repeat' first
    | with_reducible assumption
    | with_reducible apply keeps_State_startTraining
    | intro _
    | split
    | dsimp only

theorem keeps_State_linkArrive (s : State) (port : Nat) (k : Packet) (rule : State → State) (hrule : ∀ a0, Keeps sB a0 → Keeps sB (rule a0)) (hK : Keeps sB s) : Keeps sB (State.linkArrive s port k rule) := by
  unfold State.linkArrive
  repeat' first
    | with_reducible assumption
    | with_reducible apply hrule
    | with_reducible apply keeps_State_emit
    | with_reducible apply keeps_State_badPacketAt
    | with_reducible apply keeps_State_release
    | intro _
    | split
    | dsimp only

theorem keeps_execNeighbourCard (port : Nat) (k : Packet) (s : State)  (hK : Keeps sB s) : ∃ u, (execNeighbourCard port k s) = .next u ∧ Keeps sB u := by
  unfold execNeighbourCard
  refine ⟨_, rfl, ?_⟩
  repeat' first
    | with_reducible assumption
    | with_reducible apply keeps_State_event
    | with_reducible apply keeps_State_noteState
    | with_reducible apply keeps_State_modPort
    | with_reducible apply keeps_State_evalPorts
    | with_reducible apply keeps_State_endRemap
    | with_reducible apply keeps_State_loseSlice
    | with_reducible apply keeps_State_departed
    | with_reducible apply keeps_State_linkArrive
    | intro _
    | split
    | dsimp only

theorem keeps_execCardSend (port : Nat) (s : State)  (hK : Keeps sB s) : ∃ u, (execCardSend port s) = .next u ∧ Keeps sB u := by
  unfold execCardSend
  refine ⟨_, rfl, ?_⟩
  repeat' first
    | with_reducible assumption
    | with_reducible apply keeps_State_sendCard
    | intro _
    | split
    | dsimp only

theorem keeps_execCardAbsent (port : Nat) (s : State)  (hK : Keeps sB s) : ∃ u, (execCardAbsent port s) = .next u ∧ Keeps sB u := by
  unfold execCardAbsent
  refine ⟨_, rfl, ?_⟩
  repeat' first
    | with_reducible assumption
    | with_reducible apply keeps_State_evalPorts
    | intro _
    | split
    | dsimp only

theorem keeps_execLinkMgmt (port : Nat) (k : Packet) (s : State) (hK : Keeps sB s) : ∃ u, (execLinkMgmt port k s) = .next u ∧ Keeps sB u := by
  unfold execLinkMgmt
  refine ⟨_, rfl, ?_⟩
  split
  · exact hK
  · exact keeps_State_linkArrive _ _ _ _ (fun a ha => ha) hK

theorem keeps_execOpNeighbourRead (q : Req) (s : State)  (hK : Keeps sB s) : ∃ u, (execOpNeighbourRead q s) = .next u ∧ Keeps sB u := by
  unfold execOpNeighbourRead
  refine ⟨_, rfl, ?_⟩
  repeat' first
    | with_reducible assumption
    | with_reducible exact act_refuse _ _
    | with_reducible exact act_wait
    | with_reducible apply act_done
    | with_reducible apply act_long
    | with_reducible apply keeps_State_runOp
    | intro _
    | split
    | dsimp only

theorem keeps_execOpLinkStatus (q : Req) (s : State)  (hK : Keeps sB s) : ∃ u, (execOpLinkStatus q s) = .next u ∧ Keeps sB u := by
  unfold execOpLinkStatus
  refine ⟨_, rfl, ?_⟩
  repeat' first
    | with_reducible assumption
    | with_reducible exact act_refuse _ _
    | with_reducible exact act_wait
    | with_reducible apply act_done
    | with_reducible apply act_long
    | with_reducible apply keeps_State_runOp
    | intro _
    | split
    | dsimp only

theorem keeps_execOpLinkRetrain (q : Req) (s : State)  (hK : Keeps sB s) : ∃ u, (execOpLinkRetrain q s) = .next u ∧ Keeps sB u := by
  unfold execOpLinkRetrain
  refine ⟨_, rfl, ?_⟩
  repeat' first
    | with_reducible assumption
    | with_reducible apply keeps_foldl
    | with_reducible exact act_refuse _ _
    | with_reducible exact act_wait
    | with_reducible apply act_done
    | with_reducible apply act_long
    | with_reducible apply keeps_State_noteState
    | with_reducible apply keeps_State_runOp
    | with_reducible apply keeps_State_modPort
    | with_reducible apply keeps_State_evalPorts
    | with_reducible apply keeps_State_startFast
    | with_reducible apply keeps_State_startTraining
    | intro _
    | split
    | dsimp only

theorem keeps_execOpLaneMargin (q : Req) (s : State)  (hK : Keeps sB s) : ∃ u, (execOpLaneMargin q s) = .next u ∧ Keeps sB u := by
  unfold execOpLaneMargin
  refine ⟨_, rfl, ?_⟩
  repeat' first
    | with_reducible assumption
    | with_reducible exact act_refuse _ _
    | with_reducible exact act_wait
    | with_reducible apply act_done
    | with_reducible apply act_long
    | with_reducible apply keeps_State_runOp
    | with_reducible apply keeps_onPins
    | intro _
    | split
    | dsimp only

theorem keeps_execLaneMarginDone (iface index : Nat) (lanes : List LaneReading) (s : State)  (hK : Keeps sB s) : ∃ u, (execLaneMarginDone iface index lanes s) = .next u ∧ Keeps sB u := by
  unfold execLaneMarginDone
  refine ⟨_, rfl, ?_⟩
  repeat' first
    | with_reducible assumption
    | with_reducible apply keeps_State_finishAt
    | with_reducible apply keeps_onPins
    | intro _
    | split
    | dsimp only

end Sys2Proof.Laws
end

