-- ==== Sys2Proof/Laws/KeepsPackets.lean ====
section
/-! SUPPORT. What the operations of Machine/Packets.lean keep (Laws/Keeps.lean says what that is). -/

namespace Sys2Proof.Laws

open Sys2Proof Sys2Proof.Machine

variable {sB : State}

theorem keeps_State_checked (s : State) (port : Nat) (k : Packet) (f : State → State) (hf : ∀ a0, Keeps sB a0 → Keeps sB (f a0)) (hK : Keeps sB s) : Keeps sB (State.checked s port k f) := by
  unfold State.checked
  repeat' first
    | with_reducible assumption
    | with_reducible apply hf
    | with_reducible apply keeps_State_count
    | with_reducible apply keeps_State_stepFault
    | intro _
    | split
    | dsimp only

theorem keeps_State_dataPacket (s : State) (port ty : Nat) (k : Packet) (rule : State → Packet → State) (hrule : ∀ a0 a1, Keeps sB a0 → Keeps sB (rule a0 a1)) (hK : Keeps sB s) : Keeps sB (State.dataPacket s port ty k rule) := by
  unfold State.dataPacket
  repeat' first
    | with_reducible assumption
    | with_reducible apply hrule
    | with_reducible apply keeps_State_noteState
    | with_reducible apply keeps_State_arrive
    | with_reducible apply keeps_State_checked
    | intro _
    | split
    | dsimp only

theorem keeps_State_landWrite (s : State) (u : UnitId) (k : Packet)  (hK : Keeps sB s) : Keeps sB (State.landWrite s u k) := by
  unfold State.landWrite
  repeat' first
    | with_reducible assumption
    | with_reducible apply keeps_State_addMarks
    | with_reducible apply keeps_State_landBlock
    | with_reducible apply keeps_State_rangeFault
    | with_reducible apply keeps_State_fillSpace
    | intro _
    | split
    | dsimp only

theorem keeps_execWritePacket (port : Nat) (k : Packet) (s : State)  (hK : Keeps sB s) : ∃ u, (execWritePacket port k s) = .next u ∧ Keeps sB u := by
  unfold execWritePacket
  refine ⟨_, rfl, ?_⟩
  repeat' first
    | with_reducible assumption
    | with_reducible apply keeps_State_dataPacket
    | with_reducible apply keeps_State_landWrite
    | intro _
    | split
    | dsimp only

theorem keeps_State_answerRead (s : State) (u : UnitId) (k : Packet)  (hK : Keeps sB s) : Keeps sB (State.answerRead s u k) := by
  unfold State.answerRead
  repeat' first
    | with_reducible assumption
    | with_reducible apply keeps_State_sendPacket
    | with_reducible apply keeps_State_memUe
    | with_reducible apply keeps_State_rangeFault
    | intro _
    | split
    | dsimp only

theorem keeps_execReadReq (port : Nat) (k : Packet) (s : State)  (hK : Keeps sB s) : ∃ u, (execReadReq port k s) = .next u ∧ Keeps sB u := by
  unfold execReadReq
  refine ⟨_, rfl, ?_⟩
  repeat' first
    | with_reducible assumption
    | with_reducible apply keeps_State_dataPacket
    | with_reducible apply keeps_State_answerRead
    | intro _
    | split
    | dsimp only

theorem keeps_State_takeRead (s : State) (k : Packet)  (hK : Keeps sB s) : Keeps sB (State.takeRead s k) := by
  unfold State.takeRead
  repeat' first
    | with_reducible assumption
    | with_reducible apply keeps_foldl
    | with_reducible apply keeps_State_fillLine
    | with_reducible apply keeps_State_executed
    | with_reducible apply keeps_State_operate
    | with_reducible apply keeps_State_putAt
    | with_reducible apply keeps_onFab
    | intro _
    | split
    | dsimp only

theorem keeps_execReadRsp (port : Nat) (k : Packet) (s : State)  (hK : Keeps sB s) : ∃ u, (execReadRsp port k s) = .next u ∧ Keeps sB u := by
  unfold execReadRsp
  refine ⟨_, rfl, ?_⟩
  repeat' first
    | with_reducible assumption
    | with_reducible apply keeps_State_dataPacket
    | with_reducible apply keeps_State_takeRead
    | intro _
    | split
    | dsimp only

theorem keeps_execRedPacket (port : Nat) (k : Packet) (s : State)  (hK : Keeps sB s) : ∃ u, (execRedPacket port k s) = .next u ∧ Keeps sB u := by
  unfold execRedPacket
  refine ⟨_, rfl, ?_⟩
  repeat' first
    | with_reducible assumption
    | with_reducible apply keeps_State_applyRed
    | with_reducible apply keeps_State_dataPacket
    | intro _
    | split
    | dsimp only

theorem keeps_execMcastPacket (port : Nat) (k : Packet) (s : State)  (hK : Keeps sB s) : ∃ u, (execMcastPacket port k s) = .next u ∧ Keeps sB u := by
  unfold execMcastPacket
  refine ⟨_, rfl, ?_⟩
  repeat' first
    | with_reducible assumption
    | with_reducible apply keeps_State_mcastAt
    | with_reducible apply keeps_State_dataPacket
    | intro _
    | split
    | dsimp only

theorem keeps_execDispatchPacket (port : Nat) (k : Packet) (s : State)  (hK : Keeps sB s) : ∃ u, (execDispatchPacket port k s) = .next u ∧ Keeps sB u := by
  unfold execDispatchPacket
  refine ⟨_, rfl, ?_⟩
  repeat' first
    | with_reducible assumption
    | with_reducible apply keeps_State_landSlot
    | with_reducible apply keeps_State_dataPacket
    | intro _
    | split
    | dsimp only

theorem keeps_execDispatchEnd (port : Nat) (k : Packet) (s : State)  (hK : Keeps sB s) : ∃ u, (execDispatchEnd port k s) = .next u ∧ Keeps sB u := by
  unfold execDispatchEnd
  refine ⟨_, rfl, ?_⟩
  repeat' first
    | with_reducible assumption
    | with_reducible apply keeps_State_noteEnd
    | with_reducible apply keeps_State_dataPacket
    | intro _
    | split
    | dsimp only

theorem keeps_execRet (port : Nat) (k : Packet) (s : State)  (hK : Keeps sB s) : ∃ u, (execRet port k s) = .next u ∧ Keeps sB u := by
  unfold execRet
  refine ⟨_, rfl, ?_⟩
  repeat' first
    | with_reducible assumption
    | with_reducible apply keeps_State_landReturn
    | with_reducible apply keeps_State_dataPacket
    | intro _
    | split
    | dsimp only

theorem keeps_execBufFree (port : Nat) (k : Packet) (s : State)  (hK : Keeps sB s) : ∃ u, (execBufFree port k s) = .next u ∧ Keeps sB u := by
  unfold execBufFree
  refine ⟨_, rfl, ?_⟩
  repeat' first
    | with_reducible assumption
    | with_reducible apply keeps_State_noteFree
    | with_reducible apply keeps_State_dataPacket
    | intro _
    | split
    | dsimp only

theorem keeps_execCollPacket (port : Nat) (k : Packet) (s : State)  (hK : Keeps sB s) : ∃ u, (execCollPacket port k s) = .next u ∧ Keeps sB u := by
  unfold execCollPacket
  refine ⟨_, rfl, ?_⟩
  repeat' first
    | with_reducible assumption
    | with_reducible apply keeps_State_takeSeg
    | with_reducible apply keeps_State_dataPacket
    | intro _
    | split
    | dsimp only

theorem keeps_execCreditPacket (port : Nat) (k : Packet) (s : State)  (hK : Keeps sB s) : ∃ u, (execCreditPacket port k s) = .next u ∧ Keeps sB u := by
  unfold execCreditPacket
  refine ⟨_, rfl, ?_⟩
  repeat' first
    | with_reducible assumption
    | with_reducible apply keeps_State_takeCredit
    | with_reducible apply keeps_State_dataPacket
    | intro _
    | split
    | dsimp only

end Sys2Proof.Laws
end

