-- ==== Sys2Proof/Laws/KeepsPlanPlaces.lean ====
section
/-! SUPPORT. What the operations of Machine/PlanPlaces.lean keep (Laws/Keeps.lean says what that is). -/

namespace Sys2Proof.Laws

open Sys2Proof Sys2Proof.Machine

variable {sB : State}

theorem keeps_State_clearFor (s : State) (draft : Bool)  (hK : Keeps sB s) : Keeps sB (State.clearFor s draft) := by
  unfold State.clearFor
  repeat' first
    | with_reducible assumption
    | with_reducible apply keeps_foldl
    | with_reducible apply keeps_State_unmapPlan
    | intro _
    | split
    | dsimp only

theorem keeps_State_fitTensor (p : PlanObj) (start : Nat → Nat) (e : Nat × List Nat) (s : State) (hK : Keeps sB s) :
    SumKeeps sB (State.fitTensor p start e s) := by
  unfold State.fitTensor
  have hm := keeps_State_mapTensor s p start e.2 (tnPages e.2) hK
  generalize s.mapTensor p start e.2 (tnPages e.2) = o at hm
  split
  · exact hK
  · split
    · trivial
    · exact hm

theorem keeps_State_fitTensors (p : PlanObj) (start : Nat → Nat) (l : List (Nat × List Nat)) (s : State) (hK : Keeps sB s) :
    SumKeeps sB (State.fitTensors p start l s) := by
  unfold State.fitTensors
  suffices h : ∀ a : State ⊕ Nat, SumKeeps sB a → SumKeeps sB (l.foldl (fun (a : State ⊕ Nat) e => match a with
      | .inl t => State.fitTensor p start e t
      | .inr i => .inr i) a) from h _ hK
  induction l with
  | nil => exact fun a h => h
  | cons e r ih =>
    intro a h
    refine ih _ ?_
    cases a with
    | inl t => exact keeps_State_fitTensor _ _ _ _ h
    | inr i => trivial

theorem keeps_State_fitPlan (s : State) (p : PlanObj) (draft : Bool)  (hK : Keeps sB s) : SumKeeps sB (State.fitPlan s p draft) := by
  unfold State.fitPlan
  repeat' first
    | with_reducible assumption
    | with_reducible apply sum_inl
    | with_reducible exact sum_inr _
    | (refine sum_get ?_ (by assumption); with_reducible apply keeps_State_fitTensors)
    | with_reducible apply keeps_State_clearFor
    | with_reducible apply keeps_State_fitTensors
    | intro _
    | split
    | dsimp only

end Sys2Proof.Laws
end

