-- ==== Sys2Proof/Laws/KeepsPlanLoad.lean ====
section
/-! SUPPORT. What the operations of Machine/PlanLoad.lean keep (Laws/Keeps.lean says what that is). -/

namespace Sys2Proof.Laws

open Sys2Proof Sys2Proof.Machine

variable {sB : State}

theorem keeps_State_viewed (s : State) (p : PlanObj)  (hK : Keeps sB s) : Keeps sB (State.viewed s p) := by
  unfold State.viewed
  repeat' first
    | with_reducible assumption
    | with_reducible apply keeps_onWts
    | intro _
    | split
    | dsimp only

theorem keeps_execOpPlanLoad (q : Req) (s : State)  (hK : Keeps sB s) : ∃ u, (execOpPlanLoad q s) = .next u ∧ Keeps sB u := by
  unfold execOpPlanLoad
  refine ⟨_, rfl, ?_⟩
  repeat' first
    | with_reducible assumption
    | with_reducible exact act_refuse _ _
    | with_reducible exact act_wait
    | with_reducible apply act_done
    | with_reducible apply act_long
    | with_reducible apply keeps_State_runOp
    | with_reducible apply keeps_State_objAct
    | with_reducible apply keeps_onWts
    | intro _
    | split
    | dsimp only

theorem keeps_State_placePlan (s : State) (p : PlanObj) (draft : Bool)  (hK : Keeps sB s) : Keeps sB (State.placePlan s p draft) := by
  unfold State.placePlan
  repeat' first
    | with_reducible assumption
    | with_reducible apply keeps_State_loadMain
    | with_reducible apply keeps_State_loadDraft
    | with_reducible apply keeps_onWts
    | intro _
    | split
    | dsimp only

theorem keeps_execPlanCheckDone (s : State)  (hK : Keeps sB s) : ∃ u, (execPlanCheckDone s) = .next u ∧ Keeps sB u := by
  unfold execPlanCheckDone
  refine ⟨_, rfl, ?_⟩
  repeat' first
    | with_reducible assumption
    | with_reducible apply keeps_State_noteState
    | with_reducible apply keeps_State_finishAt
    | with_reducible apply keeps_State_placePlan
    | with_reducible apply keeps_onWts
    | intro _
    | split
    | dsimp only

end Sys2Proof.Laws
end

