-- ==== Sys2Proof/Laws/KeepsRecords.lean ====
section
/-! SUPPORT. What the operations of Machine/Records.lean keep (Laws/Keeps.lean says what that is). -/

namespace Sys2Proof.Laws

open Sys2Proof Sys2Proof.Machine

variable {sB : State}

theorem keeps_execOpCounterRead (q : Req) (s : State)  (hK : Keeps sB s) : ∃ u, (execOpCounterRead q s) = .next u ∧ Keeps sB u := by
  unfold execOpCounterRead
  refine ⟨_, rfl, ?_⟩
  repeat' first
    | with_reducible assumption
    | with_reducible exact act_refuse _ _
    | with_reducible exact act_wait
    | with_reducible apply act_done
    | with_reducible apply act_long
    | with_reducible apply keeps_State_runOp
    | intro _
    | split
    | dsimp only

theorem keeps_execOpEventRead (q : Req) (s : State)  (hK : Keeps sB s) : ∃ u, (execOpEventRead q s) = .next u ∧ Keeps sB u := by
  unfold execOpEventRead
  refine ⟨_, rfl, ?_⟩
  repeat' first
    | with_reducible assumption
    | with_reducible exact act_refuse _ _
    | with_reducible exact act_wait
    | with_reducible apply act_done
    | with_reducible apply act_long
    | with_reducible apply keeps_State_runOp
    | intro _
    | split
    | dsimp only

theorem keeps_execOpAccountingRead (q : Req) (s : State)  (hK : Keeps sB s) : ∃ u, (execOpAccountingRead q s) = .next u ∧ Keeps sB u := by
  unfold execOpAccountingRead
  refine ⟨_, rfl, ?_⟩
  repeat' first
    | with_reducible assumption
    | with_reducible exact act_refuse _ _
    | with_reducible exact act_wait
    | with_reducible apply act_done
    | with_reducible apply act_long
    | with_reducible apply keeps_State_runOp
    | intro _
    | split
    | dsimp only

theorem keeps_execOpFaultRead (q : Req) (s : State)  (hK : Keeps sB s) : ∃ u, (execOpFaultRead q s) = .next u ∧ Keeps sB u := by
  unfold execOpFaultRead
  refine ⟨_, rfl, ?_⟩
  repeat' first
    | with_reducible assumption
    | with_reducible exact act_refuse _ _
    | with_reducible exact act_wait
    | with_reducible apply act_done
    | with_reducible apply act_long
    | with_reducible apply keeps_State_runOp
    | intro _
    | split
    | dsimp only

theorem keeps_execOpFaultAck (q : Req) (s : State)  (hK : Keeps sB s) : ∃ u, (execOpFaultAck q s) = .next u ∧ Keeps sB u := by
  unfold execOpFaultAck
  refine ⟨_, rfl, ?_⟩
  repeat' first
    | with_reducible assumption
    | with_reducible exact act_refuse _ _
    | with_reducible exact act_wait
    | with_reducible apply act_done
    | with_reducible apply act_long
    | with_reducible apply keeps_State_runOp
    | with_reducible apply keeps_onInteg
    | intro _
    | split
    | dsimp only

theorem keeps_execOpHealthRead (q : Req) (s : State)  (hK : Keeps sB s) : ∃ u, (execOpHealthRead q s) = .next u ∧ Keeps sB u := by
  unfold execOpHealthRead
  refine ⟨_, rfl, ?_⟩
  repeat' first
    | with_reducible assumption
    | with_reducible exact act_refuse _ _
    | with_reducible exact act_wait
    | with_reducible apply act_done
    | with_reducible apply act_long
    | with_reducible apply keeps_State_runOp
    | intro _
    | split
    | dsimp only

theorem keeps_State_selfRun (s : State) (c : Cmd) (k : Nat) (tiles : List Nat)  (hK : Keeps sB s) : ActKeeps sB (State.selfRun s c k tiles) := by
  unfold State.selfRun
  repeat' first
    | with_reducible assumption
    | with_reducible exact act_refuse _ _
    | with_reducible exact act_wait
    | with_reducible apply act_done
    | with_reducible apply act_long
    | with_reducible apply keeps_onInteg
    | intro _
    | split
    | dsimp only

theorem keeps_execSelftestCheckers (q : Req) (s : State)  (hK : Keeps sB s) : ∃ u, (execSelftestCheckers q s) = .next u ∧ Keeps sB u := by
  unfold execSelftestCheckers
  refine ⟨_, rfl, ?_⟩
  repeat' first
    | with_reducible assumption
    | with_reducible exact act_refuse _ _
    | with_reducible exact act_wait
    | with_reducible apply act_done
    | with_reducible apply act_long
    | with_reducible apply keeps_State_runOp
    | with_reducible apply keeps_State_selfRun
    | intro _
    | split
    | dsimp only

theorem keeps_execSelftestTile (q : Req) (s : State) (hK : Keeps sB s) : ∃ u, (execSelftestTile q s) = .next u ∧ Keeps sB u := by
  unfold execSelftestTile
  refine ⟨_, rfl, ?_⟩
  refine keeps_State_runOp _ _ _ _ _ _ (fun a c ha => ?_) hK
  extract_lets p
  have hr := keeps_State_selfRun a c 1 [p] ha
  split
  · rename_i s1 o b d e
    rw [e] at hr
    have h1 : Keeps sB s1 := hr
    show Keeps sB _
    split
    · exact keeps_State_startTests _ _ h1
    · exact keeps_State_addCause _ _ _ h1
  · exact hr

theorem keeps_execSelftestAllDue (q : Req) (s : State) (hK : Keeps sB s) : ∃ u, (execSelftestAllDue q s) = .next u ∧ Keeps sB u := by
  unfold execSelftestAllDue
  refine ⟨_, rfl, ?_⟩
  refine keeps_State_runOp _ _ _ _ _ _ (fun a c ha => ?_) hK
  extract_lets due
  clear_value due
  have hr := keeps_State_selfRun a c 2 due ha
  split
  · exact act_refuse _ _
  · split
    · exact act_done _ _ _ ha
    · split
      · rename_i s1 o b d e
        rw [e] at hr
        exact keeps_foldl _ _ _ (fun x d hx => keeps_State_startTests _ _ hx)
          (keeps_foldl _ _ _ (fun x d hx => keeps_State_addCause _ _ _ hx) hr)
      · exact hr

theorem keeps_execCheckerTestDone (failed : Option (Nat × UnitId)) (s : State)  (hK : Keeps sB s) : ∃ u, (execCheckerTestDone failed s) = .next u ∧ Keeps sB u := by
  unfold execCheckerTestDone
  refine ⟨_, rfl, ?_⟩
  repeat' first
    | with_reducible assumption
    | with_reducible apply keeps_State_finishAt
    | with_reducible apply keeps_State_checkerResult
    | with_reducible apply keeps_onInteg
    | intro _
    | split
    | dsimp only

theorem keeps_execTestDue (ptile : Nat) (s : State)  (hK : Keeps sB s) : ∃ u, (execTestDue ptile s) = .next u ∧ Keeps sB u := by
  unfold execTestDue
  refine ⟨_, rfl, ?_⟩
  repeat' first
    | with_reducible assumption
    | with_reducible apply keeps_State_addCause
    | with_reducible apply keeps_State_startTests
    | intro _
    | split
    | dsimp only

theorem keeps_execTestComplete (ptile : Nat) (pass : Bool) (s : State)  (hK : Keeps sB s) : ∃ u, (execTestComplete ptile pass s) = .next u ∧ Keeps sB u := by
  unfold execTestComplete
  refine ⟨_, rfl, ?_⟩
  repeat' first
    | with_reducible assumption
    | with_reducible apply keeps_State_endTest
    | intro _
    | split
    | dsimp only

theorem keeps_execTestOverdue (ptile : Nat) (s : State)  (hK : Keeps sB s) : ∃ u, (execTestOverdue ptile s) = .next u ∧ Keeps sB u := by
  unfold execTestOverdue
  refine ⟨_, rfl, ?_⟩
  repeat' first
    | with_reducible assumption
    | with_reducible apply keeps_State_event
    | with_reducible apply keeps_onInteg
    | intro _
    | split
    | dsimp only

theorem keeps_execOpHistoryRead (q : Req) (s : State)  (hK : Keeps sB s) : ∃ u, (execOpHistoryRead q s) = .next u ∧ Keeps sB u := by
  unfold execOpHistoryRead
  refine ⟨_, rfl, ?_⟩
  repeat' first
    | with_reducible assumption
    | with_reducible exact act_refuse _ _
    | with_reducible exact act_wait
    | with_reducible apply act_done
    | with_reducible apply act_long
    | with_reducible apply keeps_State_log
    | with_reducible apply keeps_State_runOp
    | intro _
    | split
    | dsimp only

theorem keeps_execFaultCountSecond (code : Nat) (unit : UnitId) (s : State)  (hK : Keeps sB s) : ∃ u, (execFaultCountSecond code unit s) = .next u ∧ Keeps sB u := by
  unfold execFaultCountSecond
  refine ⟨_, rfl, ?_⟩
  repeat' first
    | with_reducible assumption
    | with_reducible apply keeps_State_count
    | with_reducible apply keeps_State_faultRecord
    | with_reducible apply keeps_onInteg
    | intro _
    | split
    | dsimp only

theorem keeps_execSetEventReceiver (receiver : Option (Nat × Nat)) (s : State)  (hK : Keeps sB s) : ∃ u, (execSetEventReceiver receiver s) = .next u ∧ Keeps sB u := by
  unfold execSetEventReceiver
  refine ⟨_, rfl, ?_⟩
  repeat' first
    | with_reducible assumption
    | with_reducible apply keeps_State_setAlert
    | with_reducible apply keeps_State_exportPldm
    | with_reducible apply keeps_onInteg
    | intro _
    | split
    | dsimp only

theorem keeps_execPldmEventResponse (s : State)  (hK : Keeps sB s) : ∃ u, (execPldmEventResponse s) = .next u ∧ Keeps sB u := by
  unfold execPldmEventResponse
  refine ⟨_, rfl, ?_⟩
  repeat' first
    | with_reducible assumption
    | with_reducible apply keeps_State_setAlert
    | with_reducible apply keeps_State_exportPldm
    | with_reducible apply keeps_onInteg
    | intro _
    | split
    | dsimp only

theorem keeps_execPldmExportRetry (s : State)  (hK : Keeps sB s) : ∃ u, (execPldmExportRetry s) = .next u ∧ Keeps sB u := by
  unfold execPldmExportRetry
  refine ⟨_, rfl, ?_⟩
  repeat' first
    | with_reducible assumption
    | with_reducible apply keeps_State_emit
    | with_reducible apply keeps_State_count
    | with_reducible apply keeps_State_exportPldm
    | with_reducible apply keeps_onInteg
    | intro _
    | split
    | dsimp only

theorem keeps_execCollectorAck (c recordId : Nat) (s : State)  (hK : Keeps sB s) : ∃ u, (execCollectorAck c recordId s) = .next u ∧ Keeps sB u := by
  unfold execCollectorAck
  refine ⟨_, rfl, ?_⟩
  repeat' first
    | with_reducible assumption
    | with_reducible apply keeps_State_putCollector
    | with_reducible apply keeps_State_exportTo
    | with_reducible apply keeps_onInteg
    | intro _
    | split
    | dsimp only

theorem keeps_execCollectorResend (c recordId : Nat) (s : State)  (hK : Keeps sB s) : ∃ u, (execCollectorResend c recordId s) = .next u ∧ Keeps sB u := by
  unfold execCollectorResend
  refine ⟨_, rfl, ?_⟩
  repeat' first
    | with_reducible assumption
    | with_reducible apply keeps_State_emit
    | with_reducible apply keeps_State_count
    | with_reducible apply keeps_State_putCollector
    | with_reducible apply keeps_State_exportTo
    | intro _
    | split
    | dsimp only

end Sys2Proof.Laws
end

