-- ==== Sys2Proof/Laws/KeepsSpdm.lean ====
section
/-! SUPPORT. What the operations of Machine/Spdm.lean keep (Laws/Keeps.lean says what that is). -/

namespace Sys2Proof.Laws

open Sys2Proof Sys2Proof.Machine

variable {sB : State}

theorem keeps_execOpCertRead (q : Req) (s : State)  (hK : Keeps sB s) : ∃ u, (execOpCertRead q s) = .next u ∧ Keeps sB u := by
  unfold execOpCertRead
  refine ⟨_, rfl, ?_⟩
  repeat' first
    | with_reducible assumption
    | with_reducible exact act_refuse _ _
    | with_reducible exact act_wait
    | with_reducible apply act_done
    | with_reducible apply act_long
    | with_reducible apply keeps_State_runOp
    | intro _
    | split
    | dsimp only

theorem keeps_State_setSpdm (s : State) (t : SpdmPath) (n : Nat)  (hK : Keeps sB s) : Keeps sB (State.setSpdm s t n) := by
  unfold State.setSpdm
  repeat' first
    | with_reducible assumption
    | with_reducible apply keeps_onSec
    | (show SecKeeps _ _; exact SecKeeps.of_same rfl rfl rfl rfl (by first | exact Or.inl rfl | exact Or.inr rfl))
    | intro _
    | split
    | dsimp only

theorem keeps_State_spdmSay (s : State) (t : SpdmPath) (code : Nat) (body : Bytes) (sig : Option Bytes)  (hK : Keeps sB s) : Keeps sB (State.spdmSay s t code body sig) := by
  unfold State.spdmSay
  repeat' first
    | with_reducible assumption
    | with_reducible apply keeps_State_emit
    | intro _
    | split
    | dsimp only

theorem keeps_State_spdmErr (s : State) (t : SpdmPath) (e : Nat)  (hK : Keeps sB s) : Keeps sB (State.spdmErr s t e) := by
  unfold State.spdmErr
  repeat' first
    | with_reducible assumption
    | with_reducible apply keeps_State_emit
    | intro _
    | split
    | dsimp only

theorem keeps_State_spdmReq (s : State) (t : SpdmPath) (need : Nat) (rule : State → State) (hrule : ∀ a0, Keeps sB a0 → Keeps sB (rule a0)) (hK : Keeps sB s) : Keeps sB (State.spdmReq s t need rule) := by
  unfold State.spdmReq
  repeat' first
    | with_reducible assumption
    | with_reducible apply hrule
    | with_reducible apply keeps_State_setSpdm
    | with_reducible apply keeps_State_spdmErr
    | with_reducible apply keeps_onSec
    | (show SecKeeps _ _; exact SecKeeps.of_same rfl rfl rfl rfl (by first | exact Or.inl rfl | exact Or.inr rfl))
    | intro _
    | split
    | dsimp only

theorem keeps_execGetVersion (t : SpdmPath) (s : State)  (hK : Keeps sB s) : ∃ u, (execGetVersion t s) = .next u ∧ Keeps sB u := by
  unfold execGetVersion
  refine ⟨_, rfl, ?_⟩
  repeat' first
    | with_reducible assumption
    | with_reducible apply keeps_State_setSpdm
    | with_reducible apply keeps_State_spdmSay
    | with_reducible apply keeps_State_spdmReq
    | intro _
    | split
    | dsimp only

theorem keeps_execGetCapabilities (t : SpdmPath) (version : Nat) (s : State)  (hK : Keeps sB s) : ∃ u, (execGetCapabilities t version s) = .next u ∧ Keeps sB u := by
  unfold execGetCapabilities
  refine ⟨_, rfl, ?_⟩
  repeat' first
    | with_reducible assumption
    | with_reducible apply keeps_State_setSpdm
    | with_reducible apply keeps_State_spdmSay
    | with_reducible apply keeps_State_spdmErr
    | with_reducible apply keeps_State_spdmReq
    | intro _
    | split
    | dsimp only

theorem keeps_execNegotiateAlgorithms (t : SpdmPath) (p384 sha384 dmtf : Bool) (s : State)  (hK : Keeps sB s) : ∃ u, (execNegotiateAlgorithms t p384 sha384 dmtf s) = .next u ∧ Keeps sB u := by
  unfold execNegotiateAlgorithms
  refine ⟨_, rfl, ?_⟩
  repeat' first
    | with_reducible assumption
    | with_reducible apply keeps_State_setSpdm
    | with_reducible apply keeps_State_spdmSay
    | with_reducible apply keeps_State_spdmErr
    | with_reducible apply keeps_State_spdmReq
    | intro _
    | split
    | dsimp only

theorem keeps_execGetDigests (t : SpdmPath) (s : State)  (hK : Keeps sB s) : ∃ u, (execGetDigests t s) = .next u ∧ Keeps sB u := by
  unfold execGetDigests
  refine ⟨_, rfl, ?_⟩
  repeat' first
    | with_reducible assumption
    | with_reducible apply keeps_State_spdmSay
    | with_reducible apply keeps_State_spdmReq
    | intro _
    | split
    | dsimp only

theorem keeps_execGetCertificate (t : SpdmPath) (slot off len : Nat) (s : State)  (hK : Keeps sB s) : ∃ u, (execGetCertificate t slot off len s) = .next u ∧ Keeps sB u := by
  unfold execGetCertificate
  refine ⟨_, rfl, ?_⟩
  repeat' first
    | with_reducible assumption
    | with_reducible apply keeps_State_spdmSay
    | with_reducible apply keeps_State_spdmErr
    | with_reducible apply keeps_State_spdmReq
    | intro _
    | split
    | dsimp only

theorem keeps_execChallenge (t : SpdmPath) (slot : Nat) (nonce : Bytes) (hashType : Nat) (s : State)  (hK : Keeps sB s) : ∃ u, (execChallenge t slot nonce hashType s) = .next u ∧ Keeps sB u := by
  unfold execChallenge
  refine ⟨_, rfl, ?_⟩
  repeat' first
    | with_reducible assumption
    | with_reducible apply keeps_State_drawn
    | with_reducible apply keeps_State_spdmSay
    | with_reducible apply keeps_State_spdmErr
    | with_reducible apply keeps_State_spdmReq
    | intro _
    | split
    | dsimp only

theorem keeps_execGetMeasurements (t : SpdmPath) (index : Nat) (signed : Bool) (nonce : Bytes) (s : State)  (hK : Keeps sB s) : ∃ u, (execGetMeasurements t index signed nonce s) = .next u ∧ Keeps sB u := by
  unfold execGetMeasurements
  refine ⟨_, rfl, ?_⟩
  repeat' first
    | with_reducible assumption
    | with_reducible apply keeps_State_drawn
    | with_reducible apply keeps_State_spdmSay
    | with_reducible apply keeps_State_spdmErr
    | with_reducible apply keeps_State_spdmReq
    | intro _
    | split
    | dsimp only

theorem keeps_execSpdmUnsupportedRequest (t : SpdmPath) (_code : Nat) (s : State)  (hK : Keeps sB s) : ∃ u, (execSpdmUnsupportedRequest t _code s) = .next u ∧ Keeps sB u := by
  unfold execSpdmUnsupportedRequest
  refine ⟨_, rfl, ?_⟩
  repeat' first
    | with_reducible assumption
    | with_reducible apply keeps_State_spdmErr
    | with_reducible apply keeps_State_spdmReq
    | intro _
    | split
    | dsimp only

end Sys2Proof.Laws
end

