-- ==== Sys2Proof/Laws/KeepsStrip.lean ====
section
/-! SUPPORT. What the operations of Machine/Strip.lean keep (Laws/Keeps.lean says what that is). -/

namespace Sys2Proof.Laws

open Sys2Proof Sys2Proof.Machine

variable {sB : State}

theorem keeps_State_raisePromotion (s : State) (step layer id : Nat)  (hK : Keeps sB s) : Keeps sB (State.raisePromotion s step layer id) := by
  unfold State.raisePromotion
  repeat' first
    | with_reducible assumption
    | with_reducible apply keeps_State_count
    | with_reducible apply keeps_State_event
    | with_reducible apply keeps_State_sendAll
    | with_reducible apply keeps_State_notePromotion
    | with_reducible apply keeps_onSrv
    | intro _
    | split
    | dsimp only

theorem keeps_State_overrun (s : State) (r : Run) (ct from_ until_ : Nat)  (hK : Keeps sB s) : Keeps sB (State.overrun s r ct from_ until_) := by
  unfold State.overrun
  repeat' first
    | with_reducible assumption
    | with_reducible apply keeps_State_stall
    | intro _
    | split
    | dsimp only

theorem keeps_State_replayed (s : State) (r : Run)  (hK : Keeps sB s) : Keeps sB (State.replayed s r) := by
  unfold State.replayed
  repeat' first
    | with_reducible assumption
    | with_reducible apply keeps_State_modStep
    | intro _
    | split
    | dsimp only

theorem keeps_State_stripFallback (s : State) (r : Run) (h : Held) (worst : Word32)  (hK : Keeps sB s) : Keeps sB (State.stripFallback s r h worst) := by
  unfold State.stripFallback
  repeat' first
    | with_reducible assumption
    | with_reducible apply keeps_foldl
    | with_reducible apply keeps_State_count
    | with_reducible apply keeps_State_event
    | with_reducible apply keeps_State_raisePromotion
    | with_reducible apply keeps_onTiles
    | intro _
    | split
    | dsimp only

theorem keeps_State_settleStrip (s : State) (r : Run) (h : Held)  (hK : Keeps sB s) : Keeps sB (State.settleStrip s r h) := by
  unfold State.settleStrip
  repeat' first
    | with_reducible assumption
    | with_reducible apply keeps_foldl
    | with_reducible exact act_refuse _ _
    | with_reducible exact act_wait
    | with_reducible apply act_done
    | with_reducible apply act_long
    | with_reducible apply keeps_State_count
    | with_reducible apply keeps_State_traceRec
    | with_reducible apply keeps_State_modTile
    | with_reducible apply keeps_State_release
    | with_reducible apply keeps_State_overrun
    | with_reducible apply keeps_State_replayed
    | with_reducible apply keeps_State_stripFallback
    | intro _
    | split
    | dsimp only

theorem keeps_execStripJudge (tile : Nat) (s : State)  (hK : Keeps sB s) : ∃ u, (execStripJudge tile s) = .next u ∧ Keeps sB u := by
  unfold execStripJudge
  refine ⟨_, rfl, ?_⟩
  repeat' first
    | with_reducible assumption
    | with_reducible apply keeps_State_vector
    | with_reducible apply keeps_State_putHeld
    | with_reducible apply keeps_State_settleStrip
    | intro _
    | split
    | dsimp only

theorem keeps_State_putBlock (s : State) (r : Run) (h : Held) (k : Nat) (ws : List Word32)  (hK : Keeps sB s) : Keeps sB (State.putBlock s r h k ws) := by
  unfold State.putBlock
  repeat' first
    | with_reducible assumption
    | with_reducible apply keeps_foldl
    | with_reducible apply keeps_State_write
    | intro _
    | split
    | dsimp only

theorem keeps_execShadowCheckRun (tile : Nat) (s : State)  (hK : Keeps sB s) : ∃ u, (execShadowCheckRun tile s) = .next u ∧ Keeps sB u := by
  unfold execShadowCheckRun
  refine ⟨_, rfl, ?_⟩
  repeat' first
    | with_reducible assumption
    | with_reducible apply keeps_State_putHeld
    | with_reducible apply keeps_onTiles
    | intro _
    | split
    | dsimp only

theorem keeps_State_voteDone (s : State) (r : Run) (h : Held) (k : Nat)  (hK : Keeps sB s) : Keeps sB (State.voteDone s r h k) := by
  unfold State.voteDone
  repeat' first
    | with_reducible assumption
    | with_reducible exact act_refuse _ _
    | with_reducible exact act_wait
    | with_reducible apply act_done
    | with_reducible apply act_long
    | with_reducible apply keeps_State_traceRec
    | with_reducible apply keeps_State_release
    | with_reducible apply keeps_State_putHeld
    | with_reducible apply keeps_State_overrun
    | with_reducible apply keeps_State_replayed
    | with_reducible apply keeps_State_settleStrip
    | intro _
    | split
    | dsimp only

theorem keeps_State_loseVote (s : State) (r : Run) (h : Held) (k tile : Nat)  (hK : Keeps sB s) : Keeps sB (State.loseVote s r h k tile) := by
  unfold State.loseVote
  repeat' first
    | with_reducible assumption
    | with_reducible apply keeps_State_count
    | with_reducible apply keeps_State_transient
    | with_reducible apply keeps_State_voteDone
    | intro _
    | split
    | dsimp only

theorem keeps_execShadowVote (tile : Nat) (s : State)  (hK : Keeps sB s) : ∃ u, (execShadowVote tile s) = .next u ∧ Keeps sB u := by
  unfold execShadowVote
  refine ⟨_, rfl, ?_⟩
  repeat' first
    | with_reducible assumption
    | with_reducible apply keeps_foldl
    | with_reducible exact act_refuse _ _
    | with_reducible exact act_wait
    | with_reducible apply act_done
    | with_reducible apply act_long
    | with_reducible apply keeps_State_count
    | with_reducible apply keeps_State_noteState
    | with_reducible apply keeps_State_stepFault
    | with_reducible apply keeps_State_transient
    | with_reducible apply keeps_State_putBlock
    | with_reducible apply keeps_State_voteDone
    | with_reducible apply keeps_State_loseVote
    | with_reducible apply keeps_onTiles
    | intro _
    | split
    | dsimp only

end Sys2Proof.Laws
end

