-- ==== Sys2Proof/Laws/KeepsTick.lean ====
section
/-! SUPPORT. What the operations of Machine/Tick.lean keep (Laws/Keeps.lean says what that is). -/

namespace Sys2Proof.Laws

open Sys2Proof Sys2Proof.Machine

variable {sB : State}

theorem keeps_State_stateTime (s : State)  (hK : Keeps sB s) : Keeps sB (State.stateTime s) := by
  unfold State.stateTime
  repeat' first
    | with_reducible assumption
    | with_reducible apply keeps_State_count
    | with_reducible apply keeps_onPwr
    | intro _
    | split
    | dsimp only

end Sys2Proof.Laws
end

