-- ==== Sys2Proof/Laws/KeepsExec.lean ====
section
/-! SUPPORT. Every command answers a next state, and what it keeps (Laws/Keeps.lean says what that is). -/

namespace Sys2Proof.Laws

open Sys2Proof Sys2Proof.Machine

theorem exec_keeps (i : Instr) (s : State) : ∃ u, exec i s = .next u ∧ Keeps s u := by
  cases i with
  | opIdentify q => exact keeps_execOpIdentify q s (Keeps.refl s)
  | opStatus q => exact keeps_execOpStatus q s (Keeps.refl s)
  | opRightsRead q => exact keeps_execOpRightsRead q s (Keeps.refl s)
  | opBegin q => exact keeps_execOpBegin q s (Keeps.refl s)
  | opStage q => exact keeps_execOpStage q s (Keeps.refl s)
  | opRead q => exact keeps_execOpRead q s (Keeps.refl s)
  | opCommit q => exact keeps_execOpCommit q s (Keeps.refl s)
  | opRollback q => exact keeps_execOpRollback q s (Keeps.refl s)
  | opPersist q => exact keeps_execOpPersist q s (Keeps.refl s)
  | opFactoryView q => exact keeps_execOpFactoryView q s (Keeps.refl s)
  | opPlanLoad q => exact keeps_execOpPlanLoad q s (Keeps.refl s)
  | planCheckDone => exact keeps_execPlanCheckDone s (Keeps.refl s)
  | opShardWrite q => exact keeps_execOpShardWrite q s (Keeps.refl s)
  | opShardVerify q => exact keeps_execOpShardVerify q s (Keeps.refl s)
  | shardVerifyDone kind id gen => exact keeps_execShardVerifyDone kind id gen s (Keeps.refl s)
  | opWeightSwap q => exact keeps_execOpWeightSwap q s (Keeps.refl s)
  | opPlanUnload q => exact keeps_execOpPlanUnload q s (Keeps.refl s)
  | opDigestSweep q => exact keeps_execOpDigestSweep q s (Keeps.refl s)
  | opAdapterLoad q => exact keeps_execOpAdapterLoad q s (Keeps.refl s)
  | opAdapterReplace q => exact keeps_execOpAdapterReplace q s (Keeps.refl s)
  | opAdapterUnload q => exact keeps_execOpAdapterUnload q s (Keeps.refl s)
  | opAdapterList q => exact keeps_execOpAdapterList q s (Keeps.refl s)
  | opSliceStart q => exact keeps_execOpSliceStart q s (Keeps.refl s)
  | opSliceStop q => exact keeps_execOpSliceStop q s (Keeps.refl s)
  | opSessionQuery q => exact keeps_execOpSessionQuery q s (Keeps.refl s)
  | opSessionEvict q => exact keeps_execOpSessionEvict q s (Keeps.refl s)
  | opPowerStateSet q => exact keeps_execOpPowerStateSet q s (Keeps.refl s)
  | powerStateEntered => exact keeps_execPowerStateEntered s (Keeps.refl s)
  | opCapSet q => exact keeps_execOpCapSet q s (Keeps.refl s)
  | opPowerRead q => exact keeps_execOpPowerRead q s (Keeps.refl s)
  | opOppointSet q => exact keeps_execOpOppointSet q s (Keeps.refl s)
  | opBudgetRead q => exact keeps_execOpBudgetRead q s (Keeps.refl s)
  | opCounterRead q => exact keeps_execOpCounterRead q s (Keeps.refl s)
  | opEventRead q => exact keeps_execOpEventRead q s (Keeps.refl s)
  | opAccountingRead q => exact keeps_execOpAccountingRead q s (Keeps.refl s)
  | opFaultRead q => exact keeps_execOpFaultRead q s (Keeps.refl s)
  | opFaultAck q => exact keeps_execOpFaultAck q s (Keeps.refl s)
  | opHealthRead q => exact keeps_execOpHealthRead q s (Keeps.refl s)
  | selftestCheckers q => exact keeps_execSelftestCheckers q s (Keeps.refl s)
  | selftestTile q => exact keeps_execSelftestTile q s (Keeps.refl s)
  | selftestAllDue q => exact keeps_execSelftestAllDue q s (Keeps.refl s)
  | opHistoryRead q => exact keeps_execOpHistoryRead q s (Keeps.refl s)
  | opFwHeader q => exact keeps_execOpFwHeader q s (Keeps.refl s)
  | opFwChunk q => exact keeps_execOpFwChunk q s (Keeps.refl s)
  | fwActivateAtReset q => exact keeps_execFwActivateAtReset q s (Keeps.refl s)
  | fwActivateWarm q => exact keeps_execFwActivateWarm q s (Keeps.refl s)
  | fwActivateLive q => exact keeps_execFwActivateLive q s (Keeps.refl s)
  | opHealthConfirm q => exact keeps_execOpHealthConfirm q s (Keeps.refl s)
  | opFwAbort q => exact keeps_execOpFwAbort q s (Keeps.refl s)
  | opLifecycleSet q => exact keeps_execOpLifecycleSet q s (Keeps.refl s)
  | opOwnershipTake q => exact keeps_execOpOwnershipTake q s (Keeps.refl s)
  | opRightsNarrow q => exact keeps_execOpRightsNarrow q s (Keeps.refl s)
  | opDebugLevelSet q => exact keeps_execOpDebugLevelSet q s (Keeps.refl s)
  | opErase q => exact keeps_execOpErase q s (Keeps.refl s)
  | eraseDone failed => exact keeps_execEraseDone failed s (Keeps.refl s)
  | opCertRead q => exact keeps_execOpCertRead q s (Keeps.refl s)
  | opNeighbourRead q => exact keeps_execOpNeighbourRead q s (Keeps.refl s)
  | opLinkStatus q => exact keeps_execOpLinkStatus q s (Keeps.refl s)
  | opLinkRetrain q => exact keeps_execOpLinkRetrain q s (Keeps.refl s)
  | opLaneMargin q => exact keeps_execOpLaneMargin q s (Keeps.refl s)
  | traceRead q => exact keeps_execTraceRead q s (Keeps.refl s)
  | traceStart q => exact keeps_execTraceStart q s (Keeps.refl s)
  | traceStop q => exact keeps_execTraceStop q s (Keeps.refl s)
  | opPhysRead q => exact keeps_execOpPhysRead q s (Keeps.refl s)
  | opPhysWrite q => exact keeps_execOpPhysWrite q s (Keeps.refl s)
  | scanList q => exact keeps_execScanList q s (Keeps.refl s)
  | scanCapture q => exact keeps_execScanCapture q s (Keeps.refl s)
  | scanShiftOut q => exact keeps_execScanShiftOut q s (Keeps.refl s)
  | scanShiftIn q => exact keeps_execScanShiftIn q s (Keeps.refl s)
  | mailboxReset word => exact keeps_execMailboxReset word s (Keeps.refl s)
  | warmReset word => exact keeps_execWarmReset word s (Keeps.refl s)
  | irqClear word => exact keeps_execIrqClear word s (Keeps.refl s)
  | registerWrite off word => exact keeps_execRegisterWrite off word s (Keeps.refl s)
  | slotWriteDenied slot off data => exact keeps_execSlotWriteDenied slot off data s (Keeps.refl s)
  | slotMsgWrite path slot image => exact keeps_execSlotMsgWrite path slot image s (Keeps.refl s)
  | slotMsgRead path slot => exact keeps_execSlotMsgRead path slot s (Keeps.refl s)
  | mboxAccess slot write image => exact keeps_execMboxAccess slot write image s (Keeps.refl s)
  | pcieLinkReset kind => exact keeps_execPcieLinkReset kind s (Keeps.refl s)
  | heartbeat => exact keeps_execHeartbeat s (Keeps.refl s)
  | getVersion t => exact keeps_execGetVersion t s (Keeps.refl s)
  | getCapabilities t version => exact keeps_execGetCapabilities t version s (Keeps.refl s)
  | negotiateAlgorithms t p384 sha384 dmtf => exact keeps_execNegotiateAlgorithms t p384 sha384 dmtf s (Keeps.refl s)
  | getDigests t => exact keeps_execGetDigests t s (Keeps.refl s)
  | getCertificate t slot off len => exact keeps_execGetCertificate t slot off len s (Keeps.refl s)
  | challenge t slot nonce hashType => exact keeps_execChallenge t slot nonce hashType s (Keeps.refl s)
  | getMeasurements t index signed nonce => exact keeps_execGetMeasurements t index signed nonce s (Keeps.refl s)
  | spdmUnsupportedRequest t code => exact keeps_execSpdmUnsupportedRequest t code s (Keeps.refl s)
  | setEventReceiver receiver => exact keeps_execSetEventReceiver receiver s (Keeps.refl s)
  | pldmEventResponse => exact keeps_execPldmEventResponse s (Keeps.refl s)
  | pldmExportRetry => exact keeps_execPldmExportRetry s (Keeps.refl s)
  | collectorAck c recordId => exact keeps_execCollectorAck c recordId s (Keeps.refl s)
  | collectorResend c recordId => exact keeps_execCollectorResend c recordId s (Keeps.refl s)
  | faultCountSecond code unit => exact keeps_execFaultCountSecond code unit s (Keeps.refl s)
  | cmReq client ipv6 addr remoteQp => exact keeps_execCmReq client ipv6 addr remoteQp s (Keeps.refl s)
  | cmDreq qp => exact keeps_execCmDreq qp s (Keeps.refl s)
  | invalidRequestNak qp why => exact keeps_execInvalidRequestNak qp why s (Keeps.refl s)
  | cnpReceived qp => exact keeps_execCnpReceived qp s (Keeps.refl s)
  | ceMarkedPacket qp => exact keeps_execCeMarkedPacket qp s (Keeps.refl s)
  | localAckTimeout qp => exact keeps_execLocalAckTimeout qp s (Keeps.refl s)
  | reqOpen qp msg => exact keeps_execReqOpen qp msg s (Keeps.refl s)
  | reqAppend qp msg => exact keeps_execReqAppend qp msg s (Keeps.refl s)
  | reqGenerate qp msg => exact keeps_execReqGenerate qp msg s (Keeps.refl s)
  | reqCancel qp msg => exact keeps_execReqCancel qp msg s (Keeps.refl s)
  | reqPause qp msg => exact keeps_execReqPause qp msg s (Keeps.refl s)
  | reqResume qp msg => exact keeps_execReqResume qp msg s (Keeps.refl s)
  | reqClose qp msg => exact keeps_execReqClose qp msg s (Keeps.refl s)
  | unknownType qp msg => exact keeps_execUnknownType qp msg s (Keeps.refl s)
  | cancelSettled session => exact keeps_execCancelSettled session s (Keeps.refl s)
  | closeSettled session => exact keeps_execCloseSettled session s (Keeps.refl s)
  | kvWaitExpiry session => exact keeps_execKvWaitExpiry session s (Keeps.refl s)
  | stepCompose => exact keeps_execStepCompose s (Keeps.refl s)
  | sessionTable port k => exact keeps_execSessionTable port k s (Keeps.refl s)
  | attnRecords port k => exact keeps_execAttnRecords port k s (Keeps.refl s)
  | grantList port k => exact keeps_execGrantList port k s (Keeps.refl s)
  | grantMoveDone group session chunk => exact keeps_execGrantMoveDone group session chunk s (Keeps.refl s)
  | commit port k => exact keeps_execCommit port k s (Keeps.refl s)
  | csLookup session => exact keeps_execCsLookup session s (Keeps.refl s)
  | sessionUpdate port k => exact keeps_execSessionUpdate port k s (Keeps.refl s)
  | genParams port k => exact keeps_execGenParams port k s (Keeps.refl s)
  | holeTable port k => exact keeps_execHoleTable port k s (Keeps.refl s)
  | txnStage port k => exact keeps_execTxnStage port k s (Keeps.refl s)
  | txnApply port k => exact keeps_execTxnApply port k s (Keeps.refl s)
  | txnReply port k => exact keeps_execTxnReply port k s (Keeps.refl s)
  | txnTimeout sliceScope => exact keeps_execTxnTimeout sliceScope s (Keeps.refl s)
  | promotion port k => exact keeps_execPromotion port k s (Keeps.refl s)
  | stepAbort port k => exact keeps_execStepAbort port k s (Keeps.refl s)
  | clear port k => exact keeps_execClear port k s (Keeps.refl s)
  | stepReport port k => exact keeps_execStepReport port k s (Keeps.refl s)
  | streamStallWindow => exact keeps_execStreamStallWindow s (Keeps.refl s)
  | budgetSlack port k => exact keeps_execBudgetSlack port k s (Keeps.refl s)
  | budgetLent port k => exact keeps_execBudgetLent port k s (Keeps.refl s)
  | budgetGrant port k => exact keeps_execBudgetGrant port k s (Keeps.refl s)
  | budgetRevert port k => exact keeps_execBudgetRevert port k s (Keeps.refl s)
  | budgetReverted port k => exact keeps_execBudgetReverted port k s (Keeps.refl s)
  | budgetWindow => exact keeps_execBudgetWindow s (Keeps.refl s)
  | startInfo port k => exact keeps_execStartInfo port k s (Keeps.refl s)
  | draftTree port k => exact keeps_execDraftTree port k s (Keeps.refl s)
  | outcome port k => exact keeps_execOutcome port k s (Keeps.refl s)
  | draftStep session logits => exact keeps_execDraftStep session logits s (Keeps.refl s)
  | samplingRow session row remote => exact keeps_execSamplingRow session row remote s (Keeps.refl s)
  | adapterGatherDone id gen => exact keeps_execAdapterGatherDone id gen s (Keeps.refl s)
  | pauseFixStart session => exact keeps_execPauseFixStart session s (Keeps.refl s)
  | pauseComplete session => exact keeps_execPauseComplete session s (Keeps.refl s)
  | pauseExpiry session => exact keeps_execPauseExpiry session s (Keeps.refl s)
  | restoreComplete session => exact keeps_execRestoreComplete session s (Keeps.refl s)
  | descriptorStart tile => exact keeps_execDescriptorStart tile s (Keeps.refl s)
  | descriptorComplete tile unit => exact keeps_execDescriptorComplete tile unit s (Keeps.refl s)
  | matmul tile => exact keeps_execMatmul tile s (Keeps.refl s)
  | lora tile => exact keeps_execLora tile s (Keeps.refl s)
  | attn tile => exact keeps_execAttn tile s (Keeps.refl s)
  | kvAppend tile => exact keeps_execKvAppend tile s (Keeps.refl s)
  | norm tile => exact keeps_execNorm tile s (Keeps.refl s)
  | elemwise tile => exact keeps_execElemwise tile s (Keeps.refl s)
  | route tile => exact keeps_execRoute tile s (Keeps.refl s)
  | skipGate tile => exact keeps_execSkipGate tile s (Keeps.refl s)
  | combine tile => exact keeps_execCombine tile s (Keeps.refl s)
  | dispatch tile => exact keeps_execDispatch tile s (Keeps.refl s)
  | collective tile => exact keeps_execCollective tile s (Keeps.refl s)
  | move tile => exact keeps_execMove tile s (Keeps.refl s)
  | fabricRed tile => exact keeps_execFabricRed tile s (Keeps.refl s)
  | mcast tile => exact keeps_execMcast tile s (Keeps.refl s)
  | embed tile => exact keeps_execEmbed tile s (Keeps.refl s)
  | sample tile => exact keeps_execSample tile s (Keeps.refl s)
  | phaseBoundary tile => exact keeps_execPhaseBoundary tile s (Keeps.refl s)
  | moeReserveExpiry => exact keeps_execMoeReserveExpiry s (Keeps.refl s)
  | markTimeout tile => exact keeps_execMarkTimeout tile s (Keeps.refl s)
  | stripJudge tile => exact keeps_execStripJudge tile s (Keeps.refl s)
  | shadowCheckRun tile => exact keeps_execShadowCheckRun tile s (Keeps.refl s)
  | shadowVote tile => exact keeps_execShadowVote tile s (Keeps.refl s)
  | slownessWindow tile meanNs peerMeanNs => exact keeps_execSlownessWindow tile meanNs peerMeanNs s (Keeps.refl s)
  | testDue ptile => exact keeps_execTestDue ptile s (Keeps.refl s)
  | testComplete ptile pass => exact keeps_execTestComplete ptile pass s (Keeps.refl s)
  | testOverdue ptile => exact keeps_execTestOverdue ptile s (Keeps.refl s)
  | droopTrip unit fallPermille => exact keeps_execDroopTrip unit fallPermille s (Keeps.refl s)
  | droopRecovery unit => exact keeps_execDroopRecovery unit s (Keeps.refl s)
  | railCurrentSample rail milliamps => exact keeps_execRailCurrentSample rail milliamps s (Keeps.refl s)
  | pageMoveStart page tier frame => exact keeps_execPageMoveStart page tier frame s (Keeps.refl s)
  | pageMoveDone page dirtyAfter => exact keeps_execPageMoveDone page dirtyAfter s (Keeps.refl s)
  | ceDetected unit addr => exact keeps_execCeDetected unit addr s (Keeps.refl s)
  | ueDetected unit addr holds recurs step => exact keeps_execUeDetected unit addr holds recurs step s (Keeps.refl s)
  | parityError unit step => exact keeps_execParityError unit step s (Keeps.refl s)
  | blockCrcFail unit addr holds step => exact keeps_execBlockCrcFail unit addr holds step s (Keeps.refl s)
  | leakyBucketLeak unit => exact keeps_execLeakyBucketLeak unit s (Keeps.refl s)
  | agitationScrub unit words corrected => exact keeps_execAgitationScrub unit words corrected s (Keeps.refl s)
  | agitationLapLate unit => exact keeps_execAgitationLapLate unit s (Keeps.refl s)
  | streamFetchStart layer => exact keeps_execStreamFetchStart layer s (Keeps.refl s)
  | streamFetchDone layer tier cause => exact keeps_execStreamFetchDone layer tier cause s (Keeps.refl s)
  | sweepPeriod => exact keeps_execSweepPeriod s (Keeps.refl s)
  | sweepDone => exact keeps_execSweepDone s (Keeps.refl s)
  | backingCopyDone id => exact keeps_execBackingCopyDone id s (Keeps.refl s)
  | homePhaseWrite phase => exact keeps_execHomePhaseWrite phase s (Keeps.refl s)
  | homePhaseWritten phase => exact keeps_execHomePhaseWritten phase s (Keeps.refl s)
  | darkslideOpen => exact keeps_execDarkslideOpen s (Keeps.refl s)
  | flitReceived port f => exact keeps_execFlitReceived port f s (Keeps.refl s)
  | fastRetrainDone port failing restored => exact keeps_execFastRetrainDone port failing restored s (Keeps.refl s)
  | portDown port cause => exact keeps_execPortDown port cause s (Keeps.refl s)
  | linkTrainingDone port failing => exact keeps_execLinkTrainingDone port failing s (Keeps.refl s)
  | linkTrainingRetry port => exact keeps_execLinkTrainingRetry port s (Keeps.refl s)
  | neighbourCard port k => exact keeps_execNeighbourCard port k s (Keeps.refl s)
  | cardSend port => exact keeps_execCardSend port s (Keeps.refl s)
  | cardAbsent port => exact keeps_execCardAbsent port s (Keeps.refl s)
  | heldIdleRetrain port => exact keeps_execHeldIdleRetrain port s (Keeps.refl s)
  | flushMarker port k => exact keeps_execFlushMarker port k s (Keeps.refl s)
  | linkMgmt port k => exact keeps_execLinkMgmt port k s (Keeps.refl s)
  | writePacket port k => exact keeps_execWritePacket port k s (Keeps.refl s)
  | readReq port k => exact keeps_execReadReq port k s (Keeps.refl s)
  | readRsp port k => exact keeps_execReadRsp port k s (Keeps.refl s)
  | redPacket port k => exact keeps_execRedPacket port k s (Keeps.refl s)
  | mcastPacket port k => exact keeps_execMcastPacket port k s (Keeps.refl s)
  | dispatchPacket port k => exact keeps_execDispatchPacket port k s (Keeps.refl s)
  | dispatchEnd port k => exact keeps_execDispatchEnd port k s (Keeps.refl s)
  | ret port k => exact keeps_execRet port k s (Keeps.refl s)
  | bufFree port k => exact keeps_execBufFree port k s (Keeps.refl s)
  | collPacket port k => exact keeps_execCollPacket port k s (Keeps.refl s)
  | creditPacket port k => exact keeps_execCreditPacket port k s (Keeps.refl s)
  | powerWindowEnd meanW vIn100mV => exact keeps_execPowerWindowEnd meanW vIn100mV s (Keeps.refl s)
  | clampAdjust mean10usW => exact keeps_execClampAdjust mean10usW s (Keeps.refl s)
  | capReachDecision reachW => exact keeps_execCapReachDecision reachW s (Keeps.refl s)
  | thermalSupervisor temps => exact keeps_execThermalSupervisor temps s (Keeps.refl s)
  | oppointSettled cdie => exact keeps_execOppointSettled cdie s (Keeps.refl s)
  | staggerHoldEnd => exact keeps_execStaggerHoldEnd s (Keeps.refl s)
  | fadeEnd => exact keeps_execFadeEnd s (Keeps.refl s)
  | coldStart pwrEn dimmPwrOk => exact keeps_execColdStart pwrEn dimmPwrOk s (Keeps.refl s)
  | startupStage stage failing => exact keeps_execStartupStage stage failing s (Keeps.refl s)
  | handoverBlackout => exact keeps_execHandoverBlackout s (Keeps.refl s)
  | handoverDone => exact keeps_execHandoverDone s (Keeps.refl s)
  | trialWindowExpiry => exact keeps_execTrialWindowExpiry s (Keeps.refl s)
  | heartbeatWatchdog => exact keeps_execHeartbeatWatchdog s (Keeps.refl s)
  | pwrEnRise => exact keeps_execPwrEnRise s (Keeps.refl s)
  | pwrEnFall => exact keeps_execPwrEnFall s (Keeps.refl s)
  | modResetN lowNs => exact keeps_execModResetN lowNs s (Keeps.refl s)
  | perstN => exact keeps_execPerstN s (Keeps.refl s)
  | dimmPwrOkFall => exact keeps_execDimmPwrOkFall s (Keeps.refl s)
  | trayLeakN => exact keeps_execTrayLeakN s (Keeps.refl s)
  | carrierLeak => exact keeps_execCarrierLeak s (Keeps.refl s)
  | thermalTrip sensor => exact keeps_execThermalTrip sensor s (Keeps.refl s)
  | thermtripRelease => exact keeps_execThermtripRelease s (Keeps.refl s)
  | inputUndervoltage lowestMv => exact keeps_execInputUndervoltage lowestMv s (Keeps.refl s)
  | inputOvervoltage highestMv => exact keeps_execInputOvervoltage highestMv s (Keeps.refl s)
  | vsbLoss => exact keeps_execVsbLoss s (Keeps.refl s)
  | strapSample slotId recoveryN => exact keeps_execStrapSample slotId recoveryN s (Keeps.refl s)
  | strapChange => exact keeps_execStrapChange s (Keeps.refl s)
  | ppsEdge => exact keeps_execPpsEdge s (Keeps.refl s)
  | ppsLost => exact keeps_execPpsLost s (Keeps.refl s)
  | coolantHigh inletMilliC => exact keeps_execCoolantHigh inletMilliC s (Keeps.refl s)
  | drainDeadline => exact keeps_execDrainDeadline s (Keeps.refl s)
  | laneMarginDone iface index lanes => exact keeps_execLaneMarginDone iface index lanes s (Keeps.refl s)
  | persistDone => exact keeps_execPersistDone s (Keeps.refl s)
  | dmaReadDone port slot result => exact keeps_execDmaReadDone port slot result s (Keeps.refl s)
  | scheduledWarmReset => exact keeps_execScheduledWarmReset s (Keeps.refl s)
  | progressRewrite port slot progress => exact keeps_execProgressRewrite port slot progress s (Keeps.refl s)
  | checkerTestDone failed => exact keeps_execCheckerTestDone failed s (Keeps.refl s)
  | lostModuleMark => exact keeps_execLostModuleMark s (Keeps.refl s)
  | lenderSelfRevert => exact keeps_execLenderSelfRevert s (Keeps.refl s)

theorem exec_next_keeps {i : Instr} {s t : State} (h : exec i s = .next t) : Keeps s t := by
  obtain ⟨u, hu, k⟩ := exec_keeps i s
  rw [hu] at h
  cases h
  exact k

theorem step_nil (s : State) (h : s.pending = []) : step s = .next s.tick := by
  unfold step
  rw [h]

/-- A tick changes module time, module life and the time in the power state. -/
theorem tick_keeps (s : State) : ∃ u : State, Keeps u s.tick ∧ u.pending = s.pending ∧ u.clock.timeNs = s.clock.timeNs + 1 ∧
    s.clock.lifeS ≤ u.clock.lifeS ∧ u.mem = s.mem ∧ u.sec = s.sec ∧ u.fw = s.fw := by
  unfold State.tick
  extract_lets ns s1
  refine ⟨s1, ?_, rfl, rfl, Nat.le_add_right _ _, rfl, rfl, rfl⟩
  split
  · exact Keeps.refl _
  · exact keeps_State_stateTime _ (Keeps.refl _)

/-- A step answers a next state in which the queue has lost its front and the rest is kept. -/
theorem step_keeps (s : State) : ∃ u t : State, step s = .next t ∧ Keeps u t ∧ u.pending = s.pending.tail ∧
    s.clock.timeNs ≤ u.clock.timeNs ∧ s.clock.lifeS ≤ u.clock.lifeS ∧ u.mem = s.mem ∧ u.sec = s.sec ∧ u.fw = s.fw := by
  cases h : s.pending with
  | nil =>
    obtain ⟨u, k, hp, ht, hl, hm, hs, hf⟩ := tick_keeps s
    exact ⟨u, s.tick, step_nil s h, k, hp.trans h, ht ▸ Nat.le_succ _, hl, hm, hs, hf⟩
  | cons c rest =>
    obtain ⟨t, e, k⟩ := exec_keeps c { s with pending := rest }
    exact ⟨{ s with pending := rest }, t, by unfold step; rw [h]; exact e, k, rfl, Nat.le_refl _, Nat.le_refl _, rfl, rfl, rfl⟩

end Sys2Proof.Laws
end

