-- ==== Sys2Proof/Laws/State.lean ====
section
/-! SUPPORT. One lemma for each field of the state and each update of a group of it, and what tables, slots and the memory groups
read after an update. -/

namespace Sys2Proof.Laws

open Sys2Proof Sys2Proof.Machine

/-! ### The update of `clock` -/

section

variable (s : State) (f : Clock → Clock)

@[simp] theorem onClock_pending : (s.onClock f).pending = s.pending := rfl
@[simp] theorem onClock_clock : (s.onClock f).clock = f s.clock := rfl
@[simp] theorem onClock_mbox : (s.onClock f).mbox = s.mbox := rfl
@[simp] theorem onClock_cfg : (s.onClock f).cfg = s.cfg := rfl
@[simp] theorem onClock_wts : (s.onClock f).wts = s.wts := rfl
@[simp] theorem onClock_mem : (s.onClock f).mem = s.mem := rfl
@[simp] theorem onClock_tiles : (s.onClock f).tiles = s.tiles := rfl
@[simp] theorem onClock_steps : (s.onClock f).steps = s.steps := rfl
@[simp] theorem onClock_srv : (s.onClock f).srv = s.srv := rfl
@[simp] theorem onClock_kv : (s.onClock f).kv = s.kv := rfl
@[simp] theorem onClock_adp : (s.onClock f).adp = s.adp := rfl
@[simp] theorem onClock_fab : (s.onClock f).fab = s.fab := rfl
@[simp] theorem onClock_pwr : (s.onClock f).pwr = s.pwr := rfl
@[simp] theorem onClock_integ : (s.onClock f).integ = s.integ := rfl
@[simp] theorem onClock_sec : (s.onClock f).sec = s.sec := rfl
@[simp] theorem onClock_fw : (s.onClock f).fw = s.fw := rfl
@[simp] theorem onClock_pins : (s.onClock f).pins = s.pins := rfl
@[simp] theorem onClock_counters : (s.onClock f).counters = s.counters := rfl
@[simp] theorem onClock_freeCtr : (s.onClock f).freeCtr = s.freeCtr := rfl
@[simp] theorem onClock_out : (s.onClock f).out = s.out := rfl

end

/-! ### The update of `mbox` -/

section

variable (s : State) (f : Mbox → Mbox)

@[simp] theorem onMbox_pending : (s.onMbox f).pending = s.pending := rfl
@[simp] theorem onMbox_clock : (s.onMbox f).clock = s.clock := rfl
@[simp] theorem onMbox_mbox : (s.onMbox f).mbox = f s.mbox := rfl
@[simp] theorem onMbox_cfg : (s.onMbox f).cfg = s.cfg := rfl
@[simp] theorem onMbox_wts : (s.onMbox f).wts = s.wts := rfl
@[simp] theorem onMbox_mem : (s.onMbox f).mem = s.mem := rfl
@[simp] theorem onMbox_tiles : (s.onMbox f).tiles = s.tiles := rfl
@[simp] theorem onMbox_steps : (s.onMbox f).steps = s.steps := rfl
@[simp] theorem onMbox_srv : (s.onMbox f).srv = s.srv := rfl
@[simp] theorem onMbox_kv : (s.onMbox f).kv = s.kv := rfl
@[simp] theorem onMbox_adp : (s.onMbox f).adp = s.adp := rfl
@[simp] theorem onMbox_fab : (s.onMbox f).fab = s.fab := rfl
@[simp] theorem onMbox_pwr : (s.onMbox f).pwr = s.pwr := rfl
@[simp] theorem onMbox_integ : (s.onMbox f).integ = s.integ := rfl
@[simp] theorem onMbox_sec : (s.onMbox f).sec = s.sec := rfl
@[simp] theorem onMbox_fw : (s.onMbox f).fw = s.fw := rfl
@[simp] theorem onMbox_pins : (s.onMbox f).pins = s.pins := rfl
@[simp] theorem onMbox_counters : (s.onMbox f).counters = s.counters := rfl
@[simp] theorem onMbox_freeCtr : (s.onMbox f).freeCtr = s.freeCtr := rfl
@[simp] theorem onMbox_out : (s.onMbox f).out = s.out := rfl

end

/-! ### The update of `cfg` -/

section

variable (s : State) (f : Cfg → Cfg)

@[simp] theorem onCfg_pending : (s.onCfg f).pending = s.pending := rfl
@[simp] theorem onCfg_clock : (s.onCfg f).clock = s.clock := rfl
@[simp] theorem onCfg_mbox : (s.onCfg f).mbox = s.mbox := rfl
@[simp] theorem onCfg_cfg : (s.onCfg f).cfg = f s.cfg := rfl
@[simp] theorem onCfg_wts : (s.onCfg f).wts = s.wts := rfl
@[simp] theorem onCfg_mem : (s.onCfg f).mem = s.mem := rfl
@[simp] theorem onCfg_tiles : (s.onCfg f).tiles = s.tiles := rfl
@[simp] theorem onCfg_steps : (s.onCfg f).steps = s.steps := rfl
@[simp] theorem onCfg_srv : (s.onCfg f).srv = s.srv := rfl
@[simp] theorem onCfg_kv : (s.onCfg f).kv = s.kv := rfl
@[simp] theorem onCfg_adp : (s.onCfg f).adp = s.adp := rfl
@[simp] theorem onCfg_fab : (s.onCfg f).fab = s.fab := rfl
@[simp] theorem onCfg_pwr : (s.onCfg f).pwr = s.pwr := rfl
@[simp] theorem onCfg_integ : (s.onCfg f).integ = s.integ := rfl
@[simp] theorem onCfg_sec : (s.onCfg f).sec = s.sec := rfl
@[simp] theorem onCfg_fw : (s.onCfg f).fw = s.fw := rfl
@[simp] theorem onCfg_pins : (s.onCfg f).pins = s.pins := rfl
@[simp] theorem onCfg_counters : (s.onCfg f).counters = s.counters := rfl
@[simp] theorem onCfg_freeCtr : (s.onCfg f).freeCtr = s.freeCtr := rfl
@[simp] theorem onCfg_out : (s.onCfg f).out = s.out := rfl

end

/-! ### The update of `wts` -/

section

variable (s : State) (f : Weights → Weights)

@[simp] theorem onWts_pending : (s.onWts f).pending = s.pending := rfl
@[simp] theorem onWts_clock : (s.onWts f).clock = s.clock := rfl
@[simp] theorem onWts_mbox : (s.onWts f).mbox = s.mbox := rfl
@[simp] theorem onWts_cfg : (s.onWts f).cfg = s.cfg := rfl
@[simp] theorem onWts_wts : (s.onWts f).wts = f s.wts := rfl
@[simp] theorem onWts_mem : (s.onWts f).mem = s.mem := rfl
@[simp] theorem onWts_tiles : (s.onWts f).tiles = s.tiles := rfl
@[simp] theorem onWts_steps : (s.onWts f).steps = s.steps := rfl
@[simp] theorem onWts_srv : (s.onWts f).srv = s.srv := rfl
@[simp] theorem onWts_kv : (s.onWts f).kv = s.kv := rfl
@[simp] theorem onWts_adp : (s.onWts f).adp = s.adp := rfl
@[simp] theorem onWts_fab : (s.onWts f).fab = s.fab := rfl
@[simp] theorem onWts_pwr : (s.onWts f).pwr = s.pwr := rfl
@[simp] theorem onWts_integ : (s.onWts f).integ = s.integ := rfl
@[simp] theorem onWts_sec : (s.onWts f).sec = s.sec := rfl
@[simp] theorem onWts_fw : (s.onWts f).fw = s.fw := rfl
@[simp] theorem onWts_pins : (s.onWts f).pins = s.pins := rfl
@[simp] theorem onWts_counters : (s.onWts f).counters = s.counters := rfl
@[simp] theorem onWts_freeCtr : (s.onWts f).freeCtr = s.freeCtr := rfl
@[simp] theorem onWts_out : (s.onWts f).out = s.out := rfl

end

/-! ### The update of `mem` -/

section

variable (s : State) (f : Mem → Mem)

@[simp] theorem onMem_pending : (s.onMem f).pending = s.pending := rfl
@[simp] theorem onMem_clock : (s.onMem f).clock = s.clock := rfl
@[simp] theorem onMem_mbox : (s.onMem f).mbox = s.mbox := rfl
@[simp] theorem onMem_cfg : (s.onMem f).cfg = s.cfg := rfl
@[simp] theorem onMem_wts : (s.onMem f).wts = s.wts := rfl
@[simp] theorem onMem_mem : (s.onMem f).mem = f s.mem := rfl
@[simp] theorem onMem_tiles : (s.onMem f).tiles = s.tiles := rfl
@[simp] theorem onMem_steps : (s.onMem f).steps = s.steps := rfl
@[simp] theorem onMem_srv : (s.onMem f).srv = s.srv := rfl
@[simp] theorem onMem_kv : (s.onMem f).kv = s.kv := rfl
@[simp] theorem onMem_adp : (s.onMem f).adp = s.adp := rfl
@[simp] theorem onMem_fab : (s.onMem f).fab = s.fab := rfl
@[simp] theorem onMem_pwr : (s.onMem f).pwr = s.pwr := rfl
@[simp] theorem onMem_integ : (s.onMem f).integ = s.integ := rfl
@[simp] theorem onMem_sec : (s.onMem f).sec = s.sec := rfl
@[simp] theorem onMem_fw : (s.onMem f).fw = s.fw := rfl
@[simp] theorem onMem_pins : (s.onMem f).pins = s.pins := rfl
@[simp] theorem onMem_counters : (s.onMem f).counters = s.counters := rfl
@[simp] theorem onMem_freeCtr : (s.onMem f).freeCtr = s.freeCtr := rfl
@[simp] theorem onMem_out : (s.onMem f).out = s.out := rfl

end

/-! ### The update of `tiles` -/

section

variable (s : State) (f : Tiles → Tiles)

@[simp] theorem onTiles_pending : (s.onTiles f).pending = s.pending := rfl
@[simp] theorem onTiles_clock : (s.onTiles f).clock = s.clock := rfl
@[simp] theorem onTiles_mbox : (s.onTiles f).mbox = s.mbox := rfl
@[simp] theorem onTiles_cfg : (s.onTiles f).cfg = s.cfg := rfl
@[simp] theorem onTiles_wts : (s.onTiles f).wts = s.wts := rfl
@[simp] theorem onTiles_mem : (s.onTiles f).mem = s.mem := rfl
@[simp] theorem onTiles_tiles : (s.onTiles f).tiles = f s.tiles := rfl
@[simp] theorem onTiles_steps : (s.onTiles f).steps = s.steps := rfl
@[simp] theorem onTiles_srv : (s.onTiles f).srv = s.srv := rfl
@[simp] theorem onTiles_kv : (s.onTiles f).kv = s.kv := rfl
@[simp] theorem onTiles_adp : (s.onTiles f).adp = s.adp := rfl
@[simp] theorem onTiles_fab : (s.onTiles f).fab = s.fab := rfl
@[simp] theorem onTiles_pwr : (s.onTiles f).pwr = s.pwr := rfl
@[simp] theorem onTiles_integ : (s.onTiles f).integ = s.integ := rfl
@[simp] theorem onTiles_sec : (s.onTiles f).sec = s.sec := rfl
@[simp] theorem onTiles_fw : (s.onTiles f).fw = s.fw := rfl
@[simp] theorem onTiles_pins : (s.onTiles f).pins = s.pins := rfl
@[simp] theorem onTiles_counters : (s.onTiles f).counters = s.counters := rfl
@[simp] theorem onTiles_freeCtr : (s.onTiles f).freeCtr = s.freeCtr := rfl
@[simp] theorem onTiles_out : (s.onTiles f).out = s.out := rfl

end

/-! ### The update of `steps` -/

section

variable (s : State) (f : Steps → Steps)

@[simp] theorem onSteps_pending : (s.onSteps f).pending = s.pending := rfl
@[simp] theorem onSteps_clock : (s.onSteps f).clock = s.clock := rfl
@[simp] theorem onSteps_mbox : (s.onSteps f).mbox = s.mbox := rfl
@[simp] theorem onSteps_cfg : (s.onSteps f).cfg = s.cfg := rfl
@[simp] theorem onSteps_wts : (s.onSteps f).wts = s.wts := rfl
@[simp] theorem onSteps_mem : (s.onSteps f).mem = s.mem := rfl
@[simp] theorem onSteps_tiles : (s.onSteps f).tiles = s.tiles := rfl
@[simp] theorem onSteps_steps : (s.onSteps f).steps = f s.steps := rfl
@[simp] theorem onSteps_srv : (s.onSteps f).srv = s.srv := rfl
@[simp] theorem onSteps_kv : (s.onSteps f).kv = s.kv := rfl
@[simp] theorem onSteps_adp : (s.onSteps f).adp = s.adp := rfl
@[simp] theorem onSteps_fab : (s.onSteps f).fab = s.fab := rfl
@[simp] theorem onSteps_pwr : (s.onSteps f).pwr = s.pwr := rfl
@[simp] theorem onSteps_integ : (s.onSteps f).integ = s.integ := rfl
@[simp] theorem onSteps_sec : (s.onSteps f).sec = s.sec := rfl
@[simp] theorem onSteps_fw : (s.onSteps f).fw = s.fw := rfl
@[simp] theorem onSteps_pins : (s.onSteps f).pins = s.pins := rfl
@[simp] theorem onSteps_counters : (s.onSteps f).counters = s.counters := rfl
@[simp] theorem onSteps_freeCtr : (s.onSteps f).freeCtr = s.freeCtr := rfl
@[simp] theorem onSteps_out : (s.onSteps f).out = s.out := rfl

end

/-! ### The update of `srv` -/

section

variable (s : State) (f : Serving → Serving)

@[simp] theorem onSrv_pending : (s.onSrv f).pending = s.pending := rfl
@[simp] theorem onSrv_clock : (s.onSrv f).clock = s.clock := rfl
@[simp] theorem onSrv_mbox : (s.onSrv f).mbox = s.mbox := rfl
@[simp] theorem onSrv_cfg : (s.onSrv f).cfg = s.cfg := rfl
@[simp] theorem onSrv_wts : (s.onSrv f).wts = s.wts := rfl
@[simp] theorem onSrv_mem : (s.onSrv f).mem = s.mem := rfl
@[simp] theorem onSrv_tiles : (s.onSrv f).tiles = s.tiles := rfl
@[simp] theorem onSrv_steps : (s.onSrv f).steps = s.steps := rfl
@[simp] theorem onSrv_srv : (s.onSrv f).srv = f s.srv := rfl
@[simp] theorem onSrv_kv : (s.onSrv f).kv = s.kv := rfl
@[simp] theorem onSrv_adp : (s.onSrv f).adp = s.adp := rfl
@[simp] theorem onSrv_fab : (s.onSrv f).fab = s.fab := rfl
@[simp] theorem onSrv_pwr : (s.onSrv f).pwr = s.pwr := rfl
@[simp] theorem onSrv_integ : (s.onSrv f).integ = s.integ := rfl
@[simp] theorem onSrv_sec : (s.onSrv f).sec = s.sec := rfl
@[simp] theorem onSrv_fw : (s.onSrv f).fw = s.fw := rfl
@[simp] theorem onSrv_pins : (s.onSrv f).pins = s.pins := rfl
@[simp] theorem onSrv_counters : (s.onSrv f).counters = s.counters := rfl
@[simp] theorem onSrv_freeCtr : (s.onSrv f).freeCtr = s.freeCtr := rfl
@[simp] theorem onSrv_out : (s.onSrv f).out = s.out := rfl

end

/-! ### The update of `kv` -/

section

variable (s : State) (f : Kv → Kv)

@[simp] theorem onKv_pending : (s.onKv f).pending = s.pending := rfl
@[simp] theorem onKv_clock : (s.onKv f).clock = s.clock := rfl
@[simp] theorem onKv_mbox : (s.onKv f).mbox = s.mbox := rfl
@[simp] theorem onKv_cfg : (s.onKv f).cfg = s.cfg := rfl
@[simp] theorem onKv_wts : (s.onKv f).wts = s.wts := rfl
@[simp] theorem onKv_mem : (s.onKv f).mem = s.mem := rfl
@[simp] theorem onKv_tiles : (s.onKv f).tiles = s.tiles := rfl
@[simp] theorem onKv_steps : (s.onKv f).steps = s.steps := rfl
@[simp] theorem onKv_srv : (s.onKv f).srv = s.srv := rfl
@[simp] theorem onKv_kv : (s.onKv f).kv = f s.kv := rfl
@[simp] theorem onKv_adp : (s.onKv f).adp = s.adp := rfl
@[simp] theorem onKv_fab : (s.onKv f).fab = s.fab := rfl
@[simp] theorem onKv_pwr : (s.onKv f).pwr = s.pwr := rfl
@[simp] theorem onKv_integ : (s.onKv f).integ = s.integ := rfl
@[simp] theorem onKv_sec : (s.onKv f).sec = s.sec := rfl
@[simp] theorem onKv_fw : (s.onKv f).fw = s.fw := rfl
@[simp] theorem onKv_pins : (s.onKv f).pins = s.pins := rfl
@[simp] theorem onKv_counters : (s.onKv f).counters = s.counters := rfl
@[simp] theorem onKv_freeCtr : (s.onKv f).freeCtr = s.freeCtr := rfl
@[simp] theorem onKv_out : (s.onKv f).out = s.out := rfl

end

/-! ### The update of `adp` -/

section

variable (s : State) (f : Adapters → Adapters)

@[simp] theorem onAdp_pending : (s.onAdp f).pending = s.pending := rfl
@[simp] theorem onAdp_clock : (s.onAdp f).clock = s.clock := rfl
@[simp] theorem onAdp_mbox : (s.onAdp f).mbox = s.mbox := rfl
@[simp] theorem onAdp_cfg : (s.onAdp f).cfg = s.cfg := rfl
@[simp] theorem onAdp_wts : (s.onAdp f).wts = s.wts := rfl
@[simp] theorem onAdp_mem : (s.onAdp f).mem = s.mem := rfl
@[simp] theorem onAdp_tiles : (s.onAdp f).tiles = s.tiles := rfl
@[simp] theorem onAdp_steps : (s.onAdp f).steps = s.steps := rfl
@[simp] theorem onAdp_srv : (s.onAdp f).srv = s.srv := rfl
@[simp] theorem onAdp_kv : (s.onAdp f).kv = s.kv := rfl
@[simp] theorem onAdp_adp : (s.onAdp f).adp = f s.adp := rfl
@[simp] theorem onAdp_fab : (s.onAdp f).fab = s.fab := rfl
@[simp] theorem onAdp_pwr : (s.onAdp f).pwr = s.pwr := rfl
@[simp] theorem onAdp_integ : (s.onAdp f).integ = s.integ := rfl
@[simp] theorem onAdp_sec : (s.onAdp f).sec = s.sec := rfl
@[simp] theorem onAdp_fw : (s.onAdp f).fw = s.fw := rfl
@[simp] theorem onAdp_pins : (s.onAdp f).pins = s.pins := rfl
@[simp] theorem onAdp_counters : (s.onAdp f).counters = s.counters := rfl
@[simp] theorem onAdp_freeCtr : (s.onAdp f).freeCtr = s.freeCtr := rfl
@[simp] theorem onAdp_out : (s.onAdp f).out = s.out := rfl

end

/-! ### The update of `fab` -/

section

variable (s : State) (f : Fabric → Fabric)

@[simp] theorem onFab_pending : (s.onFab f).pending = s.pending := rfl
@[simp] theorem onFab_clock : (s.onFab f).clock = s.clock := rfl
@[simp] theorem onFab_mbox : (s.onFab f).mbox = s.mbox := rfl
@[simp] theorem onFab_cfg : (s.onFab f).cfg = s.cfg := rfl
@[simp] theorem onFab_wts : (s.onFab f).wts = s.wts := rfl
@[simp] theorem onFab_mem : (s.onFab f).mem = s.mem := rfl
@[simp] theorem onFab_tiles : (s.onFab f).tiles = s.tiles := rfl
@[simp] theorem onFab_steps : (s.onFab f).steps = s.steps := rfl
@[simp] theorem onFab_srv : (s.onFab f).srv = s.srv := rfl
@[simp] theorem onFab_kv : (s.onFab f).kv = s.kv := rfl
@[simp] theorem onFab_adp : (s.onFab f).adp = s.adp := rfl
@[simp] theorem onFab_fab : (s.onFab f).fab = f s.fab := rfl
@[simp] theorem onFab_pwr : (s.onFab f).pwr = s.pwr := rfl
@[simp] theorem onFab_integ : (s.onFab f).integ = s.integ := rfl
@[simp] theorem onFab_sec : (s.onFab f).sec = s.sec := rfl
@[simp] theorem onFab_fw : (s.onFab f).fw = s.fw := rfl
@[simp] theorem onFab_pins : (s.onFab f).pins = s.pins := rfl
@[simp] theorem onFab_counters : (s.onFab f).counters = s.counters := rfl
@[simp] theorem onFab_freeCtr : (s.onFab f).freeCtr = s.freeCtr := rfl
@[simp] theorem onFab_out : (s.onFab f).out = s.out := rfl

end

/-! ### The update of `pwr` -/

section

variable (s : State) (f : Power → Power)

@[simp] theorem onPwr_pending : (s.onPwr f).pending = s.pending := rfl
@[simp] theorem onPwr_clock : (s.onPwr f).clock = s.clock := rfl
@[simp] theorem onPwr_mbox : (s.onPwr f).mbox = s.mbox := rfl
@[simp] theorem onPwr_cfg : (s.onPwr f).cfg = s.cfg := rfl
@[simp] theorem onPwr_wts : (s.onPwr f).wts = s.wts := rfl
@[simp] theorem onPwr_mem : (s.onPwr f).mem = s.mem := rfl
@[simp] theorem onPwr_tiles : (s.onPwr f).tiles = s.tiles := rfl
@[simp] theorem onPwr_steps : (s.onPwr f).steps = s.steps := rfl
@[simp] theorem onPwr_srv : (s.onPwr f).srv = s.srv := rfl
@[simp] theorem onPwr_kv : (s.onPwr f).kv = s.kv := rfl
@[simp] theorem onPwr_adp : (s.onPwr f).adp = s.adp := rfl
@[simp] theorem onPwr_fab : (s.onPwr f).fab = s.fab := rfl
@[simp] theorem onPwr_pwr : (s.onPwr f).pwr = f s.pwr := rfl
@[simp] theorem onPwr_integ : (s.onPwr f).integ = s.integ := rfl
@[simp] theorem onPwr_sec : (s.onPwr f).sec = s.sec := rfl
@[simp] theorem onPwr_fw : (s.onPwr f).fw = s.fw := rfl
@[simp] theorem onPwr_pins : (s.onPwr f).pins = s.pins := rfl
@[simp] theorem onPwr_counters : (s.onPwr f).counters = s.counters := rfl
@[simp] theorem onPwr_freeCtr : (s.onPwr f).freeCtr = s.freeCtr := rfl
@[simp] theorem onPwr_out : (s.onPwr f).out = s.out := rfl

end

/-! ### The update of `integ` -/

section

variable (s : State) (f : Integ → Integ)

@[simp] theorem onInteg_pending : (s.onInteg f).pending = s.pending := rfl
@[simp] theorem onInteg_clock : (s.onInteg f).clock = s.clock := rfl
@[simp] theorem onInteg_mbox : (s.onInteg f).mbox = s.mbox := rfl
@[simp] theorem onInteg_cfg : (s.onInteg f).cfg = s.cfg := rfl
@[simp] theorem onInteg_wts : (s.onInteg f).wts = s.wts := rfl
@[simp] theorem onInteg_mem : (s.onInteg f).mem = s.mem := rfl
@[simp] theorem onInteg_tiles : (s.onInteg f).tiles = s.tiles := rfl
@[simp] theorem onInteg_steps : (s.onInteg f).steps = s.steps := rfl
@[simp] theorem onInteg_srv : (s.onInteg f).srv = s.srv := rfl
@[simp] theorem onInteg_kv : (s.onInteg f).kv = s.kv := rfl
@[simp] theorem onInteg_adp : (s.onInteg f).adp = s.adp := rfl
@[simp] theorem onInteg_fab : (s.onInteg f).fab = s.fab := rfl
@[simp] theorem onInteg_pwr : (s.onInteg f).pwr = s.pwr := rfl
@[simp] theorem onInteg_integ : (s.onInteg f).integ = f s.integ := rfl
@[simp] theorem onInteg_sec : (s.onInteg f).sec = s.sec := rfl
@[simp] theorem onInteg_fw : (s.onInteg f).fw = s.fw := rfl
@[simp] theorem onInteg_pins : (s.onInteg f).pins = s.pins := rfl
@[simp] theorem onInteg_counters : (s.onInteg f).counters = s.counters := rfl
@[simp] theorem onInteg_freeCtr : (s.onInteg f).freeCtr = s.freeCtr := rfl
@[simp] theorem onInteg_out : (s.onInteg f).out = s.out := rfl

end

/-! ### The update of `sec` -/

section

variable (s : State) (f : Security → Security)

@[simp] theorem onSec_pending : (s.onSec f).pending = s.pending := rfl
@[simp] theorem onSec_clock : (s.onSec f).clock = s.clock := rfl
@[simp] theorem onSec_mbox : (s.onSec f).mbox = s.mbox := rfl
@[simp] theorem onSec_cfg : (s.onSec f).cfg = s.cfg := rfl
@[simp] theorem onSec_wts : (s.onSec f).wts = s.wts := rfl
@[simp] theorem onSec_mem : (s.onSec f).mem = s.mem := rfl
@[simp] theorem onSec_tiles : (s.onSec f).tiles = s.tiles := rfl
@[simp] theorem onSec_steps : (s.onSec f).steps = s.steps := rfl
@[simp] theorem onSec_srv : (s.onSec f).srv = s.srv := rfl
@[simp] theorem onSec_kv : (s.onSec f).kv = s.kv := rfl
@[simp] theorem onSec_adp : (s.onSec f).adp = s.adp := rfl
@[simp] theorem onSec_fab : (s.onSec f).fab = s.fab := rfl
@[simp] theorem onSec_pwr : (s.onSec f).pwr = s.pwr := rfl
@[simp] theorem onSec_integ : (s.onSec f).integ = s.integ := rfl
@[simp] theorem onSec_sec : (s.onSec f).sec = f s.sec := rfl
@[simp] theorem onSec_fw : (s.onSec f).fw = s.fw := rfl
@[simp] theorem onSec_pins : (s.onSec f).pins = s.pins := rfl
@[simp] theorem onSec_counters : (s.onSec f).counters = s.counters := rfl
@[simp] theorem onSec_freeCtr : (s.onSec f).freeCtr = s.freeCtr := rfl
@[simp] theorem onSec_out : (s.onSec f).out = s.out := rfl

end

/-! ### The update of `fw` -/

section

variable (s : State) (f : Firmware → Firmware)

@[simp] theorem onFw_pending : (s.onFw f).pending = s.pending := rfl
@[simp] theorem onFw_clock : (s.onFw f).clock = s.clock := rfl
@[simp] theorem onFw_mbox : (s.onFw f).mbox = s.mbox := rfl
@[simp] theorem onFw_cfg : (s.onFw f).cfg = s.cfg := rfl
@[simp] theorem onFw_wts : (s.onFw f).wts = s.wts := rfl
@[simp] theorem onFw_mem : (s.onFw f).mem = s.mem := rfl
@[simp] theorem onFw_tiles : (s.onFw f).tiles = s.tiles := rfl
@[simp] theorem onFw_steps : (s.onFw f).steps = s.steps := rfl
@[simp] theorem onFw_srv : (s.onFw f).srv = s.srv := rfl
@[simp] theorem onFw_kv : (s.onFw f).kv = s.kv := rfl
@[simp] theorem onFw_adp : (s.onFw f).adp = s.adp := rfl
@[simp] theorem onFw_fab : (s.onFw f).fab = s.fab := rfl
@[simp] theorem onFw_pwr : (s.onFw f).pwr = s.pwr := rfl
@[simp] theorem onFw_integ : (s.onFw f).integ = s.integ := rfl
@[simp] theorem onFw_sec : (s.onFw f).sec = s.sec := rfl
@[simp] theorem onFw_fw : (s.onFw f).fw = f s.fw := rfl
@[simp] theorem onFw_pins : (s.onFw f).pins = s.pins := rfl
@[simp] theorem onFw_counters : (s.onFw f).counters = s.counters := rfl
@[simp] theorem onFw_freeCtr : (s.onFw f).freeCtr = s.freeCtr := rfl
@[simp] theorem onFw_out : (s.onFw f).out = s.out := rfl

end

/-! ### The update of `pins` -/

section

variable (s : State) (f : Pins → Pins)

@[simp] theorem onPins_pending : (s.onPins f).pending = s.pending := rfl
@[simp] theorem onPins_clock : (s.onPins f).clock = s.clock := rfl
@[simp] theorem onPins_mbox : (s.onPins f).mbox = s.mbox := rfl
@[simp] theorem onPins_cfg : (s.onPins f).cfg = s.cfg := rfl
@[simp] theorem onPins_wts : (s.onPins f).wts = s.wts := rfl
@[simp] theorem onPins_mem : (s.onPins f).mem = s.mem := rfl
@[simp] theorem onPins_tiles : (s.onPins f).tiles = s.tiles := rfl
@[simp] theorem onPins_steps : (s.onPins f).steps = s.steps := rfl
@[simp] theorem onPins_srv : (s.onPins f).srv = s.srv := rfl
@[simp] theorem onPins_kv : (s.onPins f).kv = s.kv := rfl
@[simp] theorem onPins_adp : (s.onPins f).adp = s.adp := rfl
@[simp] theorem onPins_fab : (s.onPins f).fab = s.fab := rfl
@[simp] theorem onPins_pwr : (s.onPins f).pwr = s.pwr := rfl
@[simp] theorem onPins_integ : (s.onPins f).integ = s.integ := rfl
@[simp] theorem onPins_sec : (s.onPins f).sec = s.sec := rfl
@[simp] theorem onPins_fw : (s.onPins f).fw = s.fw := rfl
@[simp] theorem onPins_pins : (s.onPins f).pins = f s.pins := rfl
@[simp] theorem onPins_counters : (s.onPins f).counters = s.counters := rfl
@[simp] theorem onPins_freeCtr : (s.onPins f).freeCtr = s.freeCtr := rfl
@[simp] theorem onPins_out : (s.onPins f).out = s.out := rfl

end

/-! ### The update of `counters` -/

section

variable (s : State) (f : Tbl Nat → Tbl Nat)

@[simp] theorem onCounters_pending : (s.onCounters f).pending = s.pending := rfl
@[simp] theorem onCounters_clock : (s.onCounters f).clock = s.clock := rfl
@[simp] theorem onCounters_mbox : (s.onCounters f).mbox = s.mbox := rfl
@[simp] theorem onCounters_cfg : (s.onCounters f).cfg = s.cfg := rfl
@[simp] theorem onCounters_wts : (s.onCounters f).wts = s.wts := rfl
@[simp] theorem onCounters_mem : (s.onCounters f).mem = s.mem := rfl
@[simp] theorem onCounters_tiles : (s.onCounters f).tiles = s.tiles := rfl
@[simp] theorem onCounters_steps : (s.onCounters f).steps = s.steps := rfl
@[simp] theorem onCounters_srv : (s.onCounters f).srv = s.srv := rfl
@[simp] theorem onCounters_kv : (s.onCounters f).kv = s.kv := rfl
@[simp] theorem onCounters_adp : (s.onCounters f).adp = s.adp := rfl
@[simp] theorem onCounters_fab : (s.onCounters f).fab = s.fab := rfl
@[simp] theorem onCounters_pwr : (s.onCounters f).pwr = s.pwr := rfl
@[simp] theorem onCounters_integ : (s.onCounters f).integ = s.integ := rfl
@[simp] theorem onCounters_sec : (s.onCounters f).sec = s.sec := rfl
@[simp] theorem onCounters_fw : (s.onCounters f).fw = s.fw := rfl
@[simp] theorem onCounters_pins : (s.onCounters f).pins = s.pins := rfl
@[simp] theorem onCounters_counters : (s.onCounters f).counters = f s.counters := rfl
@[simp] theorem onCounters_freeCtr : (s.onCounters f).freeCtr = s.freeCtr := rfl
@[simp] theorem onCounters_out : (s.onCounters f).out = s.out := rfl

end

/-! ### What the module sends -/

section

variable (s : State) (o : Out)

@[simp] theorem emit_pending : (s.emit o).pending = s.pending := rfl
@[simp] theorem emit_clock : (s.emit o).clock = s.clock := rfl
@[simp] theorem emit_mbox : (s.emit o).mbox = s.mbox := rfl
@[simp] theorem emit_cfg : (s.emit o).cfg = s.cfg := rfl
@[simp] theorem emit_wts : (s.emit o).wts = s.wts := rfl
@[simp] theorem emit_mem : (s.emit o).mem = s.mem := rfl
@[simp] theorem emit_tiles : (s.emit o).tiles = s.tiles := rfl
@[simp] theorem emit_steps : (s.emit o).steps = s.steps := rfl
@[simp] theorem emit_srv : (s.emit o).srv = s.srv := rfl
@[simp] theorem emit_kv : (s.emit o).kv = s.kv := rfl
@[simp] theorem emit_adp : (s.emit o).adp = s.adp := rfl
@[simp] theorem emit_fab : (s.emit o).fab = s.fab := rfl
@[simp] theorem emit_pwr : (s.emit o).pwr = s.pwr := rfl
@[simp] theorem emit_integ : (s.emit o).integ = s.integ := rfl
@[simp] theorem emit_sec : (s.emit o).sec = s.sec := rfl
@[simp] theorem emit_fw : (s.emit o).fw = s.fw := rfl
@[simp] theorem emit_pins : (s.emit o).pins = s.pins := rfl
@[simp] theorem emit_counters : (s.emit o).counters = s.counters := rfl
@[simp] theorem emit_freeCtr : (s.emit o).freeCtr = s.freeCtr := rfl
@[simp] theorem emit_out : (s.emit o).out = s.out ++ [o] := rfl

end

/-! ### Tables -/

/-- The key set reads as set. -/
theorem tget_tset_same {α : Type} (t : Tbl α) (k : Nat) (v : α) : tget (tset t k v) k = some v := by
  induction t with
  | nil => simp [tset, tget]
  | cons e r ih =>
    obtain ⟨j, w⟩ := e
    unfold tset
    split
    · simp [tget]
    · split
      · simp [tget]
      · rename_i h
        simp [tget, Ne.symm h, ih]

/-- Every other key reads as before. -/
theorem tget_tset_other {α : Type} (t : Tbl α) (k j : Nat) (v : α) (h : j ≠ k) : tget (tset t k v) j = tget t j := by
  induction t with
  | nil => simp [tset, tget, Ne.symm h]
  | cons e r ih =>
    obtain ⟨i, w⟩ := e
    unfold tset
    split
    · simp [tget, Ne.symm h]
    · split
      · rename_i h2
        subst h2
        simp [tget, Ne.symm h]
      · simp [tget, ih]

/-! ### Slots -/

theorem slot_putSlot_same (s : State) (p : MPort) (i : Nat) (x : Slot) : (s.putSlot p i x).slot p i = x := by
  cases p <;> simp [State.slot, State.putSlot, State.onMbox, Mbox.slots, Mbox.putSlots, tgetD, tget_tset_same]

theorem slot_putSlot_other (s : State) (p r : MPort) (i j : Nat) (x : Slot) (h : (r, j) ≠ (p, i)) :
    (s.putSlot p i x).slot r j = s.slot r j := by
  cases p <;> cases r <;>
    simp_all [State.slot, State.putSlot, State.onMbox, Mbox.slots, Mbox.putSlots, tgetD, tget_tset_other]

/-- A signal raises a cause, a vector or a notice, and leaves every slot. -/
theorem signal_slot (s : State) (p r : MPort) (i j : Nat) (x : Slot) : (s.signal p i x).slot r j = s.slot r j := by
  unfold State.signal
  cases p
  · dsimp only
    split
    · cases r <;> rfl
    · unfold State.vector
      cases r <;> (repeat' split) <;> rfl
  · dsimp only
    split <;> rfl
  · rfl

/-- A hand-back writes its own slot and leaves every other one. -/
theorem handBack_slot (s : State) (p : MPort) (i st d : Nat) (pay : Bytes) (acc : Bool) (r : MPort) (j : Nat)
    (h : (r, j) ≠ (p, i)) : (s.handBack p i st d pay acc).slot r j = s.slot r j := by
  unfold State.handBack
  dsimp only
  rw [signal_slot, slot_putSlot_other _ _ _ _ _ _ h]

/-- What a hand-back leaves in its slot. -/
theorem handBack_slot_same (s : State) (p : MPort) (i st d : Nat) (pay : Bytes) (acc : Bool) :
    (s.handBack p i st d pay acc).slot p i = { s.slot p i with
      owner := false, status := st, detail := d, payloadLen := pay.length, payload := overlay (s.slot p i).payload 0 pay
      progress := 0, doneUs := s.nowUs, started := false
      storedSeq := if acc then (s.slot p i).seq else (s.slot p i).storedSeq } := by
  unfold State.handBack
  dsimp only
  rw [signal_slot, slot_putSlot_same]

end Sys2Proof.Laws
end

