-- ==== Sys2Proof/WellFormed.lean ====
section
/-! DEFINITION. Which commands are well formed: every operand in the range its home rule gives it. A command outside
it names a slot, a tile, a port or a field that the module does not have. -/

namespace Sys2Proof

/-- A slot of a port (R284): 64 on H, 8 on M, 2 on D. -/
def slotWf : MPort → Nat → Bool
  | .h, i => i < 64
  | .m, i => i < 8
  | .d, i => i < 2

/-- A posted image: 32 bytes of 0x20 to 0x3F at most, and a payload of at most 4,032 bytes (Table 9.3). -/
def SlotImage.wf (i : SlotImage) : Bool := i.tail.length ≤ 32 && i.payload.length ≤ 4032

def Req.wf (q : Req) : Bool :=
  slotWf q.port q.slot && (match q.post with | some i => i.wf | none => true)

/-- Logical tiles are 0 to 2,303, physical tiles 0 to 2,559, ports 0 to 5 (R20, R155). -/
def tileWf (t : Nat) : Bool := t < 2304
def ptileWf (t : Nat) : Bool := t < 2560
def portWf (p : Nat) : Bool := p < 6

/-- A queue pair number has 24 bits (R197), a session id 32 (R193). -/
def qpWf (q : Nat) : Bool := q < 16777216
def sessWf (x : Nat) : Bool := x < 4294967296

def UnitId.wf (u : UnitId) : Bool := u.kind < 12 && u.index < 65536

/-- A packet's header fields within their bits (Table 5.3). -/
def Packet.wf (k : Packet) : Bool :=
  k.type < 16 && k.cls < 8 && k.dest < 512 && k.src < 512 && k.dch < 64 && k.via < 512 && k.dtile < 4096 &&
  k.sliceId < 65536 && k.session < 4294967296 && k.stepSeq < 281474976710656 && k.opx < 8 && k.epoch < 65536 &&
  k.addr < 17592186044416 && k.a8d < 4 && k.len < 8192 &&
  -128 ≤ k.exp && k.exp ≤ 127

def FlitIn.wf (f : FlitIn) : Bool := f.payload.length == 288

def Instr.wf : Instr → Bool
  | .opIdentify q | .opStatus q | .opRightsRead q | .opBegin q | .opStage q | .opRead q | .opCommit q
  | .opRollback q | .opPersist q | .opFactoryView q | .opPlanLoad q | .opShardWrite q | .opShardVerify q
  | .opWeightSwap q | .opPlanUnload q | .opDigestSweep q | .opAdapterLoad q | .opAdapterReplace q
  | .opAdapterUnload q | .opAdapterList q | .opSliceStart q | .opSliceStop q | .opSessionQuery q
  | .opSessionEvict q | .opPowerStateSet q | .opCapSet q | .opPowerRead q | .opOppointSet q | .opBudgetRead q
  | .opCounterRead q | .opEventRead q | .opAccountingRead q | .opFaultRead q | .opFaultAck q | .opHealthRead q
  | .selftestCheckers q | .selftestTile q | .selftestAllDue q | .opHistoryRead q | .opFwHeader q | .opFwChunk q
  | .fwActivateAtReset q | .fwActivateWarm q | .fwActivateLive q | .opHealthConfirm q | .opFwAbort q
  | .opLifecycleSet q | .opOwnershipTake q | .opRightsNarrow q | .opDebugLevelSet q | .opErase q
  | .opCertRead q | .opNeighbourRead q | .opLinkStatus q | .opLinkRetrain q | .opLaneMargin q | .traceRead q
  | .traceStart q | .traceStop q | .opPhysRead q | .opPhysWrite q | .scanList q | .scanCapture q
  | .scanShiftOut q | .scanShiftIn q => q.wf
  | .planCheckDone | .powerStateEntered | .eraseDone _ | .mailboxReset _ | .warmReset _ | .irqClear _
  | .pcieLinkReset _ | .heartbeat | .getVersion _ | .getCapabilities _ _ | .negotiateAlgorithms _ _ _ _
  | .getDigests _ | .challenge _ _ _ _ | .getMeasurements _ _ _ _ | .spdmUnsupportedRequest _ _
  | .setEventReceiver _ | .pldmEventResponse | .pldmExportRetry | .stepCompose | .txnTimeout _
  | .streamStallWindow | .budgetWindow | .adapterGatherDone _ _ | .moeReserveExpiry | .pageMoveDone _ _
  | .streamFetchStart _ | .sweepPeriod | .sweepDone | .backingCopyDone _ | .homePhaseWrite _
  | .homePhaseWritten _ | .darkslideOpen | .powerWindowEnd _ _ | .clampAdjust _ | .capReachDecision _
  | .thermalSupervisor _ | .staggerHoldEnd | .fadeEnd | .coldStart _ _ | .handoverBlackout | .handoverDone
  | .trialWindowExpiry | .heartbeatWatchdog | .pwrEnRise | .pwrEnFall | .modResetN _ | .perstN | .dimmPwrOkFall
  | .trayLeakN | .carrierLeak | .thermtripRelease | .inputUndervoltage _ | .inputOvervoltage _ | .vsbLoss
  | .strapChange | .ppsEdge | .ppsLost | .coolantHigh _ | .drainDeadline | .persistDone | .scheduledWarmReset
  | .checkerTestDone _ | .lostModuleMark | .lenderSelfRevert => true
  | .shardVerifyDone kind _ _ => kind < 3
  | .registerWrite off _ => off < 262144 && off % 4 == 0
  | .slotWriteDenied slot _ _ => slot < 64
  | .slotMsgWrite _ slot image => slot < 8 && image.wf
  | .slotMsgRead _ slot | .getCertificate _ slot _ _ => slot < 8
  | .mboxAccess slot _ image => slot < 2 && image.wf
  | .collectorAck c _ | .collectorResend c _ => 1 ≤ c && c ≤ 4
  | .faultCountSecond _ unit | .droopTrip unit _ | .droopRecovery unit | .ceDetected unit _
  | .ueDetected unit _ _ _ _ | .parityError unit _ | .blockCrcFail unit _ _ _ | .leakyBucketLeak unit
  | .agitationScrub unit _ _ | .agitationLapLate unit => unit.wf
  | .cmReq client _ _ _ => client < 256
  | .cmDreq qp | .invalidRequestNak qp _ | .cnpReceived qp | .ceMarkedPacket qp | .localAckTimeout qp
  | .reqOpen qp _ | .reqAppend qp _ | .reqGenerate qp _ | .reqCancel qp _ | .reqPause qp _ | .reqResume qp _
  | .reqClose qp _ | .unknownType qp _ => qpWf qp
  | .cancelSettled session | .closeSettled session | .kvWaitExpiry session | .grantMoveDone _ session _
  | .csLookup session | .draftStep session _ | .samplingRow session _ _ | .pauseFixStart session
  | .pauseComplete session | .pauseExpiry session | .restoreComplete session => sessWf session
  | .sessionTable port k | .attnRecords port k | .grantList port k | .commit port k | .sessionUpdate port k
  | .genParams port k | .holeTable port k | .txnStage port k | .txnApply port k | .txnReply port k
  | .promotion port k | .stepAbort port k | .clear port k | .stepReport port k | .budgetSlack port k
  | .budgetLent port k | .budgetGrant port k | .budgetRevert port k | .budgetReverted port k
  | .startInfo port k | .draftTree port k | .outcome port k | .neighbourCard port k | .flushMarker port k
  | .linkMgmt port k | .writePacket port k | .readReq port k | .readRsp port k | .redPacket port k
  | .mcastPacket port k | .dispatchPacket port k | .dispatchEnd port k | .ret port k | .bufFree port k
  | .collPacket port k | .creditPacket port k => portWf port && k.wf
  | .descriptorStart tile | .matmul tile | .lora tile | .attn tile | .kvAppend tile | .norm tile
  | .elemwise tile | .route tile | .skipGate tile | .combine tile | .dispatch tile | .collective tile
  | .move tile | .fabricRed tile | .mcast tile | .embed tile | .sample tile | .phaseBoundary tile
  | .markTimeout tile | .stripJudge tile | .shadowCheckRun tile | .shadowVote tile | .slownessWindow tile _ _ => tileWf tile
  | .descriptorComplete tile unit => tileWf tile && unit < 3
  | .testDue ptile | .testComplete ptile _ | .testOverdue ptile => ptileWf ptile
  | .railCurrentSample rail _ => rail < 38
  | .pageMoveStart _ tier _ | .streamFetchDone _ tier _ => tier < 4
  | .flitReceived port f => portWf port && f.wf
  | .fastRetrainDone port _ _ | .portDown port _ | .linkTrainingDone port _ | .linkTrainingRetry port
  | .cardSend port | .cardAbsent port | .heldIdleRetrain port => portWf port
  | .oppointSettled cdie => cdie < 16
  | .startupStage stage _ => 1 ≤ stage && stage < 13
  | .thermalTrip sensor => sensor < 68
  | .strapSample slotId _ => slotId < 256
  | .laneMarginDone iface _ _ => iface < 8
  | .dmaReadDone port slot _ | .progressRewrite port slot _ => slotWf port slot

end Sys2Proof
end

