-- ==== Sys2Proof/Tests/Slice0.lean ====
section
/-! SUPPORT. Tests: the well-formedness checks refuse an ill-formed term each, and the premises of every statement are met. -/

namespace Sys2Proof.Tests

set_option Elab.async false

open Sys2Proof Sys2Proof.Machine

/-! ### Small states and requests -/

/-- A module in service in S0, with every port served. -/
def up : State := { State.reset with
  mbox := { ready := true, mServed := true, dServed := true }
  pwr := { state := .s0 }
  fw := { stage := 12 }
  sec := { lifecycle := .owned } }

/-- The lead of a slice of one. -/
def lead : State := { up with wts := { main := some { hdr := [], secs := [], totalBytes := 0, digest := [] } } }

/-- A command posted in slot 0 of a port. -/
def ask (port : MPort) (op : Nat) (pay : Bytes) (txn : Nat := 0) : Req :=
  { port := port, slot := 0
    post := some { word0 := w32 (1 + 65536 * op), tag := 7, txnId := w32 txn, word0C := w32 pay.length, seq := 1, payload := pay } }

/-- The module finds a posted command and its header passes. -/
def findsB (s : State) (q : Req) (op len : Nat) : Bool :=
  let t := foundIn s q
  let c := t.cmdAt q.port q.slot
  t.served c.port && decide (c.slot < slotCount c.port) && c.hdr.owner && !c.hdr.started && c.hdr.opcode == op &&
    c.hdr.seq != c.hdr.storedSeq && c.hdr.rsv0 == 0 && (!c.hdr.noIrq || c.port == .h) && c.hdr.rsvC == 0 && !c.hdr.rsvTail &&
    ((opInfo op).any fun o => t.portAllowed o c.port && t.opState o c.port (rd 4 c.pay 0)) && c.hdr.payloadLen == len &&
    decide (len ≤ 4032) && (c.hdr.txnId == 0 || (t.cfg.txnModule.any fun x => x.id == c.hdr.txnId.toNat) ||
      (t.cfg.txnSlice.any fun x => x.id == c.hdr.txnId.toNat))

theorem finds_of {s : State} {q : Req} {op len : Nat} (h : findsB s q op len = true) :
    Finds s q (foundIn s q) ((foundIn s q).cmdAt q.port q.slot) op len := by
  simp only [findsB, Bool.and_eq_true, decide_eq_true_eq, Bool.not_eq_true', bne_iff_ne, beq_iff_eq, Bool.or_eq_true] at h
  obtain ⟨⟨⟨⟨⟨⟨⟨⟨⟨⟨⟨⟨⟨h1, h2⟩, h3⟩, h4⟩, h5⟩, h6⟩, h7⟩, h8⟩, h9⟩, h10⟩, h11⟩, h12⟩, h13⟩, h14⟩ := h
  rw [Option.any_eq_true] at h11
  obtain ⟨o, ho, hab⟩ := h11
  rw [Bool.and_eq_true] at hab
  obtain ⟨ha, hb⟩ := hab
  refine ⟨rfl, rfl, h1, h2, h3, h4, h5, h6, h7, fun hn => ?_, h9, h10, ⟨o, ho, ha, hb⟩, h12, h13, ?_⟩
  · rcases h8 with h8 | h8
    · rw [hn] at h8; cases h8
    · exact h8
  · rcases h14 with (h14 | h14) | h14
    · exact .inl h14
    · exact .inr (.inl h14)
    · exact .inr (.inr h14)

/-- What an option holds, and what a choice holds. -/
theorem some_of {α : Type} {o : Option α} (h : o.isSome = true) : o = some (o.get h) := (Option.some_get h).symm

theorem inl_of {α γ β : Type} {o : (α × γ) ⊕ β} (h : o.isLeft = true) : o = .inl ((o.getLeft h).1, (o.getLeft h).2) :=
  (Sum.inl_getLeft o h).symm

/-! ### The premises of every statement are met

One theorem for each statement with premises: a state and operands for each of its clauses. -/

/-- Module-scope and slice-scope transactions in course, of port H. -/
def txnM : Txn := { id := 5, slice := false, port := .h, timeoutMs := 100, timerNs := 0, base := [], baseGen := 1, staged := [] }
def txnS : Txn := { txnM with id := 6, slice := true }
def inTxn : State := { lead with cfg := { txnModule := some txnM, txnSlice := some txnS } }

/-- A payload of one entry that reads, or sets, a key. -/
def readOf (key flag : Nat) : Bytes := le 4 (1 + 65536 * flag) ++ le 4 0 ++ le 4 key ++ le 4 0xFFFF ++ le 8 0
def setOf (key len value : Nat) : Bytes := le 4 1 ++ le 4 0 ++ le 4 key ++ le 4 len ++ le 8 0 ++ le 8 value

theorem witness_TransactionsOpenStageAndEnd :
  (∃ (s : State) (t : State) (q : Req) (c : Cmd), Finds s q t c 0x0101 8 ∧ rd 4 c.pay 0 ≤ 1 ∧
    (rd 4 c.pay 4 = 0 ∨ 100 ≤ rd 4 c.pay 4 ∧ rd 4 c.pay 4 ≤ 600000) ∧
    (if rd 4 c.pay 0 == 1 then t.cfg.txnSlice else t.cfg.txnModule).isSome = false) ∧
  (∃ (s : State) (t : State) (q : Req) (c : Cmd) (n : Nat), Finds s q t c 0x0102 n ∧ (∀ x ∈ entriesOwn false true t c,
    x.1 = false) ∧ c.hdr.txnId = 0 ∧ (∀ e ∈ (cmdEntries c true).1, (settingRow e.key).any (·.txn) = false) ∧
    t.blobBad [] (cmdEntries c true).1 = none) ∧
  (∃ (s : State) (t : State) (q : Req) (c : Cmd) (n : Nat) (x : Txn), Finds s q t c 0x0102 n ∧
    (∀ x ∈ entriesOwn false true t c, x.1 = false) ∧ c.hdr.txnId ≠ 0 ∧ t.txn? c.hdr.txnId.toNat = some x ∧
    x.port = c.port ∧ (∀ e ∈ (cmdEntries c true).1, keyScope e.key x.slice = true) ∧
    t.blobBad x.staged (cmdEntries c true).1 = none ∧ objFree t (objTxn x.id)) ∧
  (∃ (s : State) (t : State) (q : Req) (c : Cmd) (x : Txn), Finds s q t c 0x0104 0 ∧ t.txn? c.hdr.txnId.toNat = some x ∧
    x.port = c.port ∧ t.cfg.commit = none ∧ (∀ k ∈ tkeys x.staged, runValue x.base k = t.setting k) ∧
    objFree t (objTxn x.id)) ∧
  (∃ (s : State) (t : State) (q : Req) (c : Cmd) (x : Txn), Finds s q t c 0x0105 0 ∧ t.txn? c.hdr.txnId.toNat = some x ∧
    objFree t (objTxn x.id)) := by
  refine ⟨?_, ?_, ?_, ?_, ?_⟩
  · exact ⟨lead, _, ask .h 0x0101 (le 4 1 ++ le 4 100), _, finds_of (by decide +kernel), by decide +kernel, by decide +kernel,
    by decide +kernel⟩
  · exact ⟨lead, _, ask .m 0x0102 (setOf setTxnTimeout 4 100), _, 32, finds_of (by decide +kernel), by decide +kernel,
    by decide +kernel, by decide +kernel, by decide +kernel⟩
  · exact ⟨inTxn, _, ask .h 0x0102 (setOf setMgmtUdpPort 2 4096) 5, _, 32, txnM, finds_of (by decide +kernel),
    by decide +kernel, by decide +kernel, by decide +kernel, by decide +kernel, by decide +kernel, by decide +kernel,
    (by unfold objFree; decide +kernel)⟩
  · exact ⟨inTxn, _, ask .h 0x0104 [] 5, _, txnM, finds_of (by decide +kernel), by decide +kernel, by decide +kernel,
    by decide +kernel, by decide +kernel, (by unfold objFree; decide +kernel)⟩
  · exact ⟨inTxn, _, ask .m 0x0105 [] 6, _, txnS, finds_of (by decide +kernel), by decide +kernel,
    (by unfold objFree; decide +kernel)⟩

/-- A payload that writes the running image, and one that waits for it. -/
def persisting : State := { lead with cfg := { persist := some { port := .h, slot := 0, slice := false } } }
def late : State := { inTxn with clock := { timeNs := 100000000 } }

theorem witness_SettingsAreReadPersistedAndTimedOut :
  (∃ (s : State) (t : State) (q : Req) (c : Cmd) (n : Nat) (out : Bytes), Finds s q t c 0x0103 n ∧
    (∀ x ∈ entriesOwn true false t c, x.1 = false) ∧ bitOf (rd 4 c.pay 0) 16 = false ∧
    out = readBytes ((cmdEntries c false).1.map fun e => (e, t.srcOf e.key, t.setting e.key)) ∧ out.length ≤ 4032) ∧
  (∃ (s : State) (t : State) (q : Req) (c : Cmd) (n : Nat) (out : Bytes) (x : Txn), Finds s q t c 0x0103 n ∧
    (∀ x ∈ entriesOwn true false t c, x.1 = false) ∧ bitOf (rd 4 c.pay 0) 16 = true ∧ c.hdr.txnId ≠ 0 ∧
    t.txn? c.hdr.txnId.toNat = some x ∧ x.port = c.port ∧
    out = readBytes ((cmdEntries c false).1.map fun e =>
      match tget x.staged e.key with | some v => (e, 3, v) | none => (e, t.srcOf e.key, t.setting e.key)) ∧
    out.length ≤ 4032) ∧
  (∃ (s : State) (t : State) (q : Req) (c : Cmd) (n : Nat) (out : Bytes), Finds s q t c 0x0107 n ∧
    (∀ x ∈ entriesOwn true false t c, x.1 = false) ∧ bitOf (rd 4 c.pay 0) 16 = false ∧
    out = readBytes ((cmdEntries c false).1.map fun e => (e, 0, (settingRow e.key).elim [] SettingRow.factory)) ∧
    out.length ≤ 4032) ∧
  (∃ (s : State) (t : State) (q : Req) (c : Cmd) (n : Nat) (out : Bytes) (x : Txn) (es : List SetEntry),
    Finds s q t c 0x0107 n ∧ (∀ x ∈ entriesOwn true false t c, x.1 = false) ∧ bitOf (rd 4 c.pay 0) 16 = true ∧
    c.hdr.txnId ≠ 0 ∧ out = readBytes ((cmdEntries c false).1.map fun e => (e, 0,
    (settingRow e.key).elim [] SettingRow.factory)) ∧ out.length ≤ 4032 ∧ t.portAllowed ((opInfo 0x0102).getD ⟨0, 0,
    0, false, false⟩) c.port = true ∧ t.opState ((opInfo 0x0102).getD ⟨0, 0, 0, false,
    false⟩) c.port (rd 4 c.pay 0) = true ∧ t.txn? c.hdr.txnId.toNat = some x ∧ x.port = c.port ∧
    es = (cmdEntries c false).1.map (fun e =>
      { e with value := readPart e ((settingRow e.key).elim [] SettingRow.factory) }) ∧ (∀ e ∈ es,
    keyScope e.key x.slice = true) ∧ t.blobBad x.staged es = none ∧ objFree t (objTxn x.id)) ∧
  (∃ (s : State) (t : State) (q : Req) (c : Cmd), Finds s q t c 0x0106 4 ∧ rd 4 c.pay 0 ≤ 1 ∧
    (t.cfg.migrated && t.fw.trialBank.isSome) = false ∧ t.cfg.commit = none ∧ t.cfg.persist = none) ∧
  (∃ (s : State) (r : PersistRun), s.cfg.persist = some r) ∧
  (∃ (s : State) (sc : Bool) (x : Txn), (if sc then s.cfg.txnSlice else s.cfg.txnModule) = some x ∧
    x.timerNs + x.timeoutMs * 1000000 ≤ s.now ∧ s.cfg.commit.any (fun r => r.txn.id == x.id) = false) := by
  refine ⟨?_, ?_, ?_, ?_, ?_, ?_, ?_⟩
  · exact ⟨up, _, ask .d 0x0103 (readOf setMgmtAddr 0), _, 24, _, finds_of (by decide +kernel), by decide +kernel,
    by decide +kernel, rfl, by decide +kernel⟩
  · exact ⟨inTxn, _, ask .h 0x0103 (readOf setCollectors 1) 5, _, 24, _, txnM, finds_of (by decide +kernel), by decide +kernel,
    by decide +kernel, by decide +kernel, by decide +kernel, by decide +kernel, rfl, by decide +kernel⟩
  · exact ⟨up, _, ask .d 0x0107 (readOf setPowerCap 0), _, 24, _, finds_of (by decide +kernel), by decide +kernel,
    by decide +kernel, rfl, by decide +kernel⟩
  · exact ⟨inTxn, _, ask .h 0x0107 (readOf setPowerCap 1) 5, _, 24, _, txnM, _, finds_of (by decide +kernel), by decide +kernel,
    by decide +kernel, by decide +kernel, rfl, by decide +kernel, by decide +kernel, by decide +kernel,
    by decide +kernel, by decide +kernel, rfl, by decide +kernel, by decide +kernel,
    (by unfold objFree; decide +kernel)⟩
  · exact ⟨lead, _, ask .h 0x0106 (le 4 1), _, finds_of (by decide +kernel), by decide +kernel, by decide +kernel,
    by decide +kernel, by decide +kernel⟩
  · exact ⟨persisting, ⟨.h, 0, false⟩, by decide +kernel⟩
  · exact ⟨late, true, txnS, by decide +kernel, by decide +kernel, by decide +kernel⟩

/-- A table entry by its words' offsets. -/
def wordsOf (n : Nat) (l : List (Nat × Nat)) : List Nat := (List.range n).map fun i => ((l.find? fun e => e.1 == 4 * i).map (·.2)).getD 0

/-- A slice of one module, one layer, one weight tensor and its one shard. -/
def plan1 : PlanObj :=
  { hdr := wordsOf 64 [(0x08, 1), (0x10, 1), (0x1C, 0x010101), (0x20, 1), (0x2C, 1), (0x40, 128 + 64 * 65536), (0x48, 1000),
      (0x4C, 1000), (0x50, 8), (0x54, 256), (0x58, 1024)]
    secs := [(secLayer, [wordsOf 8 [(4, 1000)]]),
      (secTensor, [wordsOf 16 [(0, 3), (8, 0x200000), (0x10, 4096), (0x18, 16), (0x1C, 16), (0x20, 65536)]]),
      (secShard, [wordsOf 20 [(0, 9), (8, 3), (0x18, 4096)]])]
    totalBytes := 4096, digest := [] }

def withPlan : State := { up with wts := { main := some plan1 } }

def sliceChecking : State := { up with wts := { checking := some (.h, 0, false) } }

/-- OP_SHARD_WRITE: KIND and flags, ID, GEN, LENGTH, TOTAL_LEN and inline bytes. -/
def shardPay (w id gen len total : Nat) (b : Bytes) : Bytes :=
  le 4 w ++ le 4 id ++ le 4 gen ++ le 4 0 ++ le 8 len ++ le 8 total ++ le 8 0 ++ le 8 b.length ++ zeros 16 ++ b

/-- A DMA part of a plan, and one of a shard copy, in course. -/
def copy9 : ShardCopy :=
  { kind := kWeight, id := 9, gen := 1, role := 0, state := .writing, coded := false, length := 4096, totalLen := 4096 }
def dmaRun (obj : List Nat) : Running := { port := .h, slot := 0, opcode := 0x0202, foundNs := 0, obj := obj, args := [0, 4096, 4096] }
def dmaPlan : State := { up with
  mbox := { ready := true, running := [dmaRun (objCopy kPlan 0 0)] }
  wts := { staging := { state := .writing, totalLen := 4096 } } }
def dmaCopy : State := { up with
  mbox := { ready := true, running := [dmaRun (objCopy kWeight 9 1)] }
  wts := { main := some plan1, copies := [copy9] } }

theorem witness_PlansAndShardsAreWritten :
  (∃ (s : State) (t : State) (q : Req) (c : Cmd), Finds s q t c 0x0201 4 ∧ rd 4 c.pay 0 ≤ 1 ∧
    (rd 4 c.pay 0 == 1 && t.wts.main.isNone) = false ∧ objFree t objPlan ∧ t.planWriting = false) ∧
  (∃ (s : State) (port : MPort) (slot : Nat) (draft : Bool) (f : PlanFail), s.wts.checking = some (port, slot, draft) ∧
    s.checkPlan (planImg s.wts.staging.bytes) draft = some f) ∧
  (∃ (s : State) (t : State) (q : Req) (c : Cmd) (n : Nat) (x : ShardCmd), Finds s q t c 0x0202 n ∧
    (∀ y ∈ shardWriteChecks t c, y.1 = false) ∧ shardCmd c.pay = x ∧ (x.dma = true → c.port = .h) ∧
    objFree t (objCopy x.kind x.id x.gen) ∧ x.kind = kPlan ∧ t.wts.checking = none) ∧
  (∃ (s : State) (t : State) (q : Req) (c : Cmd) (n : Nat) (x : ShardCmd) (k : ShardCopy) (fresh : Bool),
    Finds s q t c 0x0202 n ∧ (∀ y ∈ shardWriteChecks t c, y.1 = false) ∧ shardCmd c.pay = x ∧
    (x.dma = true → c.port = .h) ∧ objFree t (objCopy x.kind x.id x.gen) ∧ x.kind = kAdapter ∧
    t.openCopy x x.coded x.len = .inl (k, fresh)) ∧
  (∃ (s : State) (t : State) (q : Req) (c : Cmd) (n : Nat) (x : ShardCmd) (e : PlanObj × List Nat) (u : State) (k :
      ShardCopy) (fresh : Bool), Finds s q t c 0x0202 n ∧ (∀ y ∈ shardWriteChecks t c, y.1 = false) ∧
    shardCmd c.pay = x ∧ (x.dma = true → c.port = .h) ∧ objFree t (objCopy x.kind x.id x.gen) ∧ x.kind = kWeight ∧
    t.shardEnt x.id = some e ∧ formOk (shCoded e.2) (shLength e.2) x.total = true ∧
    (x.repair && t.sliceBusy) = false ∧ t.genRefused x.gen = none ∧
    u = (t.onWts fun w => if w.curGen = 0 then { w with firstGen := x.gen } else if w.curGen < x.gen then
      { w with stagedGen := x.gen } else w) ∧ u.openCopy x (shCoded e.2) (shLength e.2) = .inl (k, fresh)) ∧
  (∃ (s : State) (port : MPort) (slot : Nat) (r : Running),
    s.mbox.running.find? (fun r => r.port == port && r.slot == slot && (r.opcode == 0x0202 || r.opcode == 0x0802)) =
      some r ∧ r.opcode = 0x0202 ∧ r.obj.getD 1 0 = kPlan ∧ s.wts.staging.state = .writing ∧
    s.wts.staging.totalLen = r.args.getD 2 0) ∧
  (∃ (s : State) (port : MPort) (slot : Nat) (r : Running) (k : ShardCopy),
    s.mbox.running.find? (fun r => r.port == port && r.slot == slot && (r.opcode == 0x0202 || r.opcode == 0x0802)) =
      some r ∧ r.opcode = 0x0202 ∧ r.obj.getD 1 0 ≠ kPlan ∧
    s.copy? (r.obj.getD 1 0) (r.obj.getD 2 0) (r.obj.getD 3 0) = some k ∧ k.state = .writing) := by
  refine ⟨?_, ?_, ?_, ?_, ?_, ?_, ?_⟩
  · exact ⟨withPlan, _, ask .h 0x0201 (le 4 1), _, finds_of (by decide +kernel), by decide +kernel, by decide +kernel,
    (by unfold objFree; decide +kernel), by decide +kernel⟩
  · exact ⟨sliceChecking, .h, 0, false, _, by decide +kernel, some_of (by decide +kernel)⟩
  · exact ⟨up, _, ask .m 0x0202 (shardPay 0 0 0 0 4096 (zeros 64)), _, 128, _, finds_of (by decide +kernel), by decide +kernel,
    rfl, by decide +kernel, (by unfold objFree; decide +kernel), by decide +kernel, by decide +kernel⟩
  · exact ⟨withPlan, _, ask .h 0x0202 (shardPay 2 7 0 4096 4096 (zeros 64)), _, 128, _, _, _, finds_of (by decide +kernel),
    by decide +kernel, rfl, by decide +kernel, (by unfold objFree; decide +kernel), by decide +kernel,
    inl_of (by decide +kernel)⟩
  · exact ⟨withPlan, _, ask .h 0x0202 (shardPay 1 9 1 0 4096 (zeros 64)), _, 128, _, _, _, _, _, finds_of (by decide +kernel),
    by decide +kernel, rfl, by decide +kernel, (by unfold objFree; decide +kernel), by decide +kernel,
    some_of (by decide +kernel), by decide +kernel, by decide +kernel, by decide +kernel, rfl,
    inl_of (by decide +kernel)⟩
  · exact ⟨dmaPlan, .h, 0, _, some_of (by decide +kernel), by decide +kernel, by decide +kernel, by decide +kernel,
    by decide +kernel⟩
  · exact ⟨dmaCopy, .h, 0, _, _, some_of (by decide +kernel), by decide +kernel, by decide +kernel, some_of (by decide +kernel),
    by decide +kernel⟩

/-- Copies of shards, the first as the plan names it, verified or not. -/
def good9 : ShardCopy := { copy9 with state := .verified, data := [(0, zeros 64)], length := 64, totalLen := 64 }
def withCopy (x : ShardCopy) (more : Weights → Weights := id) : State :=
  { up with wts := more { main := some plan1, copies := [x], curGen := 1, firstGen := 1 } }
def verifyPay (kind id gen : Nat) : Bytes := le 4 kind ++ le 4 id ++ le 4 gen ++ zeros 52
def verifying (body : Bytes) : State := { (withCopy { good9 with state := .verifying }) with
  mbox := { ready := true, running := [{ dmaRun (objCopy kWeight 9 1) with opcode := 0x0203, body := body }] } }
def sweeping : State := withCopy good9 fun w => { w with sweep := some ⟨0, 1, 0, 0⟩ }

theorem witness_CopiesAreVerifiedAndSwept :
  (∃ (s : State) (t : State) (q : Req) (c : Cmd) (x : ShardCopy), Finds s q t c 0x0203 0x40 ∧ (rd 4 c.pay 0 = 1 ∧
    rd 4 c.pay 8 ≠ 0 ∧ rd 4 c.pay 8 ≠ 0xFFFFFFFF ∧ t.wts.main.isSome = true ∧
    (t.shardEnt (rd 4 c.pay 4)).isSome = true ∨ rd 4 c.pay 0 = 2 ∧ rd 4 c.pay 8 = 0) ∧ rd 4 c.pay 4 ≠ 0 ∧
    rd 4 c.pay 4 ≠ 0xFFFFFFFF ∧ rd 4 c.pay 0x0C = 0 ∧
    objFree t (objCopy (rd 4 c.pay 0) (rd 4 c.pay 4) (rd 4 c.pay 8)) ∧
    t.copy? (rd 4 c.pay 0) (rd 4 c.pay 4) (rd 4 c.pay 8) = some x ∧ x.state = .verified) ∧
  (∃ (s : State) (t : State) (q : Req) (c : Cmd) (x : ShardCopy) (want : _), Finds s q t c 0x0203 0x40 ∧
    (rd 4 c.pay 0 = 1 ∧ rd 4 c.pay 8 ≠ 0 ∧ rd 4 c.pay 8 ≠ 0xFFFFFFFF ∧ t.wts.main.isSome = true ∧
    (t.shardEnt (rd 4 c.pay 4)).isSome = true ∨ rd 4 c.pay 0 = 2 ∧ rd 4 c.pay 8 = 0) ∧ rd 4 c.pay 4 ≠ 0 ∧
    rd 4 c.pay 4 ≠ 0xFFFFFFFF ∧ rd 4 c.pay 0x0C = 0 ∧
    objFree t (objCopy (rd 4 c.pay 0) (rd 4 c.pay 4) (rd 4 c.pay 8)) ∧
    t.copy? (rd 4 c.pay 0) (rd 4 c.pay 4) (rd 4 c.pay 8) = some x ∧ x.state = .writing ∧
    covered x.totalLen x.data = true ∧
    (if rd 4 c.pay 0 = kWeight then t.shardEnt (rd 4 c.pay 4) else none).bind (fun e => t.mapDigest e (rd 4 c.pay 8))
      = want ∧ (allZero (cut c.pay 0x10 48) = true ∨ want = none ∨ want = some (cut c.pay 0x10 48))) ∧
  (∃ (s : State) (kind : Nat) (id : Nat) (gen : Nat) (r : Running) (x : ShardCopy) (narrow : Bytes),
    s.mbox.running.find? (fun r => r.opcode == 0x0203 && r.obj == objCopy kind id gen) = some r ∧
    s.copy? kind id gen = some x ∧ x.state = .verifying ∧ develop x.coded x.length x.bytes = .ok narrow ∧
    sha384 narrow = r.body) ∧
  (∃ (s : State) (kind : Nat) (id : Nat) (gen : Nat) (r : Running) (x : ShardCopy) (narrow : Bytes),
    s.mbox.running.find? (fun r => r.opcode == 0x0203 && r.obj == objCopy kind id gen) = some r ∧
    s.copy? kind id gen = some x ∧ x.state = .verifying ∧ develop x.coded x.length x.bytes = .ok narrow ∧
    sha384 narrow ≠ r.body) ∧
  (∃ (s : State) (t : State) (q : Req) (c : Cmd), Finds s q t c 0x0206 4 ∧ rd 4 c.pay 0 ≤ 1) ∧
  (∃ (s : State) (r : Sweep) (a : State × Nat), s.wts.sweep = some r ∧
    a = s.shardEnts.foldl (fun (a : State × Nat) x => ((a.1.sweepShard x).1, a.2 + (a.1.sweepShard x).2)) (s, 0)) ∧
  (∃ (s : State), s.l2Up = true ∧ s.wts.sweep = none ∧ s.wts.swap = none) ∧
  (∃ (s : State) (r : Sweep), s.l2Up = true ∧ s.wts.sweep = some r) ∧
  (∃ (s : State) (id : Nat) (x : ShardCopy), s.copy? kWeight id s.wts.curGen = some x ∧ s.wts.t3InService = true ∧
    x.state = .verified ∧ x.role = roleBacking ∧ x.inT3 = false ∧ pagesOf x.totalLen ≤ s.t3Free) := by
  refine ⟨?_, ?_, ?_, ?_, ?_, ?_, ?_, ?_, ?_⟩
  · exact ⟨withCopy good9 id, _, ask .h 0x0203 (verifyPay 1 9 1), _, _, finds_of (by decide +kernel), by decide +kernel,
    by decide +kernel, by decide +kernel, by decide +kernel, (by unfold objFree; decide +kernel),
    some_of (by decide +kernel), by decide +kernel⟩
  · exact ⟨withCopy { good9 with state := .writing } id, _, ask .m 0x0203 (verifyPay 1 9 1), _, _, _,
    finds_of (by decide +kernel), by decide +kernel, by decide +kernel, by decide +kernel, by decide +kernel,
    (by unfold objFree; decide +kernel), some_of (by decide +kernel), by decide +kernel, by decide +kernel, rfl,
    by decide +kernel⟩
  · exact ⟨verifying (sha384 (zeros 64)), kWeight, 9, 1, _, _, zeros 64, some_of (by decide +kernel),
    some_of (by decide +kernel), by decide +kernel, by decide +kernel, by decide +kernel⟩
  · exact ⟨verifying [], kWeight, 9, 1, _, _, zeros 64, some_of (by decide +kernel), some_of (by decide +kernel),
    by decide +kernel, by decide +kernel, by decide +kernel⟩
  · exact ⟨withPlan, _, ask .h 0x0206 (le 4 1), _, finds_of (by decide +kernel), by decide +kernel⟩
  · exact ⟨sweeping, _, _, some_of (by decide +kernel), rfl⟩
  · exact ⟨withPlan, by decide +kernel, by decide +kernel, by decide +kernel⟩
  · exact ⟨sweeping, _, by decide +kernel, some_of (by decide +kernel)⟩
  · exact ⟨withCopy good9 (fun w => { w with t3InService := true, t3Gib := 2048 }), 9, _, some_of (by decide +kernel),
    by decide +kernel, by decide +kernel, by decide +kernel, by decide +kernel, by decide +kernel⟩

/-- A one-module slice without shards, and its weights' generations 1 and 2. -/
def plan0 : PlanObj := { plan1 with secs := [(secLayer, [wordsOf 8 [(0, 0x40000), (4, 1000), (0x10, 4096)]])] }
def swapable (run : SliceState) : State := { up with wts := { main := some plan0, curGen := 1, firstGen := 1 }, srv := { sliceState := run } }
def swapPay (s : State) (gen mode : Nat) : Bytes := le 4 gen ++ le 4 mode ++ zeros 8 ++ s.sliceManifest gen
def inSwap (r : SwapRun) : State := { up with wts := { main := some plan0, curGen := 1, swap := some r } }
def swapRun : SwapRun :=
  { newGen := 2, discard := true, port := .h, slot := 0, closedNs := some 0, writing := none, phase := 2, reports := [] }
def streaming : State := { up with
  wts := { main := some plan0, halves := [(0, { layer := some 0, step := 4 })] }
  steps := { live := [{ seq := 3, verify := true, entered := true, enteredNs := [(0, 0)] }] } }
def fetching : State := { streaming with wts := { main := some plan0 } }

theorem witness_WeightsSwapAndPlansUnload :
  (∃ (s : State) (t : State) (q : Req) (c : Cmd), Finds s q t c 0x0204 0x40 ∧ rd 4 c.pay 0 ≠ 0 ∧
    rd 4 c.pay 0 ≠ 0xFFFFFFFF ∧ rd 4 c.pay 4 ≤ 1 ∧ rd 8 c.pay 8 = 0 ∧ t.wts.main.isSome = true ∧ t.wts.swap = none ∧
    t.wts.curGen < rd 4 c.pay 0 ∧ t.allVerified (rd 4 c.pay 0) = true ∧ (∀ m ∈ t.others,
    otherVerified m (rd 4 c.pay 0) = true) ∧ cut c.pay 0x10 48 = t.sliceManifest (rd 4 c.pay 0) ∧
    t.sliceRunning = true) ∧
  (∃ (s : State) (t : State) (q : Req) (c : Cmd), Finds s q t c 0x0204 0x40 ∧ rd 4 c.pay 0 ≠ 0 ∧
    rd 4 c.pay 0 ≠ 0xFFFFFFFF ∧ rd 4 c.pay 4 ≤ 1 ∧ rd 8 c.pay 8 = 0 ∧ t.wts.main.isSome = true ∧ t.wts.swap = none ∧
    t.wts.curGen < rd 4 c.pay 0 ∧ t.allVerified (rd 4 c.pay 0) = true ∧ (∀ m ∈ t.others,
    otherVerified m (rd 4 c.pay 0) = true) ∧ cut c.pay 0x10 48 = t.sliceManifest (rd 4 c.pay 0) ∧
    t.sliceRunning = false) ∧
  (∃ (s : State) (phase : Nat) (r : SwapRun), s.swapHere = some r ∧ r.writing = none ∧ r.phase = phase ∧
    phase ≤ s.plan.postPhase ∧ s.pwr.state = .s0 ∧ (s.oldStepsBefore phase).isEmpty = true) ∧
  (∃ (s : State) (phase : Nat) (r : SwapRun), s.wts.swap = some r ∧ r.writing = some phase ∧ phase ≠ s.plan.postPhase) ∧
  (∃ (s : State) (r : SwapRun) (u : State) (v : State), s.wts.swap = some r ∧ s.isLead = true ∧
    s.plan.postPhase < r.phase ∧ r.writing = none ∧
    u = ((((((s.becomeCurrent r.newGen).onWts fun w => { w with swap := none }).count ctSwapHold 0 (s.now -
      r.closedNs.getD s.now)).count ctSwaps 0 1).onSrv fun v => { v with held := false }).swapKv r.discard r.newGen) ∧
    v = (if r.discard then ((u.steps.live.filter (·.held)).map (·.seq)).foldl (fun a n => a.uncompose n) u else
      ((u.steps.live.filter (·.held)).map (·.seq)).foldl (fun a n => (a.modStep n fun t =>
      { t with held := false }).sendTables n) u)) ∧
  (∃ (s : State) (t : State) (q : Req) (c : Cmd), Finds s q t c 0x0205 4 ∧ rd 4 c.pay 0 = 1 ∧ t.wts.swap = none) ∧
  (∃ (s : State) (t : State) (q : Req) (c : Cmd), Finds s q t c 0x0205 4 ∧ rd 4 c.pay 0 = 0 ∧ t.sliceBusy = false ∧
    objFree t objPlan) ∧
  (∃ (s : State) (layer : Nat) (x : Step), s.wts.main.any (fun p => p.streamedLayers.contains layer) = true ∧
    s.fetchStep layer = some x ∧ s.halfFree (tgetD s.wts.halves (s.plan.halfOf layer) {}) = true) ∧
  (∃ (s : State) (layer : Nat) (cause : Nat) (h : StreamHalf), s.wts.main.isSome = true ∧
    tgetD s.wts.halves (s.plan.halfOf layer) {} = h ∧ h.layer = some layer ∧ h.fetched = false ∧ 0 < cause ∧
    cause < 7 ∧ s.step? h.step = none) := by
  refine ⟨?_, ?_, ?_, ?_, ?_, ?_, ?_, ?_, ?_⟩
  · exact ⟨swapable .running, _, ask .h 0x0204 (swapPay (swapable .running) 2 1), _, finds_of (by decide +kernel),
    by decide +kernel, by decide +kernel, by decide +kernel, by decide +kernel, by decide +kernel, by decide +kernel,
    by decide +kernel, by decide +kernel, by decide +kernel, by decide +kernel, by decide +kernel⟩
  · exact ⟨swapable .stopped, _, ask .h 0x0204 (swapPay (swapable .stopped) 0xFFFFFFFE 0), _, finds_of (by decide +kernel),
    by decide +kernel, by decide +kernel, by decide +kernel, by decide +kernel, by decide +kernel, by decide +kernel,
    by decide +kernel, by decide +kernel, by decide +kernel, by decide +kernel, by decide +kernel⟩
  · exact ⟨inSwap swapRun, 2, _, some_of (by decide +kernel), by decide +kernel, by decide +kernel, by decide +kernel,
    by decide +kernel, by decide +kernel⟩
  · exact ⟨inSwap { swapRun with writing := some 1 }, 1, _, some_of (by decide +kernel), by decide +kernel, by decide +kernel⟩
  · exact ⟨inSwap { swapRun with phase := 3 }, _, _, _, some_of (by decide +kernel), by decide +kernel, by decide +kernel,
    by decide +kernel, rfl, rfl⟩
  · exact ⟨withPlan, _, ask .m 0x0205 (le 4 1), _, finds_of (by decide +kernel), by decide +kernel, by decide +kernel⟩
  · exact ⟨withPlan, _, ask .h 0x0205 (le 4 0), _, finds_of (by decide +kernel), by decide +kernel, by decide +kernel,
    (by unfold objFree; decide +kernel)⟩
  · exact ⟨fetching, 0, _, by decide +kernel, some_of (by decide +kernel), by decide +kernel⟩
  · exact ⟨streaming, 0, 6, _, by decide +kernel, rfl, by decide +kernel, by decide +kernel, by decide +kernel,
    by decide +kernel, by decide +kernel⟩

/-- An adapter installed in generation 1, with its shard, and its session. -/
def ad7 : Adapter := { id := 1024, gen := 1, ranks := List.replicate 16 0, shard := 5, stored := [(1, 5)], pool := [] }
def withAd : State := { lead with wts := { main := some plan0 }, adp := { list := [ad7] } }
def adPay (flags id : Nat) : Bytes := le 4 (id + flags * 2048) ++ le 4 1 ++ zeros 36

theorem witness_AdaptersLoadAndGo :
  (∃ (s : State) (t : State) (q : Req) (c : Cmd) (n : Nat), Finds s q t c 0x0301 n ∧ (∀ x ∈ adapterChecks false t c,
    x.1 = false) ∧ objFree t (objAdapter (adId c.pay)) ∧ t.adapter? (adId c.pay) = none ∧
    (∀ x ∈ t.loadRefusals c stNoSpace, x.1 = false)) ∧
  (∃ (s : State) (t : State) (q : Req) (c : Cmd) (n : Nat), Finds s q t c 0x0302 n ∧ (∀ x ∈ adapterChecks true t c,
    x.1 = false) ∧ objFree t (objAdapter (adId c.pay)) ∧ (t.adapter? (adId c.pay)).isSome = true ∧
    (∀ x ∈ t.loadRefusals c stAdapterBusy, x.1 = false)) ∧
  (∃ (t : State), t.sliceRunning = false) ∧
  (∃ (t : State), t.sliceRunning = true) ∧
  (∃ (s : State) (t : State) (q : Req) (c : Cmd) (x : Adapter), Finds s q t c 0x0303 4 ∧ adId c.pay ≠ 0 ∧
    adId c.pay ≤ 1024 ∧ rd 4 c.pay 0 / 4096 = 0 ∧ objFree t (objAdapter (adId c.pay)) ∧
    t.adapter? (adId c.pay) = some x ∧ ((t.boundTo x.id).isEmpty = true ∨ adForce c.pay = true)) ∧
  (∃ (s : State) (t : State) (q : Req) (c : Cmd), Finds s q t c 0x0304 4 ∧ rd 2 c.pay 0 ≠ 0 ∧ rd 2 c.pay 0 ≤ 1024 ∧
    rd 2 c.pay 2 = 0) ∧
  (∃ (s : State) (id : Nat) (gen : Nat) (x : Adapter) (u : State), s.adapter? id = some x ∧
    x.stored.any (fun g => g.1 == gen) = true ∧ s.genBound id gen = true ∧ s.inPool (handleOf id gen) = false ∧
    s.poolRoom (s.partBytes id gen).length (listSum (s.adp.list.map (·.pool.length))) = some u) := by
  refine ⟨?_, ?_, ?_, ?_, ?_, ?_, ?_⟩
  · exact ⟨swapable .stopped, _, ask .h 0x0301 (adPay 0 1024), _, 44, finds_of (by decide +kernel), by decide +kernel,
    (by unfold objFree; decide +kernel), by decide +kernel, by decide +kernel⟩
  · exact ⟨withAd, _, ask .h 0x0302 (adPay 1 1024), _, 44, finds_of (by decide +kernel), by decide +kernel,
    (by unfold objFree; decide +kernel), by decide +kernel, by decide +kernel⟩
  · exact ⟨swapable .stopped, by decide +kernel⟩
  · exact ⟨swapable .running, by decide +kernel⟩
  · exact ⟨withAd, _, ask .m 0x0303 (le 4 (1024 + 2048)), _, _, finds_of (by decide +kernel), by decide +kernel,
    by decide +kernel, by decide +kernel, (by unfold objFree; decide +kernel), some_of (by decide +kernel),
    by decide +kernel⟩
  · exact ⟨withAd, _, ask .h 0x0304 (le 4 1024), _, finds_of (by decide +kernel), by decide +kernel, by decide +kernel,
    by decide +kernel⟩
  · exact ⟨{ withAd with srv := { sessions := [(1, { index := 1, use := 1, client := 1, cls := 0, maxCtx := 64, adapterId := 1024, handle := handleOf 1024 1 })] } },
    1024, 1, _, _, some_of (by decide +kernel), by decide +kernel, by decide +kernel, by decide +kernel,
    some_of (by decide +kernel)⟩

theorem witness_QueriesAnswer :
  (∃ (s : State) (t : State) (q : Req) (c : Cmd), Finds s q t c 0x0001 0) ∧
  (∃ (s : State) (t : State) (q : Req) (c : Cmd), Finds s q t c 0x0002 0) ∧
  (∃ (s : State) (t : State) (q : Req) (c : Cmd), Finds s q t c 0x0003 0) ∧
  (∃ (s : State) (t : State) (q : Req) (c : Cmd), Finds s q t c 0x0503 0) ∧
  (∃ (s : State) (t : State) (q : Req) (c : Cmd), Finds s q t c 0x0505 0) ∧
  (∃ (s : State) (t : State) (q : Req) (c : Cmd), Finds s q t c 0x0703 0) ∧
  (∃ (s : State) (t : State) (q : Req) (c : Cmd), Finds s q t c 0x0A01 0) ∧
  (∃ (s : State) (t : State) (q : Req) (c : Cmd), Finds s q t c 0x0A02 0) := by
  refine ⟨?_, ?_, ?_, ?_, ?_, ?_, ?_, ?_⟩
  · exact ⟨up, _, ask .d 0x0001 [], _, finds_of (by decide +kernel)⟩
  · exact ⟨up, _, ask .h 0x0002 [], _, finds_of (by decide +kernel)⟩
  · exact ⟨up, _, ask .m 0x0003 [], _, finds_of (by decide +kernel)⟩
  · exact ⟨up, _, ask .d 0x0503 [], _, finds_of (by decide +kernel)⟩
  · exact ⟨up, _, ask .h 0x0505 [], _, finds_of (by decide +kernel)⟩
  · exact ⟨up, _, ask .d 0x0703 [], _, finds_of (by decide +kernel)⟩
  · exact ⟨up, _, ask .h 0x0A01 [], _, finds_of (by decide +kernel)⟩
  · exact ⟨up, _, ask .d 0x0A02 [], _, finds_of (by decide +kernel)⟩

theorem witness_RecordsAreReadAndAcknowledged :
  (∃ (s : State) (t : State) (q : Req) (c : Cmd), Finds s q t c 0x0601 (8 + 8 * rd 2 c.pay 0) ∧ 0 < rd 2 c.pay 0 ∧
    rd 2 c.pay 0 ≤ 251 ∧ rd 2 c.pay 2 = 0 ∧ rd 4 c.pay 4 = 0 ∧ (∀ i ∈ List.range (rd 2 c.pay 0),
    t.counterOk (rd 4 c.pay (8 + 8 * i)) (rd 4 c.pay (12 + 8 * i)) = true)) ∧
  (∃ (s : State) (t : State) (q : Req) (c : Cmd), Finds s q t c 0x0602 8 ∧ 0 < byteAt c.pay 4 ∧ byteAt c.pay 4 ≤ 125 ∧
    rd 4 c.pay 4 / 256 = 0) ∧
  (∃ (s : State) (t : State) (q : Req) (c : Cmd), Finds s q t c 0x0603 4 ∧ 0 < byteAt c.pay 0 ∧ rd 4 c.pay 0 / 256 = 0) ∧
  (∃ (s : State) (t : State) (q : Req) (c : Cmd), Finds s q t c 0x0701 12 ∧ 0 < rd 4 c.pay 8 ∧ rd 4 c.pay 8 ≤ 12) ∧
  (∃ (s : State) (t : State) (q : Req) (c : Cmd), Finds s q t c 0x0702 8) ∧
  (∃ (s : State) (t : State) (q : Req) (c : Cmd) (n : Nat), Finds s q t c 0x0705 12 ∧ 0 < n ∧ n = rd 4 c.pay 8 ∧
    n < 512 ∧ rd 4 c.pay 0 = 0 ∧ n ≤ 125 ∧ rd 4 c.pay 4 / 65536 < 12) ∧
  (∃ (s : State) (t : State) (q : Req) (c : Cmd) (n : Nat), Finds s q t c 0x0705 12 ∧ 0 < n ∧ n = rd 4 c.pay 8 ∧
    n < 512 ∧ rd 4 c.pay 0 = 1 ∧ n ≤ 125) ∧
  (∃ (s : State) (t : State) (q : Req) (c : Cmd) (n : Nat), Finds s q t c 0x0705 12 ∧ 0 < n ∧ n = rd 4 c.pay 8 ∧
    n < 512 ∧ rd 4 c.pay 0 = 2 ∧ n ≤ 503) ∧
  (∃ (s : State) (t : State) (q : Req) (c : Cmd), Finds s q t c 0x0906 8 ∧ 0 < rd 2 c.pay 4 ∧
    (rd 2 c.pay 4 ≤ 4024 ∨ rd 2 c.pay 4 = 0xFFFF) ∧ rd 2 c.pay 6 = 0) := by
  refine ⟨?_, ?_, ?_, ?_, ?_, ?_, ?_, ?_, ?_⟩
  · exact ⟨up, _, ask .h 0x0601 (le 8 1 ++ le 4 ctSwaps ++ le 4 0), _, finds_of (by decide +kernel), by decide +kernel,
    by decide +kernel, by decide +kernel, by decide +kernel, by decide +kernel⟩
  · exact ⟨up, _, ask .h 0x0602 (le 4 1 ++ le 4 125), _, finds_of (by decide +kernel), by decide +kernel, by decide +kernel,
    by decide +kernel⟩
  · exact ⟨lead, _, ask .h 0x0603 (le 4 255), _, finds_of (by decide +kernel), by decide +kernel, by decide +kernel⟩
  · exact ⟨up, _, ask .m 0x0701 (le 8 0 ++ le 4 12), _, finds_of (by decide +kernel), by decide +kernel, by decide +kernel⟩
  · exact ⟨up, _, ask .m 0x0702 (le 8 1), _, finds_of (by decide +kernel)⟩
  · exact ⟨up, _, ask .h 0x0705 (le 4 0 ++ le 4 0xBFFFF ++ le 4 125), _, 125, finds_of (by decide +kernel), by decide +kernel,
    by decide +kernel, by decide +kernel, by decide +kernel, by decide +kernel, by decide +kernel⟩
  · exact ⟨up, _, ask .h 0x0705 (le 4 1 ++ le 4 0 ++ le 4 1), _, 1, finds_of (by decide +kernel), by decide +kernel,
    by decide +kernel, by decide +kernel, by decide +kernel, by decide +kernel⟩
  · exact ⟨up, _, ask .h 0x0705 (le 4 2 ++ le 4 0 ++ le 4 503), _, 503, finds_of (by decide +kernel), by decide +kernel,
    by decide +kernel, by decide +kernel, by decide +kernel, by decide +kernel⟩
  · exact ⟨up, _, ask .d 0x0906 (le 4 0 ++ le 4 0xFFFF), _, finds_of (by decide +kernel), by decide +kernel, by decide +kernel,
    by decide +kernel⟩

/-- Physical tiles under test, and a self-test of the checkers in course. -/
def tested : State := { up with clock := { lifeS := 0 } }
def dueAt : State := { up with clock := { lifeS := 700000 } }
def selfRunning : State := { up with integ := { selftest := some ⟨.h, 0, 0, [], 0, 0⟩ } }

theorem witness_SelfTestsAndPreferredPointsAreTaken :
  (∃ (s : State) (t : State) (q : Req) (c : Cmd), Finds s q t c 0x0704 8 ∧ rd 4 c.pay 0 = 0 ∧ rd 4 c.pay 4 = 0 ∧
    t.sliceBusy = false ∧ t.integ.selftest = none) ∧
  (∃ (s : State) (t : State) (q : Req) (c : Cmd), Finds s q t c 0x0704 8 ∧ rd 4 c.pay 0 = 1 ∧ rd 4 c.pay 4 < 2560 ∧
    t.integ.selftest = none) ∧
  (∃ (s : State) (t : State) (q : Req) (c : Cmd) (due : List Nat), Finds s q t c 0x0704 8 ∧ rd 4 c.pay 0 = 2 ∧
    rd 4 c.pay 4 = 0 ∧ t.integ.selftest = none ∧
    due = (List.range 2560).filter (fun p => t.testDue p || t.tiles.inTest.contains p) ∧ due = []) ∧
  (∃ (s : State) (t : State) (q : Req) (c : Cmd) (due : List Nat), Finds s q t c 0x0704 8 ∧ rd 4 c.pay 0 = 2 ∧
    rd 4 c.pay 4 = 0 ∧ t.integ.selftest = none ∧
    due = (List.range 2560).filter (fun p => t.testDue p || t.tiles.inTest.contains p) ∧ due ≠ []) ∧
  (∃ (s : State) (r : SelfRun), s.integ.selftest = some r ∧ r.kind = 0) ∧
  (∃ (s : State) (t : State) (q : Req) (c : Cmd), Finds s q t c 0x0504 (8 + 4 * rd 2 c.pay 0) ∧ 0 < rd 2 c.pay 0 ∧
    rd 2 c.pay 0 ≤ 1000 ∧ rd 2 c.pay 2 = 0 ∧ rd 4 c.pay 4 = 0 ∧ (∀ i ∈ List.range (rd 2 c.pay 0),
    bitsOf (rd 4 c.pay (8 + 4 * i)) 15 0 ≤ t.plan.nLayers + 1 ∧ ¬ (8 ≤ bitsOf (rd 4 c.pay (8 + 4 * i)) 21 18 ∧
    bitsOf (rd 4 c.pay (8 + 4 * i)) 21 18 ≤ 14) ∧ bitsOf (rd 4 c.pay (8 + 4 * i)) 31 22 = 0)) := by
  refine ⟨?_, ?_, ?_, ?_, ?_, ?_⟩
  · exact ⟨up, _, ask .h 0x0704 (le 8 0), _, finds_of (by decide +kernel), by decide +kernel, by decide +kernel,
    by decide +kernel, by decide +kernel⟩
  · exact ⟨up, _, ask .m 0x0704 (le 4 1 ++ le 4 2559), _, finds_of (by decide +kernel), by decide +kernel, by decide +kernel,
    by decide +kernel⟩
  · exact ⟨tested, _, ask .h 0x0704 (le 8 2), _, _, finds_of (by decide +kernel), by decide +kernel, by decide +kernel,
    by decide +kernel, rfl, by decide +kernel⟩
  · exact ⟨dueAt, _, ask .h 0x0704 (le 8 2), _, _, finds_of (by decide +kernel), by decide +kernel, by decide +kernel,
    by decide +kernel, rfl, by decide +kernel⟩
  · exact ⟨selfRunning, _, some_of (by decide +kernel), by decide +kernel⟩
  · exact ⟨withPlan, _, ask .h 0x0504 (le 8 2 ++ le 4 (2 + 7 * 2 ^ 18) ++ le 4 (15 * 2 ^ 18)), _, finds_of (by decide +kernel),
    by decide +kernel, by decide +kernel, by decide +kernel, by decide +kernel, by decide +kernel⟩

/-- Firmware images: an inactive bank being written, staged, or in its trial. -/
def header1 : Bytes := zeros 0x14 ++ [1, 1, 1, 0] ++ le 2 5 ++ le 2 0 ++ le 4 0 ++ le 4 4096 ++ zeros 0x1DC
def fwWith (st : BankState) (more : Firmware → Firmware := id) : State := { up with
  fw := more { bankA := { state := .active, header := header1 }, bankB := { state := st, header := header1 }, stage := 12 } }
def fwDma : State := { (fwWith .writing) with
  mbox := { ready := true, running := [{ dmaRun objFirmware with opcode := 0x0802, args := [0, 4096, 1] }] } }

theorem witness_FirmwareIsWrittenActivatedAndConfirmed :
  (∃ (s : State) (t : State) (q : Req) (c : Cmd) (n : Nat) (b : Bool), Finds s q t c 0x0802 n ∧
    (∀ x ∈ fwChunkChecks t c, x.1 = false) ∧ t.bankIn .writing = some b ∧ objFree t objFirmware ∧
    bitOf (rd 4 c.pay 0) 0 = false) ∧
  (∃ (s : State) (t : State) (q : Req) (c : Cmd) (n : Nat) (b : Bool), Finds s q t c 0x0802 n ∧
    (∀ x ∈ fwChunkChecks t c, x.1 = false) ∧ t.bankIn .writing = some b ∧ objFree t objFirmware ∧
    bitOf (rd 4 c.pay 0) 0 = true ∧ c.port = .h) ∧
  (∃ (s : State) (b : Bool) (port : MPort) (slot : Nat) (r : Running),
    s.mbox.running.find? (fun r => r.port == port && r.slot == slot && (r.opcode == 0x0202 || r.opcode == 0x0802)) =
      some r ∧ r.opcode = 0x0802 ∧ b = (r.args.getD 2 0 == 1) ∧ (s.bank b).state = .writing) ∧
  (∃ (s : State) (t : State) (q : Req) (c : Cmd) (b : Bool), (∀ x ∈ activateChecks t c, x.1 = false) ∧
    t.bankIn .staged = some b ∧ objFree t objFirmware ∧ Finds s q t c 0x0803 8 ∧ rd 4 c.pay 0 = 0) ∧
  (∃ (s : State) (t : State) (q : Req) (c : Cmd) (b : Bool), (∀ x ∈ activateChecks t c, x.1 = false) ∧
    t.bankIn .staged = some b ∧ objFree t objFirmware ∧ Finds s q t c 0x0803 8 ∧ rd 4 c.pay 0 = 1 ∧
    t.sliceBusy = false) ∧
  (∃ (s : State) (t : State) (q : Req) (c : Cmd) (b : Bool), (∀ x ∈ activateChecks t c, x.1 = false) ∧
    t.bankIn .staged = some b ∧ objFree t objFirmware ∧ Finds s q t c 0x0803 8 ∧ rd 4 c.pay 0 = 2 ∧
    t.pwr.state = .s0 ∧ t.handsOver b = true ∧ t.linksAccept b = true ∧ t.otherInTrial = false ∧ t.srv.held = false) ∧
  (∃ (s : State) (t : State) (q : Req) (c : Cmd) (b : Bool), Finds s q t c 0x0804 4 ∧ rd 4 c.pay 0 ≤ 1 ∧
    t.fw.trialBank = some b ∧ t.fw.trialFromNs.isSome = true) ∧
  (∃ (s : State) (t : State) (q : Req) (c : Cmd), Finds s q t c 0x0805 4 ∧ rd 4 c.pay 0 = 1) ∧
  (∃ (s : State) (t : State) (q : Req) (c : Cmd), Finds s q t c 0x0805 4 ∧ rd 4 c.pay 0 = 0 ∧ objFree t objFirmware) := by
  refine ⟨?_, ?_, ?_, ?_, ?_, ?_, ?_, ?_, ?_⟩
  · exact ⟨fwWith .writing, _, ask .h 0x0802 (le 8 0 ++ le 4 0 ++ le 4 64 ++ zeros 48 ++ zeros 64), _, 128, _,
    finds_of (by decide +kernel), by decide +kernel, some_of (by decide +kernel), (by unfold objFree; decide +kernel),
    by decide +kernel⟩
  · exact ⟨fwWith .writing, _,
    ask .h 0x0802 (le 4 1 ++ le 4 1 ++ le 4 0 ++ le 4 4096 ++ zeros 48 ++ le 8 0x1000 ++ le 4 4096 ++ le 4 0), _, 80,
    _, finds_of (by decide +kernel), by decide +kernel, some_of (by decide +kernel),
    (by unfold objFree; decide +kernel), by decide +kernel, by decide +kernel⟩
  · exact ⟨fwDma, _, .h, 0, _, some_of (by decide +kernel), by decide +kernel, rfl, by decide +kernel⟩
  · exact ⟨fwWith .staged, _, ask .h 0x0803 (le 4 0 ++ le 4 60), _, _, by decide +kernel, some_of (by decide +kernel),
    (by unfold objFree; decide +kernel), finds_of (by decide +kernel), by decide +kernel⟩
  · exact ⟨fwWith .staged, _, ask .h 0x0803 (le 4 1 ++ le 4 3600), _, _, by decide +kernel, some_of (by decide +kernel),
    (by unfold objFree; decide +kernel), finds_of (by decide +kernel), by decide +kernel, by decide +kernel⟩
  · exact ⟨fwWith .staged, _, ask .m 0x0803 (le 4 2 ++ le 4 0), _, _, by decide +kernel, some_of (by decide +kernel),
    (by unfold objFree; decide +kernel), finds_of (by decide +kernel), by decide +kernel, by decide +kernel,
    by decide +kernel, by decide +kernel, by decide +kernel, by decide +kernel⟩
  · exact ⟨fwWith .trial (fun f => { f with trialBank := some true, trialFromNs := some 0 }), _, ask .m 0x0804 (le 4 1), _, _,
    finds_of (by decide +kernel), by decide +kernel, some_of (by decide +kernel), by decide +kernel⟩
  · exact ⟨fwWith .staged, _, ask .h 0x0805 (le 4 1), _, finds_of (by decide +kernel), by decide +kernel⟩
  · exact ⟨fwWith .writing, _, ask .h 0x0805 (le 4 0), _, finds_of (by decide +kernel), by decide +kernel,
    (by unfold objFree; decide +kernel)⟩

def inLifecycle (l : Lifecycle) (debug : Nat := 0) : State := { up with sec := { lifecycle := l, debug := debug, debugCeiling := 2 } }
def lifePay (target ceiling : Nat) (owner : Bytes) : Bytes := le 4 (target + 4 * ceiling) ++ zeros 12 ++ zeros 16 ++ owner
def eraseRun : EraseRun := { port := some .m, slot := 0, startNs := 0, why := 0, keep := true, target := 0, ceiling := 0, owner := [] }

theorem witness_LifecycleDebugAndEraseCommandsRun :
  (∃ (s : State) (t : State) (q : Req) (c : Cmd) (target : Nat), Finds s q t c 0x0901 0x50 ∧ target = rd 4 c.pay 0 % 4 ∧
    transitionOk t.sec.lifecycle target = true ∧ rd 4 c.pay 0 / 16 = 0 ∧ (target = 1 ∧
    bitsOf (rd 4 c.pay 0) 3 2 ≠ 3 ∨ target ≠ 1 ∧ bitsOf (rd 4 c.pay 0) 3 2 = 0) ∧ allZero (cut c.pay 4 12) = true ∧
    (if target = 3 then cut c.pay 0x10 16 = serial else allZero (cut c.pay 0x10 16) = true) ∧
    (target = 1 ∨ allZero (cut c.pay 0x20 48) = true) ∧ t.sliceBusy = false ∧ t.eraseBusy = false ∧
    (t.sec.lifecycle == .owned && target == 2 && decide (32 ≤ t.sec.serviceFuses)) = false) ∧
  (∃ (s : State) (t : State) (q : Req) (c : Cmd), Finds s q t c 0x0902 0x40 ∧ rd 4 c.pay 0 ≤ 2 ∧
    allZero (cut c.pay 4 12) = true ∧ t.sliceBusy = false ∧ t.eraseBusy = false) ∧
  (∃ (s : State) (t : State) (q : Req) (c : Cmd) (target : Nat), Finds s q t c 0x0904 4 ∧ rd 4 c.pay 0 / 8 = 0 ∧
    target = rd 4 c.pay 0 % 4 ∧ target = t.sec.debug) ∧
  (∃ (s : State) (t : State) (q : Req) (c : Cmd) (target : Nat), Finds s q t c 0x0904 4 ∧ rd 4 c.pay 0 / 8 = 0 ∧
    target = rd 4 c.pay 0 % 4 ∧ target ≠ t.sec.debug ∧ t.debugAllowed target = true ∧ t.debugErases target = false) ∧
  (∃ (s : State) (t : State) (q : Req) (c : Cmd) (target : Nat), Finds s q t c 0x0904 4 ∧ rd 4 c.pay 0 / 8 = 0 ∧
    target = rd 4 c.pay 0 % 4 ∧ target ≠ t.sec.debug ∧ t.debugAllowed target = true ∧ t.debugErases target = true ∧
    t.eraseBusy = false) ∧
  (∃ (s : State) (t : State) (q : Req) (c : Cmd), Finds s q t c 0x0905 4 ∧ bitsOf (rd 4 c.pay 0) 1 0 = 0 ∧
    rd 4 c.pay 0 / 8 = 0 ∧ t.eraseBusy = false) ∧
  (∃ (s : State) (r : EraseRun), s.sec.erasing = some r ∧ s.pwr.state ≠ .s1 ∧ s.pwr.state ≠ .s2) ∧
  (∃ (s : State) (t : State) (q : Req) (c : Cmd) (es : List (Nat × Nat × Nat)),
    Finds s q t c 0x0903 (8 + 4 * rd 2 c.pay 0) ∧ rd 2 c.pay 0 ≤ 1006 ∧ rd 4 c.pay 0 / 2 ^ 18 = 0 ∧ rd 4 c.pay 4 = 0 ∧
    (∀ i ∈ List.range (rd 2 c.pay 0), rd 4 c.pay (8 + 4 * i) / 2 ^ 19 = 0) ∧
    bitsOf (rd 4 c.pay 0) 17 16 ≤ t.sec.debugCeiling ∧ es = (List.range (rd 2 c.pay 0)).map (fun i => (i,
    narrowEntry c.pay i)) ∧ (∀ e ∈ es, (opInfo e.2.1).isSome = true ∧ (bitOf e.2.2 1 && keepsM e.2.1) = false)) := by
  refine ⟨?_, ?_, ?_, ?_, ?_, ?_, ?_, ?_⟩
  · exact ⟨inLifecycle .service, _, ask .m 0x0901 (lifePay 1 2 (zeros 48)), _, 1, finds_of (by decide +kernel),
    by decide +kernel, by decide +kernel, by decide +kernel, by decide +kernel, by decide +kernel,
    (by decide +kernel), by decide +kernel, by decide +kernel, by decide +kernel, by decide +kernel⟩
  · exact ⟨inLifecycle .factory, _, ask .m 0x0902 (le 4 2 ++ zeros 12 ++ zeros 48), _, finds_of (by decide +kernel),
    by decide +kernel, by decide +kernel, by decide +kernel, by decide +kernel⟩
  · exact ⟨inLifecycle .owned 1, _, ask .d 0x0904 (le 4 1), _, 1, finds_of (by decide +kernel), by decide +kernel,
    by decide +kernel, by decide +kernel⟩
  · exact ⟨inLifecycle .owned, _, ask .m 0x0904 (le 4 1), _, 1, finds_of (by decide +kernel), by decide +kernel,
    by decide +kernel, by decide +kernel, by decide +kernel, by decide +kernel⟩
  · exact ⟨inLifecycle .owned, _, ask .m 0x0904 (le 4 6), _, 2, finds_of (by decide +kernel), by decide +kernel,
    by decide +kernel, by decide +kernel, by decide +kernel, by decide +kernel, by decide +kernel⟩
  · exact ⟨inLifecycle .owned, _, ask .d 0x0905 (le 4 4), _, finds_of (by decide +kernel), by decide +kernel, by decide +kernel,
    by decide +kernel⟩
  · exact ⟨{ up with sec := { erasing := some eraseRun } }, eraseRun, by decide +kernel, by decide +kernel, by decide +kernel⟩
  · exact ⟨inLifecycle .owned, _, ask .m 0x0903 (le 2 1 ++ le 2 2 ++ le 4 0 ++ le 4 (0x0102 + 65536)), _, _,
    finds_of (by decide +kernel), by decide +kernel, by decide +kernel, by decide +kernel, by decide +kernel,
    by decide +kernel, rfl, by decide +kernel⟩

/-- Module 0 with a plan without shards, its slice stopped, running or draining, and session 1. -/
def sess1 : Sess := { index := 1, use := 1, client := 1, cls := 0, maxCtx := 64, adapterId := 0 }
def slice (run : SliceState) : State := { up with
  wts := { main := some plan0, curGen := 1, firstGen := 1 }
  srv := { sliceState := run, sessions := [(1, sess1)] } }
def drain1 : Drain := { mode := 0, port := .h, slot := 1, startNs := 0, deadlineNs := none }

theorem witness_SlicesAreStartedAndStopped :
  (∃ (s : State) (t : State) (q : Req) (c : Cmd), Finds s q t c 0x0401 0 ∧ t.sec.erasing = none ∧ t.sliceBusy = false ∧
    t.mayStart = true ∧ t.startRoom = true ∧ s.srv.start = none) ∧
  (∃ (s : State) (t : State) (q : Req) (c : Cmd) (ms : Nat), Finds s q t c 0x0402 8 ∧ rd 4 c.pay 0 ≤ 2 ∧
    ms = rd 4 c.pay 4 ∧ ms ≤ 3600000 ∧ t.srv.sliceState = .running) ∧
  (∃ (s : State) (t : State) (q : Req) (c : Cmd) (ms : Nat) (d : Drain), Finds s q t c 0x0402 8 ∧ rd 4 c.pay 0 ≤ 2 ∧
    ms = rd 4 c.pay 4 ∧ ms ≤ 3600000 ∧ t.srv.sliceState = .draining ∧ t.srv.drain = some d ∧ rd 4 c.pay 0 = 2) ∧
  (∃ (s : State) (t : State) (q : Req) (c : Cmd) (x : Sess), Finds s q t c 0x0403 4 ∧
    t.sessById (rd 4 c.pay 0) = some x) ∧
  (∃ (s : State) (t : State) (q : Req) (c : Cmd) (x : Sess), Finds s q t c 0x0404 4 ∧
    t.sessById (rd 4 c.pay 0) = some x) := by
  refine ⟨?_, ?_, ?_, ?_, ?_⟩
  · exact ⟨slice .stopped, _, ask .h 0x0401 [], _, finds_of (by decide +kernel), by decide +kernel, by decide +kernel,
    by decide +kernel, by decide +kernel, by decide +kernel⟩
  · exact ⟨slice .running, _, ask .h 0x0402 (le 4 2 ++ le 4 3600000), _, _, finds_of (by decide +kernel), by decide +kernel,
    rfl, by decide +kernel, by decide +kernel⟩
  · exact ⟨{ slice .draining with srv := { sliceState := .draining, drain := some drain1 } }, _,
    ask .m 0x0402 (le 4 2 ++ le 4 0), _, _, _, finds_of (by decide +kernel), by decide +kernel, rfl,
    by decide +kernel, by decide +kernel, some_of (by decide +kernel), by decide +kernel⟩
  · exact ⟨slice .running, _, ask .h 0x0403 (le 4 sess1.id), _, _, finds_of (by decide +kernel), some_of (by decide +kernel)⟩
  · exact ⟨slice .running, _, ask .m 0x0404 (le 4 sess1.id), _, _, finds_of (by decide +kernel), some_of (by decide +kernel)⟩

/-- A change of power state in course. -/
def changing (target : PowerState) (from_ : Option (MPort × Nat)) (state : PowerState := .s0) : State := { up with
  pwr := { state := state, change := some ⟨target, from_, 0, false, false⟩ } }

theorem witness_PowerStatesAndCapsAreSet :
  (∃ (s : State) (t : State) (q : Req) (c : Cmd), Finds s q t c 0x0501 4 ∧ rd 4 c.pay 0 / 8 = 0 ∧
    t.stateAllowed (powerOf (rd 4 c.pay 0 % 4)) = true ∧ t.pwr.change = none ∧ t.sec.erasing = none) ∧
  (∃ (s : State) (r : StateRun), s.pwr.change = some r ∧ (r.waitFade && s.pwr.fade.isSome) = false ∧ s.pwr.state ≠ .s3 ∧
    s.fw.stage = 12 ∧ r.target = .s1 ∧ s.steps.live = []) ∧
  (∃ (s : State) (r : StateRun), s.pwr.change = some r ∧ (r.waitFade && s.pwr.fade.isSome) = false ∧ s.pwr.state ≠ .s3 ∧
    s.fw.stage = 12 ∧ r.target = .s2 ∧ s.sliceIdle = true) ∧
  (∃ (s : State) (r : StateRun) (slot : Nat), s.pwr.change = some r ∧ (r.waitFade && s.pwr.fade.isSome) = false ∧
    s.pwr.state ≠ .s3 ∧ s.fw.stage = 12 ∧ r.target = .s3 ∧ s.sliceIdle = true ∧ r.from_ = some (.m, slot)) ∧
  (∃ (s : State) (r : StateRun), s.pwr.change = some r ∧ (r.waitFade && s.pwr.fade.isSome) = false ∧ s.pwr.state ≠ .s3 ∧
    s.fw.stage = 12 ∧ r.target = .s3 ∧ s.sliceIdle = true ∧ (∀ slot, r.from_ ≠ some (.m, slot))) ∧
  (∃ (s : State) (r : StateRun), s.pwr.change = some r ∧ (r.waitFade && s.pwr.fade.isSome) = false ∧ s.pwr.state ≠ .s3 ∧
    s.fw.stage = 12 ∧ r.target = .s0 ∧ r.byReach = false) ∧
  (∃ (s : State) (t : State) (u : State) (q : Req) (c : Cmd), Finds s q t c 0x0502 4 ∧ 1200 ≤ rd 2 c.pay 0 ∧
    rd 2 c.pay 0 ≤ 5000 ∧ rd 2 c.pay 2 = 0 ∧
    u = (t.onCfg fun g =>
      { g with run := tset g.run setPowerCap { value := le 2 (rd 2 c.pay 0), src := 2 } }).capChanged ∧
    u.pwr.state = .s0 ∧ t.pwr.state = .s0) ∧
  (∃ (s : State) (t : State) (u : State) (q : Req) (c : Cmd), Finds s q t c 0x0502 4 ∧ 1200 ≤ rd 2 c.pay 0 ∧
    rd 2 c.pay 0 ≤ 5000 ∧ rd 2 c.pay 2 = 0 ∧
    u = (t.onCfg fun g =>
      { g with run := tset g.run setPowerCap { value := le 2 (rd 2 c.pay 0), src := 2 } }).capChanged ∧
    u.pwr.state ≠ .s0 ∧ t.pwr.state ≠ .s0) := by
  refine ⟨?_, ?_, ?_, ?_, ?_, ?_, ?_, ?_⟩
  · exact ⟨up, _, ask .h 0x0501 (le 4 1), _, finds_of (by decide +kernel), by decide +kernel, by decide +kernel,
    by decide +kernel, by decide +kernel⟩
  · exact ⟨changing .s1 none, _, some_of (by decide +kernel), by decide +kernel, by decide +kernel, by decide +kernel,
    by decide +kernel, by decide +kernel⟩
  · exact ⟨changing .s2 none, _, some_of (by decide +kernel), by decide +kernel, by decide +kernel, by decide +kernel,
    by decide +kernel, by decide +kernel⟩
  · exact ⟨changing .s3 (some (.m, 1)), _, 1, some_of (by decide +kernel), by decide +kernel, by decide +kernel,
    by decide +kernel, by decide +kernel, by decide +kernel, by decide +kernel⟩
  · exact ⟨changing .s3 (some (.h, 1)), ⟨.s3, some (.h, 1), 0, false, false⟩, rfl, by decide +kernel, by decide +kernel,
    by decide +kernel, by decide +kernel, by decide +kernel, fun slot h => by cases h⟩
  · exact ⟨changing .s0 none .s1, _, some_of (by decide +kernel), by decide +kernel, by decide +kernel, by decide +kernel,
    by decide +kernel, by decide +kernel⟩
  · exact ⟨up, _, _, ask .h 0x0502 (le 4 1200), _, finds_of (by decide +kernel), by decide +kernel, by decide +kernel,
    by decide +kernel, rfl, by decide +kernel, by decide +kernel⟩
  · exact ⟨{ up with pwr := { state := .s1 } }, _, _, ask .m 0x0502 (le 4 5000), _, finds_of (by decide +kernel),
    by decide +kernel, by decide +kernel, by decide +kernel, rfl, by decide +kernel, by decide +kernel⟩

/-- A module that a probe or the management path reaches, in FACTORY or at a debug level. -/
def bench (lvl : Nat) : State := { inLifecycle .factory with sec := { debug := lvl, debugCeiling := 2 } }
def margining : State := { up with pins := { margins := [(.m, 0, 1, 1, 5)] } }
def physPay (a n : Nat) : Bytes := le 8 a ++ le 2 n ++ le 2 0

theorem witness_LinksMarginsAndTracesAreCommanded :
  (∃ (s : State) (t : State) (q : Req) (c : Cmd), Finds s q t c 0x0A03 4 ∧ bitsOf (rd 4 c.pay 0) 7 6 = 0 ∧
    rd 4 c.pay 0 / 512 = 0 ∧ bitOf (rd 4 c.pay 0) 8 = false) ∧
  (∃ (s : State) (t : State) (q : Req) (c : Cmd) (ps : List Nat), Finds s q t c 0x0A03 4 ∧
    bitsOf (rd 4 c.pay 0) 7 6 = 0 ∧ rd 4 c.pay 0 / 512 = 0 ∧ ps = allPorts.filter (fun p => bitOf (rd 4 c.pay 0) p) ∧
    bitOf (rd 4 c.pay 0) 8 = true ∧
    (t.sliceBusy && ps.any fun p => (t.portX p).outcome == .matched || (t.portX p).outcome == .remapped) = false) ∧
  (∃ (s : State) (t : State) (q : Req) (c : Cmd) (iface : Nat) (index : Nat), Finds s q t c 0x0A04 16 ∧
    iface = rd 4 c.pay 0 % 4 ∧ iface < 3 ∧ index = bitsOf (rd 4 c.pay 0) 4 2 ∧ index < indexTop iface ∧
    rd 4 c.pay 0 / 32 = 0 ∧ 0 < rd 4 c.pay 4 ∧ rd 4 c.pay 4 ≤ 10000 ∧ 0 < rd 8 c.pay 8 ∧
    rd 8 c.pay 8 < 2 ^ laneTop iface ∧ t.pins.margins.any (fun m => m.2.2.1 == iface && m.2.2.2.1 == index) = false) ∧
  (∃ (s : State) (iface : Nat) (index : Nat) (m : MPort × Nat × Nat × Nat × Nat),
    s.pins.margins.find? (fun m => m.2.2.1 == iface && m.2.2.2.1 == index) = some m) ∧
  (∃ (s : State) (t : State) (q : Req) (c : Cmd), Finds s q t c 0x0F01 12 ∧ bitsOf (rd 4 c.pay 0) 7 2 = 0 ∧
    rd 4 c.pay 0 / 65536 = 0 ∧ rd 4 c.pay 8 / 256 = 0 ∧ rd 4 c.pay 0 % 4 = 0 ∧ 0 < byteAt c.pay 8 ∧
    byteAt c.pay 8 ≤ 125) ∧
  (∃ (s : State) (t : State) (q : Req) (c : Cmd), Finds s q t c 0x0F01 12 ∧ bitsOf (rd 4 c.pay 0) 7 2 = 0 ∧
    rd 4 c.pay 0 / 65536 = 0 ∧ rd 4 c.pay 8 / 256 = 0 ∧ rd 4 c.pay 0 % 4 = 1) ∧
  (∃ (s : State) (t : State) (q : Req) (c : Cmd), Finds s q t c 0x0F01 12 ∧ bitsOf (rd 4 c.pay 0) 7 2 = 0 ∧
    rd 4 c.pay 0 / 65536 = 0 ∧ rd 4 c.pay 8 / 256 = 0 ∧ rd 4 c.pay 0 % 4 = 2) := by
  refine ⟨?_, ?_, ?_, ?_, ?_, ?_, ?_⟩
  · exact ⟨up, _, ask .h 0x0A03 (le 4 0x3F), _, finds_of (by decide +kernel), by decide +kernel, by decide +kernel,
    by decide +kernel⟩
  · exact ⟨up, _, ask .m 0x0A03 (le 4 0x121), _, _, finds_of (by decide +kernel), by decide +kernel, by decide +kernel, rfl,
    by decide +kernel, by decide +kernel⟩
  · exact ⟨up, _, ask .d 0x0A04 (le 4 0x14 ++ le 4 10000 ++ le 8 0x3FFFFFFFF), _, _, _, finds_of (by decide +kernel), rfl,
    by decide +kernel, rfl, by decide +kernel, by decide +kernel, by decide +kernel, by decide +kernel,
    by decide +kernel, by decide +kernel, by decide +kernel⟩
  · exact ⟨margining, 1, 1, _, some_of (by decide +kernel)⟩
  · exact ⟨bench 1, _, ask .d 0x0F01 (le 4 0 ++ le 4 9 ++ le 4 125), _, finds_of (by decide +kernel), by decide +kernel,
    by decide +kernel, by decide +kernel, by decide +kernel, by decide +kernel, by decide +kernel⟩
  · exact ⟨bench 1, _, ask .d 0x0F01 (le 4 0xFF01 ++ le 4 0 ++ le 4 0), _, finds_of (by decide +kernel), by decide +kernel,
    by decide +kernel, by decide +kernel, by decide +kernel⟩
  · exact ⟨bench 2, _, ask .h 0x0F01 (le 4 2 ++ le 4 0 ++ le 4 0), _, finds_of (by decide +kernel), by decide +kernel,
    by decide +kernel, by decide +kernel, by decide +kernel⟩

theorem witness_PhysicalMemoryAndScanChainsAreReached :
  (∃ (s : State) (t : State) (q : Req) (c : Cmd) (a : Nat) (n : Nat), a = rd 8 c.pay 0 ∧ n = rd 2 c.pay 8 ∧ 8 ≤ n ∧
    n ≤ 4016 ∧ n % 8 = 0 ∧ a % 8 = 0 ∧ rd 2 c.pay 10 = 0 ∧ t.physOk a n = true ∧ Finds s q t c 0x0F02 12 ∧
    t.poisoned a = false ∧ t.poisoned (a + n - 1) = false) ∧
  (∃ (s : State) (t : State) (q : Req) (c : Cmd) (a : Nat) (n : Nat), a = rd 8 c.pay 0 ∧ n = rd 2 c.pay 8 ∧ 8 ≤ n ∧
    n ≤ 4016 ∧ n % 8 = 0 ∧ a % 8 = 0 ∧ rd 2 c.pay 10 = 0 ∧ t.physOk a n = true ∧ Finds s q t c 0x0F02 12 ∧
    t.poisoned a = true) ∧
  (∃ (s : State) (t : State) (q : Req) (c : Cmd) (a : Nat) (n : Nat), a = rd 8 c.pay 0 ∧ n = rd 2 c.pay 8 ∧ 8 ≤ n ∧
    n ≤ 4016 ∧ n % 8 = 0 ∧ a % 8 = 0 ∧ rd 2 c.pay 10 = 0 ∧ t.physOk a n = true ∧ Finds s q t c 0x0F03 (16 + n) ∧
    rd 4 c.pay 12 = 0 ∧ t.srv.sliceState ≠ .starting ∧ t.srv.sliceState ≠ .running) ∧
  (∃ (s : State) (t : State) (q : Req) (c : Cmd), Finds s q t c 0x0F04 16 ∧ rd 4 c.pay 0 = 0) ∧
  (0 < Config.scanChains → ∃ (s : State) (t : State) (q : Req) (c : Cmd) (k : Nat), k = rd 4 c.pay 4 ∧
    k < Config.scanChains ∧ Finds s q t c 0x0F04 16 ∧ rd 4 c.pay 0 = 1) ∧
  (0 < Config.scanChains ∧ 8 ≤ Config.scanLength 0 → ∃ (s : State) (t : State) (q : Req) (c : Cmd) (k : Nat),
    k = rd 4 c.pay 4 ∧ k < Config.scanChains ∧ 0 < scanBits c ∧ scanBits c ≤ 32064 ∧
    rd 4 c.pay 8 + scanBits c ≤ Config.scanLength k ∧ Finds s q t c 0x0F04 16 ∧ rd 4 c.pay 0 = 2) ∧
  (0 < Config.scanChains ∧ 8 ≤ Config.scanLength 0 → ∃ (s : State) (t : State) (q : Req) (c : Cmd) (k : Nat),
    k = rd 4 c.pay 4 ∧ k < Config.scanChains ∧ 0 < scanBits c ∧ scanBits c ≤ 32064 ∧
    rd 4 c.pay 8 + scanBits c ≤ Config.scanLength k ∧
    Finds s q t c 0x0F04 (16 + ceilDiv (ceilDiv (scanBits c) 8) 4 * 4) ∧ rd 4 c.pay 0 = 3) := by
  refine ⟨?_, ?_, ?_, ?_, ?_, ?_, ?_⟩
  · exact ⟨bench 2, _, ask .d 0x0F02 (physPay (t2Base + 0x40) 4016), _, _, _, rfl, rfl, by decide +kernel, by decide +kernel,
    by decide +kernel, by decide +kernel, by decide +kernel, by decide +kernel, finds_of (by decide +kernel),
    by decide +kernel, by decide +kernel⟩
  · exact ⟨{ bench 2 with mem := { side := [(blockOf (t2Base + 0x40), { poison := true })] } }, _,
    ask .h 0x0F02 (physPay (t2Base + 0x40) 8), _, _, _, rfl, rfl, by decide +kernel, by decide +kernel,
    by decide +kernel, by decide +kernel, by decide +kernel, by decide +kernel, finds_of (by decide +kernel),
    by decide +kernel⟩
  · exact ⟨bench 2, _, ask .d 0x0F03 (physPay (t2Base + 0x40) 8 ++ le 4 0 ++ le 8 7), _, _, _, rfl, rfl, by decide +kernel,
    by decide +kernel, by decide +kernel, by decide +kernel, by decide +kernel, by decide +kernel,
    finds_of (by decide +kernel), by decide +kernel, by decide +kernel, by decide +kernel⟩
  · exact ⟨bench 3, _, ask .d 0x0F04 (zeros 16), _, finds_of (by decide +kernel), by decide +kernel⟩
  · exact fun hpre => ⟨bench 3, _, ask .d 0x0F04 (le 4 1 ++ zeros 12), _, 0, (by decide +kernel), hpre,
    finds_of (by decide +kernel), by decide +kernel⟩
  · exact fun hpre => ⟨bench 3, _, ask .d 0x0F04 (le 4 2 ++ le 4 0 ++ le 4 0 ++ le 4 8), _, 0, (by decide +kernel), hpre.1,
    by decide +kernel, by decide +kernel, Nat.le_trans (by decide +kernel : _ ≤ 8) hpre.2,
    finds_of (by decide +kernel), by decide +kernel⟩
  · exact fun hpre => ⟨bench 3, _, ask .d 0x0F04 (le 4 3 ++ le 4 0 ++ le 4 0 ++ le 4 8 ++ le 4 0xA5), _, 0, (by decide +kernel),
    hpre.1, by decide +kernel, by decide +kernel, Nat.le_trans (by decide +kernel : _ ≤ 8) hpre.2,
    finds_of (by decide +kernel), by decide +kernel⟩

/-- A slot that the module owns, on port H or M, and an image of one. -/
def held : State := { up with mbox := { ready := true, mServed := true, slotsH := [(63, { owner := true })], slotsM := [(7, { owner := true })] } }
def imageOf (n : Nat) : SlotImage := { word0 := 1, tag := 2, txnId := 0, word0C := w32 n, seq := 3, payload := zeros n }

theorem witness_HostRegistersAndResetsAreWritten :
  (∃ (s : State), s.endpoint = true) ∧
  (∃ (s : State) (off : Nat), s.endpoint = true ∧ 0x1000 ≤ off ∧ off < 0x1400 ∧ off % 4 = 0) ∧
  (∃ (s : State) (off : Nat), s.endpoint = true ∧ off ≠ 0x054 ∧ (¬(0x1000 ≤ off ∧ off < 0x1400 ∧ off % 4 = 0))) ∧
  (∃ (s : State), (s.l2Up = true ∨ s.fw.safelight = true) ∧ (s.fw.handover.any fun h => h.blackoutNs.isSome) = false) := by
  refine ⟨?_, ?_, ?_, ?_⟩
  · exact ⟨up, by decide +kernel⟩
  · exact ⟨up, 0x13FC, by decide +kernel, by decide +kernel, by decide +kernel, by decide +kernel⟩
  · exact ⟨up, 0x1400, by decide +kernel, by decide +kernel, by decide +kernel⟩
  · exact ⟨up, .inl (by decide +kernel), by decide +kernel⟩

theorem witness_MailboxSlotsAreReachedByEveryPath :
  (∃ (s : State) (slot : Nat), s.endpoint = true ∧ slot < 64 ∧ (s.slot .h slot).owner = true) ∧
  (∃ (s : State) (slot : Nat) (image : SlotImage), s.mbox.mServed = true ∧ slot < 8 ∧
    bitsOf image.word0C.toNat 15 0 ≤ 4032 ∧ bitsOf image.word0C.toNat 15 0 ≤ image.payload.length ∧
    (s.slot .m slot).owner = false) ∧
  (∃ (s : State) (slot : Nat) (image : SlotImage), s.mbox.mServed = true ∧ slot < 8 ∧
    bitsOf image.word0C.toNat 15 0 ≤ 4032 ∧ bitsOf image.word0C.toNat 15 0 ≤ image.payload.length ∧
    (s.slot .m slot).owner = true) ∧
  (∃ (s : State) (slot : Nat) (image : SlotImage), s.mbox.mServed = true ∧
    (8 ≤ slot ∨ 4032 < bitsOf image.word0C.toNat 15 0 ∨ image.payload.length < bitsOf image.word0C.toNat 15 0)) ∧
  (∃ (s : State) (slot : Nat), s.mbox.mServed = true ∧ slot < 8) ∧
  (∃ (s : State) (slot : Nat), s.pwr.state ≠ .s5 ∧ slot < 2) := by
  refine ⟨?_, ?_, ?_, ?_, ?_, ?_⟩
  · exact ⟨held, 63, by decide +kernel, by decide +kernel, by decide +kernel⟩
  · exact ⟨held, 0, imageOf 4032, by decide +kernel, by decide +kernel, by decide +kernel, by decide +kernel, by decide +kernel⟩
  · exact ⟨held, 7, imageOf 0, by decide +kernel, by decide +kernel, by decide +kernel, by decide +kernel, by decide +kernel⟩
  · exact ⟨held, 8, imageOf 0, by decide +kernel, by decide +kernel⟩
  · exact ⟨held, 7, by decide +kernel, by decide +kernel⟩
  · exact ⟨State.reset.onPwr fun p => { p with state := .s3 }, 1, by decide +kernel, by decide +kernel⟩

/-- Attestation after negotiation on a transport. -/
def attesting (n : Nat) : State := { up with sec := { lifecycle := .owned, spdm := [(.mctp0, n), (.doe, n)] } }

theorem witness_AttestationAnswers :
  (Config.identityBad = false → ∃ (s : State) (t : SpdmPath), s.spdmUp t = true ∧ s.sec.resync.contains t = false ∧
    Config.identityBad = false) ∧
  (Config.identityBad = false → ∃ (s : State) (t : SpdmPath) (v : Nat), s.spdmUp t = true ∧
    s.sec.resync.contains t = false ∧ Config.identityBad = false ∧ 1 ≤ s.spdmState t ∧ (v = 0x12 ∨ v = 0x13)) ∧
  (Config.identityBad = false → ∃ (s : State) (t : SpdmPath), s.spdmUp t = true ∧ s.sec.resync.contains t = false ∧
    Config.identityBad = false ∧ 2 ≤ s.spdmState t) ∧
  (Config.identityBad = false → ∃ (s : State) (t : SpdmPath), s.spdmUp t = true ∧ s.sec.resync.contains t = false ∧
    Config.identityBad = false ∧ 3 ≤ s.spdmState t) ∧
  (Config.identityBad = false → ∃ (s : State) (t : SpdmPath) (ht : Nat) (sum : Bytes), s.spdmUp t = true ∧
    s.sec.resync.contains t = false ∧ Config.identityBad = false ∧ 3 ≤ s.spdmState t ∧ (ht = 0 ∧
    sum = [] ∨ ht = 0xFF ∧ sum = sha384 s.allBlocks ∨ ht = 1 ∧
    sum = le 48 (Config.unstated 43 (s.allBlocks.map BitVec.toNat)))) ∧
  (Config.identityBad = false → ∃ (s : State) (t : SpdmPath) (ix : Nat), s.spdmUp t = true ∧
    s.sec.resync.contains t = false ∧ Config.identityBad = false ∧ 3 ≤ s.spdmState t ∧ (ix ≤ 10 ∨ ix = 0xFF)) := by
  refine ⟨?_, ?_, ?_, ?_, ?_, ?_⟩
  · exact fun hpre => ⟨attesting 0, .mctp0, by decide +kernel, by decide +kernel, hpre⟩
  · exact fun hpre => ⟨attesting 1, .doe, 0x13, by decide +kernel, by decide +kernel, hpre, by decide +kernel,
    by decide +kernel⟩
  · exact fun hpre => ⟨attesting 2, .mctp0, by decide +kernel, by decide +kernel, hpre, by decide +kernel⟩
  · exact fun hpre => ⟨attesting 3, .mctp0, by decide +kernel, by decide +kernel, hpre, by decide +kernel⟩
  · exact fun hpre => ⟨attesting 3, .doe, 0, [], by decide +kernel, by decide +kernel, hpre, by decide +kernel, .inl ⟨rfl, rfl⟩⟩
  · exact fun hpre => ⟨attesting 3, .mctp0, 0xFF, by decide +kernel, by decide +kernel, hpre, by decide +kernel,
    by decide +kernel⟩

/-- One held fault record, sent to the receiver and to collector 1 at time 0, and an open second of its series. -/
def fault5 : FaultRec :=
  { recordId := 5, code := 3, unit := ⟨0, 0⟩, lifeS := 0, count := 1, ctx := {}, sliceId := 0, index := none, planGen := 0
    weightsGen := 0, fwVersion := 0, boot := 0 }
def exporting (at_ count : Nat) (held : Bool) : State := { up with
  clock := { timeNs := at_ }
  cfg := { run := [(setCollectors, { value := [1] ++ zeros 127, src := 2 })] }
  integ := {
    faults := if held then [fault5] else [], receiver := some (1, 0), pldmSent := some (5, 9, 0)
    collectors := [(1, { outstanding := [(5, 0, 60)] })], series := [⟨3, ⟨0, 0⟩, count, {}, 0⟩] } }

theorem witness_FaultRecordsAreDelivered :
  (∃ (s : State) (receiver : Option (Nat × Nat)), s.standby = true ∧ s.integ.receiver ≠ receiver) ∧
  (∃ (s : State) (id : Nat) (tries : Nat) (at_ : Nat), s.standby = true ∧ s.integ.pldmSent = some (id, tries, at_)) ∧
  (∃ (s : State) (rx : Nat × Nat) (id : Nat) (tries : Nat) (at_ : Nat) (r : FaultRec), s.standby = true ∧
    s.integ.pldmSent = some (id, tries, at_) ∧ s.integ.receiver = some rx ∧
    at_ + (if tries < 10 then 100000000 else 10000000000) ≤ s.now ∧
    s.integ.faults.find? (fun r => r.recordId == id) = some r) ∧
  (∃ (s : State) (rx : Nat × Nat) (id : Nat) (tries : Nat) (at_ : Nat), s.standby = true ∧ s.integ.pldmSent = some (id,
    tries, at_) ∧ s.integ.receiver = some rx ∧ at_ + (if tries < 10 then 100000000 else 10000000000) ≤ s.now ∧
    s.integ.faults.find? (fun r => r.recordId == id) = none) ∧
  (∃ (s : State) (c : Nat), s.standby = true ∧ s.collectors.contains c = true) ∧
  (∃ (s : State) (id : Nat) (at_ : Nat) (c : Nat) (iv : Nat) (r : FaultRec), s.standby = true ∧
    s.collectors.contains c = true ∧ (s.collector c).outstanding.find? (fun o => o.1 == id) = some (id, at_, iv) ∧
    at_ + iv * 1000000000 ≤ s.now ∧ s.integ.faults.find? (fun r => r.recordId == id) = some r) ∧
  (∃ (s : State) (id : Nat) (at_ : Nat) (c : Nat) (iv : Nat), s.standby = true ∧ s.collectors.contains c = true ∧
    (s.collector c).outstanding.find? (fun o => o.1 == id) = some (id, at_, iv) ∧ at_ + iv * 1000000000 ≤ s.now ∧
    s.integ.faults.find? (fun r => r.recordId == id) = none) ∧
  (∃ (s : State) (code : Nat) (unit : UnitId) (x : Series),
    s.integ.series.find? (fun y => y.code == code && y.unit == unit) = some x ∧ x.startNs + 1000000000 ≤ s.now ∧
    x.count = 0) ∧
  (∃ (s : State) (code : Nat) (unit : UnitId) (x : Series),
    s.integ.series.find? (fun y => y.code == code && y.unit == unit) = some x ∧ x.startNs + 1000000000 ≤ s.now ∧
    x.count ≠ 0) := by
  refine ⟨?_, ?_, ?_, ?_, ?_, ?_, ?_, ?_, ?_⟩
  · exact ⟨exporting 0 0 true, none, by decide +kernel, by decide +kernel⟩
  · exact ⟨exporting 0 0 true, 5, 9, 0, by decide +kernel, by decide +kernel⟩
  · exact ⟨exporting 100000000 0 true, _, 5, 9, 0, _, by decide +kernel, by decide +kernel, some_of (by decide +kernel),
    by decide +kernel, some_of (by decide +kernel)⟩
  · exact ⟨exporting 100000000 0 false, _, 5, 9, 0, by decide +kernel, by decide +kernel, some_of (by decide +kernel),
    by decide +kernel, by decide +kernel⟩
  · exact ⟨exporting 0 0 true, 1, by decide +kernel, by decide +kernel⟩
  · exact ⟨exporting 60000000000 0 true, 5, 0, 1, 60, _, by decide +kernel, by decide +kernel, by decide +kernel,
    by decide +kernel, some_of (by decide +kernel)⟩
  · exact ⟨exporting 60000000000 0 false, 5, 0, 1, 60, by decide +kernel, by decide +kernel, by decide +kernel,
    by decide +kernel, by decide +kernel⟩
  · exact ⟨exporting 1000000000 0 true, 3, ⟨0, 0⟩, _, some_of (by decide +kernel), by decide +kernel, by decide +kernel⟩
  · exact ⟨exporting 1000000000 2 true, 3, ⟨0, 0⟩, _, some_of (by decide +kernel), by decide +kernel, by decide +kernel⟩

/-- A request passes the checks of its form. -/
def asksB (s : State) (qp : Nat) (msg : Bytes) (ty : Nat) (own : Nat → List (Bool × Nat × Nat)) : Bool :=
  let u := s.modQp qp fun q => { q with retries := 0 }
  (tget u.srv.qps qp).isSome && u.isLead && hdType msg == ty && decide (32 ≤ msg.length) && rd 4 msg 4 == msg.length &&
    partsLen msg == msg.length && (reservedBad msg ++ own (((tget u.srv.qps qp).map (·.client)).getD 0)).all fun e => !e.1

theorem asks_of {s : State} {qp : Nat} {msg : Bytes} {ty : Nat} {own : Nat → List (Bool × Nat × Nat)}
    (h : asksB s qp msg ty own = true) :
    Asks s qp msg ty own (s.modQp qp fun q => { q with retries := 0 })
      (((tget (s.modQp qp fun q => { q with retries := 0 }).srv.qps qp).map (·.client)).getD 0) := by
  simp only [asksB, Bool.and_eq_true, decide_eq_true_eq, beq_iff_eq, List.all_eq_true, Bool.not_eq_true'] at h
  obtain ⟨⟨⟨⟨⟨⟨h1, h2⟩, h3⟩, h4⟩, h5⟩, h6⟩, h7⟩ := h
  obtain ⟨q, hq⟩ := Option.isSome_iff_exists.mp h1
  exact ⟨rfl, ⟨q, hq, by rw [hq]; rfl⟩, h2, h3, ⟨h4, h5, h6⟩, h7⟩

/-- The lead serving client 1, which may do everything, on queue pair 9, with session 1 as given. -/
def client1 : Bytes := [0x3F, 0] ++ zeros 2 ++ le 2 64 ++ le 2 64 ++ le 2 64 ++ le 2 64 ++ le 4 1024 ++ zeros 16
def qp9 : Qp := { client := 1, ipv6 := false, addr := 0, remote := 0, rate := 8, lastCutNs := none, lastCnpNs := none, retries := 0 }
def serving (x : Sess) (qp : Qp := qp9) (now : Nat := 0) : State := { up with
  clock := { timeNs := now }
  cfg := { run := [(setClientTable, { value := client1, src := 2 })] }
  wts := { main := some plan0, curGen := 1, firstGen := 1 }
  srv := { sliceState := .running, sessions := [(1, x)], qps := [(9, qp)] } }

/-- A request: type, session and epoch, COUNT and body. -/
def reqOf (ty session count : Nat) (body : Bytes) : Bytes :=
  le 1 ty ++ [1, 0, 0] ++ le 4 (32 + body.length) ++ le 4 7 ++ le 4 session ++ zeros 4 ++ le 4 count ++ zeros 8 ++ body
def genBody : Bytes := zeros 4 ++ le 4 (2048 + 1) ++ le 4 0x3F800000 ++ zeros 4 ++ le 4 0x3F800000 ++ zeros 4 ++ le 4 1 ++ zeros 36
def running1 : Sess := { sess1 with state := .generating, gen := some {} }
def closing1 (closes : List ReqRec) : Sess := { sess1 with closing := true, closes := closes }

theorem witness_ClientPairsAreConnectedAndPaced :
  (∃ (s : State) (client : Nat) (addr : Nat) (ipv6 : Bool), s.isLead = true ∧ s.sliceRunning = true ∧ 1 ≤ client ∧
    client ≤ 255 ∧ ceValid (s.clientEntry client) = true ∧ cePrefixHas (s.clientEntry client) ipv6 addr = true ∧
    (s.srv.qps.filter (fun q => q.2.client == client)).length < ceMaxQps (s.clientEntry client) ∧
    s.srv.qps.length < 2048) ∧
  (∃ (s : State) (qp : Nat), s.qpUp qp = true) ∧
  (∃ (s : State) (qp : Nat) (p : Qp), tget s.srv.qps qp = some p ∧ (p.lastCutNs.any fun t => s.now < t + 50000) = false) ∧
  (∃ (s : State) (qp : Nat) (p : Qp), tget s.srv.qps qp = some p ∧ (p.lastCnpNs.any fun t => s.now < t + 50000) = false) ∧
  (∃ (s : State) (qp : Nat) (p : Qp), tget s.srv.qps qp = some p ∧ p.retries < 7) ∧
  (∃ (s : State) (qp : Nat) (p : Qp), tget s.srv.qps qp = some p ∧ 7 ≤ p.retries) := by
  refine ⟨?_, ?_, ?_, ?_, ?_, ?_⟩
  · exact ⟨serving sess1, 1, 5, false, by decide +kernel, by decide +kernel, by decide +kernel, by decide +kernel,
    by decide +kernel, by decide +kernel, by decide +kernel, by decide +kernel⟩
  · exact ⟨serving sess1, 9, by decide +kernel⟩
  · exact ⟨serving sess1 { qp9 with lastCutNs := some 0 } 50000, 9, _, some_of (by decide +kernel), by decide +kernel⟩
  · exact ⟨serving sess1, 9, _, some_of (by decide +kernel), by decide +kernel⟩
  · exact ⟨serving sess1 { qp9 with retries := 6 }, 9, _, some_of (by decide +kernel), by decide +kernel⟩
  · exact ⟨serving sess1 { qp9 with retries := 7 }, 9, _, some_of (by decide +kernel), by decide +kernel⟩

theorem witness_RequestsOpenAppendAndGenerate :
  (∃ (s : State) (u : State) (v : State) (qp : Nat) (client : Nat) (msg : Bytes) (x : Sess) (i : Nat),
    u.draining = false ∧ u.queueFull client = false ∧ Asks s qp msg 1 (fun client => [ (hdSession msg != 0,
    stFieldRange, 0x0C), (hdCount msg != 0, stLenRange, 0x14), (rd 4 msg 0x20 == 3, stFieldRange, 0x20),
    (decide (rd 4 msg 0x24 < 64) || decide (ceMaxContext (s.clientEntry client) < rd 4 msg 0x24), stFieldRange, 0x24),
    (decide (1024 < rd 4 msg 0x28), stFieldRange, 0x28) ]) u client ∧
    ceClass (u.clientEntry client) (rd 4 msg 0x20) = true ∧
    (rd 4 msg 0x28 = 0 ∨ ceAdapters (u.clientEntry client) = true) ∧ u.freeIndex = some i ∧
    (u.allSess.filter (fun x => x.client == client)).length < ceMaxSessions (u.clientEntry client) ∧
    v = ((u.onSrv fun v => { v with uses := tset v.uses i (nextUse (tgetD u.srv.uses i 0)) }).putSess x) ∧
    x = { index := i, use := nextUse (tgetD u.srv.uses i 0), client := client, cls := rd 4 msg 0x20, maxCtx := rd 4 msg 0x24, adapterId := rd 4 msg 0x28, lastQp := qp, readyNs := u.now }) ∧
  (∃ (s : State) (u : State) (qp : Nat) (client : Nat) (msg : Bytes) (x : Sess) (h : Nat), u.draining = false ∧
    u.queueFull client = false ∧ ofSession u msg client x ∧ x.closing = false ∧ u.srv.kvShortage = false ∧
    u.bindHandle x = some h ∧ Asks s qp msg 2 (fun _ => [ (hdCount msg == 0 || decide (65536 < hdCount msg),
    stLenRange, 0x14) ] ++ tokenChecks s.plan.vocab msg 32 (hdCount msg)) u client ∧
    (x.state = .idle ∨ x.state = .prefilling) ∧ u.entryAllows x false = true ∧ x.n + hdCount msg ≤ x.maxCtx) ∧
  (∃ (s : State) (u : State) (qp : Nat) (client : Nat) (msg : Bytes) (x : Sess) (h : Nat) (ts : List Nat),
    u.draining = false ∧ u.queueFull client = false ∧ ofSession u msg client x ∧ x.closing = false ∧
    u.srv.kvShortage = false ∧ u.bindHandle x = some h ∧
    Asks s qp msg 3 (fun _ => genChecks s.plan.vocab msg ++ tokenChecks s.plan.vocab msg (gnTokensAt msg) (min 65536
      (hdCount msg))) u client ∧ (x.state = .idle ∨ x.state = .prefilling ∧ x.generation = none) ∧
    u.entryAllows x true = true ∧ ts = words32 msg (gnTokensAt msg) (hdCount msg) ∧ x.n + ts.length ≤ x.maxCtx ∧
    (x.cls = 0 → u.interactiveFits x (genParamsAt msg 32) = true)) := by
  refine ⟨?_, ?_, ?_⟩
  · exact ⟨serving sess1, _, _, 9, _, reqOf 1 0 0 (le 4 0 ++ le 4 1024 ++ zeros 24), _, _, by decide +kernel, by decide +kernel,
    asks_of (by decide +kernel), by decide +kernel, by decide +kernel, some_of (by decide +kernel), by decide +kernel,
    rfl, rfl⟩
  · exact ⟨serving sess1, _, 9, _, reqOf 2 sess1.id 2 (le 4 5 ++ le 4 255), sess1, _, by decide +kernel, by decide +kernel,
    (by unfold ofSession; decide +kernel), by decide +kernel, by decide +kernel, some_of (by decide +kernel),
    asks_of (by decide +kernel), by decide +kernel, by decide +kernel, by decide +kernel⟩
  · exact ⟨serving sess1, _, 9, _, reqOf 3 sess1.id 1 (genBody ++ le 4 255), sess1, _, _, by decide +kernel, by decide +kernel,
    (by unfold ofSession; decide +kernel), by decide +kernel, by decide +kernel, some_of (by decide +kernel),
    asks_of (by decide +kernel), by decide +kernel, by decide +kernel, rfl, by decide +kernel, by decide +kernel⟩

theorem witness_RequestsCancelPauseResumeAndClose :
  (∃ (s : State) (u : State) (qp : Nat) (client : Nat) (msg : Bytes) (x : Sess), u.sessById (hdSession msg) = some x ∧
    x.client = client ∧ Asks s qp msg 4 (fun _ => noCount msg) u client ∧ x.epoch ≠ hdEpoch msg) ∧
  (∃ (s : State) (u : State) (qp : Nat) (client : Nat) (msg : Bytes) (x : Sess), u.sessById (hdSession msg) = some x ∧
    x.client = client ∧ Asks s qp msg 4 (fun _ => noCount msg) u client ∧ x.epoch = hdEpoch msg) ∧
  (∃ (s : State) (u : State) (qp : Nat) (client : Nat) (msg : Bytes) (x : Sess), u.sessById (hdSession msg) = some x ∧
    x.client = client ∧
    Asks s qp msg 5 (fun _ => noCount msg ++ [(rd 4 msg 32 == 0 || decide (s.setN setPauseTtlMax < rd 4 msg 32),
    stFieldRange, 0x20)]) u client ∧ x.epoch = hdEpoch msg ∧ x.closing = false ∧
    (x.state = .idle ∨ x.state = .generating) ∧ u.queueFull client = false ∧ cePause (u.clientEntry client) = true) ∧
  (∃ (s : State) (u : State) (qp : Nat) (client : Nat) (msg : Bytes) (x : Sess), u.sessById (hdSession msg) = some x ∧
    x.client = client ∧ Asks s qp msg 6 (fun _ => noCount msg) u client ∧ x.epoch = hdEpoch msg ∧ u.draining = false ∧
    x.closing = false ∧ u.queueFull client = false ∧ x.state = .paused ∧ u.srv.kvShortage = false) ∧
  (∃ (s : State) (u : State) (v : State) (qp : Nat) (client : Nat) (msg : Bytes) (x : Sess) (y : Sess),
    u.sessById (hdSession msg) = some x ∧ x.client = client ∧ Asks s qp msg 6 (fun _ => noCount msg) u client ∧
    x.epoch = hdEpoch msg ∧ u.draining = false ∧ x.closing = false ∧ u.queueFull client = false ∧ x.state = .pausing ∧
    v = u.endGen x.index (fun t x q => t.repDone x q rdGenPaused) ∧ v.sess? x.index = some y) ∧
  (∃ (s : State) (u : State) (qp : Nat) (client : Nat) (msg : Bytes) (x : Sess), u.sessById (hdSession msg) = some x ∧
    x.client = client ∧ Asks s qp msg 7 (fun _ => noCount msg) u client) ∧
  (∃ (s : State) (qp : Nat) (msg : Bytes) (p : Qp), tget s.srv.qps qp = some p ∧ s.isLead = true ∧ (¬(1 ≤ hdType msg ∧
    hdType msg ≤ 7)) ∧ 32 ≤ msg.length ∧ rd 4 msg 4 = msg.length ∧ (∀ e ∈ reservedBad msg, e.1 = false)) ∧
  (∃ (s : State) (x : Sess) (id : Nat), s.sessById id = some x ∧ s.isLead = true) ∧
  (∃ (s : State) (x : Sess) (id : Nat), s.sessById id = some x ∧ s.isLead = true ∧ x.closing = true ∧ x.held = false ∧
    x.closes = []) ∧
  (∃ (s : State) (x : Sess) (id : Nat), s.sessById id = some x ∧ s.isLead = true ∧ x.closing = true ∧ x.held = false ∧
    x.closes ≠ []) ∧
  (∃ (s : State) (x : Sess) (id : Nat) (t : Nat), s.sessById id = some x ∧ s.isLead = true ∧ x.waitingNs = some t ∧
    t + s.setN setKvWaitMax * 1000000 < s.now) := by
  refine ⟨?_, ?_, ?_, ?_, ?_, ?_, ?_, ?_, ?_, ?_, ?_⟩
  · exact ⟨serving { sess1 with epoch := 3 }, _, 9, _, reqOf 4 sess1.id 0 [], _, some_of (by decide +kernel), rfl,
    asks_of (by decide +kernel), by decide +kernel⟩
  · exact ⟨serving running1, _, 9, _, reqOf 4 sess1.id 0 [], _, some_of (by decide +kernel), rfl, asks_of (by decide +kernel),
    by decide +kernel⟩
  · exact ⟨serving running1, _, 9, _, reqOf 5 sess1.id 0 (le 4 1), _, some_of (by decide +kernel), rfl,
    asks_of (by decide +kernel), by decide +kernel, by decide +kernel, by decide +kernel, by decide +kernel,
    by decide +kernel⟩
  · exact ⟨serving { sess1 with state := .paused }, _, 9, _, reqOf 6 sess1.id 0 [], _, some_of (by decide +kernel), rfl,
    asks_of (by decide +kernel), by decide +kernel, by decide +kernel, by decide +kernel, by decide +kernel,
    by decide +kernel, by decide +kernel⟩
  · exact ⟨serving { sess1 with state := .pausing }, _, _, 9, _, reqOf 6 sess1.id 0 [], _, _, some_of (by decide +kernel), rfl,
    asks_of (by decide +kernel), by decide +kernel, by decide +kernel, by decide +kernel, by decide +kernel,
    by decide +kernel, rfl, some_of (by decide +kernel)⟩
  · exact ⟨serving sess1, _, 9, _, reqOf 7 sess1.id 0 [], _, some_of (by decide +kernel), rfl, asks_of (by decide +kernel)⟩
  · exact ⟨serving sess1, 9, reqOf 8 sess1.id 0 [], _, some_of (by decide +kernel), by decide +kernel, by decide +kernel,
    by decide +kernel, by decide +kernel, by decide +kernel⟩
  · exact ⟨serving sess1, _, sess1.id, some_of (by decide +kernel), by decide +kernel⟩
  · exact ⟨serving (closing1 []), _, sess1.id, some_of (by decide +kernel), by decide +kernel, by decide +kernel,
    by decide +kernel, by decide +kernel⟩
  · exact ⟨serving (closing1 [{ qp := 9, tag := 7, mtype := 7 }]), _, sess1.id, some_of (by decide +kernel), by decide +kernel,
    by decide +kernel, by decide +kernel, by decide +kernel⟩
  · exact ⟨serving { sess1 with waitingNs := some 0 } qp9 1000000000000, _, sess1.id, _, some_of (by decide +kernel),
    by decide +kernel, some_of (by decide +kernel), by decide +kernel⟩

/-- A packet that reaches this module, and a message that comes whole. -/
def releasedIn (s : State) (port : Nat) (k : Packet) : State := s.emit (.release port (bufferOf k) (flitPayloads k))
def landedAs (s : State) (port : Nat) (k : Packet) : Packet :=
  if k.cls = 4 then k
  else if k.detour && !k.phaseB && k.via == (releasedIn s port k).index then { k with phaseB := true } else k

def landsB (s : State) (port : Nat) (k : Packet) : Bool :=
  let u := releasedIn s port k
  s.portUp port && s.mainOn && !badPacket k && !(u.portX port).awaitMarker && k.sliceId == u.plan.sliceId && !u.staleStep k &&
    (k.cls == 4 || (hopPort u.index (packetTarget (landedAs s port k))).isNone)

theorem lands_of {s : State} {port : Nat} {k : Packet} (h : landsB s port k = true) :
    Lands s port k (landedAs s port k) (releasedIn s port k) := by
  simp only [landsB, Bool.and_eq_true, beq_iff_eq, Bool.not_eq_true', Bool.or_eq_true, Option.isNone_iff_eq_none] at h
  obtain ⟨⟨⟨⟨⟨⟨h1, h2⟩, h3⟩, h4⟩, h5⟩, h6⟩, h7⟩ := h
  refine ⟨h1, h2, h3, rfl, h4, h5, h6, ?_⟩
  by_cases hc : k.cls = 4
  · exact .inl ⟨hc, if_pos hc⟩
  · exact .inr ⟨hc, if_neg hc, h7.resolve_left hc⟩

def msg0 : Msg := { src := 0, msg := 0, minor := 0, hb := 0, more := false, step := 0, entries := [] }
def heardIn (s : State) (port : Nat) (k : Packet) : State × Option Msg :=
  (releasedIn s port k).joinMsg ((parseMsg k).getD msg0)

def hearsB (s : State) (port : Nat) (k : Packet) (msg : Nat) : Bool :=
  landsB s port k && (parseMsg k).any (fun m => m.msg == msg) && (heardIn s port k).2.isSome &&
    (k.type == ptLead || k.type == ptSlice)

theorem hears_of {s : State} {port : Nat} {k : Packet} {msg : Nat} (h : hearsB s port k msg = true) :
    Hears s port k msg (heardIn s port k).1 ((heardIn s port k).2.getD msg0) := by
  simp only [hearsB, Bool.and_eq_true, beq_iff_eq, Bool.or_eq_true] at h
  obtain ⟨⟨⟨h1, h2⟩, h3⟩, h4⟩ := h
  obtain ⟨m1, hm, hk⟩ := (Option.any_eq_true _ _).mp h2
  refine ⟨⟨_, _, m1, lands_of h1, hm, by simpa using hk, ?_⟩, h4⟩
  obtain ⟨m, he⟩ := Option.isSome_iff_exists.mp h3
  simp only [heardIn, hm, Option.getD_some] at he ⊢
  exact Prod.ext rfl (by rw [he]; rfl)

/-- Module `i` of a slice of two whose lead is module 0, while the slice runs, with port 0 up; and a message from module 1. -/
def plan2 (i : Nat) : PlanObj := { plan0 with
  hdr := wordsOf 64 [(0x08, 1), (0x10, 1), (0x14, i), (0x1C, 0x010102), (0x20, 1), (0x2C, 1), (0x40, 128 + 64 * 65536), (0x48, 1000),
    (0x4C, 1000), (0x50, 8), (0x54, 4), (0x58, 1024)] }
def pair (i : Nat) : State := { up with
  wts := { main := some (plan2 i), curGen := 1, firstGen := 1 }
  fab := { ports := [(0, { state := .up, trained := true })] }
  srv := { sliceState := .running, sessions := [(1, sess1)] } }
def mail (i msg step : Nat) (es : List Bytes) : Packet :=
  let b := msgHead msg 0 0 false es.length step ++ es.flatMap id
  { type := msgType msg, cls := classOf (msgType msg), dest := i, src := 1 - i, sliceId := 1, len := b.length, data := b }

/-- Session 1 with a token to verify, and step 5 with its row and record. -/
def verifying1 : Sess := { sess1 with state := .generating, gen := some {}, n := 1 }
def rec1 : ARec := { kvLen := 0, bucket := 0, mask := [1] ++ List.replicate 15 0, depth := List.replicate 16 0 }
def row1 : SRow := { session := sess1.id, epoch := 0, rows := 1, firstRow := 0, lastChunk := false, adapter := 0 }
def step5 : Step := { seq := 5, verify := true, hb0 := { rows := [row1], recs := [rec1] }, entered := true }
def stepping (i : Nat) (x : Sess) : State := { pair i with
  srv := { sliceState := .running, sessions := [(1, x)] }, steps := { composed := 5, live := [step5] } }

theorem witness_StepsAreComposedAndAnnounced :
  (∃ (s : State) (u : State) (v : State) (ver : List Sess) (pre : List Sess), s.mayCompose = true ∧
    u = (((s.closeDarkslide).assignCommits (s.steps.composed + 1)).installPending) ∧
    v = (u.allSess.map (·.index)).foldl (fun (a : State) i => a.tryRestore i) u ∧
    ver = v.allSess.filter v.readyVerify ∧ pre = v.allSess.filter v.readyPrefill ∧ v.nextKind ver pre = none) ∧
  (∃ (s : State) (u : State) (v : State) (ver : List Sess) (pre : List Sess) (verify : Bool), s.mayCompose = true ∧
    u = (((s.closeDarkslide).assignCommits (s.steps.composed + 1)).installPending) ∧
    v = (u.allSess.map (·.index)).foldl (fun (a : State) i => a.tryRestore i) u ∧
    ver = v.allSess.filter v.readyVerify ∧ pre = v.allSess.filter v.readyPrefill ∧ v.nextKind ver pre = some verify) ∧
  (∃ (s : State) (u : State) (port : Nat) (k : Packet) (m : Msg), Hears s port k mSessionTable u m ∧
    m.entries.any srowRsv = false ∧ u.takesStep m.step = true) ∧
  (∃ (s : State) (u : State) (v : State) (port : Nat) (k : Packet) (m : Msg) (t : Step),
    Hears s port k mAttnRecords u m ∧ m.entries.any arecRsv = false ∧ u.takesStep m.step = true ∧
    v = (u.hearStep m.step).modStep m.step (fun t =>
      { t.putHb m.hb { t.hb m.hb with recs := m.entries.map arecOf } (2 + m.hb) with verify := t.verify || (m.entries.map arecOf).any fun r => !recPrefill r }) ∧
    v.step? m.step = some t) ∧
  (∃ (s : State) (u : State) (port : Nat) (k : Packet) (m : Msg), Hears s port k mSessionTable u m ∧
    m.entries.any srowRsv = true) ∧
  (∃ (s : State) (u : State) (port : Nat) (k : Packet) (m : Msg), Hears s port k mPromotion u m ∧
    (m.entries.any fun b => rd 8 b 8 != 0) = false) ∧
  (∃ (s : State) (u : State) (port : Nat) (k : Packet) (m : Msg) (e : Bytes), Hears s port k mStepReport u m ∧
    m.entries = [e] ∧ rd 4 e 4 < 16 ∧ rd 8 e 8 = 0 ∧ u.isLead = true) := by
  refine ⟨?_, ?_, ?_, ?_, ?_, ?_, ?_⟩
  · exact ⟨pair 0, _, _, _, _, by decide +kernel, rfl, rfl, rfl, rfl, by decide +kernel⟩
  · exact ⟨{ pair 0 with srv := { sliceState := .running, sessions := [(1, verifying1)] } }, _, _, _, _, _, by decide +kernel,
    rfl, rfl, rfl, rfl, some_of (by decide +kernel)⟩
  · exact ⟨pair 1, _, 0, mail 1 mSessionTable 7 [row1.bytes], _, hears_of (by decide +kernel), by decide +kernel,
    by decide +kernel⟩
  · exact ⟨pair 1, _, _, 0, mail 1 mAttnRecords 7 [rec1.bytes], _, _, hears_of (by decide +kernel), by decide +kernel,
    by decide +kernel, rfl, some_of (by decide +kernel)⟩
  · exact ⟨pair 1, _, 0, mail 1 mSessionTable 7 [zeros 8 ++ le 4 0x80000000 ++ zeros 4], _, hears_of (by decide +kernel),
    by decide +kernel⟩
  · exact ⟨pair 1, _, 0, mail 1 mPromotion 0 [le 4 sess1.id ++ zeros 12], _, hears_of (by decide +kernel), by decide +kernel⟩
  · exact ⟨pair 0, _, 0, mail 0 mStepReport 7 [le 4 9 ++ le 4 15 ++ zeros 8], _, le 4 9 ++ le 4 15 ++ zeros 8,
    hears_of (by decide +kernel), by decide +kernel, by decide +kernel, by decide +kernel, by decide +kernel⟩

/-- A group of one layer: an ATTN descriptor, a K4 pool of two slots, and its page table of 16 sessions and 16 chunks. -/
def kvSecs : Tbl (List (List Nat)) :=
  [(secLayer, [wordsOf 8 [(0, 0x40000), (4, 1000), (0x10, 4096)]]),
    (secDesc, [wordsOf 32 [(0, opAttn), (0x48, 2)]]),
    (secTensor, [wordsOf 16 [(0, 1), (4, 1 + 6 * 256 + 2 ^ 28), (0x18, 2), (0x1C, 1), (0x20, 65536)], wordsOf 16 [(0, 2), (4, 2), (0x18, 16), (0x1C, 16)]])]
def moving (i action : Nat) : State := { pair i with kv := { moves := [⟨0, 1, 0, action, 0, 0, 0⟩] } }
def looking (on : Bool) : State := { pair 0 with
  wts := { main := some { plan2 0 with secs := kvSecs } }
  srv := { sliceState := .running, sessions := [(1, { sess1 with state := .prefilling })] }, kv := { csEnable := on } }

theorem witness_KvChunksAreGrantedMovedAndCommitted :
  (∃ (s : State) (u : State) (port : Nat) (k : Packet) (m : Msg), Hears s port k mGrantList u m ∧
    m.entries.any grantRsv = false ∧ u.isLead = false ∧ (m.step = 0 ∨ u.aborted m.step = false)) ∧
  (∃ (s : State) (u : State) (port : Nat) (k : Packet) (m : Msg), Hears s port k mCommit u m ∧
    m.entries.any noticeRsv = false ∧ u.isLead = false) ∧
  (∃ (s : State) (u : State) (v : State) (session : Nat) (group : Nat) (chunk : Nat) (mv : KvMove),
    (s.kv.moves.find? fun m => m.group == group && m.session == session % 4096 && m.chunk == chunk) = some mv ∧
    u = s.finishMove mv ∧
    v = (match ((tkeys s.tiles.x).filter fun l => (s.tileX l).queue.any fun q => !q.started && (match s.step? (s.tileX l).step with | none => false | some t => !s.chunksStill t (s.plan.desc q.desc))).head? with | none => u | some l => u.stall ctKvGrant group (s.now - max mv.startNs (((s.step? (s.tileX l).step).bind fun t => tget t.enteredNs (s.tileX l).phase).getD s.now)) (s.plan.layerCode (s.tileX l).phase) l 0 (s.tileX l).step) ∧
    (mv.action ≠ gFix ∨ v.isLead = false)) ∧
  (∃ (s : State) (u : State) (v : State) (x : Sess) (session : Nat) (group : Nat) (chunk : Nat) (mv : KvMove),
    (s.kv.moves.find? fun m => m.group == group && m.session == session % 4096 && m.chunk == chunk) = some mv ∧
    u = s.finishMove mv ∧
    v = (match ((tkeys s.tiles.x).filter fun l => (s.tileX l).queue.any fun q => !q.started && (match s.step? (s.tileX l).step with | none => false | some t => !s.chunksStill t (s.plan.desc q.desc))).head? with | none => u | some l => u.stall ctKvGrant group (s.now - max mv.startNs (((s.step? (s.tileX l).step).bind fun t => tget t.enteredNs (s.tileX l).phase).getD s.now)) (s.plan.layerCode (s.tileX l).phase) l 0 (s.tileX l).step) ∧
    mv.action = gFix ∧ v.isLead = true ∧ v.sess? mv.session = some x) ∧
  (∃ (s : State) (x : Sess) (session : Nat), s.sessById session = some x ∧ s.isLead = true ∧ x.state = .prefilling ∧
    x.kvLen = 0 ∧ x.lookedUp = false ∧ x.held = false ∧ s.sliceBusy = true ∧ s.kv.csEnable = false) ∧
  (∃ (s : State) (x : Sess) (session : Nat), s.sessById session = some x ∧ s.isLead = true ∧ x.state = .prefilling ∧
    x.kvLen = 0 ∧ x.lookedUp = false ∧ x.held = false ∧ s.sliceBusy = true ∧ s.kv.csEnable = true ∧
    (List.range s.plan.groups.length).any (fun g => s.plan.groupK4 g) = true) := by
  refine ⟨?_, ?_, ?_, ?_, ?_, ?_⟩
  · exact ⟨pair 1, _, 0, mail 1 mGrantList 0 [zeros 16], _, hears_of (by decide +kernel), by decide +kernel, by decide +kernel,
    .inl (by decide +kernel)⟩
  · exact ⟨pair 1, _, 0, mail 1 mCommit 0 [zeros 32], _, hears_of (by decide +kernel), by decide +kernel, by decide +kernel⟩
  · exact ⟨moving 1 gFix, _, _, 1, 0, 0, ⟨0, 1, 0, gFix, 0, 0, 0⟩, rfl, rfl, rfl, by decide +kernel⟩
  · exact ⟨moving 0 gFix, _, _, _, 1, 0, 0, ⟨0, 1, 0, gFix, 0, 0, 0⟩, rfl, rfl, rfl, by decide +kernel, by decide +kernel,
    some_of (by decide +kernel)⟩
  · exact ⟨looking false, _, sess1.id, some_of (by decide +kernel), by decide +kernel, by decide +kernel, by decide +kernel,
    by decide +kernel, by decide +kernel, by decide +kernel, by decide +kernel⟩
  · exact ⟨looking true, _, sess1.id, some_of (by decide +kernel), by decide +kernel, by decide +kernel, by decide +kernel,
    by decide +kernel, by decide +kernel, by decide +kernel, by decide +kernel, by decide +kernel⟩

def treeBytes : List Bytes := [le 4 sess1.id ++ le 4 65536, le 4 16 ++ le 4 3, le 4 3 ++ le 4 0]
def drafting : State := { stepping 0 verifying1 with wts := { main := some (plan2 0), draft := some (plan2 0) } }

theorem witness_FollowersTrackSessionsAndTrees :
  (∃ (s : State) (u : State) (port : Nat) (k : Packet) (m : Msg), Hears s port k mSessionUpdate u m ∧ u.isLead = false) ∧
  (∃ (s : State) (u : State) (port : Nat) (k : Packet) (m : Msg) (x : Sess) (b : Bytes), Hears s port k mGenParams u m ∧
    u.isLead = false ∧ b = m.entries.flatMap id ∧ u.sessById (rd 4 b 0) = some x) ∧
  (∃ (s : State) (u : State) (port : Nat) (k : Packet) (m : Msg), Hears s port k mDraftTree u m ∧
    2 + (parseBranch m.entries).2.tree.length ≤ m.entries.length ∧ (parseBranch m.entries).2.tree ≠ []) ∧
  (∃ (s : State) (u : State) (port : Nat) (k : Packet) (m : Msg) (e0 : Bytes) (e1 : Bytes) (items : List (Nat ×
      Word32)), Hears s port k mOutcome u m ∧ m.entries.take 2 = [e0, e1] ∧
    items = (m.entries.drop 2).map (fun e => (rd 4 e 0, w32 (rd 4 e 4))) ∧ items.length = bitsOf (rd 4 e0 4) 20 16 ∧
    items.length ≤ 16 ∧ u.isLead = true) ∧
  (∃ (s : State) (u : State) (port : Nat) (k : Packet) (m : Msg) (e0 : Bytes) (e1 : Bytes) (items : List (Nat ×
      Word32)), Hears s port k mOutcome u m ∧ m.entries.take 2 = [e0, e1] ∧
    items = (m.entries.drop 2).map (fun e => (rd 4 e 0, w32 (rd 4 e 4))) ∧ items.length = bitsOf (rd 4 e0 4) 20 16 ∧
    items.length ≤ 16 ∧ u.isLead = false) ∧
  (∃ (s : State) (x : Sess) (session : Nat) (g : GenParams) (logits : List (List Word32)) (tree : List TreeRow),
    s.sessById session = some x ∧ x.gen = some g ∧ s.wts.draft.isSome = true ∧ s.plan.proofModule x.index = s.index ∧
    x.state = .generating ∧ s.sliceBusy = true ∧ tree = (if x.tree.length ≤ 1 then [⟨x.lastTok, 0, 0,
    (logits.map (draftQ g (s.windowOf x g x.kvLen [x.lastTok]))).headD []⟩] else x.tree)) ∧
  (∃ (s : State) (x : Sess) (session : Nat) (row : Nat) (t : Step) (hb : Nat) (e : SRow) (r : ARec),
    s.sessById session = some x ∧ s.plan.sampleModule x.index = s.index ∧
    (s.steps.live.findSome? fun t => (t.find session).map fun e => (t, e)) = some (t, hb, e, r) ∧
    (sampledRows t.verify e).contains row = true ∧ t.entered = true) := by
  refine ⟨?_, ?_, ?_, ?_, ?_, ?_, ?_⟩
  · exact ⟨pair 1, _, 0, mail 1 mSessionUpdate 0 [zeros 32], _, hears_of (by decide +kernel), by decide +kernel⟩
  · exact ⟨pair 1, _, 0, mail 1 mGenParams 0 [le 4 sess1.id ++ zeros 4, zeros 8, zeros 8], _, _, _,
    hears_of (by decide +kernel), by decide +kernel, rfl, some_of (by decide +kernel)⟩
  · exact ⟨pair 1, _, 0, mail 1 mDraftTree 7 treeBytes, _, hears_of (by decide +kernel), by decide +kernel, by decide +kernel⟩
  · exact ⟨stepping 0 verifying1, _, 0, mail 0 mOutcome 5 [le 4 sess1.id ++ le 4 65536, zeros 8, le 4 3 ++ le 4 0], _,
    le 4 sess1.id ++ le 4 65536, zeros 8, _, hears_of (by decide +kernel), by decide +kernel, rfl, by decide +kernel,
    by decide +kernel, by decide +kernel⟩
  · exact ⟨stepping 1 verifying1, _, 0, mail 1 mOutcome 5 [le 4 sess1.id ++ le 4 0, zeros 8], _, le 4 sess1.id ++ le 4 0,
    zeros 8, _, hears_of (by decide +kernel), by decide +kernel, rfl, by decide +kernel, by decide +kernel,
    by decide +kernel⟩
  · exact ⟨drafting, _, sess1.id, _, [], _, some_of (by decide +kernel), some_of (by decide +kernel), by decide +kernel,
    by decide +kernel, by decide +kernel, by decide +kernel, rfl⟩
  · exact ⟨stepping 1 verifying1, _, sess1.id, 0, step5, 0, row1, rec1, some_of (by decide +kernel), by decide +kernel,
    by decide +kernel, by decide +kernel, by decide +kernel⟩

def starting (i : Nat) : State := { pair i with srv := { sliceState := .starting, start := some ⟨.h, 0, [], [], []⟩ } }
def abortOf (code : Nat) : Bytes := le 6 7 ++ le 2 code ++ zeros 8

theorem witness_StartsSettingsAndHaltsAreCarried :
  (∃ (s : State) (u : State) (port : Nat) (k : Packet) (m : Msg), Hears s port k mHoleTable u m ∧
    m.src = u.plan.leadIndex) ∧
  (∃ (s : State) (u : State) (port : Nat) (k : Packet) (m : Msg), Hears s port k mTxnStage u m ∧
    m.src = u.plan.leadIndex ∧ 2 < m.entries.length ∧ txnIdOf m = 0) ∧
  (∃ (s : State) (u : State) (port : Nat) (k : Packet) (m : Msg), Hears s port k mTxnStage u m ∧
    m.src = u.plan.leadIndex ∧ 2 < m.entries.length ∧ txnIdOf m ≠ 0) ∧
  (∃ (s : State) (u : State) (port : Nat) (k : Packet) (m : Msg), Hears s port k mTxnStage u m ∧
    m.src = u.plan.leadIndex ∧ m.entries.length = 2) ∧
  (∃ (s : State) (u : State) (port : Nat) (k : Packet) (m : Msg) (e : Bytes), Hears s port k mTxnReply u m ∧
    u.isLead = true ∧ m.entries = [e]) ∧
  (∃ (s : State) (u : State) (port : Nat) (k : Packet) (m : Msg), Hears s port k mStartInfo u m ∧ u.isLead = true) ∧
  (∃ (s : State) (u : State) (port : Nat) (k : Packet) (m : Msg), Hears s port k mClear u m ∧ u.isLead = true ∧
    m.step = 0) ∧
  (∃ (s : State) (u : State) (port : Nat) (k : Packet) (m : Msg), Hears s port k mClear u m ∧ u.isLead = true ∧
    m.step ≠ 0 ∧ u.steps.awaitClear.isSome = true) ∧
  (∃ (s : State) (u : State) (port : Nat) (k : Packet) (m : Msg) (e : Bytes), Hears s port k mStepAbort u m ∧
    m.entries = [e] ∧ u.isLead = true ∧ u.sliceBusy = true) ∧
  (∃ (s : State) (u : State) (port : Nat) (k : Packet) (m : Msg) (code : Nat) (e : Bytes),
    Hears s port k mStepAbort u m ∧ m.entries = [e] ∧ code = rd 2 e 6 ∧ u.isLead = false ∧ m.src = u.plan.leadIndex ∧
    code = 0 ∧ u.sliceBusy = true) ∧
  (∃ (s : State) (u : State) (port : Nat) (k : Packet) (m : Msg) (code : Nat) (e : Bytes),
    Hears s port k mStepAbort u m ∧ m.entries = [e] ∧ code = rd 2 e 6 ∧ u.isLead = false ∧ m.src = u.plan.leadIndex ∧
    code = fltStepLost) ∧
  (∃ (s : State) (u : State) (port : Nat) (k : Packet) (m : Msg) (code : Nat) (e : Bytes),
    Hears s port k mStepAbort u m ∧ m.entries = [e] ∧ code = rd 2 e 6 ∧ u.isLead = false ∧ m.src = u.plan.leadIndex ∧
    code ≠ 0 ∧ code ≠ fltStepLost) := by
  refine ⟨?_, ?_, ?_, ?_, ?_, ?_, ?_, ?_, ?_, ?_, ?_, ?_⟩
  · exact ⟨starting 1, _, 0, mail 1 mHoleTable 0 [], _, hears_of (by decide +kernel), by decide +kernel⟩
  · exact ⟨pair 1, _, 0, mail 1 mTxnStage 0 (txnHead 0 1 1 1 ++ [zeros 8]), _, hears_of (by decide +kernel), by decide +kernel,
    by decide +kernel, by decide +kernel⟩
  · exact ⟨pair 1, _, 0, mail 1 mTxnStage 0 (txnHead 5 1 1 1 ++ [zeros 8]), _, hears_of (by decide +kernel), by decide +kernel,
    by decide +kernel, by decide +kernel⟩
  · exact ⟨pair 1, _, 0, mail 1 mTxnStage 0 (txnHead 5 1 1 1), _, hears_of (by decide +kernel), by decide +kernel,
    by decide +kernel⟩
  · exact ⟨pair 0, _, 0, mail 0 mTxnReply 0 [le 4 5 ++ zeros 12], _, le 4 5 ++ zeros 12, hears_of (by decide +kernel),
    by decide +kernel, by decide +kernel⟩
  · exact ⟨starting 0, _, 0, mail 0 mStartInfo 0 [], _, hears_of (by decide +kernel), by decide +kernel⟩
  · exact ⟨starting 0, _, 0, mail 0 mClear 0 [], _, hears_of (by decide +kernel), by decide +kernel, by decide +kernel⟩
  · exact ⟨{ pair 0 with steps := { awaitClear := some 7 } }, _, 0, mail 0 mClear 7 [], _, hears_of (by decide +kernel),
    by decide +kernel, by decide +kernel, by decide +kernel⟩
  · exact ⟨pair 0, _, 0, mail 0 mStepAbort 7 [abortOf 3], _, abortOf 3, hears_of (by decide +kernel), by decide +kernel,
    by decide +kernel, by decide +kernel⟩
  · exact ⟨pair 1, _, 0, mail 1 mStepAbort 7 [abortOf 0], _, _, abortOf 0, hears_of (by decide +kernel), by decide +kernel, rfl,
    by decide +kernel, by decide +kernel, by decide +kernel, by decide +kernel⟩
  · exact ⟨pair 1, _, 0, mail 1 mStepAbort 7 [abortOf fltStepLost], _, _, abortOf fltStepLost, hears_of (by decide +kernel),
    by decide +kernel, rfl, by decide +kernel, by decide +kernel, by decide +kernel⟩
  · exact ⟨pair 1, _, 0, mail 1 mStepAbort 7 [abortOf 3], _, _, abortOf 3, hears_of (by decide +kernel), by decide +kernel, rfl,
    by decide +kernel, by decide +kernel, by decide +kernel, by decide +kernel⟩

def budgetOf (kind : Nat) : Bytes := le 4 kind ++ le 4 1 ++ le 4 100 ++ le 4 5 ++ le 4 6 ++ zeros 12

theorem witness_PowerIsTradedInTheSlice :
  (∃ (s : State) (u : State) (port : Nat) (k : Packet) (m : Msg) (e : Bytes), Hears s port k mBudget u m ∧
    m.entries = [e] ∧ (parseMsg k).map (·.entries) = some [e] ∧ byteAt e 0 = bkSlack) ∧
  (∃ (s : State) (u : State) (port : Nat) (k : Packet) (m : Msg) (e : Bytes), Hears s port k mBudget u m ∧
    m.entries = [e] ∧ (parseMsg k).map (·.entries) = some [e] ∧ byteAt e 0 = bkLent ∧ u.isLead = true) ∧
  (∃ (s : State) (u : State) (port : Nat) (k : Packet) (m : Msg) (e : Bytes), Hears s port k mBudget u m ∧
    m.entries = [e] ∧ (parseMsg k).map (·.entries) = some [e] ∧ byteAt e 0 = bkGrant) ∧
  (∃ (s : State) (u : State) (port : Nat) (k : Packet) (m : Msg) (e : Bytes), Hears s port k mBudget u m ∧
    m.entries = [e] ∧ (parseMsg k).map (·.entries) = some [e] ∧ byteAt e 0 = bkRevert) ∧
  (∃ (s : State) (u : State) (port : Nat) (k : Packet) (m : Msg) (e : Bytes), Hears s port k mBudget u m ∧
    m.entries = [e] ∧ (parseMsg k).map (·.entries) = some [e] ∧ byteAt e 0 = bkReverted ∧ u.isLead = true) ∧
  (∃ (s : State), 1024 ≤ s.pwr.slackSteps) := by
  refine ⟨?_, ?_, ?_, ?_, ?_, ?_⟩
  · exact ⟨pair 1, _, 0, mail 1 mBudget 0 [budgetOf bkSlack], _, budgetOf bkSlack, hears_of (by decide +kernel),
    by decide +kernel, by decide +kernel, by decide +kernel⟩
  · exact ⟨pair 0, _, 0, mail 0 mBudget 0 [budgetOf bkLent], _, budgetOf bkLent, hears_of (by decide +kernel),
    by decide +kernel, by decide +kernel, by decide +kernel, by decide +kernel⟩
  · exact ⟨pair 1, _, 0, mail 1 mBudget 0 [budgetOf bkGrant], _, budgetOf bkGrant, hears_of (by decide +kernel),
    by decide +kernel, by decide +kernel, by decide +kernel⟩
  · exact ⟨pair 1, _, 0, mail 1 mBudget 0 [budgetOf bkRevert], _, budgetOf bkRevert, hears_of (by decide +kernel),
    by decide +kernel, by decide +kernel, by decide +kernel⟩
  · exact ⟨pair 0, _, 0, mail 0 mBudget 0 [budgetOf bkReverted], _, budgetOf bkReverted, hears_of (by decide +kernel),
    by decide +kernel, by decide +kernel, by decide +kernel, by decide +kernel⟩
  · exact ⟨{ pair 0 with pwr := { state := .s0, slackSteps := 1024 } }, by decide +kernel⟩

def image1 : PauseImg := { kvLen := 0, pages := [], complete := false }
def imaging (i : Nat) : State := { pair i with
  srv := { sliceState := .running, sessions := [(1, { sess1 with state := .pausing })] }, kv := { images := [(1, image1)] } }
def paused (st : SessState) : State := { pair 0 with
  clock := { timeNs := 5 }
  srv := { sliceState := .running, sessions := [(1, { sess1 with state := st, pauseUntilNs := some 5, resumeReq := some { qp := 9, tag := 7, mtype := 6 } })] } }
def stalling (stall : Nat) : State := { pair 0 with
  srv := { sliceState := .running, windowCount := 1024, windowStall := stall, windowTime := 1000000 } }

theorem witness_PausesRestoresAndStreamsSettle :
  (∃ (s : State) (u : State) (session : Nat) (x : Sess) (y : Sess), s.sessById session = some x ∧ x.state = .pausing ∧
    s.inFlight x = false ∧ tget s.kv.images x.index = none ∧
    u = (if s.isLead then s.endGen x.index fun t y r => t.repDone y r rdGenPaused else s) ∧ u.sess? x.index = some y) ∧
  (∃ (s : State) (u : State) (session : Nat) (x : Sess) (img : PauseImg), s.sessById session = some x ∧
    tget s.kv.images x.index = some img ∧ x.state = .pausing ∧ img.complete = false ∧
    u = s.onKv (fun k => { k with images := tset k.images x.index { img with complete := true } }) ∧
    u.isLead = false ∧ s.isLead = false) ∧
  (∃ (s : State) (session : Nat) (x : Sess) (img : PauseImg), s.sessById session = some x ∧
    tget s.kv.images x.index = some img ∧ x.state = .pausing ∧ img.complete = false ∧ s.isLead = true) ∧
  (∃ (s : State) (session : Nat) (x : Sess), s.sessById session = some x ∧ s.isLead = true ∧ x.state = .paused ∧
    (x.pauseUntilNs.any fun t => t ≤ s.now) = true) ∧
  (∃ (s : State) (session : Nat) (x : Sess), s.sessById session = some x ∧ s.isLead = true ∧ x.state = .resuming ∧
    s.restoring x = true ∧ (s.kv.moves.any fun m => m.session == x.index) = false) ∧
  (∃ (s : State), s.isLead = true ∧ 1024 ≤ s.srv.windowCount ∧
    s.setN setStallBudget * s.srv.windowTime < s.srv.windowStall * 1000000) ∧
  (∃ (s : State), s.isLead = true ∧ 1024 ≤ s.srv.windowCount ∧
    2 * (s.srv.windowStall * 1000000) ≤ s.setN setStallBudget * s.srv.windowTime ∧
    s.srv.windowStall * 1000000 ≤ s.setN setStallBudget * s.srv.windowTime) ∧
  (∃ (s : State), s.isLead = true ∧ 1024 ≤ s.srv.windowCount ∧
    s.setN setStallBudget * s.srv.windowTime < 2 * (s.srv.windowStall * 1000000) ∧
    s.srv.windowStall * 1000000 ≤ s.setN setStallBudget * s.srv.windowTime) := by
  refine ⟨?_, ?_, ?_, ?_, ?_, ?_, ?_, ?_⟩
  · exact ⟨{ imaging 1 with kv := {} }, _, sess1.id, _, _, some_of (by decide +kernel), by decide +kernel, by decide +kernel,
    by decide +kernel, rfl, some_of (by decide +kernel)⟩
  · exact ⟨imaging 1, _, sess1.id, _, _, some_of (by decide +kernel), some_of (by decide +kernel), by decide +kernel,
    by decide +kernel, rfl, by decide +kernel, by decide +kernel⟩
  · exact ⟨imaging 0, sess1.id, _, _, some_of (by decide +kernel), some_of (by decide +kernel), by decide +kernel,
    by decide +kernel, by decide +kernel⟩
  · exact ⟨paused .paused, sess1.id, _, some_of (by decide +kernel), by decide +kernel, by decide +kernel, by decide +kernel⟩
  · exact ⟨paused .resuming, sess1.id, _, some_of (by decide +kernel), by decide +kernel, by decide +kernel, by decide +kernel,
    by decide +kernel⟩
  · exact ⟨stalling 1000000, by decide +kernel, by decide +kernel, by decide +kernel⟩
  · exact ⟨stalling 0, by decide +kernel, by decide +kernel, by decide +kernel, by decide +kernel⟩
  · exact ⟨stalling 7500, by decide +kernel, by decide +kernel, by decide +kernel, by decide +kernel⟩

/-- A descriptor by its unit and words, and logical tile 0 of module 0, whose one unit runs it in PRE of step 5. -/
def descOf (opc unit : Nat) (l : List (Nat × Nat)) : List Nat := wordsOf 32 ((0, opc + unit * 256) :: l)
def tilePlan (ds : List (List Nat)) : PlanObj := { plan2 0 with
  secs := [(secLayer, [wordsOf 8 [(4, 1000)]]), (secIndex, [[0, ds.length]]), (secDesc, ds),
    (secTensor, [wordsOf 16 [(0, 1), (4, 1 + 6 * 256 + 2 ^ 28), (0x18, 2), (0x1C, 1), (0x20, 65536)],
      wordsOf 16 [(0, 2), (4, 2), (8, pageBytes), (0x18, 16), (0x1C, 16)],
      wordsOf 16 [(0, 3), (4, 3), (8, 2 * pageBytes), (0x10, 64)]])] }
def onTile (ds : List (List Nat)) (i unit : Nat) : State := { stepping 0 verifying1 with
  wts := { main := some (tilePlan ds), curGen := 1 }
  mem := { pages := (List.range 3).map fun k => (k, { base := t2Base + k * pageBytes, tier := 2, hint := 2 }) }
  tiles := { x := [(0, {
    queue := [⟨i, true, false⟩], step := 5, phaseDone := false, array := if unit = 0 then some i else none
    vector := if unit = 1 then some i else none, mover := if unit = 2 then some i else none })] } }

def attn1 : List Nat := descOf opAttn 0 [(0x44, 1 + 128), (0x48, 2), (0x4C, 1)]
def mapped1 (s : State) : State := s.putEnt 0 1 0 { valid := true }

theorem witness_ArrayOperatorsComputeOnATile :
  (∃ (s : State) (r : Run) (tile : Nat), s.run? tile opMatmul 0 = some r ∧ inputsReady s [((s.mmRegion r).base,
    (s.mmRegion r).bytes)] (s.mmRange r)) ∧
  (∃ (s : State) (r : Run) (tile : Nat), s.run? tile opLora 0 = some r ∧
    inputsReady s [((s.operand r (fld r.d 0x50 19 0) 1).base, (s.operand r (fld r.d 0x50 19 0) 1).bytes)] []) ∧
  (∃ (s : State) (r : Run) (tile : Nat) (g : Nat) (q : Pool) (ents : List (Nat × MapEnt)),
    s.run? tile opAttn 0 = some r ∧ g = s.plan.groupOfTab (atPagetab r.d) ∧ s.plan.poolOf g (dLayer r.d) = some q ∧
    ents = r.chunks.map (fun c => (c.1, s.ent g c.1 c.2)) ∧ (ents.any fun e => !e.2.valid) = false ∧
    inputsReady s [(s.actOf r.tile + fld r.d 0x40 19 0,
    atRows r.d * atHq r.d * q.dim * 2)] (ents.map fun e => (q.at e.2 e.1, if q.isK8 e.2 then q.p8 else q.p4))) ∧
  (∃ (s : State) (u : State) (r : Run) (tile : Nat) (g : Nat) (q : Pool) (attn : List Nat),
    s.run? tile opKvAppend 2 = some r ∧ g = s.plan.groupOfTab (kaTab r.d) ∧ s.plan.poolOf g (dLayer r.d) = some q ∧
    s.plan.attnOn r.ph r.tile = some attn ∧ inputsReady s [(s.actOf r.tile + fld r.d 0x40 19 0,
    kaRows r.d * kaHkv r.d * kaDim r.d * 2), (s.actOf r.tile + fld r.d 0x44 19 0,
    kaRows r.d * kaHkv r.d * kaDim r.d * 2)] [] ∧ u = accessed s [] ∧
    (u.runRows r (kaRows r.d)).any (u.appendBad r g) = false) := by
  refine ⟨?_, ?_, ?_, ?_⟩
  · exact ⟨onTile [descOf opMatmul 0 [(0x40, 16 + 16 * 65536), (0x44, 16)]] 0 0, _, 0, some_of (by decide +kernel),
    (by unfold inputsReady; decide +kernel)⟩
  · exact ⟨onTile [descOf opLora 0 [(0x40, 16 + 16 * 65536), (0x44, 16)]] 0 0, _, 0, some_of (by decide +kernel),
    (by unfold inputsReady; decide +kernel)⟩
  · exact ⟨mapped1 (onTile [attn1] 0 0), _, 0, _, _, _, some_of (by decide +kernel), rfl, some_of (by decide +kernel), rfl,
    by decide +kernel, (by unfold inputsReady; decide +kernel)⟩
  · exact ⟨mapped1 (onTile [attn1, descOf opKvAppend 2 [(0x44, 4096), (0x48, 1), (0x4C, 2), (0x50, 1)]] 1 2), _, _, 0, _, _, _,
    some_of (by decide +kernel), rfl, some_of (by decide +kernel), some_of (by decide +kernel),
    (by unfold inputsReady; decide +kernel), rfl, by decide +kernel⟩

theorem witness_VectorOperatorsComputeOnATile :
  (∃ (s : State) (r : Run) (tile : Nat) (a : Region), s.run? tile opNorm 1 = some r ∧
    a = s.tileRegion r.ph tile (fld r.d 0x40 19 0) (nmRows r.d) (nmWidth r.d) (s.plan.formAt s.index r.ph tile (fld
      r.d 0x40 19 0) 3) ∧ inputsReady s [(a.base, a.bytes)] (s.plan.tensorRange (fld r.d 0x4C 31 0))) ∧
  (∃ (s : State) (r : Run) (tile : Nat) (a : Region) (b : Region), s.run? tile opElemwise 1 = some r ∧
    a = s.tileRegion r.ph tile (fld r.d 0x40 19 0) (elRows r.d) (elWidth r.d) (fld r.d 0x48 9 7) ∧
    b = s.tileRegion r.ph tile (fld r.d 0x44 19 0) (elRows r.d) (elWidth r.d) (fld r.d 0x48 9 7) ∧
    inputsReady s ((a.base, a.bytes) :: if elemTwo (fld r.d 0x48 3 0) then [(b.base, b.bytes)] else []) []) ∧
  (∃ (s : State) (u : State) (r : Run) (tile : Nat) (n : Nat) (a : Region), s.run? tile opRoute 1 = some r ∧
    a = s.tileRegion r.ph tile (fld r.d 0x40 19 0) (rtRows r.d) (rtExperts r.d) 3 ∧ inputsReady s [(a.base,
    a.bytes)] [] ∧ u = accessed s [] ∧ n = rtTopk r.d) ∧
  (∃ (s : State) (r : Run) (tile : Nat) (n : Nat) (a : Region), s.run? tile opSkipGate 1 = some r ∧
    n = fld r.d 0x48 15 0 ∧ a = s.tileRegion r.ph tile (fld r.d 0x40 19 0) n 16 3 ∧ inputsReady s [(a.base,
    a.bytes)] []) ∧
  (∃ (s : State) (r : Run) (tile : Nat) (n : Nat) (a : Region), s.run? tile opCombine 1 = some r ∧
    a = s.tileRegion r.ph tile (fld r.d 0x40 19 0) (cbRows r.d) (cbWidth r.d) (s.plan.formAt s.index r.ph tile (fld
      r.d 0x40 19 0) 3) ∧ n = s.plan.topk (dLayer r.d) ∧ inputsReady s [(a.base, a.bytes),
    (s.actOf tile + slotOff r.d, cbRows r.d * n * 8)] []) := by
  refine ⟨?_, ?_, ?_, ?_, ?_⟩
  · exact ⟨onTile [descOf opNorm 1 [(0x44, 16), (0x4C, 3), (0x50, 1)]] 0 1, _, 0, _, some_of (by decide +kernel), rfl,
    (by unfold inputsReady; decide +kernel)⟩
  · exact ⟨onTile [descOf opElemwise 1 [(0x44, 4096), (0x4C, 16 + 65536)]] 0 1, _, 0, _, _, some_of (by decide +kernel), rfl,
    rfl, (by unfold inputsReady; decide +kernel)⟩
  · exact ⟨onTile [descOf opRoute 1 [(0x44, 16 + 4096), (0x48, 1)]] 0 1, _, _, 0, _, _, some_of (by decide +kernel), rfl,
    (by unfold inputsReady; decide +kernel), rfl, rfl⟩
  · exact ⟨onTile [descOf opSkipGate 1 [(0x48, 1)]] 0 1, _, 0, _, _, some_of (by decide +kernel), rfl, rfl,
    (by unfold inputsReady; decide +kernel)⟩
  · exact ⟨onTile [descOf opCombine 1 [(0x44, 16), (0x48, 8192), (0x4C, 65536)]] 0 1, _, 0, _, _, some_of (by decide +kernel),
    rfl, rfl, (by unfold inputsReady; decide +kernel)⟩

def coll1 (started : Bool) : State :=
  let s := onTile [descOf opCollective 2 [(0x40, 8), (0x44, 16)]] 0 2
  if started then { s with fab := { colls := [{ step := 5, key := 1, tile := 0, startNs := some 0 }] } } else s

theorem witness_MoverOperatorsComputeOnATile :
  (∃ (s : State) (r : Run) (tile : Nat) (n : Nat) (a : Region), s.run? tile opDispatchOpc 2 = some r ∧
    a = s.tileRegion r.ph tile (fld r.d 0x40 19 0) (fld r.d 0x4C 31 16) (fld r.d 0x44 15 0) 2 ∧
    n = s.plan.topk (dLayer r.d) ∧ inputsReady s [(a.base, a.bytes), (s.actOf tile + slotOff r.d,
    fld r.d 0x4C 31 16 * n * 8)] []) ∧
  (∃ (s : State) (r : Run) (tile : Nat) (inst : CollRec), s.run? tile opCollective 2 = some r ∧
    inst = (s.coll? r.t.seq (s.collKey r) tile).getD { step := r.t.seq, key := s.collKey r, tile := tile } ∧
    inst.startNs.isSome = true) ∧
  (∃ (s : State) (r : Run) (tile : Nat) (n : Nat) (phys : List (Nat × Nat)) (range : List (Nat × Nat)) (inst : CollRec),
    s.run? tile opCollective 2 = some r ∧
    inst = (s.coll? r.t.seq (s.collKey r) tile).getD { step := r.t.seq, key := s.collKey r, tile := tile } ∧
    inst.startNs = none ∧ n = (s.plan.coll s.index r.d).count * (s.plan.coll s.index r.d).elem ∧
    phys = (if fld r.d 0x50 0 0 = 1 then [] else [(s.actOf r.tile + fld64 r.d 0x48, n)]) ∧
    range = (if fld r.d 0x50 0 0 = 1 then [(fabLocal (fld64 r.d 0x48), n)] else []) ∧ inputsReady s phys range) ∧
  (∃ (s : State) (r : Run) (tile : Nat), s.run? tile opMove 2 = some r ∧ mvRange r.d = true ∧ outsUsed r.d = []) ∧
  (∃ (s : State) (r : Run) (tile : Nat) (phys : List (Nat × Nat)) (range : List (Nat × Nat)),
    s.run? tile opMove 2 = some r ∧ (mvRange r.d && (outsUsed r.d).isEmpty) = false ∧
    s.destsMapped r.d (mvLen r.d) = true ∧ phys = (if mvRange r.d then [] else [(s.actOf r.tile + mvSrc r.d,
    mvLen r.d)]) ∧ range = (if mvRange r.d then [(fabLocal (mvSrc r.d), mvLen r.d)] else []) ∧
    (mvRange r.d = false ∨ s.isHere (mvSrc r.d) = true) ∧ inputsReady s phys range) ∧
  (∃ (s : State) (r : Run) (tile : Nat), s.run? tile opMove 2 = some r ∧
    (mvRange r.d && (outsUsed r.d).isEmpty) = false ∧ s.destsMapped r.d (mvLen r.d) = true ∧ mvRange r.d = true ∧
    s.isHere (mvSrc r.d) = false ∧ s.reading tile r.idx = false ∧ s.plan.inSlice (fabMod (mvSrc r.d)) = true) ∧
  (∃ (s : State) (r : Run) (tile : Nat) (m : Nat) (phys : List (Nat × Nat)) (range : List (Nat × Nat)),
    s.run? tile opFabricRed 2 = some r ∧ phys = (if mvRange r.d then [] else [(s.actOf r.tile + mvSrc r.d,
    mvLen r.d)]) ∧ range = (if mvRange r.d then [(fabLocal (mvSrc r.d), mvLen r.d)] else []) ∧
    inputsReady s phys range ∧ m = fabMod (dDest r.d 0).addr ∧ s.plan.inSlice m = true) ∧
  (∃ (s : State) (r : Run) (tile : Nat) (phys : List (Nat × Nat)) (range : List (Nat × Nat)),
    s.run? tile opMcastOpc 2 = some r ∧ phys = (if mvRange r.d then [] else [(s.actOf r.tile + mvSrc r.d,
    mvLen r.d)]) ∧ range = (if mvRange r.d then [(fabLocal (mvSrc r.d), mvLen r.d)] else []) ∧
    inputsReady s phys range) ∧
  (∃ (s : State) (r : Run) (tile : Nat), s.run? tile opEmbed 2 = some r ∧
    inputsReady s [] (s.plan.tensorRange (fld r.d 0x40 31 0))) ∧
  (∃ (s : State) (r : Run) (tile : Nat) (a : Region), s.run? tile opSample 2 = some r ∧
    a = s.tileRegion r.ph tile (fld r.d 0x40 19 0) (fld r.d 0x4C 15 0) (fld r.d 0x48 19 0) 3 ∧ inputsReady s [(a.base,
    a.bytes)] []) := by
  refine ⟨?_, ?_, ?_, ?_, ?_, ?_, ?_, ?_, ?_, ?_⟩
  · exact ⟨onTile [descOf opDispatchOpc 2 [(0x44, 16 + 2 * 65536), (0x48, 8192), (0x4C, 65536)]] 0 2, _, 0, _, _,
    some_of (by decide +kernel), rfl, rfl, (by unfold inputsReady; decide +kernel)⟩
  · exact ⟨coll1 true, _, 0, _, some_of (by decide +kernel), rfl, by decide +kernel⟩
  · exact ⟨coll1 false, _, 0, _, _, _, _, some_of (by decide +kernel), rfl, by decide +kernel, rfl, rfl, rfl,
    (by unfold inputsReady; decide +kernel)⟩
  · exact ⟨onTile [descOf opMove 2 [(0x40, 4096), (0x48, 4096), (0x4C, 1)]] 0 2, _, 0, some_of (by decide +kernel),
    by decide +kernel, by decide +kernel⟩
  · exact ⟨onTile [descOf opMove 2 [(0x18, 65536), (0x28, 1), (0x20, 8192), (0x48, 4096)]] 0 2, _, 0, _, _,
    some_of (by decide +kernel), by decide +kernel, by decide +kernel, rfl, rfl, .inl (by decide +kernel),
    (by unfold inputsReady; decide +kernel)⟩
  · exact ⟨onTile [descOf opMove 2 [(0x18, 65536), (0x28, 1), (0x44, 4096), (0x48, 4096), (0x4C, 1)]] 0 2, _, 0,
    some_of (by decide +kernel), by decide +kernel, by decide +kernel, by decide +kernel, by decide +kernel,
    by decide +kernel, by decide +kernel⟩
  · exact ⟨onTile [descOf opFabricRed 2 [(0x18, 65536), (0x28, 2), (0x24, 4096), (0x48, 4096)]] 0 2, _, 0, _, _, _,
    some_of (by decide +kernel), rfl, rfl, (by unfold inputsReady; decide +kernel), rfl, by decide +kernel⟩
  · exact ⟨onTile [descOf opMcastOpc 2 [(0x18, 65536), (0x28, 3), (0x48, 4096)]] 0 2, _, 0, _, _, some_of (by decide +kernel),
    rfl, rfl, (by unfold inputsReady; decide +kernel)⟩
  · exact ⟨onTile [descOf opEmbed 2 [(0x40, 3), (0x4C, 16 + 65536)]] 0 2, _, 0, some_of (by decide +kernel),
    (by unfold inputsReady; decide +kernel)⟩
  · exact ⟨onTile [descOf opSample 2 [(0x48, 16), (0x4C, 1)]] 0 2, _, 0, _, some_of (by decide +kernel), rfl,
    (by unfold inputsReady; decide +kernel)⟩

/-- Tile 0 with its queue done, with a descriptor done or waiting, or with a channel that keeps a count. -/
def mm48 : List Nat := descOf opMatmul 0 [(0x40, 48 + 48 * 65536), (0x44, 48)]
def tileWith (x : TileX) (chans : Tbl Chan := []) (now : Nat := 0) : State := { onTile [mm48] 0 0 with
  clock := { timeNs := now }
  steps := { composed := 5, live := [{ step5 with enteredNs := [(0, 0)] }] }
  tiles := { x := [(0, x)], chans := chans } }
def idle0 : TileX := { step := 5, phaseDone := false }

theorem witness_DescriptorsPhasesAndMarksProceed :
  (∃ (s : State) (tile : Nat), s.tileRuns tile = true) ∧
  (∃ (s : State) (tile : Nat) (unit : Nat) (i : Nat), (s.tileX tile).unit unit = some i ∧
    ((s.tileX tile).queue.any fun q => q.desc == i && q.started && q.executed) = true) ∧
  (∃ (s : State) (tile : Nat) (k : Nat), (s.tileX tile).phaseDone = false ∧ (s.tileX tile).queue = [] ∧
    (s.tileX tile).toRead = [] ∧ (s.tileX tile).held = [] ∧ s.residue tile = some k) ∧
  (∃ (s : State) (tile : Nat), (s.tileX tile).phaseDone = false ∧ (s.tileX tile).queue = [] ∧
    (s.tileX tile).toRead = [] ∧ (s.tileX tile).held = [] ∧ s.residue tile = none) ∧
  (∃ (s : State) (tile : Nat) (q : QEnt) (t : Step) (t0 : Nat),
    ((s.tileX tile).queue.find? fun q => !q.started) = some q ∧ s.step? (s.tileX tile).step = some t ∧
    (tget t.replayNs (s.tileX tile).phase = some t0 ∨ tget t.replayNs (s.tileX tile).phase = none ∧
    tget t.enteredNs (s.tileX tile).phase = some t0) ∧ t0 + s.reservedNs t (s.tileX tile).phase + 100000 < s.now) := by
  refine ⟨?_, ?_, ?_, ?_, ?_⟩
  · exact ⟨onTile [mm48] 0 0, 0, by decide +kernel⟩
  · exact ⟨tileWith { idle0 with queue := [⟨0, true, true⟩], array := some 0 }, 0, 0, _, some_of (by decide +kernel),
    by decide +kernel⟩
  · exact ⟨tileWith idle0 [(tileChan 0 63, { marks := 1 })], 0, _, by decide +kernel, by decide +kernel, by decide +kernel,
    by decide +kernel, some_of (by decide +kernel)⟩
  · exact ⟨tileWith idle0, 0, by decide +kernel, by decide +kernel, by decide +kernel, by decide +kernel, by decide +kernel⟩
  · exact ⟨tileWith { idle0 with queue := [⟨0, false, false⟩] } [] 1000000000, 0, _, _, 0, some_of (by decide +kernel),
    some_of (by decide +kernel), .inr (by decide +kernel), by decide +kernel⟩

/-- Tile 0 holding the output of row 0 of its MATMUL, for the strip or for the vote, with checker values as they came. -/
def holding (strip : List (Nat × List Word32)) (shadow : List (Nat × List Word32)) (pending : List ShadowJob := []) : State :=
  { tileWith { idle0 with held := [{
      desc := 0, rows := [0], strip := strip, shadow := if shadow.isEmpty then [] else [{ block := 0, results := shadow }] }] } with
    tiles := { x := [(0, { idle0 with held := [{
      desc := 0, rows := [0], strip := strip, shadow := if shadow.isEmpty then [] else [{ block := 0, results := shadow }] }] })]
               shadowPending := pending } }
def words0 (v : Nat) : List Word32 := List.replicate 48 (w32 v)

theorem witness_HeldOutputsAreJudged :
  (∃ (s : State) (tile : Nat) (h : Held) (r : Run) (b : Nat × List Word32),
    ((s.tileX tile).held.find? fun h => h.strip.any (fun b => b.2.isEmpty) && !(s.tileX tile).queue.any fun q =>
      q.desc == h.desc) = some h ∧ (s.tileX tile).vector = none ∧ s.tileRuns tile = true ∧ s.heldRun tile h = some r ∧
    (h.strip.find? fun b => b.2.isEmpty) = some b) ∧
  (∃ (s : State) (tile : Nat) (h : Held) (r : Run) (j : ShadowJob),
    (s.tiles.shadowPending.find? fun j => j.checker == tile) = some j ∧ (s.tileX tile).array = none ∧
    s.tileRuns tile = true ∧ ((s.tileX j.tile).held.find? fun h => h.desc == j.desc) = some h ∧
    s.heldRun j.tile h = some r) ∧
  (∃ (s : State) (tile : Nat) (h : Held) (r : Run) (blk : ShadowBlk) (c1 : Nat × List Word32),
    ((s.tileX tile).held.find? fun h => h.shadow.any fun b => !b.done && !b.results.isEmpty &&
      !s.tiles.shadowPending.any fun j => j.tile == tile && j.block == b.block) = some h ∧ s.heldRun tile h = some r ∧
    (h.shadow.find? fun b => !b.done && !b.results.isEmpty && !s.tiles.shadowPending.any fun j => j.tile == tile &&
      j.block == b.block) = some blk ∧ blk.results = [c1] ∧ c1.2 = s.producerWords r h blk.block) ∧
  (∃ (s : State) (tile : Nat) (h : Held) (r : Run) (blk : ShadowBlk) (c1 : Nat × List Word32),
    ((s.tileX tile).held.find? fun h => h.shadow.any fun b => !b.done && !b.results.isEmpty &&
      !s.tiles.shadowPending.any fun j => j.tile == tile && j.block == b.block) = some h ∧ s.heldRun tile h = some r ∧
    (h.shadow.find? fun b => !b.done && !b.results.isEmpty && !s.tiles.shadowPending.any fun j => j.tile == tile &&
      j.block == b.block) = some blk ∧ blk.results = [c1] ∧ c1.2 ≠ s.producerWords r h blk.block) ∧
  (∃ (s : State) (tile : Nat) (h : Held) (r : Run) (blk : ShadowBlk) (c1 : Nat × List Word32) (c2 : Nat × List Word32)
      (more : List (Nat × List Word32)),
    ((s.tileX tile).held.find? fun h => h.shadow.any fun b => !b.done && !b.results.isEmpty &&
      !s.tiles.shadowPending.any fun j => j.tile == tile && j.block == b.block) = some h ∧ s.heldRun tile h = some r ∧
    (h.shadow.find? fun b => !b.done && !b.results.isEmpty && !s.tiles.shadowPending.any fun j => j.tile == tile &&
      j.block == b.block) = some blk ∧ blk.results = c1 :: c2 :: more ∧ c2.2 = s.producerWords r h blk.block) ∧
  (∃ (s : State) (tile : Nat) (h : Held) (r : Run) (blk : ShadowBlk) (c1 : Nat × List Word32) (c2 : Nat × List Word32)
      (more : List (Nat × List Word32)),
    ((s.tileX tile).held.find? fun h => h.shadow.any fun b => !b.done && !b.results.isEmpty &&
      !s.tiles.shadowPending.any fun j => j.tile == tile && j.block == b.block) = some h ∧ s.heldRun tile h = some r ∧
    (h.shadow.find? fun b => !b.done && !b.results.isEmpty && !s.tiles.shadowPending.any fun j => j.tile == tile &&
      j.block == b.block) = some blk ∧ blk.results = c1 :: c2 :: more ∧ c2.2 ≠ s.producerWords r h blk.block ∧
    c2.2 = c1.2) ∧
  (∃ (s : State) (tile : Nat) (h : Held) (r : Run) (blk : ShadowBlk) (c1 : Nat × List Word32) (c2 : Nat × List Word32)
      (more : List (Nat × List Word32)),
    ((s.tileX tile).held.find? fun h => h.shadow.any fun b => !b.done && !b.results.isEmpty &&
      !s.tiles.shadowPending.any fun j => j.tile == tile && j.block == b.block) = some h ∧ s.heldRun tile h = some r ∧
    (h.shadow.find? fun b => !b.done && !b.results.isEmpty && !s.tiles.shadowPending.any fun j => j.tile == tile &&
      j.block == b.block) = some blk ∧ blk.results = c1 :: c2 :: more ∧ c2.2 ≠ s.producerWords r h blk.block ∧
    c2.2 ≠ c1.2) := by
  refine ⟨?_, ?_, ?_, ?_, ?_, ?_, ?_⟩
  · exact ⟨holding [(0, [])] [], 0, _, _, _, some_of (by decide +kernel), by decide +kernel, by decide +kernel,
    some_of (by decide +kernel), some_of (by decide +kernel)⟩
  · exact ⟨holding [] [] [⟨1, 0, 0, 0⟩], 1, _, _, _, some_of (by decide +kernel), by decide +kernel, by decide +kernel,
    some_of (by decide +kernel), some_of (by decide +kernel)⟩
  · exact ⟨holding [] [(1, words0 0)], 0, _, _, _, (1, words0 0), some_of (by decide +kernel), some_of (by decide +kernel),
    some_of (by decide +kernel), by decide +kernel, by decide +kernel⟩
  · exact ⟨holding [] [(1, words0 7)], 0, _, _, _, (1, words0 7), some_of (by decide +kernel), some_of (by decide +kernel),
    some_of (by decide +kernel), by decide +kernel, by decide +kernel⟩
  · exact ⟨holding [] [(1, words0 7), (2, words0 0)], 0, _, _, _, (1, words0 7), (2, words0 0), [], some_of (by decide +kernel),
    some_of (by decide +kernel), some_of (by decide +kernel), by decide +kernel, by decide +kernel⟩
  · exact ⟨holding [] [(1, words0 7), (2, words0 7)], 0, _, _, _, (1, words0 7), (2, words0 7), [], some_of (by decide +kernel),
    some_of (by decide +kernel), some_of (by decide +kernel), by decide +kernel, by decide +kernel, by decide +kernel⟩
  · exact ⟨holding [] [(1, words0 7), (2, words0 8)], 0, _, _, _, (1, words0 7), (2, words0 8), [], some_of (by decide +kernel),
    some_of (by decide +kernel), some_of (by decide +kernel), by decide +kernel, by decide +kernel, by decide +kernel⟩

theorem witness_TilesAreTestedAndIslandsStretched :
  (∃ (s : State) (tile : Nat) (mean : Nat) (peer : Nat), s.works tile = true ∧ 115 * peer < 100 * mean ∧
    tgetD s.tiles.slowWindows tile 0 = 0) ∧
  (∃ (s : State) (tile : Nat) (mean : Nat) (peer : Nat), s.works tile = true ∧ 115 * peer < 100 * mean ∧
    tgetD s.tiles.slowWindows tile 0 ≠ 0) ∧
  (∃ (s : State) (tile : Nat) (mean : Nat) (peer : Nat), s.works tile = true ∧ 100 * mean ≤ 115 * peer) ∧
  (∃ (s : State) (ptile : Nat), s.testDue ptile = true) ∧
  (∃ (s : State) (ptile : Nat) (hours : Nat), hours = (s.clock.lifeS - s.testDueS ptile) / 3600 ∧ 0 < hours ∧
    tgetD s.integ.overdueEv ptile 0 < hours ∧ s.tiles.inTest.contains ptile = false ∧
    s.unitState (tileUnit ptile) ≠ usRetired) ∧
  (∃ (s : State) (fall : Nat) (unit : UnitId), s.mainOn = true ∧ isIsland unit = true ∧ 80 ≤ fall) ∧
  (∃ (s : State) (fall : Nat) (unit : UnitId), s.mainOn = true ∧ isIsland unit = true ∧ 40 ≤ fall ∧ fall < 80) := by
  refine ⟨?_, ?_, ?_, ?_, ?_, ?_, ?_⟩
  · exact ⟨onTile [mm48] 0 0, 0, 115, 99, by decide +kernel, by decide +kernel, by decide +kernel⟩
  · exact ⟨{ onTile [mm48] 0 0 with tiles := { slowWindows := [(0, 1)] } }, 0, 116, 100, by decide +kernel, by decide +kernel,
    by decide +kernel⟩
  · exact ⟨onTile [mm48] 0 0, 0, 115, 100, by decide +kernel, by decide +kernel⟩
  · exact ⟨{ up with clock := { lifeS := 10000000 } }, 2559, by decide +kernel⟩
  · exact ⟨{ up with clock := { lifeS := 10000000 } }, 2559, _, rfl, by decide +kernel, by decide +kernel, by decide +kernel,
    by decide +kernel⟩
  · exact ⟨up, 80, ⟨1, 0⟩, by decide +kernel, by decide +kernel, by decide +kernel⟩
  · exact ⟨up, 79, ⟨1, 0⟩, by decide +kernel, by decide +kernel, by decide +kernel, by decide +kernel⟩

/-- A page of T2, without a move, and with one to T1 in course. -/
def paged (moves : List PageMove) (bad : List (Nat × Nat) := []) : State := { up with
  mem := { pages := [(7, { base := t2Base, tier := 2, hint := 0 })], moves := moves, retired := bad } }

theorem witness_PagesMoveBetweenTiers :
  (∃ (s : State) (page : Nat) (tier : Nat) (frame : Nat) (e : Page), tget s.mem.pages page = some e ∧ s.l2Up = true ∧
    hintPin e.hint = false ∧ (s.mem.moves.any fun m => m.page == page) = false ∧
    tgetD s.mem.holdOff page 0 ≤ s.steps.lastEntered ∧ s.frameExists tier frame = true ∧
    s.frameUsed tier frame = false ∧ s.frameRetired tier frame = false ∧ s.tierHolds page tier e = true ∧
    (e.home = false ∨ s.homeFrame page tier frame = true) ∧
    (if s.frameRetired (frameOf e.base).1 (frameOf e.base).2 then tier = e.tier else tier < e.tier ∧
    (hintPrefer e.hint = false ∨ e.hint / 4 = tier) ∨ tier = e.tier + 1 ∧ s.firstDown e = true)) ∧
  (∃ (s : State) (page : Nat) (e : Page) (m : PageMove) (dirty : List Nat), tget s.mem.pages page = some e ∧
    (s.mem.moves.find? fun m => m.page == page) = some m ∧ (dirty.length < 4 ∨ 0 ∈ dirty.take 4)) ∧
  (∃ (s : State) (page : Nat) (e : Page) (m : PageMove) (dirty : List Nat), tget s.mem.pages page = some e ∧
    (s.mem.moves.find? fun m => m.page == page) = some m ∧ 4 ≤ dirty.length ∧ 0 ∉ dirty.take 4) ∧
  (∃ (unit : UnitId), unitExists unit = true) ∧
  (∃ (top : Nat) (unit : UnitId), bucketTop unit = some top) ∧
  (∃ (s : State) (unit : UnitId), s.agitates unit = true) ∧
  (∃ (s : State) (k : Nat) (unit : UnitId), k = UnitId.inst unit ∧ 0 < s.lapSize unit ∧
    s.integ.lapLate.contains k = false ∧
    11 * s.setN setAgitationLap < 10 * (s.clock.lifeS - tgetD s.integ.lapStartS k 0)) := by
  refine ⟨?_, ?_, ?_, ?_, ?_, ?_, ?_⟩
  · exact ⟨paged [], 7, 1, 16383, _, some_of (by decide +kernel), by decide +kernel, by decide +kernel, by decide +kernel,
    by decide +kernel, by decide +kernel, by decide +kernel, by decide +kernel, by decide +kernel,
    .inl (by decide +kernel), by decide +kernel⟩
  · exact ⟨paged [⟨7, 1, t1Base⟩], 7, _, _, [1, 0, 1, 1], some_of (by decide +kernel), some_of (by decide +kernel),
    .inr (by decide +kernel)⟩
  · exact ⟨paged [⟨7, 1, t1Base⟩], 7, _, _, [1, 1, 1, 1], some_of (by decide +kernel), some_of (by decide +kernel),
    by decide +kernel, by decide +kernel⟩
  · exact ⟨⟨6, 3⟩, by decide +kernel⟩
  · exact ⟨_, ⟨1, 2559⟩, some_of (by decide +kernel)⟩
  · exact ⟨up, ⟨3, 0⟩, by decide +kernel⟩
  · exact ⟨{ up with clock := { lifeS := 100000000 } }, _, ⟨2, 0⟩, rfl, by decide +kernel, by decide +kernel, by decide +kernel⟩

/-- Port 3 trained or in a fast retrain, training or held idle, and a flit with its check. -/
def portIs (x : Port) : State := { up with fab := { ports := [(3, x)] } }
def flitOf (w : Nat) : FlitIn := { word0 := w32 w, fcrc := w32 (crc32c (le 4 w)), payload := [] }

theorem witness_FlitsAndLinkTrainingAreHandled :
  (∃ (s : State) (port : Nat) (f : FlitIn), s.mainOn = true ∧ (s.portX port).trained = true ∧
    (s.portX port).fast = none ∧ flitGood f = false) ∧
  (∃ (s : State) (port : Nat) (f : FlitIn), s.mainOn = true ∧ (s.portX port).trained = true ∧
    (s.portX port).fast = none ∧ flitGood f = true ∧ bitsOf f.word0.toNat 26 25 = 1 ∧
    bitsOf f.word0.toNat 11 0 = ((s.portX port).rxLast + 1) % 4096) ∧
  (∃ (s : State) (port : Nat) (f : FlitIn), s.mainOn = true ∧ (s.portX port).trained = true ∧
    (s.portX port).fast = none ∧ flitGood f = true ∧ bitsOf f.word0.toNat 26 25 = 1 ∧
    bitsOf f.word0.toNat 11 0 ≠ ((s.portX port).rxLast + 1) % 4096) ∧
  (∃ (s : State) (port : Nat) (f : FlitIn), s.mainOn = true ∧ (s.portX port).trained = true ∧
    (s.portX port).fast = none ∧ flitGood f = true ∧ bitsOf f.word0.toNat 26 25 ≠ 1) ∧
  (∃ (s : State) (port : Nat) (failing : List Nat) (fresh : List Nat), (s.portX port).fast.isSome = true ∧
    fresh = failing.filter (fun l => l < 34 && !(s.portX port).failedLanes.contains l) ∧
    widthOf ((s.portX port).failedLanes ++ fresh) = 0) ∧
  (∃ (s : State) (port : Nat) (failing : List Nat) (fresh : List Nat), (s.portX port).fast.isSome = true ∧
    fresh = failing.filter (fun l => l < 34 && !(s.portX port).failedLanes.contains l) ∧
    widthOf ((s.portX port).failedLanes ++ fresh) ≠ 0) ∧
  (∃ (s : State) (port : Nat) (cause : DownCause), (cause ≠ .noFlit ∨ (s.portX port).fast = none)) ∧
  (∃ (s : State) (port : Nat) (failing : List Nat) (bad : List Nat), (s.portX port).training = true ∧ s.mainOn = true ∧
    bad = failing.filter (· < 34) ∧ widthOf bad = 0) ∧
  (∃ (s : State) (port : Nat) (failing : List Nat) (bad : List Nat), (s.portX port).training = true ∧ s.mainOn = true ∧
    bad = failing.filter (· < 34) ∧ widthOf bad ≠ 0) ∧
  (∃ (s : State) (port : Nat), (s.portX port).trained = false) ∧
  (∃ (s : State) (port : Nat), (s.portX port).state = .heldIdle) := by
  refine ⟨?_, ?_, ?_, ?_, ?_, ?_, ?_, ?_, ?_, ?_, ?_⟩
  · exact ⟨portIs { trained := true }, 3, { flitOf 0 with uncorrectable := true }, by decide +kernel, by decide +kernel,
    by decide +kernel, by decide +kernel⟩
  · exact ⟨portIs { trained := true }, 3, flitOf (2 ^ 25), by decide +kernel, by decide +kernel, by decide +kernel,
    by decide +kernel, by decide +kernel, by decide +kernel⟩
  · exact ⟨portIs { trained := true }, 3, flitOf (2 ^ 25 + 4095), by decide +kernel, by decide +kernel, by decide +kernel,
    by decide +kernel, by decide +kernel, by decide +kernel⟩
  · exact ⟨portIs { trained := true }, 3, flitOf 4095, by decide +kernel, by decide +kernel, by decide +kernel,
    by decide +kernel, by decide +kernel⟩
  · exact ⟨portIs { trained := true, fast := some 0 }, 3, List.range 34, _, by decide +kernel, rfl, by decide +kernel⟩
  · exact ⟨portIs { trained := true, fast := some 0 }, 3, [33], _, by decide +kernel, rfl, by decide +kernel⟩
  · exact ⟨portIs { trained := true }, 3, .noFlit, .inr (by decide +kernel)⟩
  · exact ⟨portIs { training := true }, 3, List.range 34, _, by decide +kernel, by decide +kernel, rfl, by decide +kernel⟩
  · exact ⟨portIs { training := true }, 3, [0, 40], _, by decide +kernel, by decide +kernel, rfl, by decide +kernel⟩
  · exact ⟨portIs {}, 3, by decide +kernel⟩
  · exact ⟨portIs { trained := true, state := .heldIdle }, 3, by decide +kernel⟩

/-- A packet with data and its check. -/
def packetOf (ty : Nat) (b : Bytes) : Packet :=
  { type := ty, cls := classOf ty, src := 1, sliceId := 1, len := b.length, data := b, dcrc := w32 (crc32c b) }

theorem witness_NeighboursMarkersAndLinkMessagesAreTaken :
  (∃ (s : State), s.mainOn = true) ∧
  (∃ (s : State) (port : Nat), s.mainOn = true ∧ (s.portX port).trained = true ∧ (s.portX port).card = none) ∧
  (∃ (s : State) (port : Nat) (k : Packet), s.mainOn = true ∧ (s.portX port).trained = true ∧ k.type = ptLink ∧
    badPacket k = false ∧ byteAt k.data 0 = 1 ∧ k.len = 128 ∧ crc32c k.data = k.dcrc.toNat) ∧
  (∃ (s : State) (u : State) (port : Nat) (k : Packet), s.mainOn = true ∧ (s.portX port).trained = true ∧
    k.type = ptLink ∧ badPacket k = false ∧ u = s.emit (.release port (bufferOf k) (flitPayloads k)) ∧
    byteAt k.data 0 = 2 ∧ k.len = 16 ∧ rd 2 k.data 4 = u.plan.sliceId) ∧
  (∃ (s : State) (port : Nat) (k : Packet), s.mainOn = true ∧ (s.portX port).trained = true ∧ k.type = ptLink ∧
    badPacket k = false ∧ (¬(byteAt k.data 0 = 1 ∧ k.len = 128)) ∧ (¬(byteAt k.data 0 = 2 ∧ k.len = 16))) := by
  refine ⟨?_, ?_, ?_, ?_, ?_⟩
  · exact ⟨up, by decide +kernel⟩
  · exact ⟨portIs { trained := true }, 3, by decide +kernel, by decide +kernel, by decide +kernel⟩
  · exact ⟨portIs { trained := true }, 3, packetOf ptLink ([1] ++ zeros 127), by decide +kernel, by decide +kernel,
    by decide +kernel, by decide +kernel, by decide +kernel, by decide +kernel, by decide +kernel⟩
  · exact ⟨{ portIs { trained := true } with wts := { main := some plan0 } }, _, 3, packetOf ptLink (markerBytes 1),
    by decide +kernel, by decide +kernel, by decide +kernel, by decide +kernel, rfl, by decide +kernel,
    by decide +kernel, by decide +kernel⟩
  · exact ⟨portIs { trained := true }, 3, packetOf ptLink ([2] ++ zeros 127), by decide +kernel, by decide +kernel,
    by decide +kernel, by decide +kernel, by decide +kernel, by decide +kernel⟩

theorem witness_DataPacketsLand :
  (∃ (s : State) (u : State) (port : Nat) (k : Packet) (k1 : Packet), Lands s port k k1 u ∧
    (k1.len = 0 ∨ crc32c k1.data = k1.dcrc.toNat) ∧ k.type = ptWrite) ∧
  (∃ (s : State) (u : State) (port : Nat) (k : Packet) (k1 : Packet), Lands s port k k1 u ∧
    (k1.len = 0 ∨ crc32c k1.data = k1.dcrc.toNat) ∧ k.type = ptReadReq) ∧
  (∃ (s : State) (u : State) (port : Nat) (k : Packet) (k1 : Packet), Lands s port k k1 u ∧
    (k1.len = 0 ∨ crc32c k1.data = k1.dcrc.toNat) ∧ k.type = ptReadRsp) ∧
  (∃ (s : State) (u : State) (port : Nat) (k : Packet) (k1 : Packet), Lands s port k k1 u ∧
    (k1.len = 0 ∨ crc32c k1.data = k1.dcrc.toNat) ∧ k.type = ptRed) ∧
  (∃ (s : State) (u : State) (port : Nat) (k : Packet) (k1 : Packet), Lands s port k k1 u ∧
    (k1.len = 0 ∨ crc32c k1.data = k1.dcrc.toNat) ∧ k.type = ptMcast) ∧
  (∃ (s : State) (u : State) (port : Nat) (k : Packet) (k1 : Packet), Lands s port k k1 u ∧
    (k1.len = 0 ∨ crc32c k1.data = k1.dcrc.toNat) ∧ k.type = ptDispatch) ∧
  (∃ (s : State) (u : State) (port : Nat) (k : Packet) (k1 : Packet), Lands s port k k1 u ∧
    (k1.len = 0 ∨ crc32c k1.data = k1.dcrc.toNat) ∧ k.type = ptDispatchEnd) ∧
  (∃ (s : State) (u : State) (port : Nat) (k : Packet) (k1 : Packet), Lands s port k k1 u ∧
    (k1.len = 0 ∨ crc32c k1.data = k1.dcrc.toNat) ∧ k.type = ptReturn) ∧
  (∃ (s : State) (u : State) (port : Nat) (k : Packet) (k1 : Packet), Lands s port k k1 u ∧
    (k1.len = 0 ∨ crc32c k1.data = k1.dcrc.toNat) ∧ k.type = ptBufFree) ∧
  (∃ (s : State) (u : State) (port : Nat) (k : Packet) (k1 : Packet), Lands s port k k1 u ∧
    (k1.len = 0 ∨ crc32c k1.data = k1.dcrc.toNat) ∧ k.type = ptColl) ∧
  (∃ (s : State) (u : State) (port : Nat) (k : Packet) (k1 : Packet), Lands s port k k1 u ∧
    (k1.len = 0 ∨ crc32c k1.data = k1.dcrc.toNat) ∧ k.type = ptCredit) ∧
  (∃ (s : State) (u : State) (port : Nat) (k : Packet) (k1 : Packet), Lands s port k k1 u ∧ k1.len ≠ 0 ∧
    crc32c k1.data ≠ k1.dcrc.toNat ∧ k.type = ptWrite) := by
  refine ⟨?_, ?_, ?_, ?_, ?_, ?_, ?_, ?_, ?_, ?_, ?_, ?_⟩
  · exact ⟨pair 0, _, 0, packetOf ptWrite [], _, lands_of (by decide +kernel), .inl (by decide +kernel), by decide +kernel⟩
  · exact ⟨pair 0, _, 0, packetOf ptReadReq [], _, lands_of (by decide +kernel), .inl (by decide +kernel), by decide +kernel⟩
  · exact ⟨pair 0, _, 0, packetOf ptReadRsp [], _, lands_of (by decide +kernel), .inl (by decide +kernel), by decide +kernel⟩
  · exact ⟨pair 0, _, 0, packetOf ptRed [], _, lands_of (by decide +kernel), .inl (by decide +kernel), by decide +kernel⟩
  · exact ⟨pair 0, _, 0, packetOf ptMcast [], _, lands_of (by decide +kernel), .inl (by decide +kernel), by decide +kernel⟩
  · exact ⟨pair 0, _, 0, packetOf ptDispatch [], _, lands_of (by decide +kernel), .inl (by decide +kernel), by decide +kernel⟩
  · exact ⟨pair 0, _, 0, packetOf ptDispatchEnd [], _, lands_of (by decide +kernel), .inl (by decide +kernel),
    by decide +kernel⟩
  · exact ⟨pair 0, _, 0, packetOf ptReturn [], _, lands_of (by decide +kernel), .inl (by decide +kernel), by decide +kernel⟩
  · exact ⟨pair 0, _, 0, packetOf ptBufFree [], _, lands_of (by decide +kernel), .inl (by decide +kernel), by decide +kernel⟩
  · exact ⟨pair 0, _, 0, packetOf ptColl [], _, lands_of (by decide +kernel), .inl (by decide +kernel), by decide +kernel⟩
  · exact ⟨pair 0, _, 0, packetOf ptCredit [], _, lands_of (by decide +kernel), .inl (by decide +kernel), by decide +kernel⟩
  · exact ⟨pair 0, _, 0, { packetOf ptWrite [7] with dcrc := 0 }, _, lands_of (by decide +kernel), by decide +kernel,
    by decide +kernel, by decide +kernel⟩

/-- A module whose power state, time and clamp are given. -/
def powered (p : Power) (now : Nat := 0) : State := { up with pwr := p, clock := { timeNs := now } }
def clamped : State := powered
  { state := .s0, clamp := true, points := (List.range 16).map fun c => (c, 0) } 20000000

theorem witness_PowerWindowsEnd :
  (∃ (s : State), (s.pwr.state = .s3 ∨ s.pwr.state = .s5)) ∧
  (∃ (s : State) (s1 : State) (s2 : State) (s3 : State) (s4 : State) (s6 : State) (s7 : State) (s8 : State) (w : Nat)
      (v : Nat) (uj : Nat) (done : List (MPort × Nat × Nat)), uj = s.pwr.energyUj + w * 100 ∧
    s1 = s.onPwr (fun p =>
      { p with windowW := w, windows := (w :: p.windows).take 10000, vIn100mV := v, energyMj := (p.energyMj + uj / 1000) % 2 ^ 64, energyUj := uj % 1000 }) ∧
    s.pwr.state ≠ .s3 ∧ s.pwr.state ≠ .s5 ∧
    s2 = s1.onPwr (fun p =>
      { p with rampLimit := if p.stagger.isSome then p.rampLimit else min s.effCap (w + s.setN setRampUp / 10) }) ∧
    s3 = (if s.pwr.clamp && s.pwr.clampRamp then s2.count ctRampLimited 0 100000 else s2) ∧ s4 = s3.stepFiller w ∧
    done = s4.pwr.capReq.filter (fun r => w ≤ s4.effCap && r.2.2 + 100000 ≤ s.now) ∧
    s6 = done.foldl (fun (a : State) r => a.finishAt r.1 r.2.1 stOk 0 (a.capBytes w)) (s4.onPwr fun p =>
      { p with capReq := p.capReq.filter fun r => !done.contains r }) ∧
    s7 = (if w ≤ s6.effCap then s6.payBudget else s6) ∧ (s7.pwr.reachDue = none → s8 = s7) ∧ (∀ n cap,
    s7.pwr.reachDue = some (n,
    cap) → s8 = (if s7.pwr.state != .s1 then s7 else if n ≤ 1 then (s7.onPwr fun p =>
      { p with reachDue := none }).fault fltCapBelowFloor noUnit
      { args := [cap, s7.pwr.reachW, meanOf (s7.pwr.windows.take 10), s7.setN setPowerCap] } else s7.onPwr fun p =>
      { p with reachDue := some (n - 1, cap) }))) := by
  refine ⟨?_, ?_⟩
  · exact ⟨powered { state := .s3 }, .inl (by decide +kernel)⟩
  · exact ⟨powered { state := .s0, capReq := [(.h, 0, 0)] } 200000, _, _, _, _, _, _, _, 5000, 500, _, _, rfl, rfl,
    by decide +kernel, by decide +kernel, rfl, rfl, rfl, rfl, rfl, rfl, fun _ => rfl,
    fun _ _ h => absurd (h.symm.trans (by decide +kernel)) (Option.some_ne_none _)⟩

theorem witness_ClampsThermalLimitsAndFadesEnd :
  (∃ (s : State) (mean : Nat) (lim : Nat), s.pwr.state = .s0 ∧ lim = min s.effCap s.pwr.rampLimit ∧ mean ≤ lim) ∧
  (∃ (s : State) (mean : Nat) (lim : Nat), s.pwr.state = .s0 ∧ lim = min s.effCap s.pwr.rampLimit ∧ lim < mean) ∧
  (∃ (s : State), s.pwr.state = .s0 ∧ s.pwr.clamp = true ∧ s.pwr.clampSinceNs + 20000000 ≤ s.now ∧ (∀ c,
    c < 16 → s.point c = 0) ∧ s.pwr.change = none) ∧
  (∃ (s : State) (temps : List Int), s.mainOn = true ∧ ((indexed temps).any fun t => throttleM t.1 < t.2) = true) ∧
  (∃ (s : State) (temps : List Int), s.mainOn = true ∧ ((indexed temps).any fun t => throttleM t.1 < t.2) = false) ∧
  (∃ (s : State) (t0 : Nat) (a : Nat), s.pwr.stagger = some (t0, a) ∧
    t0 + s.plan.rank s.index * s.setN setStagger * 1000 ≤ s.now) ∧
  (∃ (s : State) (t0 : Nat) (ms : Nat) (a : Nat), s.pwr.fade = some (a, t0, ms) ∧ t0 + ms * 1000000 ≤ s.now) := by
  refine ⟨?_, ?_, ?_, ?_, ?_, ?_, ?_⟩
  · exact ⟨powered { state := .s0 }, 5000, _, by decide +kernel, rfl, by decide +kernel⟩
  · exact ⟨powered { state := .s0 }, 5001, _, by decide +kernel, rfl, by decide +kernel⟩
  · exact ⟨clamped, by decide +kernel, by decide +kernel, by decide +kernel, by decide +kernel, by decide +kernel⟩
  · exact ⟨up, [1000000], by decide +kernel, by decide +kernel⟩
  · exact ⟨up, [20000, 20000], by decide +kernel, by decide +kernel⟩
  · exact ⟨powered { state := .s0, stagger := some (0, 0) } 1000000000, 0, 0, by decide +kernel, by decide +kernel⟩
  · exact ⟨powered { state := .s0, fade := some (0, 0, 1) } 1000000, 0, 1, 0, by decide +kernel, by decide +kernel⟩

def handing (blackout : Option Nat) (back : Bool) : State := { up with
  fw := { stage := 12, handover := some { port := .h, slot := 0, bank := true, mode := 2, blackoutNs := blackout, back := back } } }

theorem witness_StartUpTrialsAndWatchdogsRun :
  (∃ (s : State), s.pwr.state = .s5) ∧
  (∃ (s : State) (stage : Nat), s.fw.stage = stage ∧ s.pwr.state ≠ .s5) ∧
  (∃ (s : State) (h : Handover), s.fw.handover = some h ∧ h.blackoutNs = none ∧ s.quiet h = true) ∧
  (∃ (s : State) (t0 : Nat) (h : Handover), s.fw.handover = some h ∧ h.blackoutNs = some t0 ∧ h.back = true) ∧
  (∃ (s : State) (t0 : Nat) (h : Handover), s.fw.handover = some h ∧ h.blackoutNs = some t0 ∧ h.back = false) ∧
  (∃ (s : State) (t0 : Nat), s.fw.trialFromNs = some t0 ∧ t0 + s.fw.trialConfirmS * 1000000000 ≤ s.now) ∧
  (∃ (s : State), s.l2Up = true ∧ s.fw.safelight = false ∧ (s.fw.handover.any fun h => h.blackoutNs.isSome) = false ∧
    s.clock.heartbeatNs + 2000000000 ≤ s.now) ∧
  (∃ (s : State) (t0 : Nat), s.mbox.warmResetAt = some t0 ∧ t0 ≤ s.now) ∧
  (∃ (s : State), s.mbox.warmResetAt = none) ∧
  (∃ (s : State) (slot : Nat) (port : MPort) (r : Running), s.runningAt port slot = some r) := by
  refine ⟨?_, ?_, ?_, ?_, ?_, ?_, ?_, ?_, ?_, ?_⟩
  · exact ⟨State.reset, by decide +kernel⟩
  · exact ⟨{ up with fw := { stage := 4 } }, 4, by decide +kernel, by decide +kernel⟩
  · exact ⟨handing none false, _, some_of (by decide +kernel), by decide +kernel, by decide +kernel⟩
  · exact ⟨handing (some 0) true, 0, _, some_of (by decide +kernel), by decide +kernel, by decide +kernel⟩
  · exact ⟨handing (some 0) false, 0, _, some_of (by decide +kernel), by decide +kernel, by decide +kernel⟩
  · exact ⟨{ up with fw := { trialFromNs := some 0 }, clock := { timeNs := 600000000000 } }, 0, by decide +kernel,
    by decide +kernel⟩
  · exact ⟨{ up with clock := { timeNs := 2000000000 } }, by decide +kernel, by decide +kernel, by decide +kernel,
    by decide +kernel⟩
  · exact ⟨{ up with mbox := { warmResetAt := some 0 } }, 0, by decide +kernel, by decide +kernel⟩
  · exact ⟨up, by decide +kernel⟩
  · exact ⟨{ up with mbox := { running := [dmaRun objFirmware] } }, 0, .h, _, some_of (by decide +kernel)⟩

def pinsOf (p : Pins) (st : PowerState := .s0) (now : Nat := 0) : State := { powered { state := st } now with pins := p }

theorem witness_PinsPowerAndStraps :
  (∃ (s : State), s.pwr.state = .s3) ∧
  (∃ (s : State), s.pwr.state ≠ .s3) ∧
  (∃ (s : State), s.mainOn = true ∧ s.sliceIdle = true ∧ s.pwr.change = none) ∧
  (∃ (s : State), s.mainOn = true ∧ s.sliceIdle = false) ∧
  (∃ (s : State) (ns : Nat), 10000 ≤ ns ∧ s.pwr.state ≠ .s5) ∧
  (∃ (s : State), s.endpoint = true) ∧
  (∃ (s : State), s.mainOn = false ∧ s.wts.t3Retained = true) ∧
  (∃ (s : State) (u : State) (v : State) (w : State), u = s.onPins (fun p => { p with dimmPwrOk := false }) ∧
    s.mainOn = true ∧ s.wts.t3InService = true ∧
    v = (u.fault fltT3Power).onWts (fun w =>
      { w with t3InService := false, copies := w.copies.map fun c => if c.inT3 then c.toT2 else c }) ∧
    w = (if s.isLead then v.failPauses else v)) ∧
  (∃ (s : State), s.pwr.state ≠ .s5 ∧ s.pins.strapSampled = false) ∧
  (∃ (s : State), s.pwr.state ≠ .s5 ∧ s.pins.ppsEdgeNs = none) ∧
  (∃ (s : State) (t0 : Nat), s.pwr.state ≠ .s5 ∧ s.pins.ppsEdgeNs = some t0) ∧
  (∃ (s : State), s.pins.strapSampled = true) ∧
  (∃ (s : State) (t0 : Nat), s.pins.ppsEdgeNs = some t0 ∧ t0 + 3000000000 ≤ s.now ∧ s.pins.ppsLostRaised = false) := by
  refine ⟨?_, ?_, ?_, ?_, ?_, ?_, ?_, ?_, ?_, ?_, ?_, ?_, ?_⟩
  · exact ⟨pinsOf {} .s3, by decide +kernel⟩
  · exact ⟨pinsOf {}, by decide +kernel⟩
  · exact ⟨pinsOf { pwrEn := true }, by decide +kernel, by decide +kernel, by decide +kernel⟩
  · exact ⟨slice .running, by decide +kernel, by decide +kernel⟩
  · exact ⟨up, 10000, by decide +kernel, by decide +kernel⟩
  · exact ⟨up, by decide +kernel⟩
  · exact ⟨{ pinsOf {} .s3 with wts := { t3Retained := true } }, by decide +kernel, by decide +kernel⟩
  · exact ⟨{ up with wts := { t3InService := true } }, _, _, _, rfl, by decide +kernel, by decide +kernel, rfl, rfl⟩
  · exact ⟨pinsOf {} .s3, by decide +kernel, by decide +kernel⟩
  · exact ⟨pinsOf {}, by decide +kernel, by decide +kernel⟩
  · exact ⟨pinsOf { ppsEdgeNs := some 0 }, 0, by decide +kernel, by decide +kernel⟩
  · exact ⟨pinsOf { strapSampled := true }, by decide +kernel⟩
  · exact ⟨pinsOf { ppsEdgeNs := some 0 } .s0 3000000000, 0, by decide +kernel, by decide +kernel, by decide +kernel⟩

theorem witness_TripsLeaksAndLosses :
  (∃ (s : State), s.pwr.state ≠ .s5) ∧
  (∃ (mv : Nat), mv < 38000) ∧
  (∃ (mv : Nat), 62500 < mv) ∧
  (∃ (s : State) (d : Drain), s.srv.drain = some d ∧ (d.deadlineNs.any fun t => t ≤ s.now) = true) ∧
  (∃ (s : State), s.srv.haltNs + 1000000 ≤ s.now) ∧
  (∃ (s : State), s.srv.haltNs + 1000000 ≤ s.now ∧ s.srv.sliceState = .haltedHard ∧ 0 < s.pwr.lent) := by
  refine ⟨?_, ?_, ?_, ?_, ?_, ?_⟩
  · exact ⟨pinsOf {} .s3, by decide +kernel⟩
  · exact ⟨37999, by decide +kernel⟩
  · exact ⟨62501, by decide +kernel⟩
  · exact ⟨{ slice .draining with srv := { sliceState := .draining, drain := some { drain1 with deadlineNs := some 0 } } }, _,
    some_of (by decide +kernel), by decide +kernel⟩
  · exact ⟨{ up with clock := { timeNs := 1000000 } }, by decide +kernel⟩
  · exact ⟨{ powered { state := .s0, lent := 100 } 1000000 with srv := { sliceState := .haltedHard } }, by decide +kernel,
    by decide +kernel, by decide +kernel⟩

theorem witness_RefusedMailboxCommandsChangeOnlyTheirSlot :
  ∃ (i : Instr) (q : Req) (op : Nat) (mine : Cmd → Bool) (s : State) (t : State) (c : Cmd) (st : Nat) (d : Nat),
    mailboxRow i = some (q, op, mine) ∧ foundIn s q = t ∧ t.cmdAt q.port q.slot = c ∧ t.served c.port = true ∧
    c.slot < slotCount c.port ∧ c.hdr.owner = true ∧ c.hdr.started = false ∧ c.hdr.opcode = op ∧ mine c = true ∧
    (firstFail [ (c.hdr.seq == c.hdr.storedSeq, stFieldRange, 0x14),
    (c.hdr.rsv0 != 0 || (c.hdr.noIrq && c.port != .h), stFieldRange, 0x00), (c.hdr.rsvC != 0, stFieldRange, 0x0E),
    (c.hdr.rsvTail, stFieldRange, 0x1E), ((opInfo op).isNone, stBadOpcode, 0x02),
    (!t.portAllowed ((opInfo op).getD ⟨0, 0, 0, false, false⟩) c.port, stPortDenied, 0x02),
    (!t.opState ((opInfo op).getD ⟨0, 0, 0, false, false⟩) c.port (rd 4 c.pay 0), stStateDenied, 0x02) ] = some (st,
    d)) :=
  ⟨.opIdentify (ask .h 0x0001 []), ask .h 0x0001 [], 0x0001, allPayloads,
    { up with mbox := { ready := true, slotsH := [(0, { storedSeq := 1 })] } }, _, _, stFieldRange, 0x14, rfl, rfl,
    rfl, by decide +kernel, by decide +kernel, by decide +kernel, by decide +kernel, by decide +kernel,
    by decide +kernel, by decide +kernel⟩

theorem witness_EveryStepIsSafe :
  ∃ (s : State), SafeState s :=
  ⟨State.reset, (by unfold SafeState; decide +kernel)⟩

theorem witness_AnIdleStepPassesANanosecond :
  ∃ (s : State), s.pending = [] ∧ s.clock.lifeNs < 1000000000 :=
  ⟨State.reset, by decide +kernel, by decide +kernel⟩

theorem witness_PhysicalWritesStoreTheirBytes :
  (∃ (s : State) (t : State) (q : Req) (c : Cmd) (a : Nat) (n : Nat), Finds s q t c 0x0F03 (16 + n) ∧ a = rd 8 c.pay 0 ∧
    n = rd 2 c.pay 8 ∧ 8 ≤ n ∧ n ≤ 4016 ∧ n % 8 = 0 ∧ a % 8 = 0 ∧ rd 2 c.pay 10 = 0 ∧ rd 4 c.pay 12 = 0 ∧
    t.physOk a n = true ∧ t.srv.sliceState ≠ .starting ∧ t.srv.sliceState ≠ .running ∧ SafeState t) ∧
  (∃ (s : State) (t : State) (q : Req) (c : Cmd) (a : Nat) (n : Nat) (x : Nat), Finds s q t c 0x0F03 (16 + n) ∧
    a = rd 8 c.pay 0 ∧ n = rd 2 c.pay 8 ∧ 8 ≤ n ∧ n ≤ 4016 ∧ n % 8 = 0 ∧ a % 8 = 0 ∧ rd 2 c.pay 10 = 0 ∧
    rd 4 c.pay 12 = 0 ∧ t.physOk a n = true ∧ t.srv.sliceState ≠ .starting ∧ t.srv.sliceState ≠ .running ∧
    SafeState t ∧ (x < a ∨ a + n ≤ x)) := by
  refine ⟨?_, ?_⟩
  · exact ⟨bench 2, _, ask .d 0x0F03 (physPay (t2Base + 0x40) 8 ++ le 4 0 ++ le 8 7), _, _, _, finds_of (by decide +kernel),
    rfl, rfl, by decide +kernel, by decide +kernel, by decide +kernel, by decide +kernel, by decide +kernel,
    by decide +kernel, by decide +kernel, by decide +kernel, by decide +kernel, (by unfold SafeState; decide +kernel)⟩
  · exact ⟨bench 2, _, ask .d 0x0F03 (physPay (t2Base + 0x40) 8 ++ le 4 0 ++ le 8 7), _, _, _, t2Base + 0x48,
    finds_of (by decide +kernel), rfl, rfl, by decide +kernel, by decide +kernel, by decide +kernel,
    by decide +kernel, by decide +kernel, by decide +kernel, by decide +kernel, by decide +kernel, by decide +kernel,
    (by unfold SafeState; decide +kernel), .inr (by decide +kernel)⟩

theorem witness_ReadsReturnRunningOrStagedValues :
  (∃ (s : State) (t : State) (q : Req) (c : Cmd) (n : Nat) (out : Bytes), Finds s q t c 0x0103 n ∧
    (∀ x ∈ entriesOwn true false t c, x.1 = false) ∧ c.hdr.txnId = 0 ∧ bitOf (rd 4 c.pay 0) 16 = false ∧
    out = readBytes ((cmdEntries c false).1.map fun e => (e, t.srcOf e.key, t.setting e.key)) ∧ out.length ≤ 4032) ∧
  (∃ (s : State) (t : State) (q : Req) (c : Cmd) (n : Nat) (out : Bytes), Finds s q t c 0x0103 n ∧
    (∀ x ∈ entriesOwn true false t c, x.1 = false) ∧ c.hdr.txnId = 0 ∧ bitOf (rd 4 c.pay 0) 16 = false ∧
    out = readBytes ((cmdEntries c false).1.map fun e => (e, t.srcOf e.key, t.setting e.key)) ∧ 4032 < out.length) ∧
  (∃ (s : State) (t : State) (q : Req) (c : Cmd) (n : Nat) (out : Bytes) (x : Txn), Finds s q t c 0x0103 n ∧
    (∀ x ∈ entriesOwn true false t c, x.1 = false) ∧ c.hdr.txnId ≠ 0 ∧ bitOf (rd 4 c.pay 0) 16 = true ∧
    t.txn? c.hdr.txnId.toNat = some x ∧ x.port = c.port ∧
    out = readBytes ((cmdEntries c false).1.map fun e =>
      match tget x.staged e.key with | some v => (e, 3, v) | none => (e, t.srcOf e.key, t.setting e.key)) ∧
    out.length ≤ 4032) ∧
  (∃ (s : State) (t : State) (q : Req) (c : Cmd) (n : Nat) (out : Bytes) (x : Txn), Finds s q t c 0x0103 n ∧
    (∀ x ∈ entriesOwn true false t c, x.1 = false) ∧ c.hdr.txnId ≠ 0 ∧ bitOf (rd 4 c.pay 0) 16 = true ∧
    t.txn? c.hdr.txnId.toNat = some x ∧ x.port = c.port ∧
    out = readBytes ((cmdEntries c false).1.map fun e =>
      match tget x.staged e.key with | some v => (e, 3, v) | none => (e, t.srcOf e.key, t.setting e.key)) ∧
    4032 < out.length) := by
  refine ⟨?_, ?_, ?_, ?_⟩
  · exact ⟨lead, _, ask .h 0x0103 (readOf setPowerCap 0), _, 24, _, finds_of (by decide +kernel), by decide +kernel,
    by decide +kernel, by decide +kernel, rfl, by decide +kernel⟩
  · exact ⟨lead, _, ask .h 0x0103 (readOf setClientTable 0), _, 24, _, finds_of (by decide +kernel), by decide +kernel,
    by decide +kernel, by decide +kernel, rfl, by decide +kernel⟩
  · exact ⟨inTxn, _, ask .h 0x0103 (readOf setMgmtUdpPort 1) 5, _, 24, _, txnM, finds_of (by decide +kernel), by decide +kernel,
    by decide +kernel, (by decide +kernel), by decide +kernel, by decide +kernel, rfl, by decide +kernel⟩
  · exact ⟨inTxn, _, ask .h 0x0103 (readOf setClientTable 1) 6, _, 24, _, txnS, finds_of (by decide +kernel), by decide +kernel,
    by decide +kernel, by decide +kernel, by decide +kernel, by decide +kernel, rfl, by decide +kernel⟩

theorem witness_TransactionsBelongToTheirPort :
  (∃ (s : State) (t : State) (q : Req) (c : Cmd) (n : Nat) (x : Txn), Finds s q t c 0x0102 n ∧ c.hdr.txnId ≠ 0 ∧
    t.txn? c.hdr.txnId.toNat = some x ∧ x.port ≠ c.port ∧ (∀ e ∈ entriesOwn false true t c, e.1 = false)) ∧
  (∃ (s : State) (t : State) (q : Req) (c : Cmd) (x : Txn), Finds s q t c 0x0104 0 ∧ c.hdr.txnId ≠ 0 ∧
    t.txn? c.hdr.txnId.toNat = some x ∧ x.port ≠ c.port) ∧
  (∃ (s : State) (t : State) (q : Req) (c : Cmd) (n : Nat) (x : Txn), Finds s q t c 0x0103 n ∧ c.hdr.txnId ≠ 0 ∧
    t.txn? c.hdr.txnId.toNat = some x ∧ x.port ≠ c.port ∧ (∀ e ∈ entriesOwn true false t c, e.1 = false) ∧
    bitOf (rd 4 c.pay 0) 16 = true) ∧
  (∃ (s : State) (t : State) (q : Req) (c : Cmd) (x : Txn), Finds s q t c 0x0105 0 ∧ c.hdr.txnId ≠ 0 ∧
    t.txn? c.hdr.txnId.toNat = some x ∧ objFree t (objTxn x.id)) ∧
  (∃ (t : State) (c : Cmd) (x : Txn), c.hdr.txnId ≠ 0 ∧ t.txn? c.hdr.txnId.toNat = some x) := by
  refine ⟨?_, ?_, ?_, ?_, ?_⟩
  · exact ⟨inTxn, _, ask .m 0x0102 (setOf setMgmtUdpPort 2 4096) 5, _, 32, txnM, finds_of (by decide +kernel),
    by decide +kernel, by decide +kernel, by decide +kernel, by decide +kernel⟩
  · exact ⟨inTxn, _, ask .m 0x0104 [] 5, _, txnM, finds_of (by decide +kernel), by decide +kernel, by decide +kernel,
    by decide +kernel⟩
  · exact ⟨inTxn, _, ask .m 0x0103 (readOf setMgmtUdpPort 1) 5, _, 24, txnM, finds_of (by decide +kernel), by decide +kernel,
    by decide +kernel, by decide +kernel, by decide +kernel, by decide +kernel⟩
  · exact ⟨inTxn, _, ask .m 0x0105 [] 5, _, txnM, finds_of (by decide +kernel), by decide +kernel, by decide +kernel,
    (by unfold objFree; decide +kernel)⟩
  · exact ⟨foundIn inTxn (ask .m 0x0105 [] 5), (foundIn inTxn (ask .m 0x0105 [] 5)).cmdAt .m 0, txnM, by decide +kernel,
    by decide +kernel⟩

/-! ### Well-formedness: one ill-formed term for each check -/

def badReq : Req := { port := .d, slot := 2, post := none }
def badImage : SlotImage := { imageOf 0 with payload := zeros 4033 }

theorem test_wf_slot : (Instr.opStatus badReq).wf = false := by decide
theorem test_wf_slot_m : (Instr.opStatus { port := .m, slot := 8, post := none }).wf = false := by decide
theorem test_wf_slot_h : (Instr.opStatus { port := .h, slot := 64, post := none }).wf = false := by decide
theorem test_wf_payload : (Instr.slotMsgWrite .i3c0 0 badImage).wf = false := by decide +kernel
theorem test_wf_tail : (SlotImage.wf { imageOf 0 with tail := zeros 33 }) = false := by decide +kernel
theorem test_wf_tile : (Instr.matmul 2304).wf = false := by decide
theorem test_wf_ptile : (Instr.testDue 2560).wf = false := by decide
theorem test_wf_port : (Instr.cardSend 6).wf = false := by decide
theorem test_wf_qp : (Instr.cmDreq 16777216).wf = false := by decide
theorem test_wf_session : (Instr.pauseExpiry 4294967296).wf = false := by decide
theorem test_wf_unit : (Instr.ceDetected ⟨12, 0⟩ 0).wf = false := by decide
theorem test_wf_packet : (Instr.writePacket 0 { packetOf ptWrite [] with dest := 512 }).wf = false := by decide +kernel
theorem test_wf_packet_exp : (Packet.wf { packetOf ptWrite [] with exp := 128 }) = false := by decide +kernel
theorem test_wf_flit : (Instr.flitReceived 0 { flitOf 0 with payload := [] }).wf = false := by decide +kernel
theorem test_wf_copy_kind : (Instr.shardVerifyDone 3 0 0).wf = false := by decide
theorem test_wf_register : (Instr.registerWrite 2 0).wf = false := by decide
theorem test_wf_register_top : (Instr.registerWrite 262144 0).wf = false := by decide
theorem test_wf_denied_slot : (Instr.slotWriteDenied 64 0 []).wf = false := by decide
theorem test_wf_chain_slot : (Instr.slotMsgRead .i3c0 8).wf = false := by decide
theorem test_wf_jtag_slot : (Instr.mboxAccess 2 false (imageOf 0)).wf = false := by decide +kernel
theorem test_wf_collector : (Instr.collectorAck 5 0).wf = false := by decide
theorem test_wf_client : (Instr.cmReq 256 false 0 0).wf = false := by decide
theorem test_wf_complete_unit : (Instr.descriptorComplete 0 3).wf = false := by decide
theorem test_wf_rail : (Instr.railCurrentSample 38 0).wf = false := by decide
theorem test_wf_tier : (Instr.pageMoveStart 0 4 0).wf = false := by decide
theorem test_wf_cdie : (Instr.oppointSettled 16).wf = false := by decide
theorem test_wf_stage : (Instr.startupStage 13 []).wf = false := by decide
theorem test_wf_sensor : (Instr.thermalTrip 68).wf = false := by decide
theorem test_wf_strap : (Instr.strapSample 256 false).wf = false := by decide
theorem test_wf_interface : (Instr.laneMarginDone 8 0 []).wf = false := by decide
theorem test_wf_good : (Instr.opStatus { port := .h, slot := 63, post := none }).wf = true := by decide

/-! ### Worked examples of the spec -/

/-- The narrow-arithmetic example after R103: one A4 group with a dodged 200.0, at exposure −1. -/
def group103 : List Fp :=
  [f32 0x43480000#32, f32 0x41200000#32, f32 0x40E00000#32, f32 0x40466666#32, f32 0xBE4CCCCD#32] ++
    List.replicate 11 (f32 0x3F99999A#32)

theorem test_exposure_of_1000 : expA4 (f32 0x447A0000#32) = -1 := by decide +kernel
theorem test_dodge_of_200 : dodgePlace group103 = some 0 := by decide +kernel
theorem test_a4_group :
    toA4 group103 (-1) (some 0) = { codes := [0, 7, 6, 4, 0] ++ List.replicate 11 1, scale := 0x46 } := by decide +kernel
/-- The same group without the dodge: the scale is 72, and 3.1 and 1.2 become zero. -/
theorem test_a4_group_undodged : (toA4 group103 (-1)).scale = 0x69 := by decide +kernel

/-- The tracker after 6, 12, 16 and 17 steps that emit one token each (the example after R230): D and B. -/
def trackerAfter (k : Nat) : Word32 := (List.range k).foldl (fun a _ => trackerNext a 1) 0x40E00000#32

theorem test_budgets : [0, 6, 12, 16, 17].map (fun k => budgetB (trackerAfter k) 16) = [16, 10, 6, 6, 4] := by decide +kernel
theorem test_depths : [0, 6, 12, 16, 17].map (fun k => floor125 (trackerAfter k) + 1) = [9, 4, 2, 2, 1] := by decide +kernel

/-- Page sizes of the example after R154: H = 2 and HDIM 128. -/
theorem test_p4 : p4Bytes 2 128 = 24576 := by decide
theorem test_p8 : p8Bytes 2 128 = 36864 := by decide

/-- The chunk example after R246: LENS 0x5555_4430_5555_4432 and a payload byte 0xB2. -/
def lens246 : List Nat := (List.range 16).map fun i => 0x5555443055554432 / 16 ^ i % 16

theorem test_codewords : (codeBook lens246).map (fun x => (x.1, x.2.2)) =
    [(0, 0), (1, 2), (9, 3), (2, 8), (3, 9), (10, 10), (11, 11), (4, 24), (5, 25), (6, 26), (7, 27), (12, 28), (13, 29),
      (14, 30), (15, 31)] := by decide +kernel
theorem test_decode_b2 :
    (decodeSyms (codeBook lens246) (bitStream [0xB2]) 2 0 0 []).map (fun r => (packNibbles r.1.reverse, r.2)) =
      some ([0x91], [false, true]) := by decide +kernel

/-- STREAM_STALL for T3 and cause TIER (the example after R375). -/
theorem test_counter_id : ctStreamStall = 0x070C0800 := by decide

/-- Index of the module at (3, 5, 1) (the example after R50). -/
theorem test_module_index : moduleAt 3 5 1 = 0x0AB := by decide
theorem test_fabric_module : fabMod 0x0AB00020000000 = 0x0AB := by decide

/-- Three causes wait on C6 with three free spares (the example after R34): the later test and the slow tile take the unreserved
ones, and the other test waits. -/
theorem test_spares : (giveSpares [(2, 1050), (3, 1000), (4, 1003)] [1104, 1105, 1106]).map (·.1) = [1050, 1000] := by decide

/-- The FIPS 180-4 example message "abc" (Table 11.4), by its first and last bytes. -/
theorem test_sha384_abc : (sha384 [0x61, 0x62, 0x63]).take 4 = [0xCB, 0x00, 0x75, 0x3F] := by decide +kernel
theorem test_sha384_abc_end : (sha384 [0x61, 0x62, 0x63]).drop 44 = [0x34, 0xC8, 0x25, 0xA7] := by decide +kernel

/-! ### One step -/

/-- The state that a step from reset with one command in front answers. -/
def after (s : State) (i : Instr) : State := match step { s with pending := [i] } with | .next t => t | _ => s

/-- Without main power BAR0 is not there, so a posted command is not found (R280, R410). -/
theorem test_reset_serves_no_host : ((after State.reset (.opStatus (ask .h 0x0002 []))).slot .h 0).doneUs = 0 := by decide +kernel
/-- The key of a reset register is checked (R282). -/
theorem test_reset_key : after up (.mailboxReset 0x4E5A5200) = up := by decide +kernel
/-- 38.0 V and 62.5 V themselves trip nothing (R429). -/
theorem test_uv_bound : (after up (.inputUndervoltage 38000)).pwr.state = .s0 := by decide +kernel
theorem test_ov_bound : (after up (.inputOvervoltage 62500)).pwr.state = .s0 := by decide +kernel
/-- A refused opcode: the status and the place of the failing field (R294). -/
theorem test_wrong_port : ((after up (.opCertRead (ask .d 0x0906 (le 4 0 ++ le 4 0xFFFF)))).slot .d 0).owner = false := by
  decide +kernel
/-- A slot message to a slot that the module owns is answered with result 1 (R291). -/
theorem test_write_ack : (after held (.slotMsgWrite .i3c0 7 (imageOf 0))).out = [.writeAck .i3c0 7 1] := by decide +kernel

end Sys2Proof.Tests
end

section
/-! PROOFS. Descriptors, phases and marks (O32): what each command of the descriptor engine does where its condition holds. -/

namespace Sys2Proof.Proofs

open Sys2Proof Sys2Proof.Machine

section

variable {s u : State} {tile unit i k t0 : Nat} {q : QEnt} {t : Step}

theorem descriptorStart_of_runs (h : s.tileRuns tile = true) : exec (.descriptorStart tile) s =
    .next ([0, 1, 2].foldl (fun (a : State) u => a.startOn tile u) (s.takeProgram tile)) := by
  show execDescriptorStart tile s = _
  simp [execDescriptorStart, h]

theorem descriptorComplete_of_executed (hi : (s.tileX tile).unit unit = some i)
    (hq : ((s.tileX tile).queue.any fun q => q.desc == i && q.started && q.executed) = true)
    (hu : u = (s.modTile tile fun y => y.retire i).traceRec trDescDone (s.plan.layerCode (s.tileX tile).phase) tile i
      (s.tileX tile).step 0) :
    exec (.descriptorComplete tile unit) s = .next (if ((s.tileX tile).held.any fun h => h.desc == i) = true then u
      else u.finishDesc tile (s.tileX tile).step (s.tileX tile).phase i) := by
  show execDescriptorComplete tile unit s = _
  subst hu
  simp only [execDescriptorComplete, hi]
  rw [if_neg (by simp [hq])]

/-! ### Phase boundaries -/

section

/- The tile has completed its phase: nothing is queued, still to be read, or held. -/
variable (hd : (s.tileX tile).phaseDone = false) (hq : (s.tileX tile).queue = []) (hr : (s.tileX tile).toRead = [])
  (hh : (s.tileX tile).held = [])

include hd hq hr hh

theorem tile_phase_complete : ((s.tileX tile).phaseDone || !(s.tileX tile).queue.isEmpty || !(s.tileX tile).toRead.isEmpty ||
    !(s.tileX tile).held.isEmpty) = false := by
  simp [hd, hq, hr, hh]

/-- A count left over is a fault (R30). -/
theorem phaseBoundary_of_residue (hk : s.residue tile = some k) : exec (.phaseBoundary tile) s =
    .next (s.noteState (s.chanFault fltMarkResidue k (s.tileX tile).step (some (s.plan.layerCode (s.tileX tile).phase)))) := by
  show execPhaseBoundary tile s = _
  simp only [execPhaseBoundary, tile_phase_complete hd hq hr hh, hk, Bool.false_eq_true, if_false]

/-- Without one the tile's causes are settled and it leaves the phase (R34, R53). -/
theorem phaseBoundary_of_no_residue (hk : s.residue tile = none)
    (hu : u = (s.modTile tile fun y => { y with phaseDone := true }).onTiles (fun t => { t with
      full := t.full.filter fun f => chanTile f.chan != some tile })) :
    exec (.phaseBoundary tile) s = .next (s.noteState (((u.boundary tile).leavePhase tile (s.tileX tile).step
      (s.tileX tile).phase).leaveStep (s.tileX tile).step)) := by
  show execPhaseBoundary tile s = _
  subst hu
  simp only [execPhaseBoundary, tile_phase_complete hd hq hr hh, hk, Bool.false_eq_true, if_false]

end

/-! ### Time limits -/

/-- The time of a descriptor's marks runs from the last replay of its phase, else from the phase's entry (R55, R361). -/
theorem markTimeout_of_late (hq : ((s.tileX tile).queue.find? fun q => !q.started) = some q)
    (ht : s.step? (s.tileX tile).step = some t)
    (h0 : tget t.replayNs (s.tileX tile).phase = some t0 ∨
      tget t.replayNs (s.tileX tile).phase = none ∧ tget t.enteredNs (s.tileX tile).phase = some t0)
    (hlate : t0 + s.reservedNs t (s.tileX tile).phase + 100000 < s.now) :
    exec (.markTimeout tile) s = .next (s.noteState (s.chanFault fltMarkTimeout (s.lacking tile (s.tileX tile).phase q.desc)
      (s.tileX tile).step (some (s.plan.layerCode (s.tileX tile).phase)))) := by
  show execMarkTimeout tile s = _
  have hnot : ¬ s.now ≤ t0 + s.reservedNs t (s.tileX tile).phase + 100000 := Nat.not_le.2 hlate
  rcases h0 with hreplay | ⟨hnone, hentered⟩
  · simp only [execMarkTimeout, hq, ht, hreplay, if_neg hnot]
  · simp only [execMarkTimeout, hq, ht, hnone, hentered, if_neg hnot]

end

/-- Settles O32: starts, completions, phase boundaries and the two time limits, by the lemma of each command. -/
theorem descriptorsPhasesAndMarksProceed : Obligations.DescriptorsPhasesAndMarksProceed := by
  unfold Obligations.DescriptorsPhasesAndMarksProceed
  intro s u tile unit i k q t t0
  refine ⟨descriptorStart_of_runs, descriptorComplete_of_executed, ?boundary, ?reserve, markTimeout_of_late⟩
  case boundary =>
    intro hd hq hr hh
    exact ⟨phaseBoundary_of_residue hd hq hr hh, phaseBoundary_of_no_residue hd hq hr hh⟩
  case reserve => rfl

end Sys2Proof.Proofs
end

section
/-! PROOFS. Slow tiles, tile tests, droops and rail currents (O34). -/

namespace Sys2Proof.Proofs

open Sys2Proof Sys2Proof.Machine Sys2Proof.Laws

section

variable {s u : State} {tile mean peer ptile hours rail ma fall : Nat} {unit : UnitId} {x : Rail}

/-! ### Slow tiles (R36) -/

theorem slownessWindow_first_slow (hw : s.works tile = true) (hslow : 115 * peer < 100 * mean)
    (hn : tgetD s.tiles.slowWindows tile 0 = 0) : exec (.slownessWindow tile mean peer) s =
      .next (s.onTiles fun t => { t with slowWindows := tset t.slowWindows tile 1 }) := by
  show execSlownessWindow tile mean peer s = _
  simp [execSlownessWindow, hw, hslow, hn]

theorem slownessWindow_second_slow (hw : s.works tile = true) (hslow : 115 * peer < 100 * mean)
    (hn : tgetD s.tiles.slowWindows tile 0 ≠ 0) : exec (.slownessWindow tile mean peer) s =
      .next ((s.onTiles fun t => { t with slowWindows := tdel t.slowWindows tile }).addCause (s.ptileOf tile) 3) := by
  show execSlownessWindow tile mean peer s = _
  simp [execSlownessWindow, hw, hslow, hn]

theorem slownessWindow_not_slow (hw : s.works tile = true) (hfast : 100 * mean ≤ 115 * peer) :
    exec (.slownessWindow tile mean peer) s =
      .next (s.onTiles fun t => { t with slowWindows := tdel t.slowWindows tile }) := by
  show execSlownessWindow tile mean peer s = _
  simp [execSlownessWindow, hw, Nat.not_lt.2 hfast]

/-! ### Tests (R367, R368) -/

theorem testDue_of_due (h : s.testDue ptile = true) :
    exec (.testDue ptile) s = .next (if s.inPlace ptile then s.startTests (ptileDie ptile) else s.addCause ptile 4) := by
  show execTestDue ptile s = _
  simp [execTestDue, h]

/-- EV_TEST_OVERDUE comes once for each whole hour: the hours are more than those of the last one. -/
theorem testOverdue_of_new_hour (hh : hours = (s.clock.lifeS - s.testDueS ptile) / 3600) (hpos : 0 < hours)
    (hnew : tgetD s.integ.overdueEv ptile 0 < hours) (hout : s.tiles.inTest.contains ptile = false)
    (hin : s.unitState (tileUnit ptile) ≠ usRetired) :
    exec (.testOverdue ptile) s = .next ((s.onInteg fun i => { i with overdueEv := tset i.overdueEv ptile hours }).event
      evTestOverdue (tileUnit ptile) hours) := by
  show execTestOverdue ptile s = _
  simp only [execTestOverdue, ← hh]
  rw [if_neg (by simp only [hout, beq_eq_false_iff_ne.2 hin, hpos.ne', Nat.not_le.2 hnew]; decide)]

/-! ### Islands (R31) -/

theorem droopTrip_stops (hm : s.mainOn = true) (hu : isIsland unit = true) (hf : 80 ≤ fall) :
    exec (.droopTrip unit fall) s =
      .next ((s.putIsland unit { droop16 := 16, stopped := true }).countIsland ctDroopStops unit) := by
  show execDroopTrip unit fall s = _
  simp [execDroopTrip, hm, hu, hf]

theorem droopTrip_stretches (hm : s.mainOn = true) (hu : isIsland unit = true) (hf : 40 ≤ fall) (hlt : fall < 80) :
    exec (.droopTrip unit fall) s =
      .next ((s.putIsland unit { s.island unit with droop16 := 16 }).countIsland ctDroopStretches unit) := by
  show execDroopTrip unit fall s = _
  simp [execDroopTrip, hm, hu, hf, Nat.not_le.2 hlt]

theorem droopRecovery_restores : exec (.droopRecovery unit) s = .next (s.putIsland unit
    (if (s.island unit).stopped then { s.island unit with stopped := false }
      else { s.island unit with droop16 := (s.island unit).droop16 - 1 })) := by
  show execDroopRecovery unit s = _
  simp only [execDroopRecovery]
  split <;> rfl

/-! ### Rails (R319) -/

/-- A rail with one more sample: the mean of the last microsecond raises the request at 90% of the limit, lowers it in the
fourth sample running below 85%, and keeps it between the two. -/
def railAfter (rail ma : Nat) (x : Rail) : Rail :=
  let samples := (ma :: x.samples).take 2000
  let mean := meanOf (samples.take 20)
  if 90 * railLimit rail ≤ 100 * mean then ⟨samples, x.request16 + 1, 0⟩
  else if 100 * mean < 85 * railLimit rail then
    if 3 ≤ x.downTicks then ⟨samples, x.request16 - 1, 0⟩ else ⟨samples, x.request16, x.downTicks + 1⟩
  else ⟨samples, x.request16, 0⟩

theorem railCurrentSample_of_powered (hp : rail = 37 ∨ s.mainOn = true) (hx : x = tgetD s.pwr.rails rail {})
    (hu : u = s.onPwr fun p => { p with rails := tset p.rails rail (railAfter rail ma x) }) :
    exec (.railCurrentSample rail ma) s =
      .next (if 0 < (tgetD u.pwr.rails rail {}).request16 then u.count ctRailHold rail 50 else u) := by
  show execRailCurrentSample rail ma s = _
  have hread : tgetD u.pwr.rails rail {} = railAfter rail ma x := by
    simp [hu, tgetD, tget_tset_same]
  rw [hread, hu, hx, execRailCurrentSample, if_pos (by simpa using hp)]
  rfl

end

/-- Settles O34: slowness windows, tests, droops and rail samples, by the lemma of each command. -/
theorem tilesAreTestedAndIslandsStretched : Obligations.TilesAreTestedAndIslandsStretched := by
  unfold Obligations.TilesAreTestedAndIslandsStretched
  intro s u tile mean peer ptile hours rail ma fall pass unit x
  refine ⟨?slow, testDue_of_due, rfl, testOverdue_of_new_hour, ?droop, droopRecovery_restores, railCurrentSample_of_powered⟩
  case slow =>
    intro hw
    exact ⟨slownessWindow_first_slow hw, slownessWindow_second_slow hw, slownessWindow_not_slow hw⟩
  case droop =>
    intro hm hu
    exact ⟨droopTrip_stops hm hu, droopTrip_stretches hm hu⟩

end Sys2Proof.Proofs
end

section
/-! PROOFS. Page moves and memory errors (O35). -/

namespace Sys2Proof.Proofs

open Sys2Proof Sys2Proof.Machine

section

variable {s u : State} {page tier frame addr step words corrected n k top : Nat} {e : Page} {m : PageMove} {dirty : List Nat}
  {unit : UnitId} {holds : Content}

/-! ### Page moves (R45, R46) -/

/-- A move that the page's hint, its frame and the tiers allow begins. -/
theorem pageMoveStart_of_allowed (he : tget s.mem.pages page = some e) (hl2 : s.l2Up = true) (hpin : hintPin e.hint = false)
    (hstill : (s.mem.moves.any fun m => m.page == page) = false)
    (hoff : tgetD s.mem.holdOff page 0 ≤ s.steps.lastEntered) (hframe : s.frameExists tier frame = true)
    (hunused : s.frameUsed tier frame = false) (hgood : s.frameRetired tier frame = false)
    (hkind : s.tierHolds page tier e = true) (hhome : e.home = false ∨ s.homeFrame page tier frame = true)
    (hway : if s.frameRetired (frameOf e.base).1 (frameOf e.base).2 then tier = e.tier
      else tier < e.tier ∧ (hintPrefer e.hint = false ∨ e.hint / 4 = tier) ∨ tier = e.tier + 1 ∧ s.firstDown e = true) :
    exec (.pageMoveStart page tier frame) s =
      .next (s.onMem fun m => { m with moves := m.moves ++ [⟨page, tier, frameBase tier frame⟩] }) := by
  show execPageMoveStart page tier frame s = _
  have hhome' : (e.home && !s.homeFrame page tier frame) = false := by
    rcases hhome with h | h <;> simp [h]
  simp only [execPageMoveStart, he]
  rw [if_neg (by simp [hl2, hpin, hstill, Nat.not_lt.2 hoff, hframe, hunused, hgood, hkind, hhome']), if_pos]
  cases hret : s.frameRetired (frameOf e.base).1 (frameOf e.base).2 <;> simpa [hret] using hway

/-- A move is abandoned where its copy and all three recopy passes found blocks written (R46). -/
theorem abandoned_iff : (decide (4 ≤ dirty.length) && (dirty.take 4).all (· != 0)) = true ↔
    4 ≤ dirty.length ∧ 0 ∉ dirty.take 4 := by
  simp only [Bool.and_eq_true, decide_eq_true_eq, List.all_eq_true, bne_iff_ne]
  exact and_congr_right fun _ => ⟨fun h h0 => h 0 h0 rfl, fun h x hx h0 => h (h0 ▸ hx)⟩

section

variable (he : tget s.mem.pages page = some e) (hm : (s.mem.moves.find? fun m => m.page == page) = some m)
  (hu : u = s.onMem (fun x => { x with moves := x.moves.filter fun y => y.page != page }))

include he hm hu

theorem pageMoveDone_switches (hd : dirty.length < 4 ∨ 0 ∈ dirty.take 4) : exec (.pageMoveDone page dirty) s =
    .next (((u.copyFrame e.base m.toBase).onMem fun x => { x with
      pages := tset x.pages page { e with base := m.toBase, tier := m.tier }, holdOff := tdel x.holdOff page }).countBw
        (max e.tier m.tier) bwBackground pageBytes) := by
  show execPageMoveDone page dirty s = _
  have hkeep : ¬ (4 ≤ dirty.length ∧ 0 ∉ dirty.take 4) := fun h => hd.elim (Nat.not_lt.2 h.1) h.2
  subst hu
  simp only [execPageMoveDone, hm, he]
  rw [if_neg (abandoned_iff.not.2 hkeep)]

theorem pageMoveDone_abandons (hlen : 4 ≤ dirty.length) (hd : 0 ∉ dirty.take 4) : exec (.pageMoveDone page dirty) s =
    .next ((u.onMem fun x => { x with holdOff := tset x.holdOff page (s.steps.lastEntered + 1024) }).count
      ctMigrateAbandon 0 1) := by
  show execPageMoveDone page dirty s = _
  subst hu
  simp only [execPageMoveDone, hm, he]
  rw [if_pos (abandoned_iff.2 ⟨hlen, hd⟩)]

end

/-! ### Errors of a unit that exists (R346, R347, R353) -/

section

variable (hx : unitExists unit = true)

include hx

theorem ceDetected_of_exists : exec (.ceDetected unit addr) s = .next (if frameUnit unit && viewUnit addr == unit then
    ((s.count ctCe (UnitId.inst unit) 1).fillBucket unit).trackCe unit addr
    else (s.count ctCe (UnitId.inst unit) 1).fillBucket unit) := by
  show execCeDetected unit addr s = _
  simp [execCeDetected, hx]

/-- The rewrite of the word tells a permanent unit from a transient (Table 11.10). -/
theorem ueDetected_of_exists (recurs : Bool) : exec (.ueDetected unit addr holds recurs step) s =
    .next (if recurs then (s.memUe unit addr holds step).permanent unit
      else (s.memUe unit addr holds step).transient unit) := by
  show execUeDetected unit addr holds recurs step s = _
  simp [execUeDetected, hx]

theorem parityError_of_exists : exec (.parityError unit step) s = .next (s.stepFault fltMemUe unit step) := by
  show execParityError unit step s = _
  simp [execParityError, hx]

theorem blockCrcFail_of_exists : exec (.blockCrcFail unit addr holds step) s =
    .next ((s.count ctBlockCrcFail 0 1).blockLost fltBlockCrc unit addr holds step) := by
  show execBlockCrcFail unit addr holds step s = _
  simp [execBlockCrcFail, hx]

end

/-! ### Leaks and agitation (R348, R354) -/

theorem leakyBucketLeak_of_top (hk : k = UnitId.inst unit) (ht : bucketTop unit = some top)
    (hn : n = tgetD s.integ.buckets k 0 - 1) : exec (.leakyBucketLeak unit) s = .next (s.onInteg fun i => { i with
      buckets := if n = 0 then tdel i.buckets k else tset i.buckets k n,
      bucketFired := if 2 * n < top then without i.bucketFired k else i.bucketFired }) := by
  show execLeakyBucketLeak unit s = _
  subst hk hn
  simp only [execLeakyBucketLeak, ht]

theorem agitationScrub_of_agitates (hk : k = UnitId.inst unit) (ha : s.agitates unit = true)
    (hn : n = tgetD s.integ.lapWords k 0 + words)
    (hu : u = (s.count ctScrubWords k words).count ctScrubCorrected k corrected) :
    exec (.agitationScrub unit words corrected) s = .next (
      if s.lapSize unit ≤ n then (u.onInteg fun i => { i with
        lapWords := tset i.lapWords k (n % s.lapSize unit), lapLate := without i.lapLate k,
        lapStartS := tset i.lapStartS k s.clock.lifeS }).count ctLaps k (n / s.lapSize unit)
      else u.onInteg fun i => { i with lapWords := tset i.lapWords k n }) := by
  show execAgitationScrub unit words corrected s = _
  subst hk hn hu
  simp [execAgitationScrub, ha]

/-- A late lap raises its event while it is not yet noted as late. -/
theorem agitationLapLate_of_late (hk : k = UnitId.inst unit) (hlap : 0 < s.lapSize unit)
    (hnew : s.integ.lapLate.contains k = false)
    (hlate : 11 * s.setN setAgitationLap < 10 * (s.clock.lifeS - tgetD s.integ.lapStartS k 0)) :
    exec (.agitationLapLate unit) s = .next ((s.onInteg fun i => { i with
      lapLate := addNew i.lapLate k, lapsLate := i.lapsLate + 1 }).event evAgitationLate unit) := by
  show execAgitationLapLate unit s = _
  subst hk
  simp only [execAgitationLapLate]
  rw [if_neg (by simp only [hnew, hlap.ne', Nat.not_le.2 hlate]; decide)]

end

/-- Settles O35: page moves, the errors of a unit that exists, and leaks with agitation, by the lemma of each command. -/
theorem pagesMoveBetweenTiers : Obligations.PagesMoveBetweenTiers := by
  unfold Obligations.PagesMoveBetweenTiers
  intro s u page tier frame addr step words corrected n k top e m dirty unit holds
  refine ⟨?pages, ?errors, ?laps⟩
  case pages =>
    intro he
    refine ⟨pageMoveStart_of_allowed he, fun hm hu => ?_⟩
    exact ⟨pageMoveDone_switches he hm hu, pageMoveDone_abandons he hm hu⟩
  case errors =>
    intro hx
    exact ⟨ceDetected_of_exists hx, ueDetected_of_exists hx true, ueDetected_of_exists hx false, parityError_of_exists hx,
      blockCrcFail_of_exists hx⟩
  case laps =>
    intro hk
    exact ⟨leakyBucketLeak_of_top hk, agitationScrub_of_agitates hk, agitationLapLate_of_late hk⟩

end Sys2Proof.Proofs
end

section
/-! PROOFS. Plan loads, shard writes and the PCIe reads of their parts (O3). -/

namespace Sys2Proof.Proofs

open Sys2Proof Sys2Proof.Machine Sys2Proof.Laws

/-! ### The load of a plan (R86) -/

section

variable {s t : State} {q : Req} {c : Cmd} {port : MPort} {slot : Nat} {draft : Bool} {f : PlanFail}

theorem opPlanLoad_of_finds (hf : Finds s q t c 0x0201 4) (hflag : rd 4 c.pay 0 ≤ 1)
    (hmain : (rd 4 c.pay 0 == 1 && t.wts.main.isNone) = false) (hfree : objFree t objPlan) (hidle : t.planWriting = false) :
    exec (.opPlanLoad q) s = .next (runsIn (t.onWts fun w => { w with
      checking := some (c.port, c.slot, rd 4 c.pay 0 == 1) }) c objPlan [b2n (rd 4 c.pay 0 == 1)] []) := by
  show execOpPlanLoad q s = _
  unfold execOpPlanLoad
  congr 1
  refine runOp_long hf rfl ?checks ?act rfl
  case checks => simp [lenIs, hf.lenEq, lt_false hflag]
  case act => simp [hmain, objAct_free hfree, hidle]

theorem planCheckDone_of_pass (hc : s.wts.checking = some (port, slot, draft))
    (hv : s.checkPlan (planImg s.wts.staging.bytes) draft = none) :
    exec .planCheckDone s = .next (s.noteState
      (((s.onWts fun w => { w with checking := none, staging := {} }).placePlan (planImg s.wts.staging.bytes).obj
        draft).finishAt port slot stOk 0 (s.passReport (planImg s.wts.staging.bytes) draft))) := by
  show execPlanCheckDone s = _
  simp only [execPlanCheckDone, hc, hv]

theorem planCheckDone_of_fail (hc : s.wts.checking = some (port, slot, draft))
    (hv : s.checkPlan (planImg s.wts.staging.bytes) draft = some f) :
    exec .planCheckDone s = .next ((s.onWts fun w => { w with checking := none, staging := {} }).finishAt port slot f.status 0
      (failReport f)) := by
  show execPlanCheckDone s = _
  simp only [execPlanCheckDone, hc, hv]

end

/-! ### Parts written by OP_SHARD_WRITE (R247, R248, R302) -/

section

variable {s t u : State} {q : Req} {c : Cmd} {n : Nat} {x : ShardCmd} {k : ShardCopy} {fresh : Bool} {e : PlanObj × List Nat}

/- The command is found, its checks pass, a DMA part is the host's, and no running command holds the object. -/
variable (hf : Finds s q t c 0x0202 n) (hok : ∀ y ∈ shardWriteChecks t c, y.1 = false) (hx : shardCmd c.pay = x)
  (hdma : x.dma = true → c.port = .h) (hfree : objFree t (objCopy x.kind x.id x.gen))

include hdma in
theorem dma_from_host : (x.dma && c.port != .h) = false := by
  cases hd : x.dma with
  | false => rfl
  | true => simp [hdma hd]

include hf hok hx hdma hfree

theorem opShardWrite_of_plan (hkind : x.kind = kPlan) (hidle : t.wts.checking = none) :
    exec (.opShardWrite q) s = .next (t.carryOut c (State.shardPart (if x.dma then t.putPlanPart x.total 0 [] else t) c x
      fun u b => u.putPlanPart x.total x.off b)) := by
  refine (congrArg Host.Outcome.next (runOp_finds hf rfl hok)).trans ?_
  simp only [hx, dma_from_host hdma, objAct_free hfree, if_pos hkind, hidle, Option.isSome_none, Bool.false_eq_true, if_false]

theorem opShardWrite_of_adapter (hkind : x.kind = kAdapter) (hcopy : t.openCopy x x.coded x.len = .inl (k, fresh)) :
    exec (.opShardWrite q) s = .next (t.carryOut c (State.shardPart (if x.dma && fresh then t.putCopy k else t) c x
      fun u b => u.putPart k x.off b)) := by
  have hplan : x.kind ≠ kPlan := by rw [hkind]; decide
  refine (congrArg Host.Outcome.next (runOp_finds hf rfl hok)).trans ?_
  simp only [hx, dma_from_host hdma, objAct_free hfree, if_neg hplan, if_pos hkind,
    hcopy, Bool.false_eq_true, if_false]

/-- A first or a staged generation is noted before the copy opens (R250, R259). -/
theorem opShardWrite_of_weight (hkind : x.kind = kWeight) (hent : t.shardEnt x.id = some e)
    (hform : formOk (shCoded e.2) (shLength e.2) x.total = true) (hrepair : (x.repair && t.sliceBusy) = false)
    (hgen : t.genRefused x.gen = none)
    (hu : u = t.onWts fun w => if w.curGen = 0 then { w with firstGen := x.gen }
      else if w.curGen < x.gen then { w with stagedGen := x.gen } else w)
    (hcopy : u.openCopy x (shCoded e.2) (shLength e.2) = .inl (k, fresh)) :
    exec (.opShardWrite q) s = .next (t.carryOut c (State.shardPart (if x.dma && fresh then u.putCopy k else u) c x
      fun u b => u.putPart k x.off b)) := by
  have hplan : x.kind ≠ kPlan := by rw [hkind]; decide
  have hadapter : x.kind ≠ kAdapter := by rw [hkind]; decide
  refine (congrArg Host.Outcome.next (runOp_finds hf rfl hok)).trans ?_
  simp only [hx, ← hu, dma_from_host hdma, objAct_free hfree, if_neg hplan, if_neg hadapter,
    hent, hform, hrepair, hgen, hcopy, Bool.not_true, Bool.false_eq_true, if_false]

end

/-! ### The end of a part's PCIe read (R247) -/

section

variable {s : State} {port : MPort} {slot : Nat} {b : Bytes} {r : Running} {k : ShardCopy}

theorem dmaReadDone_of_shard {result : Nat ⊕ Bytes}
    (hr : s.mbox.running.find? (fun r => r.port == port && r.slot == slot && (r.opcode == 0x0202 || r.opcode == 0x0802)) = some r)
    (hop : r.opcode = 0x0202) : exec (.dmaReadDone port slot result) s = .next (s.shardDmaDone r result) := by
  show execDmaReadDone port slot result s = _
  simp [execDmaReadDone, hr, hop]

theorem shardDmaDone_plan (hkind : r.obj.getD 1 0 = kPlan) (hstate : s.wts.staging.state = .writing)
    (htotal : s.wts.staging.totalLen = r.args.getD 2 0) :
    s.shardDmaDone r (.inr b) = (s.putPlanPart (r.args.getD 2 0) (r.args.getD 0 0) (fit (r.args.getD 1 0) b)).finishRun r
      stOk 0 [] := by
  simp only [State.shardDmaDone, if_pos hkind, hstate, htotal, bne_self_eq_false, Bool.or_self, Bool.false_eq_true, if_false]

theorem shardDmaDone_copy (hkind : r.obj.getD 1 0 ≠ kPlan)
    (hcopy : s.copy? (r.obj.getD 1 0) (r.obj.getD 2 0) (r.obj.getD 3 0) = some k) (hstate : k.state = .writing) :
    s.shardDmaDone r (.inr b) = (s.putPart k (r.args.getD 0 0) (fit (r.args.getD 1 0) b)).finishRun r stOk 0 [] := by
  simp only [State.shardDmaDone, if_neg hkind, hcopy, hstate, bne_self_eq_false, Bool.false_eq_true, if_false]

end

/-- Settles O3: the load of a plan, the three targets of a shard write, and the end of the PCIe read by its target. -/
theorem plansAndShardsAreWritten : Obligations.PlansAndShardsAreWritten := by
  unfold Obligations.PlansAndShardsAreWritten
  intro s t q c n x
  refine ⟨opPlanLoad_of_finds, fun _ _ _ => planCheckDone_of_pass, fun _ _ _ _ => planCheckDone_of_fail, ?write, ?read⟩
  case write =>
    intro hf hok hx hdma hfree
    exact ⟨opShardWrite_of_plan hf hok hx hdma hfree, fun _ _ => opShardWrite_of_adapter hf hok hx hdma hfree,
      fun _ _ _ _ => opShardWrite_of_weight hf hok hx hdma hfree⟩
  case read =>
    intro port slot b r hr hop
    rw [dmaReadDone_of_shard hr hop]
    refine ⟨fun hkind hstate htotal => ?_, fun k hkind hcopy hstate => ?_⟩
    · rw [shardDmaDone_plan hkind hstate htotal]
    · rw [shardDmaDone_copy hkind hcopy hstate]

end Sys2Proof.Proofs
end

section
/-! PROOFS. The vector unit's operators (O30): with the descriptor started and the inputs readable, each runs on its inputs. -/

namespace Sys2Proof.Proofs

open Sys2Proof Sys2Proof.Machine Sys2Proof.Laws

section

variable {s u : State} {r : Run} {tile n : Nat} {a b : Region} {picks : List (Nat × List (Nat × Word32))} {keep : List Nat}

/-! ### Rows of words (R72, R190) -/

theorem norm_of_ready (hrun : s.run? tile opNorm 1 = some r)
    (ha : a = s.tileRegion r.ph tile (fld r.d 0x40 19 0) (nmRows r.d) (nmWidth r.d)
      (s.plan.formAt s.index r.ph tile (fld r.d 0x40 19 0) 3))
    (hin : inputsReady s [(a.base, a.bytes)] (s.plan.tensorRange (fld r.d 0x4C 31 0)))
    (hu : u = accessed s (s.plan.tensorRange (fld r.d 0x4C 31 0))) :
    exec (.norm tile) s = .next ((u.emitRows r (fld r.d 0x44 19 17) (nmRows r.d) (nmWidth r.d)
      ((u.runRows r (nmRows r.d)).map fun i => (i, normRow (fld r.d 0x44 16 16) (w32 (fld r.d 0x48 31 0))
        (u.paramWords (fld r.d 0x4C 31 0) (nmWidth r.d)) (u.regionWords a i)))).executed r) := by
  show execNorm tile s = _
  subst ha hu
  simp only [execNorm, operate_run hrun, withInputs_ready hin]

/-- The second operand is an input, and is read, only where FUNC has one. -/
theorem elemwise_of_ready (hrun : s.run? tile opElemwise 1 = some r)
    (ha : a = s.tileRegion r.ph tile (fld r.d 0x40 19 0) (elRows r.d) (elWidth r.d) (fld r.d 0x48 9 7))
    (hb : b = s.tileRegion r.ph tile (fld r.d 0x44 19 0) (elRows r.d) (elWidth r.d) (fld r.d 0x48 9 7))
    (hin : inputsReady s ((a.base, a.bytes) :: if elemTwo (fld r.d 0x48 3 0) then [(b.base, b.bytes)] else []) [])
    (hu : u = accessed s []) :
    exec (.elemwise tile) s = .next ((u.emitRows r (fld r.d 0x48 6 4) (elRows r.d) (elWidth r.d)
      ((u.runRows r (elRows r.d)).map fun i => (i, List.zipWith (elemFunc (fld r.d 0x48 3 0)) (u.regionWords a i)
        (if elemTwo (fld r.d 0x48 3 0) then u.regionWords b i else u.regionWords a i)))).executed r) := by
  show execElemwise tile s = _
  subst ha hb hu
  simp only [execElemwise, operate_run hrun, withInputs_ready hin]

/-- The dispatch record is the one that stood when the inputs were read. -/
theorem combine_of_ready (hrun : s.run? tile opCombine 1 = some r)
    (ha : a = s.tileRegion r.ph tile (fld r.d 0x40 19 0) (cbRows r.d) (cbWidth r.d)
      (s.plan.formAt s.index r.ph tile (fld r.d 0x40 19 0) 3))
    (hn : n = s.plan.topk (dLayer r.d))
    (hin : inputsReady s [(a.base, a.bytes), (s.actOf tile + slotOff r.d, cbRows r.d * n * 8)] [])
    (hu : u = accessed s []) :
    exec (.combine tile) s = .next ((u.emitRows r (fld r.d 0x50 2 0) (cbRows r.d) (cbWidth r.d)
      ((u.runRows r (cbRows r.d)).map fun i => (i, if u.inShare i then
        u.combineRow (s.disp r.t.seq (dLayer r.d) (dHb r.d)) r.d tile n i (u.regionWords a i)
        else List.replicate (cbWidth r.d) f32Zero))).executed r) := by
  show execCombine tile s = _
  subst ha hn hu
  simp only [execCombine, operate_run hrun, withInputs_ready hin]

/-! ### Slot lists and keep masks (R73) -/

theorem route_of_ready (hrun : s.run? tile opRoute 1 = some r)
    (ha : a = s.tileRegion r.ph tile (fld r.d 0x40 19 0) (rtRows r.d) (rtExperts r.d) 3)
    (hin : inputsReady s [(a.base, a.bytes)] []) (hu : u = accessed s []) (hn : n = rtTopk r.d)
    (hpicks : picks = (u.runRows r (rtRows r.d)).map fun i =>
      (i, routeRow (fld r.d 0x44 16 16 = 1) (fld r.d 0x44 17 17 = 1) n (u.regionWords a i))) :
    exec (.route tile) s = .next (((u.count ctRouteNan 0 ((picks.filter fun p => p.2.isEmpty).length)).emitBytes r
      ((List.range (rtRows r.d)).flatMap fun i => (((picks.find? fun p => p.1 == i).map (·.2)).getD []).flatMap slotEntry ++
        zeros (8 * (n - (((picks.find? fun p => p.1 == i).map (·.2)).getD []).length)))
      (fun blk => (u.runRows r (rtRows r.d)).any fun i =>
        decide (i * n * 8 < (blk + 1) * blockBytes ∧ blk * blockBytes < (i + 1) * n * 8))).executed r) := by
  show execRoute tile s = _
  subst hpicks ha hn hu
  simp only [execRoute, operate_run hrun, withInputs_ready hin]

theorem skipGate_of_ready (hrun : s.run? tile opSkipGate 1 = some r) (hn : n = fld r.d 0x48 15 0)
    (ha : a = s.tileRegion r.ph tile (fld r.d 0x40 19 0) n 16 3) (hin : inputsReady s [(a.base, a.bytes)] [])
    (hu : u = accessed s [])
    (hkeep : keep = (u.runRows r n).filter fun i => (f32 ((u.regionWords a i).headD 0)).isNan ||
      fle (w32 (fld r.d 0x44 31 0)) ((u.regionWords a i).headD 0)) :
    exec (.skipGate tile) s = .next (((u.modStep r.t.seq fun t => { t with
        kept := t.kept ++ [(dLayer r.d, dHb r.d, !keep.isEmpty)] }).emitBytes r (fit blockBytes ((List.range 512).map fun b =>
          BitVec.ofNat 8 (listSum ((List.range 8).map fun j => if keep.contains (8 * b + j) then 2 ^ j else 0))))
        (fun _ => !(u.runRows r n).isEmpty)).executed r) := by
  show execSkipGate tile s = _
  subst hkeep hu ha hn
  simp only [execSkipGate, operate_run hrun, withInputs_ready hin]

end

/-- Settles O30: one lemma for each operator of the vector unit. -/
theorem vectorOperatorsComputeOnATile : Obligations.VectorOperatorsComputeOnATile := by
  unfold Obligations.VectorOperatorsComputeOnATile
  intro s u r tile n a b picks keep
  exact ⟨norm_of_ready, elemwise_of_ready, route_of_ready, skipGate_of_ready, combine_of_ready⟩

end Sys2Proof.Proofs
end

section
/-! PROOFS. The dodged element of a group (O54). -/

namespace Sys2Proof.Proofs

open Sys2Proof Sys2Proof.Machine

/-! ### The order of finite values, over the rationals -/

theorem finite_iff_num {x : Fp} : x.finite = true ↔ ∃ m e, x = .num m e := by
  cases x <;> simp [Fp.finite]

/-- The order of two finite values is that of the rationals they stand for. -/
theorem le_num_iff (a b e f : Int) : (Fp.num a e).le (.num b f) = true ↔ (a : ℚ) * 2 ^ e ≤ b * 2 ^ f := by
  have hpow : ∀ (m k : Int), min e f ≤ k → ((m * 2 ^ (k - min e f).toNat : Int) : ℚ) * 2 ^ min e f = m * 2 ^ k := by
    intro m k hk
    push_cast
    rw [mul_assoc, ← zpow_natCast, ← zpow_add₀ two_ne_zero, Int.toNat_of_nonneg (by omega), Int.sub_add_cancel]
  rw [← hpow a e (min_le_left e f), ← hpow b f (min_le_right e f), mul_le_mul_iff_left₀ (by positivity), Int.cast_le]
  simp [Fp.le]

theorem lt_num_iff (a b e f : Int) : (Fp.num a e).lt (.num b f) = true ↔ (a : ℚ) * 2 ^ e < b * 2 ^ f := by
  rw [← not_le, ← le_num_iff]
  simp [Fp.lt, Fp.isNan]

/-- Two magnitudes cannot each exceed four times the other. -/
theorem not_lt_abs_scale_of_lt_abs_scale {x y : Fp} (hx : x.finite = true) (hy : y.finite = true)
    (h : (y.abs.scale 2).lt x.abs = true) : ¬ (x.abs.scale 2).lt y.abs = true := by
  obtain ⟨a, e, rfl⟩ := finite_iff_num.1 hx
  obtain ⟨b, f, rfl⟩ := finite_iff_num.1 hy
  simp only [Fp.abs, Fp.scale, lt_num_iff, zpow_add₀ (two_ne_zero (α := ℚ))] at h ⊢
  have ha : (0 : ℚ) ≤ (a.natAbs : Int) * 2 ^ e := by positivity
  have hb : (0 : ℚ) ≤ (b.natAbs : Int) * 2 ^ f := by positivity
  intro h'
  linarith

/-! ### The elements that stand alone (R105) -/

/-- The element at a place is finite and not zero, and its magnitude exceeds four times that of each other element, all of
them finite. -/
def StandsAlone (xs : List Fp) (i : Nat) : Prop :=
  i < xs.length ∧ (xs.getD i .nan).finite = true ∧ (xs.getD i .nan).isZero = false ∧
    ∀ j < xs.length, j ≠ i → (xs.getD j .nan).finite = true ∧ ((xs.getD j .nan).abs.scale 2).lt (xs.getD i .nan).abs = true

theorem standsAlone_unique {xs : List Fp} {i k : Nat} (hi : StandsAlone xs i) (hk : StandsAlone xs k) : i = k := by
  obtain ⟨hil, hif, -, hi⟩ := hi
  obtain ⟨hkl, hkf, -, hk⟩ := hk
  by_contra hne
  exact not_lt_abs_scale_of_lt_abs_scale hif hkf (hi k hkl (Ne.symm hne)).2 (hk i hil hne).2

theorem mem_indexed_iff {α : Type} {l : List α} (d : α) {p : Nat × α} :
    p ∈ indexed l ↔ p.1 < l.length ∧ p.2 = l.getD p.1 d := by
  obtain ⟨i, x⟩ := p
  simp only [indexed, List.mem_iff_getElem, List.getElem_zip, List.getElem_range, List.length_zip, List.length_range,
    min_self, Prod.mk.injEq]
  constructor
  · rintro ⟨i, hi, rfl, rfl⟩
    exact ⟨hi, (List.getD_eq_getElem _ _ hi).symm⟩
  · rintro ⟨hi, rfl⟩
    exact ⟨i, hi, rfl, (List.getD_eq_getElem _ _ hi).symm⟩

/-- The test of R105 on one indexed element, as `dodgePlace` makes it. -/
def dodgeTest (xs : List Fp) (p : Nat × Fp) : Bool :=
  p.2.finite && !p.2.isZero && (indexed xs).all fun o => o.1 == p.1 || (o.2.finite && (o.2.abs.scale 2).lt p.2.abs)

theorem dodgePlace_eq_find (xs : List Fp) : dodgePlace xs = ((indexed xs).find? (dodgeTest xs)).map (·.1) := by
  unfold dodgePlace
  congr 2
  funext p
  unfold dodgeTest
  congr 2
  funext o
  cases o.2 <;> rfl

theorem dodgeTest_iff {xs : List Fp} {p : Nat × Fp} (hp : p ∈ indexed xs) : dodgeTest xs p = true ↔ StandsAlone xs p.1 := by
  obtain ⟨hlen, hval⟩ := (mem_indexed_iff .nan).1 hp
  simp only [dodgeTest, StandsAlone, hval, hlen, Bool.and_eq_true, Bool.not_eq_true', List.all_eq_true, Bool.or_eq_true,
    beq_iff_eq, mem_indexed_iff Fp.nan, true_and, and_assoc]
  refine and_congr_right fun _ => and_congr_right fun _ => ⟨fun h j hj hne => ?_, fun h o ho => ?_⟩
  · exact (h (j, xs.getD j .nan) ⟨hj, rfl⟩).resolve_left hne
  · obtain ⟨hj, hval⟩ := ho
    rw [hval]
    exact or_iff_not_imp_left.2 (h o.1 hj)

/-- Settles O54: the first element that passes the test is the only one that stands alone. -/
theorem aDodgedElementStandsAlone : Obligations.ADodgedElementStandsAlone := by
  unfold Obligations.ADodgedElementStandsAlone
  intro xs i
  rw [dodgePlace_eq_find]
  constructor
  · intro h
    obtain ⟨p, hfind, rfl⟩ := Option.map_eq_some_iff.1 h
    exact (dodgeTest_iff (List.mem_of_find?_eq_some hfind)).1 (List.find?_some hfind)
  · intro (h : StandsAlone xs i)
    have hmem : (i, xs.getD i .nan) ∈ indexed xs := (mem_indexed_iff .nan).2 ⟨h.1, rfl⟩
    obtain ⟨p, hfind⟩ := Option.isSome_iff_exists.1 (List.find?_isSome.2 ⟨_, hmem, (dodgeTest_iff hmem).2 h⟩)
    have hp := (dodgeTest_iff (List.mem_of_find?_eq_some hfind)).1 (List.find?_some hfind)
    rw [hfind, Option.map_some, standsAlone_unique hp h]

end Sys2Proof.Proofs
end

section
/-! PROOFS. The array operators and KV_APPEND (O29): with the descriptor started and the inputs readable, each runs on its
inputs. -/

namespace Sys2Proof.Proofs

open Sys2Proof Sys2Proof.Machine Sys2Proof.Laws

section

variable {s u : State} {r : Run} {tile g : Nat} {q : Pool} {attn : List Nat} {ents : List (Nat × MapEnt)}
  {outs : List (Nat × List Word32 × Nat)}

/-! ### Products (R101, R234) -/

theorem matmul_of_ready (hrun : s.run? tile opMatmul 0 = some r)
    (hin : inputsReady s [((s.mmRegion r).base, (s.mmRegion r).bytes)] (s.mmRange r)) (hu : u = accessed s (s.mmRange r)) :
    exec (.matmul tile) s =
      .next (((u.mmCompute r (u.runRows r (mmM r.d))).mmOutput r (u.runRows r (mmM r.d))).executed r) := by
  show execMatmul tile s = _
  subst hu
  simp only [execMatmul, operate_run hrun, withInputs_ready hin]

theorem lora_of_ready (hrun : s.run? tile opLora 0 = some r)
    (hin : inputsReady s [((s.operand r (fld r.d 0x50 19 0) 1).base, (s.operand r (fld r.d 0x50 19 0) 1).bytes)] [])
    (hu : u = accessed s []) :
    exec (.lora tile) s = .next (((u.runRows r (mmM r.d)).foldl (fun a i => a.loraRow r i) u).executed r) := by
  show execLora tile s = _
  subst hu
  simp only [execLora, operate_run hrun, withInputs_ready hin]

/-! ### Attention and the keys and values it reads (R133, R140) -/

/-- Every chunk that the rows read is mapped. -/
theorem attn_of_ready (hrun : s.run? tile opAttn 0 = some r) (hg : g = s.plan.groupOfTab (atPagetab r.d))
    (hpool : s.plan.poolOf g (dLayer r.d) = some q) (hents : ents = r.chunks.map fun c => (c.1, s.ent g c.1 c.2))
    (hmapped : (ents.any fun e => !e.2.valid) = false)
    (hin : inputsReady s [(s.actOf r.tile + fld r.d 0x40 19 0, atRows r.d * atHq r.d * q.dim * 2)]
      (ents.map fun e => (q.at e.2 e.1, if q.isK8 e.2 then q.p8 else q.p4)))
    (hu : u = accessed s (ents.map fun e => (q.at e.2 e.1, if q.isK8 e.2 then q.p8 else q.p4)))
    (houts : outs = (u.runRows r (atRows r.d)).map fun i =>
      (i, u.attnRow r g q (if atRotary r.d then u.ropeAngles (atRope r.d) q.dim else []) i)) :
    exec (.attn tile) s = .next (((u.count ctNonfinite r.code (listSum (outs.map fun o => o.2.2))).emitRows r 2 (atRows r.d)
      (atHq r.d * q.dim) (outs.map fun o => (o.1, o.2.1))).executed r) := by
  show execAttn tile s = _
  subst houts hu hents hg
  simp only [execAttn, operate_run hrun, hpool, hmapped, Bool.false_eq_true, if_false, withInputs_ready hin]

/-- Every live row's chunk is mapped and unshared. -/
theorem kvAppend_of_ready (hrun : s.run? tile opKvAppend 2 = some r) (hg : g = s.plan.groupOfTab (kaTab r.d))
    (hpool : s.plan.poolOf g (dLayer r.d) = some q) (hattn : s.plan.attnOn r.ph r.tile = some attn)
    (hin : inputsReady s [(s.actOf r.tile + fld r.d 0x40 19 0, kaRows r.d * kaHkv r.d * kaDim r.d * 2),
      (s.actOf r.tile + fld r.d 0x44 19 0, kaRows r.d * kaHkv r.d * kaDim r.d * 2)] [])
    (hu : u = accessed s []) (hgood : (u.runRows r (kaRows r.d)).any (u.appendBad r g) = false) :
    exec (.kvAppend tile) s = .next (((u.runRows r (kaRows r.d)).foldl (fun (a : State) i => a.appendRow r g q attn
      (if atRotary attn then u.ropeAngles (atRope attn) (kaDim r.d) else []) i) u).executed r) := by
  show execKvAppend tile s = _
  subst hu hg
  simp only [execKvAppend, operate_run hrun, hpool, hattn, withInputs_ready hin, hgood, Bool.false_eq_true, if_false]

end

/-- Settles O29: one lemma for each operator. -/
theorem arrayOperatorsComputeOnATile : Obligations.ArrayOperatorsComputeOnATile := by
  unfold Obligations.ArrayOperatorsComputeOnATile
  intro s u v r tile g q attn ents outs
  exact ⟨matmul_of_ready, lora_of_ready, attn_of_ready, kvAppend_of_ready⟩

end Sys2Proof.Proofs
end

section
/-! PROOFS. The test strip and the shadow vote (O33). -/

namespace Sys2Proof.Proofs

open Sys2Proof Sys2Proof.Machine

/-! ### The strip's references and the checkers' blocks (R111, R359) -/

section

variable {s : State} {tile : Nat} {h h1 : Held} {r : Run} {b : Nat × List Word32} {j : ShadowJob}

theorem stripJudge_of_due
    (hheld : ((s.tileX tile).held.find? fun h => h.strip.any (fun b => b.2.isEmpty) &&
      !(s.tileX tile).queue.any fun q => q.desc == h.desc) = some h)
    (hvec : (s.tileX tile).vector = none) (hruns : s.tileRuns tile = true) (hrun : s.heldRun tile h = some r)
    (hb : (h.strip.find? fun b => b.2.isEmpty) = some b)
    (h1eq : h1 = { h with strip := h.strip.map fun c =>
      if c.1 = b.1 then (c.1, if (s.stripRef r h b.1).isEmpty then [f32Zero] else s.stripRef r h b.1) else c }) :
    exec (.stripJudge tile) s = .next ((s.putHeld tile h1).settleStrip r h1) := by
  show execStripJudge tile s = _
  subst h1eq
  simp only [execStripJudge, hheld, hvec, hruns, hrun, hb, Option.isSome_none, Bool.not_true, Bool.or_self,
    Bool.false_eq_true, if_false]

theorem shadowCheckRun_of_free (hjob : (s.tiles.shadowPending.find? fun j => j.checker == tile) = some j)
    (harr : (s.tileX tile).array = none) (hruns : s.tileRuns tile = true)
    (hheld : ((s.tileX j.tile).held.find? fun h => h.desc == j.desc) = some h) (hrun : s.heldRun j.tile h = some r) :
    exec (.shadowCheckRun tile) s = .next ((s.onTiles fun t => { t with
      shadowPending := t.shadowPending.filter (· != j) }).putHeld j.tile { h with shadow := h.shadow.map fun b =>
        if b.block = j.block then { b with results := b.results ++ [(tile, s.shadowWords r h j.block)] } else b }) := by
  show execShadowCheckRun tile s = _
  simp only [execShadowCheckRun, hjob, harr, hruns, hheld, hrun, Option.isSome_none, Bool.not_true, Bool.or_self,
    Bool.false_eq_true, if_false]

end

/-! ### The vote of Table 11.7 (R360) -/

section

variable {s u : State} {tile : Nat} {h : Held} {r : Run} {blk : ShadowBlk} {c1 c2 : Nat × List Word32}
  {more : List (Nat × List Word32)}

/- An output of the tile holds a block whose checkers have all answered. -/
variable (hheld : ((s.tileX tile).held.find? fun h => h.shadow.any fun b => !b.done && !b.results.isEmpty &&
    !s.tiles.shadowPending.any fun j => j.tile == tile && j.block == b.block) = some h)
  (hrun : s.heldRun tile h = some r)
  (hblk : (h.shadow.find? fun b => !b.done && !b.results.isEmpty &&
    !s.tiles.shadowPending.any fun j => j.tile == tile && j.block == b.block) = some blk)

include hheld hrun hblk

theorem shadowVote_passes (hres : blk.results = [c1]) (heq : c1.2 = s.producerWords r h blk.block) :
    exec (.shadowVote tile) s = .next (s.noteState ((s.count ctShadowBlocks 0 1).voteDone r h blk.block)) := by
  show execShadowVote tile s = _
  simp only [execShadowVote, hheld, hrun, hblk, hres, if_pos heq]

theorem shadowVote_calls_second (hres : blk.results = [c1]) (hne : c1.2 ≠ s.producerWords r h blk.block) :
    exec (.shadowVote tile) s = .next (s.onTiles fun t => { t with shadowPending := t.shadowPending ++
      [⟨(s.plan.checkers tile).2, tile, h.desc, blk.block⟩] }) := by
  show execShadowVote tile s = _
  simp only [execShadowVote, hheld, hrun, hblk, hres, if_neg hne]

theorem shadowVote_loses_first (hres : blk.results = c1 :: c2 :: more) (heq : c2.2 = s.producerWords r h blk.block) :
    exec (.shadowVote tile) s = .next (s.noteState (s.loseVote r h blk.block c1.1)) := by
  show execShadowVote tile s = _
  simp only [execShadowVote, hheld, hrun, hblk, hres, if_pos heq]

theorem shadowVote_loses_producer (hres : blk.results = c1 :: c2 :: more) (hne : c2.2 ≠ s.producerWords r h blk.block)
    (heq : c2.2 = c1.2) : exec (.shadowVote tile) s =
      .next (s.noteState ((s.putBlock r h blk.block c1.2).loseVote r h blk.block tile)) := by
  show execShadowVote tile s = _
  simp only [execShadowVote, hheld, hrun, hblk, hres, if_neg hne, if_pos heq]

theorem shadowVote_aborts (hres : blk.results = c1 :: c2 :: more) (hne : c2.2 ≠ s.producerWords r h blk.block)
    (hne1 : c2.2 ≠ c1.2)
    (hu : u = [s.ptileOf tile, s.ptileOf c1.1, s.ptileOf c2.1].foldl (fun (a : State) p => a.transient (tileUnit p))
      (s.count ctShadowFail 0 1)) :
    exec (.shadowVote tile) s = .next (s.noteState (u.stepFault fltStepCheck (tileUnit (s.ptileOf tile)) r.t.seq
      { logical := some tile, layer := some r.code, args := [s.ptileOf tile, s.ptileOf c1.1, s.ptileOf c2.1] })) := by
  show execShadowVote tile s = _
  subst hu
  simp only [execShadowVote, hheld, hrun, hblk, hres, if_neg hne, if_neg hne1]

end

/-- Settles O33: the strip, the checkers' blocks, and each outcome of the vote, by the lemma of each. -/
theorem heldOutputsAreJudged : Obligations.HeldOutputsAreJudged := by
  unfold Obligations.HeldOutputsAreJudged
  intro s u tile h h1 r b j blk c1 c2 more
  refine ⟨stripJudge_of_due, shadowCheckRun_of_free, fun hheld hrun hblk => ?vote⟩
  case vote =>
    refine ⟨shadowVote_passes hheld hrun hblk, shadowVote_calls_second hheld hrun hblk, fun hres => ?two⟩
    exact ⟨shadowVote_loses_first hheld hrun hblk hres, shadowVote_loses_producer hheld hrun hblk hres,
      shadowVote_aborts hheld hrun hblk hres⟩

end Sys2Proof.Proofs
end

section
/-! PROOFS. Grants, moves, commits and contact sheet look-ups (O24). -/

namespace Sys2Proof.Proofs

open Sys2Proof Sys2Proof.Machine Sys2Proof.Laws

/-! ### Messages of the lead (R131, R135) -/

section

variable {s u : State} {port : Nat} {k : Packet} {m : Msg}

theorem grantList_of_live_step (hh : Hears s port k mGrantList u m) (hrsv : m.entries.any grantRsv = false)
    (hlead : u.isLead = false) (hlive : m.step = 0 ∨ u.aborted m.step = false) :
    exec (.grantList port k) s = .next (u.takeGrants (m.entries.map grantOf) m.step) := by
  have hgoes : (u.isLead || m.step != 0 && u.aborted m.step) = false := by
    rcases hlive with h | h <;> simp [hlead, h]
  refine congrArg Host.Outcome.next ((recvMsg_hears hh _).trans ?_)
  rw [if_neg (by simp [hrsv]), if_neg (by simp [hgoes])]

theorem commit_of_follower (hh : Hears s port k mCommit u m) (hrsv : m.entries.any noticeRsv = false)
    (hlead : u.isLead = false) : exec (.commit port k) s =
      .next (m.entries.foldl (fun a b => a.applyCommit (noticeOf b)) u).pruneSteps := by
  refine congrArg Host.Outcome.next ((recvMsg_hears hh _).trans ?_)
  rw [if_neg (by simp [hrsv]), if_neg (by simp [hlead])]

end

/-! ### The end of a grant's move (R132) -/

/-- Whether a descriptor queued on a tile waits for a chunk of its step's sessions. -/
def waitsForChunk (s : State) (l : Nat) : Bool :=
  (s.tileX l).queue.any fun q => !q.started && (match s.step? (s.tileX l).step with
    | none => false
    | some t => !s.chunksStill t (s.plan.desc q.desc))

/-- A grant's move ended: its chunk is mapped, and the first tile that waited tells for how long. -/
def moveEnded (s : State) (group : Nat) (mv : KvMove) : State :=
  match ((tkeys s.tiles.x).filter fun l => waitsForChunk s l).head? with
  | none => s.finishMove mv
  | some l => (s.finishMove mv).stall ctKvGrant group (s.now - max mv.startNs
      (((s.step? (s.tileX l).step).bind fun t => tget t.enteredNs (s.tileX l).phase).getD s.now))
      (s.plan.layerCode (s.tileX l).phase) l 0 (s.tileX l).step

/-- What a move that ends offers the contact sheet: the chunks of a session whose window was fixed, on the lead. -/
def fixOffered (v : State) (mv : KvMove) : State :=
  if mv.action = gFix && v.isLead then
    match v.sess? mv.session with
    | some y => v.csInsert mv.session (y.kvLen / 64 + 1)
    | none => v
  else v

section

variable {s v : State} {session group chunk : Nat} {mv : KvMove} {x : Sess}
  (hm : (s.kv.moves.find? fun m => m.group == group && m.session == session % 4096 && m.chunk == chunk) = some mv)

include hm in
theorem grantMoveDone_of_move :
    exec (.grantMoveDone group session chunk) s = .next (fixOffered (moveEnded s group mv) mv) := by
  show execGrantMoveDone group session chunk s = _
  unfold execGrantMoveDone
  rw [hm]
  rfl

theorem fixOffered_of_not_fix (h : mv.action ≠ gFix ∨ v.isLead = false) : fixOffered v mv = v :=
  if_neg (by rcases h with h | h <;> simp [h])

theorem fixOffered_of_fix (hfix : mv.action = gFix) (hlead : v.isLead = true) (hx : v.sess? mv.session = some x) :
    fixOffered v mv = v.csInsert mv.session (x.kvLen / 64 + 1) := by
  simp only [fixOffered, hfix, hlead, hx, decide_true, Bool.and_self, if_true]

end

/-! ### The look-up of a prefill that starts at position zero (R145) -/

section

variable {s u v : State} {session : Nat} {x : Sess} {hit : List CsNode} {path : List Nat} {share : List Grant}

/-- A group of K4 chunks keeps the whole plan from a COPY of a partial chunk. -/
theorem no_copy_of_groupK4 (hk4 : (List.range s.plan.groups.length).any (fun g => s.plan.groupK4 g) = true) :
    (List.range s.plan.groups.length).all (fun g => !s.plan.groupK4 g) = false := by
  rw [← Bool.not_eq_true', ← List.not_any_eq_all_not, Bool.not_not, hk4]

/- The lead of a running slice has not looked the prefill up, and no step holds it. -/
variable (hx : s.sessById session = some x) (hlead : s.isLead = true) (hstate : x.state = .prefilling) (hlen : x.kvLen = 0)
  (hnew : x.lookedUp = false) (hheld : x.held = false) (hbusy : s.sliceBusy = true) (hu : u = s.countGroups ctCsLookups 1)

include hlead hstate hlen hnew hheld hbusy in
theorem lookup_due : (!s.isLead || x.state != .prefilling || x.kvLen != 0 || x.lookedUp || x.held || !s.sliceBusy) =
    false := by
  simp [hlead, hstate, hlen, hnew, hheld, hbusy]

include hx hlead hstate hlen hnew hheld hbusy hu

theorem csLookup_of_disabled (hoff : s.kv.csEnable = false) : exec (.csLookup session) s =
    .next ((u.modSess x.index fun y => { y with lookedUp := true, kvLen := 0, path := [] }).pushUpdate x.index) := by
  show execCsLookup session s = _
  subst hu
  simp only [execCsLookup, hx, lookup_due hlead hstate hlen hnew hheld hbusy, hoff, Bool.not_false, Bool.false_eq_true,
    if_false, if_true]

theorem csLookup_of_enabled (hon : s.kv.csEnable = true)
    (hhit : hit = s.csWalk (s.lineage x) x.tokens ((x.n - 1) / 64) 0) (hpath : path = hit.map (·.id))
    (hshare : share = (indexed hit).flatMap fun h => (List.range s.plan.groups.length).map fun g =>
      ({ session := x.id, chunk := h.1, group := g, action := gShare, slot := h.2.slots.getD g 0 } : Grant))
    (hv : v = (((share.foldl (fun a g => a.addRef g.group g.slot) u).csTouch path).sendGrants share 0 0).countGroups
      ctCsHitChunks hit.length)
    (hk4 : (List.range s.plan.groups.length).any (fun g => s.plan.groupK4 g) = true) :
    exec (.csLookup session) s = .next ((v.modSess x.index fun y => { y with
      lookedUp := true, kvLen := 64 * hit.length, path := path }).pushUpdate x.index) := by
  show execCsLookup session s = _
  subst hv hshare hpath hhit hu
  simp only [execCsLookup, hx, lookup_due hlead hstate hlen hnew hheld hbusy, hon, no_copy_of_groupK4 hk4, Bool.not_true,
    Bool.false_eq_true, if_false]

end

/-- Settles O24: the lead's two messages, the end of a move, and the look-up with the sheet on or off, by the lemma of
each. -/
theorem kvChunksAreGrantedMovedAndCommitted : Obligations.KvChunksAreGrantedMovedAndCommitted := by
  unfold Obligations.KvChunksAreGrantedMovedAndCommitted
  intro s u v port k m x session group chunk mv path hit share
  refine ⟨grantList_of_live_step, commit_of_follower, ?move, ?lookup⟩
  case move =>
    intro hm hu hv
    have hend : v = moveEnded s group mv := by
      subst hu
      exact hv
    rw [grantMoveDone_of_move hm, ← hend]
    exact ⟨fun h => congrArg _ (fixOffered_of_not_fix h), fun hfix hlead hx => congrArg _ (fixOffered_of_fix hfix hlead hx)⟩
  case lookup =>
    intro hx hlead hstate hlen hnew hheld hbusy hu
    exact ⟨csLookup_of_disabled hx hlead hstate hlen hnew hheld hbusy hu,
      csLookup_of_enabled hx hlead hstate hlen hnew hheld hbusy hu⟩

end Sys2Proof.Proofs
end

section
/-! PROOFS. Pauses, restores and the stream limit (O28). -/

namespace Sys2Proof.Proofs

open Sys2Proof Sys2Proof.Machine

/-- A request, where there is one, is answered as done with a reason. -/
def requestDone (s : State) (x : Sess) (reason : Nat) : Option ReqRec → State
  | some r => s.repDone x r reason
  | none => s

/-! ### Pauses (R149, R150) -/

section

variable {s u v w : State} {session : Nat} {x y z : Sess} {img : PauseImg} (hx : s.sessById session = some x)

include hx

theorem pauseFixStart_of_free (hstate : x.state = .pausing) (hfree : s.inFlight x = false)
    (hnone : tget s.kv.images x.index = none)
    (hu : u = if s.isLead then s.endGen x.index fun t y r => t.repDone y r rdGenPaused else s)
    (hy : u.sess? x.index = some y) : exec (.pauseFixStart session) s =
      .next (s.fixStarted u y (u.mapOwn 3 pinT3 (ceilDiv (s.plan.imageBytes y.kvLen) pageBytes))) := by
  show execPauseFixStart session s = _
  simp only [execPauseFixStart, hx]
  rw [if_neg (by simp [hstate, hfree, hnone]), ← hu]
  simp only [hy]

section

/- The module has an image of the pausing session that it has not completed. -/
variable (himg : tget s.kv.images x.index = some img) (hstate : x.state = .pausing) (hopen : img.complete = false)
  (hu : u = s.onKv fun k => { k with images := tset k.images x.index { img with complete := true } })

include himg hstate hopen hu

theorem pauseComplete_of_follower (hlead : s.isLead = false) : exec (.pauseComplete session) s = .next u := by
  show execPauseComplete session s = _
  subst hu
  simp only [execPauseComplete, hx, himg]
  rw [if_neg (by simp [hstate, hopen]), if_pos (by simp [hlead])]

theorem pauseComplete_of_lead (hlead : s.isLead = true) (hv : v = u.unmapSession x.index)
    (hw : w = requestDone v x rdPaused x.pauseReq)
    (hz : z = { x with
      state := .paused, pauseReq := none, path := []
      pauseUntilNs := some (s.now + (x.pauseReq.elim 1 (·.ttl)) * 1000000000) }) :
    exec (.pauseComplete session) s = .next (s.noteState (((w.putSess z).pushUpdate z.index).settleDrain)) := by
  show execPauseComplete session s = _
  subst hz hw hv hu
  simp only [execPauseComplete, hx, himg]
  rw [if_neg (by simp [hstate, hopen]), if_neg (by simp [hlead])]
  rfl

end

theorem pauseExpiry_of_late (hlead : s.isLead = true) (hstate : x.state = .paused)
    (hlate : (x.pauseUntilNs.any fun t => t ≤ s.now) = true) : exec (.pauseExpiry session) s =
      .next (((s.freeSession x.index).replyFree x rpDone rdExpired x.n).event evPauseExpired noUnit x.id) := by
  show execPauseExpiry session s = _
  simp only [execPauseExpiry, hx]
  rw [if_neg (by simp [hlead, hstate, hlate])]

/-! ### Restores (R151) -/

/-- A drain that pauses every session takes the restored one in again. -/
theorem restoreComplete_of_restored (hlead : s.isLead = true) (hstate : x.state = .resuming) (hres : s.restoring x = true)
    (hmoved : (s.kv.moves.any fun m => m.session == x.index) = false) (hu : u = requestDone s x rdResumed x.resumeReq)
    (hz : z = ({ x with resumeReq := none, lookedUp := decide (0 < x.kvLen), readyNs := s.now } : Sess).atRest)
    (hv : v = ((u.freeImage x.index).putSess z).pushUpdate z.index) :
    exec (.restoreComplete session) s =
      .next (if s.draining = true ∧ (s.srv.drain.any fun d => d.mode == 1) = true then v.pauseAll else v) := by
  show execRestoreComplete session s = _
  subst hv hz hu
  simp only [execRestoreComplete, hx, ← Bool.and_eq_true]
  rw [if_neg (by simp [hlead, hstate, hres, hmoved])]
  rfl

end

/-! ### The stream limit (R258) -/

section

variable {s u : State} {lim cause : Nat}

/- The lead has counted 1,024 steps. -/
variable (hlead : s.isLead = true) (hsteps : 1024 ≤ s.srv.windowCount)
  (hu : u = s.onSrv fun v => { v with windowStall := 0, windowTime := 0, windowCount := 0, causeShares := [] })

include hlead hsteps

theorem window_full : (!s.isLead || decide (s.srv.windowCount < 1024)) = false := by
  simp [hlead, hsteps]

include hu

theorem streamStallWindow_over (hover : s.setN setStallBudget * s.srv.windowTime < s.srv.windowStall * 1000000)
    (hlim : lim = max 1 (s.srv.interLimit - s.setN setLimitStep))
    (hcause : cause = (s.srv.causeShares.foldl (fun (b : Nat × Nat) e => if b.2 < e.2 then e else b) (0, 0)).1) :
    exec .streamStallWindow s = .next ((u.onSrv fun v => { v with interLimit := lim }).event evStreamLimit noUnit lim cause) := by
  show execStreamStallWindow s = _
  rw [hcause, hlim, hu]
  simp only [execStreamStallWindow, window_full hlead hsteps, if_pos hover, Bool.false_eq_true, if_false]

section

/- The stalls have not passed the budget. -/
variable (hwithin : s.srv.windowStall * 1000000 ≤ s.setN setStallBudget * s.srv.windowTime)

include hwithin

theorem streamStallWindow_within_half
    (hhalf : 2 * (s.srv.windowStall * 1000000) ≤ s.setN setStallBudget * s.srv.windowTime) :
    exec .streamStallWindow s = .next (u.onSrv fun w => { w with
      interLimit := max s.srv.interLimit (min (s.srv.interLimit + 1) (s.setN setInterLimit)) }) := by
  show execStreamStallWindow s = _
  subst hu
  simp only [execStreamStallWindow, window_full hlead hsteps, if_neg (Nat.not_lt.2 hwithin), if_pos hhalf,
    Bool.false_eq_true, if_false]

theorem streamStallWindow_over_half
    (hhalf : s.setN setStallBudget * s.srv.windowTime < 2 * (s.srv.windowStall * 1000000)) :
    exec .streamStallWindow s = .next u := by
  show execStreamStallWindow s = _
  subst hu
  simp only [execStreamStallWindow, window_full hlead hsteps, if_neg (Nat.not_lt.2 hwithin), if_neg (Nat.not_le.2 hhalf),
    Bool.false_eq_true, if_false]

end

end

/-- Settles O28: a pause's image, its end and its expiry, the end of a restore, and the three outcomes of a window, by the
lemma of each. -/
theorem pausesRestoresAndStreamsSettle : Obligations.PausesRestoresAndStreamsSettle := by
  unfold Obligations.PausesRestoresAndStreamsSettle
  intro s u v w session lim cause x y z img
  refine ⟨fun hx => ⟨pauseFixStart_of_free hx, ?image, pauseExpiry_of_late hx, restoreComplete_of_restored hx⟩, ?window⟩
  case image =>
    intro himg hstate hopen hu
    exact ⟨fun _ => pauseComplete_of_follower hx himg hstate hopen hu, pauseComplete_of_lead hx himg hstate hopen hu⟩
  case window =>
    intro hlead hsteps hu
    exact ⟨streamStallWindow_over hlead hsteps hu, fun hhalf hwithin => streamStallWindow_within_half hlead hsteps hu hwithin hhalf,
      fun hhalf hwithin => streamStallWindow_over_half hlead hsteps hu hwithin hhalf⟩

end Sys2Proof.Proofs
end

section
/-! PROOFS. Starts, settings and halts that the slice's messages carry (O26). -/

namespace Sys2Proof.Proofs

open Sys2Proof Sys2Proof.Machine Sys2Proof.Laws

section

variable {s u v : State} {port : Nat} {k : Packet} {m : Msg} {set : Tbl Bytes} {st first code : Nat} {e : Bytes}

/-- What a whole message's rule makes of it is what the module then notes. -/
theorem note_hears {msg : Nat} (hh : Hears s port k msg u m) {rule : State → Msg → State} (hrule : rule u m = v) :
    (.next (s.noteState (s.recvMsg port k msg rule)) : Ret) = .next (s.noteState v) := by
  rw [recvMsg_hears hh, hrule]

/-! ### Start and route messages (R122, R171, R271) -/

theorem holeTable_of_lead (hh : Hears s port k mHoleTable u m) (hsrc : m.src = u.plan.leadIndex)
    (hv : v = u.onFab fun f => { f with
      minor := m.minor
      routes := m.entries.foldl (fun (t : Tbl (Bool × Nat)) e =>
        tset t (rd 2 e 0 % 512) (bitOf (rd 2 e 0) 9, rd 4 e 4 % 512)) f.routes }) :
    exec (.holeTable port k) s = .next (s.noteState (if u.srv.sliceState = .starting then
      (v.onSrv fun v => { v with sliceState := .running }).startStagger else v)) := by
  refine note_hears hh ?_
  rw [if_neg (by simp [hsrc])]
  simp only [← hv, beq_iff_eq]

/-- After a hard halt the report says that the module survives; else the starting lead notes it. -/
theorem startInfo_of_lead (hh : Hears s port k mStartInfo u m) (hlead : u.isLead = true) :
    exec (.startInfo port k) s = .next (s.noteState (
      if u.srv.sliceState = .haltedHard then u.onSrv fun v => { v with downReports := addNew v.downReports m.src }
      else (u.onSrv fun v => { v with
        start := v.start.map fun r => m.entries.foldl (fun a b => a.note m.src b) r }).decideStart)) := by
  refine note_hears hh ?_
  rw [if_neg (by simp [hlead])]
  simp only [beq_iff_eq]

theorem clear_of_start (hh : Hears s port k mClear u m) (hlead : u.isLead = true) (hstep : m.step = 0) :
    exec (.clear port k) s = .next (s.noteState ((u.onSrv fun v => { v with
      start := v.start.map fun r => { r with cleared := addNew r.cleared m.src } }).decideStart)) := by
  refine note_hears hh ?_
  rw [if_neg (by simp [hlead]), if_pos hstep]

theorem clear_of_abort (hh : Hears s port k mClear u m) (hlead : u.isLead = true) (hstep : m.step ≠ 0)
    (hwait : u.steps.awaitClear.isSome = true) :
    exec (.clear port k) s = .next (s.noteState (u.noteClear m.src)) := by
  refine note_hears hh ?_
  rw [if_neg (by simp [hlead]), if_neg hstep, if_pos hwait]

/-! ### Transaction messages (R310) -/

section

/- A TXN_STAGE of the lead. -/
variable (hh : Hears s port k mTxnStage u m) (hsrc : m.src = u.plan.leadIndex)

include hh hsrc

theorem txnApply_of_bare (hlen : m.entries.length = 2) : exec (.txnApply port k) s = .next (u.applyTxn m) := by
  refine congrArg Host.Outcome.next ((recvMsg_hears hh _).trans ?_)
  rw [if_neg (by simp [hlen, hsrc])]

section

variable (hlen : 2 < m.entries.length)

include hlen

theorem txnStage_of_start (hid : txnIdOf m = 0) :
    exec (.txnStage port k) s = .next (s.noteState (u.joinStart m)) := by
  refine note_hears hh ?_
  rw [if_neg (by simp [hlen, hsrc]), if_pos hid]

/-- The set is prepared where its status is ST_OK; the lead is answered in every case. -/
theorem txnStage_of_set (hid : txnIdOf m ≠ 0) (hset : set = stagedOf m) (hst : st = u.prepareStatus set)
    (hv : v = if st = stOk then
      u.onCfg fun c => { c with prepared := some ⟨txnIdOf m, txnScopeOf m == 1, txnBaseOf m, set⟩ } else u) :
    exec (.txnStage port k) s =
      .next (s.noteState (v.sendLead mTxnReply 0 0 [txnReplyBytes (txnIdOf m) st false u.cfg.gen])) := by
  subst hv hst hset
  refine note_hears hh ?_
  rw [if_neg (by simp [hlen, hsrc]), if_neg hid]

end

end

/-- An answer without a transaction's id is of the start, which a status other than ST_OK fails. -/
theorem txnReply_of_lead (hh : Hears s port k mTxnReply u m) (hlead : u.isLead = true) (hent : m.entries = [e]) :
    exec (.txnReply port k) s = .next (s.noteState (if rd 4 e 0 ≠ 0 then u.txnReplied m.src e
      else if rd 2 e 4 ≠ stOk then u.failStart (rd 2 e 4) 0 else u)) := by
  refine note_hears hh ?_
  rw [if_neg (by simp [hlead]), hent, ite_not]
  rfl

/-! ### Aborts, halts and stops (R271) -/

section

/- A STEP_ABORT names the first step aborted and its fault's code. -/
variable (hh : Hears s port k mStepAbort u m) (hent : m.entries = [e]) (hfirst : first = rd 6 e 0) (hcode : code = rd 2 e 6)

include hh hent

include hfirst hcode in
theorem stepAbort_of_lead (hlead : u.isLead = true) (hbusy : u.sliceBusy = true) :
    exec (.stepAbort port k) s = .next (s.noteState (u.leadAbort first code m.src)) := by
  subst hfirst hcode
  refine note_hears hh ?_
  rw [hent, List.foldl_cons, List.foldl_nil, if_pos hlead, if_pos hbusy]

section

/- It comes from the lead to another module. -/
variable (hlead : u.isLead = false) (hsrc : m.src = u.plan.leadIndex)

include hlead hsrc hcode

theorem stepAbort_stops (hnone : code = 0) (hbusy : u.sliceBusy = true) : exec (.stepAbort port k) s =
    .next (s.noteState (((u.onSrv fun v => { v with sliceState := .stopped, start := none }).settleCommit).settleStop)) := by
  subst hcode
  refine note_hears hh ?_
  rw [hent, List.foldl_cons, List.foldl_nil, if_neg (by simp [hlead]), if_neg (by simp [hsrc]), if_pos hnone, if_pos hbusy]

theorem stepAbort_halts (hlost : code = fltStepLost) : exec (.stepAbort port k) s = .next (s.noteState u.hardHalt) := by
  have hfault : code ≠ 0 := by rw [hlost]; decide
  subst hcode
  refine note_hears hh ?_
  rw [hent, List.foldl_cons, List.foldl_nil, if_neg (by simp [hlead]), if_neg (by simp [hsrc]), if_neg hfault, if_pos hlost]

include hfirst in
theorem stepAbort_aborts (hfault : code ≠ 0) (hkept : code ≠ fltStepLost) : exec (.stepAbort port k) s =
    .next (s.noteState (if softCode code then (u.applyAbort first code).softHalt else u.applyAbort first code)) := by
  subst hfirst hcode
  refine note_hears hh ?_
  rw [hent, List.foldl_cons, List.foldl_nil, if_neg (by simp [hlead]), if_neg (by simp [hsrc]), if_neg hfault, if_neg hkept]

end

end

end

/-- Settles O26: each message's effect, by the lemma of its row and case. -/
theorem startsSettingsAndHaltsAreCarried : Obligations.StartsSettingsAndHaltsAreCarried := by
  unfold Obligations.StartsSettingsAndHaltsAreCarried
  intro s u v port k m set st first code e
  refine ⟨holeTable_of_lead, fun hh hsrc => ?stage, txnReply_of_lead, startInfo_of_lead, fun hh hlead => ?clear,
    fun hh hent hfirst hcode => ?abort⟩
  case stage => exact ⟨txnStage_of_start hh hsrc, txnStage_of_set hh hsrc, txnApply_of_bare hh hsrc⟩
  case clear => exact ⟨clear_of_start hh hlead, clear_of_abort hh hlead⟩
  case abort =>
    refine ⟨stepAbort_of_lead hh hent hfirst hcode, fun hlead hsrc => ?follower⟩
    exact ⟨stepAbort_stops hh hent hcode hlead hsrc, stepAbort_halts hh hent hcode hlead hsrc,
      stepAbort_aborts hh hent hfirst hcode hlead hsrc⟩

end Sys2Proof.Proofs
end

section
/-! PROOFS. The mover operators (O31): with the descriptor started and the inputs readable, each moves its blocks or rows. -/

namespace Sys2Proof.Proofs

open Sys2Proof Sys2Proof.Machine Sys2Proof.Laws

section

variable {s u v w : State} {r : Run} {tile n m : Nat} {a : Region} {phys range : List (Nat × Nat)} {blocks : List (Nat × Blk)}
  {slots : List (Nat × Nat × Nat × Nat)} {rect : Rect} {inst : CollRec}

/-- A source operand that can be read, of the module range or of the tile's own memory, is read there. -/
theorem srcInputs_ready {src len : Nat} {ofRange : Bool}
    (hphys : phys = if ofRange then [] else [(s.actOf r.tile + src, len)])
    (hrange : range = if ofRange then [(fabLocal src, len)] else []) (hin : inputsReady s phys range) (f : State → State) :
    s.srcInputs r src len ofRange f = f (accessed s range) := by
  unfold State.srcInputs
  cases ofRange with
  | false =>
    rw [if_neg Bool.false_ne_true] at hphys hrange ⊢
    subst hphys hrange
    exact withInputs_ready hin f
  | true =>
    rw [if_pos rfl] at hphys hrange ⊢
    subst hphys hrange
    exact withInputs_ready hin f

/-! ### Rows of tokens (R77, R184, R219) -/

theorem dispatch_of_ready (hrun : s.run? tile opDispatchOpc 2 = some r)
    (ha : a = s.tileRegion r.ph tile (fld r.d 0x40 19 0) (fld r.d 0x4C 31 16) (fld r.d 0x44 15 0) 2)
    (hn : n = s.plan.topk (dLayer r.d))
    (hin : inputsReady s [(a.base, a.bytes), (s.actOf tile + slotOff r.d, fld r.d 0x4C 31 16 * n * 8)] [])
    (hu : u = accessed s [])
    (hslots : slots = ((u.runRows r (fld r.d 0x4C 31 16)).filter u.inShare).flatMap fun i => (List.range n).filterMap fun c =>
      (u.slotAt tile (slotOff r.d) (i * n + c)).bind fun e =>
        (u.plan.expert (dLayer r.d) e.1).map fun x => (i, i * n + c, e.1, exOwner x))
    (hv : v = slots.foldl (fun (b : State) x => ((b.sendSlot r x.1 x.2.1 x.2.2.1 x.2.2.2
        (packRow (fld r.d 0x44 17 16) (b.regionRow a x.1)).1).count ctSat r.code
        (packRow (fld r.d 0x44 17 16) (b.regionRow a x.1)).2.1).count ctNonfinite r.code
        (packRow (fld r.d 0x44 17 16) (b.regionRow a x.1)).2.2)
      (u.putDisp { u.disp r.t.seq (dLayer r.d) (dHb r.d) with sent := some (slots.map (·.2.1)) }))
    (hw : w = v.others.foldl (fun b m =>
      b.sendPacket (b.opPacket ptDispatchEnd m r.t.seq (dLayer r.d + 65536 * dHb r.d))) v) :
    exec (.dispatch tile) s = .next (((w.noteEnd w.index r.t.seq (dLayer r.d) (dHb r.d)).checkResolved r.t.seq (dLayer r.d)
      (dHb r.d)).executed r) := by
  show execDispatch tile s = _
  subst hw hv hslots hu hn ha
  simp only [execDispatch, operate_run hrun, withInputs_ready hin]

theorem embed_of_ready (hrun : s.run? tile opEmbed 2 = some r)
    (hin : inputsReady s [] (s.plan.tensorRange (fld r.d 0x40 31 0)))
    (hu : u = accessed s (s.plan.tensorRange (fld r.d 0x40 31 0))) :
    exec (.embed tile) s = .next ((u.emitRows r (fld r.d 0x50 2 0) (fld r.d 0x4C 31 16) (fld r.d 0x4C 15 0)
      ((u.runRows r (fld r.d 0x4C 31 16)).map fun i => (i,
        if fld r.d 0x44 19 0 ≤ u.rowToken r i ∧ u.rowToken r i < fld r.d 0x44 19 0 + fld r.d 0x48 19 0 then
          (List.range (fld r.d 0x4C 15 0)).map (u.tableWord ((u.plan.tensor (fld r.d 0x40 31 0)).getD [])
            (u.rowToken r i - fld r.d 0x44 19 0) (fld r.d 0x4C 15 0))
        else List.replicate (fld r.d 0x4C 15 0) f32Zero))).executed r) := by
  show execEmbed tile s = _
  subst hu
  simp only [execEmbed, operate_run hrun, withInputs_ready hin]

theorem sample_of_ready (hrun : s.run? tile opSample 2 = some r)
    (ha : a = s.tileRegion r.ph tile (fld r.d 0x40 19 0) (fld r.d 0x4C 15 0) (fld r.d 0x48 19 0) 3)
    (hin : inputsReady s [(a.base, a.bytes)] []) (hu : u = accessed s []) :
    exec (.sample tile) s = .next (((r.half.rows.flatMap fun e => ((sampledOf r.t.verify e).filter fun i =>
      (u.runRows r (fld r.d 0x4C 15 0)).contains (e.firstRow + i)).map fun i => (e.session, i, e.firstRow + i)).foldl
        (fun (b : State) j => b.sendLogits r j.1 j.2.1 (fld r.d 0x44 19 0) (b.regionWords a j.2.2)) u).executed r) := by
  show execSample tile s = _
  subst hu ha
  simp only [execSample, operate_run hrun, withInputs_ready hin]

/-! ### Collectives (R182) -/

section

variable (hrun : s.run? tile opCollective 2 = some r)
  (hinst : inst = (s.coll? r.t.seq (s.collKey r) tile).getD { step := r.t.seq, key := s.collKey r, tile := tile })

include hrun hinst

theorem collective_of_started (hstarted : inst.startNs.isSome = true) :
    exec (.collective tile) s = .next (s.collAdvance r) := by
  show execCollective tile s = _
  subst hinst
  simp only [execCollective, operate_run hrun]
  rw [if_pos hstarted]

theorem collective_of_new (hnew : inst.startNs = none)
    (hn : n = (s.plan.coll s.index r.d).count * (s.plan.coll s.index r.d).elem)
    (hphys : phys = if fld r.d 0x50 0 0 = 1 then [] else [(s.actOf r.tile + fld64 r.d 0x48, n)])
    (hrange : range = if fld r.d 0x50 0 0 = 1 then [(fabLocal (fld64 r.d 0x48), n)] else [])
    (hin : inputsReady s phys range) (hu : u = accessed s range) :
    exec (.collective tile) s = .next (((u.putColl { inst with startNs := some u.now }).grantRoom r
      (s.plan.coll s.index r.d)).collAdvance r) := by
  show execCollective tile s = _
  subst hu hn hinst
  simp only [execCollective, operate_run hrun]
  rw [if_neg (by simp [hnew]),
    srcInputs_ready (by simpa only [decide_eq_true_eq] using hphys) (by simpa only [decide_eq_true_eq] using hrange) hin]

end

/-! ### Copies and invalidations (R174, R176) -/

section

variable (hrun : s.run? tile opMove 2 = some r)

include hrun

theorem move_invalidates (hof : mvRange r.d = true) (hnone : outsUsed r.d = []) :
    exec (.move tile) s = .next (((s.onFab fun f => { f with
        cache := f.cache.filter fun c => !decide (mvSrc r.d ≤ c.addr ∧ c.addr < mvSrc r.d + mvLen r.d) }).count ctCacheInvalidated 0
      (s.fab.cache.filter fun c => decide (mvSrc r.d ≤ c.addr ∧ c.addr < mvSrc r.d + mvLen r.d)).length).executed r) := by
  show execMove tile s = _
  simp only [execMove, operate_run hrun]
  rw [if_pos (by simp [hof, hnone])]

section

/- The move has destinations, and those of this module are mapped. -/
variable (hcopy : (mvRange r.d && (outsUsed r.d).isEmpty) = false) (hdest : s.destsMapped r.d (mvLen r.d) = true)

include hcopy hdest

theorem move_copies (hhere : mvRange r.d = false ∨ s.isHere (mvSrc r.d) = true)
    (hphys : phys = if mvRange r.d then [] else [(s.actOf r.tile + mvSrc r.d, mvLen r.d)])
    (hrange : range = if mvRange r.d then [(fabLocal (mvSrc r.d), mvLen r.d)] else [])
    (hin : inputsReady s phys range) (hu : u = accessed s range) :
    exec (.move tile) s = .next (((indexed (u.srcBlocks r (mvSrc r.d) (mvLen r.d) (mvRange r.d))).foldl
      (fun a b => a.putAt r b.1 b.2) u).executed r) := by
  show execMove tile s = _
  subst hu
  simp only [execMove, operate_run hrun]
  rw [if_neg (by simp [hcopy]), if_neg (by simp [hdest]), if_pos (by simpa using hhere), srcInputs_ready hphys hrange hin]

theorem move_asks (hof : mvRange r.d = true) (hthere : s.isHere (mvSrc r.d) = false) (hnew : s.reading tile r.idx = false)
    (hslice : s.plan.inSlice (fabMod (mvSrc r.d)) = true)
    (hu : u = (List.range (inBlocks (mvLen r.d))).foldl (fun a i => a.readRemote r i (mvSrc r.d + i * blockBytes)) s) :
    exec (.move tile) s = .next (if u.reading tile r.idx then u else u.executed r) := by
  show execMove tile s = _
  subst hu
  simp only [execMove, operate_run hrun]
  rw [if_neg (by simp [hcopy]), if_neg (by simp [hdest]), if_neg (by simp [hof, hthere]), if_neg (by simp [hnew]),
    if_neg (by simp [hslice])]

end

end

/-! ### Blocks sent to a module or a rectangle (R177, R179) -/

section

/- The source blocks can be read. -/
variable (hphys : phys = if mvRange r.d then [] else [(s.actOf r.tile + mvSrc r.d, mvLen r.d)])
  (hrange : range = if mvRange r.d then [(fabLocal (mvSrc r.d), mvLen r.d)] else [])
  (hin : inputsReady s phys range) (hu : u = accessed s range)
  (hblocks : blocks = indexed (u.srcBlocks r (mvSrc r.d) (mvLen r.d) (mvRange r.d)))

include hphys hrange hin hu hblocks

theorem fabricRed_of_ready (hrun : s.run? tile opFabricRed 2 = some r) (hm : m = fabMod (dDest r.d 0).addr)
    (hslice : s.plan.inSlice m = true) :
    exec (.fabricRed tile) s = .next ((blocks.foldl (fun (a : State) b =>
      if m = a.index then a.applyRed (a.runUnit r) r.t.seq (fld r.d 0x4C 3 1) (dDest r.d 0).dch
        (fabLocal (dDest r.d 0).addr + b.1 * blockBytes) b.2.data
      else (a.dropLine (fabAddr m (fabLocal (dDest r.d 0).addr + b.1 * blockBytes))).sendPacket
        { a.opPacket ptRed m r.t.seq (fabLocal (dDest r.d 0).addr + b.1 * blockBytes) b.2.data b.2.exp b.2.a8d with
          opx := fld r.d 0x4C 3 1, dch := (dDest r.d 0).dch }) u).executed r) := by
  show execFabricRed tile s = _
  subst hm hblocks hu
  simp only [execFabricRed, operate_run hrun]
  rw [if_neg (by simp [hslice]), srcInputs_ready hphys hrange hin]

theorem mcast_of_ready (hrun : s.run? tile opMcastOpc 2 = some r)
    (hrect : rect = ⟨fld r.d 0x50 7 0, fld r.d 0x50 15 8, fld r.d 0x50 23 16, fld r.d 0x54 7 0, fld r.d 0x54 15 8,
      fld r.d 0x54 23 16⟩) :
    exec (.mcast tile) s = .next ((blocks.foldl (fun (a : State) b =>
      let addr := fabLocal (dDest r.d 0).addr + b.1 * blockBytes
      let a1 := rect.modules.foldl (fun (x : State) m => x.dropLine (fabAddr m addr)) a
      let k := { a1.opPacket ptMcast (rect.nearest s.index) r.t.seq addr b.2.data b.2.exp b.2.a8d with
        dch := (dDest r.d 0).dch, session := rectCode rect, detour := false, via := 0 }
      if rect.nearest s.index = a1.index then a1.mcastAt (a1.runUnit r) none k
      else match hopPort a1.index (rect.nearest s.index) with
        | some q => a1.sendOn (a1.physOf q) k
        | none => a1) u).executed r) := by
  show execMcast tile s = _
  subst hrect hblocks hu
  unfold execMcast
  rw [operate_run hrun]
  exact congrArg Host.Outcome.next (srcInputs_ready hphys hrange hin _)

end

end

/-- Settles O31: one lemma for each operator, and for each of the ways of COLLECTIVE and MOVE. -/
theorem moverOperatorsComputeOnATile : Obligations.MoverOperatorsComputeOnATile := by
  unfold Obligations.MoverOperatorsComputeOnATile
  intro s u v w r tile n m a phys range blocks slots rect tab
  refine ⟨dispatch_of_ready, fun inst hrun hinst => ?collective, fun hrun => ?move, fun hphys hrange hin hu hblocks => ?blocks,
    embed_of_ready, sample_of_ready⟩
  case collective => exact ⟨collective_of_started hrun hinst, collective_of_new hrun hinst⟩
  case move =>
    refine ⟨move_invalidates hrun, fun hcopy hdest hphys hrange => ?copy⟩
    exact ⟨fun hhere => move_copies hrun hcopy hdest hhere hphys hrange, move_asks hrun hcopy hdest⟩
  case blocks =>
    exact ⟨fabricRed_of_ready hphys hrange hin hu hblocks, mcast_of_ready hphys hrange hin hu hblocks⟩

end Sys2Proof.Proofs
end

section
/-! PROOFS. Flits, retrains and the training of ports (O36). -/

namespace Sys2Proof.Proofs

open Sys2Proof Sys2Proof.Machine

section

variable {s u v w : State} {port : Nat} {f : FlitIn} {failing fresh bad fails : List Nat} {cause : DownCause}

/-! ### Flits (R160) -/

section

/- The port takes flits: it is trained, and no fast retrain is in course. -/
variable (hmain : s.mainOn = true) (htrained : (s.portX port).trained = true) (hfast : (s.portX port).fast = none)

include hmain htrained hfast

theorem port_takes_flits : (!s.mainOn || !(s.portX port).trained || (s.portX port).fast.isSome) = false := by
  simp [hmain, htrained, hfast]

/- The flit's corrected symbols are counted. -/
variable (hu : u = f.corrected.foldl (fun a c => a.count ctFecCorrected (port * 64 + c.1) c.2) s)

include hu

theorem flitReceived_of_bad (hbad : flitGood f = false) : exec (.flitReceived port f) s = .next (u.refuseFlit port) := by
  show execFlitReceived port f s = _
  subst hu
  simp only [execFlitReceived, port_takes_flits hmain htrained hfast, hbad, Bool.not_false, Bool.false_eq_true, if_false, if_true]

section

/- The flit passes its checks, and its acknowledgement is taken. -/
variable (hgood : flitGood f = true) (hv : v = u.takeAck port (bitsOf f.word0.toNat 23 12) (bitOf f.word0.toNat 24))

include hgood hv

theorem flitReceived_of_next (hkind : bitsOf f.word0.toNat 26 25 = 1)
    (hseq : bitsOf f.word0.toNat 11 0 = ((s.portX port).rxLast + 1) % 4096) :
    exec (.flitReceived port f) s = .next ((v.modPort port fun y => { y with
      rxLast := bitsOf f.word0.toNat 11 0, refusals := 0 }).count ctFlitsRx port 1) := by
  show execFlitReceived port f s = _
  subst hv hu
  simp only [execFlitReceived, port_takes_flits hmain htrained hfast, hgood, if_pos hkind, if_pos hseq, Bool.not_true,
    Bool.false_eq_true, if_false]

/-- A flit out of its turn is ahead where its number is at most 2,048 beyond the last taken. -/
theorem flitReceived_of_not_next (hkind : bitsOf f.word0.toNat 26 25 = 1)
    (hseq : bitsOf f.word0.toNat 11 0 ≠ ((s.portX port).rxLast + 1) % 4096) :
    exec (.flitReceived port f) s =
      .next (if (bitsOf f.word0.toNat 11 0 + 4096 - (s.portX port).rxLast) % 4096 < 2049 then
        v.emit (.flitNak port (s.portX port).rxLast) else v) := by
  show execFlitReceived port f s = _
  subst hv hu
  simp only [execFlitReceived, port_takes_flits hmain htrained hfast, hgood, if_pos hkind, if_neg hseq, Bool.not_true,
    Bool.false_eq_true, if_false]

theorem flitReceived_of_control (hkind : bitsOf f.word0.toNat 26 25 ≠ 1) :
    exec (.flitReceived port f) s = .next (v.takeReleases port f.payload) := by
  show execFlitReceived port f s = _
  subst hv hu
  simp only [execFlitReceived, port_takes_flits hmain htrained hfast, hgood, if_neg hkind, Bool.not_true, Bool.false_eq_true,
    if_false]

end

end

/-! ### Fast retrains and ports that go down (R161, R162) -/

section

/- A fast retrain ends with lanes that fail, those of them new replaced by their halves' spares. -/
variable (hfast : (s.portX port).fast.isSome = true)
  (hfresh : fresh = failing.filter fun l => l < 34 && !(s.portX port).failedLanes.contains l)
  (hu : u = s.modPort port fun y => { (y.laned ((s.portX port).failedLanes ++ fresh)) with fast := none })
  (hv : v = ((fresh.filter fun l => halfFails ((s.portX port).failedLanes ++ fresh) (decide (17 ≤ l)) == 1).foldl
    (fun a l => a.event evLaneSpared (portUnit port) l) u).noteWidth port (s.portX port).width)

include hfast

theorem retrain_in_course : (s.portX port).fast.isNone = false :=
  Option.isNone_eq_false_iff.2 hfast

include hfresh hu hv

theorem fastRetrainDone_without_width (hwidth : widthOf ((s.portX port).failedLanes ++ fresh) = 0) (restored : Bool) :
    exec (.fastRetrainDone port failing restored) s = .next (s.noteState (v.takeDown port)) := by
  show execFastRetrainDone port failing restored s = _
  subst hv hu hfresh
  simp only [execFastRetrainDone, retrain_in_course hfast, if_pos hwidth, Bool.false_eq_true, if_false]

section

variable (hwidth : widthOf ((s.portX port).failedLanes ++ fresh) ≠ 0)

include hwidth

theorem fastRetrainDone_restored : exec (.fastRetrainDone port failing true) s = .next v := by
  show execFastRetrainDone port failing true s = _
  subst hv hu hfresh
  simp only [execFastRetrainDone, retrain_in_course hfast, if_neg hwidth, Bool.false_eq_true, if_false, if_true]

/-- The port goes down at the third failure within a second. -/
theorem fastRetrainDone_failed
    (hfails : fails = ((s.portX port).retrainFails.filter fun t => s.now < t + 1000000000) ++ [s.now])
    (hw : w = v.modPort port fun y => { y with retrainFails := fails }) :
    exec (.fastRetrainDone port failing false) s =
      .next (if 3 ≤ fails.length then s.noteState (w.takeDown port) else w) := by
  show execFastRetrainDone port failing false s = _
  subst hw hfails hv hu hfresh
  simp only [execFastRetrainDone, retrain_in_course hfast, if_neg hwidth, Bool.false_eq_true, if_false]

end

end

/-- Only the watch for valid flits is suspended by a fast retrain. -/
theorem portDown_of_cause (h : cause ≠ .noFlit ∨ (s.portX port).fast = none) :
    exec (.portDown port cause) s = .next (s.noteState (s.takeDown port)) := by
  show execPortDown port cause s = _
  have hwatch : ¬ (cause = .noFlit ∧ (s.portX port).fast.isSome = true) := by
    rcases h with h | h <;> simp [h]
  simp only [execPortDown, if_neg hwatch]

/-! ### Training (R161, R402, R407) -/

section

variable (htraining : (s.portX port).training = true) (hmain : s.mainOn = true) (hbad : bad = failing.filter (· < 34))

include htraining hmain

theorem training_in_course : (!(s.portX port).training || !s.mainOn) = false := by
  simp [htraining, hmain]

include hbad

theorem linkTrainingDone_without_width (hwidth : widthOf bad = 0) : exec (.linkTrainingDone port failing) s =
    .next (s.noteState (((s.modPort port fun y => { y with training := false }).takeDown port).modPort port fun y =>
      { y with state := .down })) := by
  show execLinkTrainingDone port failing s = _
  subst hbad
  simp only [execLinkTrainingDone, training_in_course htraining hmain, if_pos hwidth, Bool.false_eq_true, if_false]

theorem linkTrainingDone_with_width (hwidth : widthOf bad ≠ 0)
    (hu : u = s.modPort port fun y => { (y.laned bad) with
      trained := true, training := false, txSeq := 0, acked := 4095, replay := 0, rxLast := 4095, refusals := 0
      retrainFails := [], fast := none, room := ({} : Port).room, cardNs := s.now }) :
    exec (.linkTrainingDone port failing) s =
      .next (s.noteState (((u.noteWidth port (s.portX port).width).evalPorts).sendCard port)) := by
  show execLinkTrainingDone port failing s = _
  subst hu hbad
  simp only [execLinkTrainingDone, training_in_course htraining hmain, if_neg hwidth, Bool.false_eq_true, if_false]

end

theorem linkTrainingRetry_of_untrained (h : (s.portX port).trained = false) :
    exec (.linkTrainingRetry port) s = .next (s.startTraining port) := by
  show execLinkTrainingRetry port s = _
  rw [execLinkTrainingRetry, if_neg (by simp [h])]

theorem heldIdleRetrain_of_held (h : (s.portX port).state = .heldIdle) :
    exec (.heldIdleRetrain port) s = .next (s.startTraining port) := by
  show execHeldIdleRetrain port s = _
  rw [execHeldIdleRetrain, if_pos (by simp [h])]

end

/-- Settles O36: flits, fast retrains, the fall of a port and its training, by the lemma of each command and case. -/
theorem flitsAndLinkTrainingAreHandled : Obligations.FlitsAndLinkTrainingAreHandled := by
  unfold Obligations.FlitsAndLinkTrainingAreHandled
  intro s u v w port f failing fresh bad cause fails
  refine ⟨fun hmain htrained hfast hu => ?flit, fun hfast hfresh hu hv => ?retrain, portDown_of_cause,
    fun htraining hmain hbad => ?training, linkTrainingRetry_of_untrained, heldIdleRetrain_of_held⟩
  case flit =>
    refine ⟨flitReceived_of_bad hmain htrained hfast hu, fun hgood hv => ?good⟩
    exact ⟨flitReceived_of_next hmain htrained hfast hu hgood hv, flitReceived_of_not_next hmain htrained hfast hu hgood hv,
      flitReceived_of_control hmain htrained hfast hu hgood hv⟩
  case retrain =>
    refine ⟨fastRetrainDone_without_width hfast hfresh hu hv, fun hwidth => ?width⟩
    exact ⟨fastRetrainDone_restored hfast hfresh hu hv hwidth, fastRetrainDone_failed hfast hfresh hu hv hwidth⟩
  case training =>
    exact ⟨linkTrainingDone_without_width htraining hmain hbad, linkTrainingDone_with_width htraining hmain hbad⟩

end Sys2Proof.Proofs
end

section
/-! PROOFS. Queue pairs of clients (O20): connections, their ends, the pacing of the send rate, and resends. -/

namespace Sys2Proof.Proofs

open Sys2Proof Sys2Proof.Machine

section

variable {s : State} {client addr remote qp : Nat} {ipv6 : Bool} {why : NakCause} {p : Qp}

theorem modQp_of_pair (hp : tget s.srv.qps qp = some p) (f : Qp → Qp) :
    s.modQp qp f = s.onSrv fun v => { v with qps := tset v.qps qp (f p) } := by
  simp only [State.modQp, hp]

/-! ### Connections (R197) -/

theorem cmReq_of_allowed (hlead : s.isLead = true) (hrun : s.sliceRunning = true) (hlow : 1 ≤ client) (hhigh : client ≤ 255)
    (hvalid : ceValid (s.clientEntry client) = true) (haddr : cePrefixHas (s.clientEntry client) ipv6 addr = true)
    (hmine : (s.srv.qps.filter (fun q => q.2.client == client)).length < ceMaxQps (s.clientEntry client))
    (hall : s.srv.qps.length < 2048) :
    exec (.cmReq client ipv6 addr remote) s = .next ((s.onSrv fun v => { v with
      qps := tset v.qps v.nextQp ⟨client, ipv6, addr, remote, lineRate, none, none, 0⟩, nextQp := v.nextQp + 1 }).emit
        (.cmAccept s.srv.nextQp)) := by
  show execCmReq client ipv6 addr remote s = _
  unfold execCmReq
  dsimp only
  rw [if_pos (by simp [hlead, hrun, hlow, hhigh, hvalid, haddr, hmine, hall])]

theorem cmDreq_of_pair (hup : s.qpUp qp = true) : exec (.cmDreq qp) s = .next (s.endQp qp) := by
  show execCmDreq qp s = _
  rw [execCmDreq, if_pos hup]

theorem invalidRequestNak_of_pair (hup : s.qpUp qp = true) :
    exec (.invalidRequestNak qp why) s = .next ((s.emit (.nak qp)).endQp qp) := by
  show execInvalidRequestNak qp why s = _
  rw [execInvalidRequestNak, if_pos hup]

/-! ### Pacing and resends (R199) -/

section

variable (hp : tget s.srv.qps qp = some p)

include hp

theorem cnpReceived_of_due (hdue : (p.lastCutNs.any fun t => s.now < t + 50000) = false) :
    exec (.cnpReceived qp) s = .next (s.onSrv fun v => { v with
      qps := tset v.qps qp { p with rate := p.rateNow s.now / 2, lastCutNs := some s.now } }) := by
  show execCnpReceived qp s = _
  rw [execCnpReceived, modQp_of_pair hp, if_neg (by simp [hdue])]

theorem ceMarkedPacket_of_due (hdue : (p.lastCnpNs.any fun t => s.now < t + 50000) = false) :
    exec (.ceMarkedPacket qp) s = .next ((s.onSrv fun v => { v with
      qps := tset v.qps qp { p with lastCnpNs := some s.now } }).emit (.cnp qp)) := by
  show execCeMarkedPacket qp s = _
  simp only [execCeMarkedPacket, hp, hdue, modQp_of_pair hp, Bool.false_eq_true, if_false]

theorem localAckTimeout_of_retries_left (hleft : p.retries < 7) :
    exec (.localAckTimeout qp) s = .next ((s.onSrv fun v => { v with
      qps := tset v.qps qp { p with retries := p.retries + 1 } }).emit (.resend qp (p.retries + 1))) := by
  show execLocalAckTimeout qp s = _
  simp only [execLocalAckTimeout, hp, modQp_of_pair hp, if_neg (Nat.not_le.2 hleft)]

theorem localAckTimeout_of_no_retry_left (hspent : 7 ≤ p.retries) :
    exec (.localAckTimeout qp) s = .next (s.endQp qp) := by
  show execLocalAckTimeout qp s = _
  simp only [execLocalAckTimeout, hp, if_pos hspent]

end

end

/-- Settles O20: a connection and its two ends, a CNP received and one sent, and an ACK timeout with and without a retry
left, by the lemma of each command and case. -/
theorem clientPairsAreConnectedAndPaced : Obligations.ClientPairsAreConnectedAndPaced := by
  unfold Obligations.ClientPairsAreConnectedAndPaced
  intro s client addr remote qp ipv6 why p
  refine ⟨cmReq_of_allowed, fun hup => ?ends, fun hp => ?pacing⟩
  case ends => exact ⟨cmDreq_of_pair hup, invalidRequestNak_of_pair hup⟩
  case pacing =>
    exact ⟨cnpReceived_of_due hp, ceMarkedPacket_of_due hp, localAckTimeout_of_retries_left hp,
      localAckTimeout_of_no_retry_left hp⟩

end Sys2Proof.Proofs
end

section
/-! PROOFS. Requests that open a session, append tokens and generate (O21), each given to its rule by the checks that `Asks`
states. -/

namespace Sys2Proof.Proofs

open Sys2Proof Sys2Proof.Machine Sys2Proof.Laws

section

variable {s u v : State} {qp client i h : Nat} {msg : Bytes} {x y z : Sess} {r : ReqRec} {ts : List Nat}

/-! ### REQ_OPEN (R193) -/

theorem reqOpen_of_room (hr : r = asked u qp msg) (hdrain : u.draining = false) (hqueue : u.queueFull client = false)
    (ha : Asks s qp msg 1 (fun client =>
      [ (hdSession msg != 0, stFieldRange, 0x0C), (hdCount msg != 0, stLenRange, 0x14), (rd 4 msg 0x20 == 3, stFieldRange, 0x20),
        (decide (rd 4 msg 0x24 < 64) || decide (ceMaxContext (s.clientEntry client) < rd 4 msg 0x24), stFieldRange, 0x24),
        (decide (1024 < rd 4 msg 0x28), stFieldRange, 0x28) ]) u client)
    (hclass : ceClass (u.clientEntry client) (rd 4 msg 0x20) = true)
    (hadapter : rd 4 msg 0x28 = 0 ∨ ceAdapters (u.clientEntry client) = true) (hi : u.freeIndex = some i)
    (hroom : (u.allSess.filter (fun x => x.client == client)).length < ceMaxSessions (u.clientEntry client))
    (hv : v = ((u.onSrv fun v => { v with uses := tset v.uses i (nextUse (tgetD u.srv.uses i 0)) }).putSess x))
    (hx : x = { index := i, use := nextUse (tgetD u.srv.uses i 0), client := client, cls := rd 4 msg 0x20,
                maxCtx := rd 4 msg 0x24, adapterId := rd 4 msg 0x28, lastQp := qp, readyNs := u.now }) :
    exec (.reqOpen qp msg) s = .next ((((((v.pushUpdate i).dataArrives).repDone x r rdOpened)).modSess
      (hdSession msg % 4096) id).count ctRequests (client * 256 + 1) 1) := by
  show execReqOpen qp msg s = _
  have hallowed : (!ceClass (u.clientEntry client) (rd 4 msg 0x20) ||
      (rd 4 msg 0x28 != 0 && !ceAdapters (u.clientEntry client))) = false := by
    rcases hadapter with h | h <;> simp [hclass, h]
  refine congrArg Host.Outcome.next ((request_asks (v := ((v.pushUpdate i).dataArrives).repDone x r rdOpened) ha false false _
    rfl rfl ?rule).trans (by rw [ha.ofType]; rfl))
  case rule =>
    subst hv hx hr
    simp only [hdrain, hqueue, hallowed, hi, if_neg (Nat.not_le.2 hroom), Bool.false_eq_true, if_false]
    rfl

/-! ### REQ_APPEND and REQ_GENERATE (R208, R214) -/

section

/- The session is open to work: the slice does not drain, nothing closes it, and the client's queue, the KV slots and the
adapter leave room. -/
variable (hr : r = asked u qp msg) (hdrain : u.draining = false) (hqueue : u.queueFull client = false)
  (hof : ofSession u msg client x) (hopen : x.closing = false) (hkv : u.srv.kvShortage = false)
  (hbind : u.bindHandle x = some h)

include hr hdrain hqueue hof hopen hkv hbind

theorem reqAppend_of_allowed
    (ha : Asks s qp msg 2 (fun _ => [ (hdCount msg == 0 || decide (65536 < hdCount msg), stLenRange, 0x14) ] ++
      tokenChecks s.plan.vocab msg 32 (hdCount msg)) u client)
    (hstate : x.state = .idle ∨ x.state = .prefilling) (hentry : u.entryAllows x false = true)
    (hfits : x.n + hdCount msg ≤ x.maxCtx) (hy : y = x.append (words32 msg 32 (hdCount msg)))
    (hz : z = ({ y with state := .prefilling, handle := if x.generation.isSome then x.handle else h,
                        readyNs := if x.state == .idle then u.now else x.readyNs } : Sess).settled) :
    exec (.reqAppend qp msg) s =
      .next (taken (((u.putSess z).pushUpdate z.index).repDone z r rdAppended) qp client msg) := by
  show execReqAppend qp msg s = _
  have htakes : (u.draining || x.closing || !(x.state == .idle || x.state == .prefilling)) = false := by
    rcases hstate with h | h <;> simp [hdrain, hopen, h]
  refine congrArg Host.Outcome.next (request_session ha hof true _ ?_)
  subst hz hy hr
  simp only [htakes, hqueue, hentry, hbind, hkv, if_neg (Nat.not_lt.2 hfits), Bool.not_true, Bool.false_eq_true, if_false]

theorem reqGenerate_of_allowed
    (ha : Asks s qp msg 3 (fun _ => genChecks s.plan.vocab msg ++
      tokenChecks s.plan.vocab msg (gnTokensAt msg) (min 65536 (hdCount msg))) u client)
    (hstate : x.state = .idle ∨ x.state = .prefilling ∧ x.generation = none) (hentry : u.entryAllows x true = true)
    (hts : ts = words32 msg (gnTokensAt msg) (hdCount msg)) (hfits : x.n + ts.length ≤ x.maxCtx)
    (hinter : x.cls = 0 → u.interactiveFits x (genParamsAt msg 32) = true) (hy : y = x.append ts)
    (hz : z = { y with
      state := if x.state == .prefilling || !ts.isEmpty then .prefilling else .generating, generation := some r,
      gen := some (genParamsAt msg 32), emitted := 0, handle := h, rootOnly := true, tree := [], branches := [],
      readyNs := if x.state == .idle then u.now else x.readyNs }) :
    exec (.reqGenerate qp msg) s = .next (taken (((u.putSess z).pushUpdate z.index).sendParams z
      (cut msg 32 (gnTokensAt msg - 32))) qp client msg) := by
  show execReqGenerate qp msg s = _
  have htakes : (u.draining || x.closing || !(x.state == .idle || (x.state == .prefilling && x.generation.isNone))) =
      false := by
    rcases hstate with h | ⟨h, hnone⟩
    · simp [hdrain, hopen, h]
    · simp [hdrain, hopen, h, hnone]
  have hclass : (x.cls == 0 && !u.interactiveFits x (genParamsAt msg 32)) = false := by
    by_cases hcls : x.cls = 0
    · simp [hcls, hinter hcls]
    · simp [hcls]
  refine congrArg Host.Outcome.next (request_session ha hof true _ ?_)
  subst hz hy hts hr
  simp only [htakes, hqueue, hentry, hbind, hclass, hkv, if_neg (Nat.not_lt.2 hfits), Bool.not_true, Bool.false_eq_true,
    if_false]

end

end

/-- Settles O21: an open, an append and a generation, by the lemma of each request. -/
theorem requestsOpenAppendAndGenerate : Obligations.RequestsOpenAppendAndGenerate := by
  unfold Obligations.RequestsOpenAppendAndGenerate
  intro s u v qp client msg x y z i h r ts hr hdrain hqueue
  refine ⟨reqOpen_of_room hr hdrain hqueue, fun hof hopen hkv hbind => ?ofSession⟩
  case ofSession =>
    exact ⟨reqAppend_of_allowed hr hdrain hqueue hof hopen hkv hbind, reqGenerate_of_allowed hr hdrain hqueue hof hopen hkv hbind⟩

end Sys2Proof.Proofs
end

section
/-! PROOFS. Requests that cancel, pause, resume and close, and what settles later (O22). -/

namespace Sys2Proof.Proofs

open Sys2Proof Sys2Proof.Machine Sys2Proof.Laws

/-- A request of a session of its client is given to its rule; at which epoch matters only to a rule that asks for it. -/
theorem request_of_client {s u v : State} {qp ty client : Nat} {msg : Bytes} {own : Nat → List (Bool × Nat × Nat)} {x : Sess}
    (ha : Asks s qp msg ty own u client) (hx : u.sessById (hdSession msg) = some x) (hclient : x.client = client)
    {rule : State → Nat → ReqRec → Option Sess → Verdict} (hrule : rule u client (asked u qp msg) (some x) = .yes v) :
    s.request qp msg ty own true false rule = taken v qp client msg :=
  request_asks ha true false rule (by simp [hx, hclient]) rfl (by rw [hx, hrule])

/-- A session that pauses or is paused takes a resume, unless the slice drains or the session closes. -/
theorem resume_due {u : State} {x : Sess} (hdrain : u.draining = false) (hopen : x.closing = false)
    (hstate : x.state = .pausing ∨ x.state = .paused) :
    (u.draining || x.closing || !(x.state == .pausing || x.state == .paused)) = false := by
  rcases hstate with h | h <;> simp [hdrain, hopen, h]

section

variable {s u v w : State} {qp client : Nat} {msg : Bytes} {x y z : Sess} {r : ReqRec}

section

/- The request names a session of its client. -/
variable (hr : r = asked u qp msg) (hx : u.sessById (hdSession msg) = some x) (hclient : x.client = client)

include hx hclient

/-! ### REQ_CANCEL (R209) -/

section

variable (ha : Asks s qp msg 4 (fun _ => noCount msg) u client)

include hr ha

theorem reqCancel_of_other_epoch (hepoch : x.epoch ≠ hdEpoch msg) :
    exec (.reqCancel qp msg) s = .next (taken (u.repDone x r rdCancelled) qp client msg) := by
  show execReqCancel qp msg s = _
  refine congrArg Host.Outcome.next (request_of_client ha hx hclient ?_)
  subst hr
  exact if_pos (by simp [Ne.symm hepoch])

theorem reqCancel_of_own_epoch (hepoch : x.epoch = hdEpoch msg) :
    exec (.reqCancel qp msg) s = .next (taken ((u.cancelSession x.index).modSess x.index fun y =>
      { y with cancels := y.cancels ++ [r] }) qp client msg) := by
  show execReqCancel qp msg s = _
  refine congrArg Host.Outcome.next (request_of_client ha hx hclient ?_)
  subst hr
  exact if_neg (by simp [hepoch])

end

/-! ### REQ_PAUSE and REQ_RESUME (R211, R151, R152) -/

section

variable (hepoch : x.epoch = hdEpoch msg) (hopen : x.closing = false) (hqueue : u.queueFull client = false)

include hr hepoch hopen hqueue

theorem reqPause_of_allowed
    (ha : Asks s qp msg 5 (fun _ => noCount msg ++
      [(rd 4 msg 32 == 0 || decide (s.setN setPauseTtlMax < rd 4 msg 32), stFieldRange, 0x20)]) u client)
    (hstate : x.state = .idle ∨ x.state = .generating) (hentry : cePause (u.clientEntry client) = true)
    (hz : z = { x with state := .pausing, pauseReq := some { r with ttl := rd 4 msg 32 } }) :
    exec (.reqPause qp msg) s = .next (taken ((u.putSess z).pushUpdate z.index) qp client msg) := by
  show execReqPause qp msg s = _
  have htakes : (x.closing || !(x.state == .idle || x.state == .generating)) = false := by
    rcases hstate with h | h <;> simp [hopen, h]
  refine congrArg Host.Outcome.next (request_session ha ⟨hx, hclient, hepoch⟩ true _ ?_)
  subst hz hr
  simp only [htakes, hqueue, hentry, Bool.not_true, Bool.false_eq_true, if_false]

section

variable (ha : Asks s qp msg 6 (fun _ => noCount msg) u client) (hdrain : u.draining = false)

include ha hdrain

theorem reqResume_of_paused (hstate : x.state = .paused) (hkv : u.srv.kvShortage = false)
    (hz : z = { x with state := .resuming, resumeReq := some r, pauseUntilNs := none }) :
    exec (.reqResume qp msg) s =
      .next (taken (((u.putSess z).pushUpdate z.index).tryRestore z.index) qp client msg) := by
  show execReqResume qp msg s = _
  have hpaused : (x.state == .pausing) = false := by simp [hstate]
  refine congrArg Host.Outcome.next (request_session ha ⟨hx, hclient, hepoch⟩ true _ ?_)
  subst hz hr
  simp only [resume_due hdrain hopen (.inr hstate), Bool.false_eq_true, if_false]
  simp only [hqueue, hpaused, hkv, Bool.false_eq_true, if_false]

/-- A pause in course is abandoned: its generation's and its own request are answered first. -/
theorem reqResume_of_pausing (hstate : x.state = .pausing)
    (hv : v = u.endGen x.index fun t x q => t.repDone x q rdGenPaused) (hy : v.sess? x.index = some y)
    (hw : w = requestDone v y rdAbandoned y.pauseReq)
    (hz : z = { y with state := if y.kvLen + 1 < y.n then .prefilling else .idle, pauseReq := none }) :
    exec (.reqResume qp msg) s = .next (taken ((((w.repDone y r rdResumed).freeImage y.index).putSess z).pushUpdate
      z.index) qp client msg) := by
  show execReqResume qp msg s = _
  have hpausing : (x.state == .pausing) = true := by simp [hstate]
  refine congrArg Host.Outcome.next (request_session ha ⟨hx, hclient, hepoch⟩ true _ ?_)
  subst hz hw hr
  simp only [resume_due hdrain hopen (.inl hstate), Bool.false_eq_true, if_false]
  simp only [hqueue, hpausing, ← hv, hy, Bool.false_eq_true, if_false, if_true]
  rfl

end

end

/-! ### REQ_CLOSE (R210) -/

include hr in
theorem reqClose_of_session (ha : Asks s qp msg 7 (fun _ => noCount msg) u client) :
    exec (.reqClose qp msg) s = .next (taken (u.beginClose x.index (some r)) qp client msg) := by
  show execReqClose qp msg s = _
  subst hr
  exact congrArg Host.Outcome.next (request_of_client ha hx hclient rfl)

end

end

/-! ### A message of no request type (R206) -/

theorem unknownType_of_whole {s : State} {qp : Nat} {msg : Bytes} {p : Qp} (hp : tget s.srv.qps qp = some p)
    (hlead : s.isLead = true) (htype : ¬(1 ≤ hdType msg ∧ hdType msg ≤ 7)) (hlong : 32 ≤ msg.length)
    (hlen : rd 4 msg 4 = msg.length) (hform : ∀ e ∈ reservedBad msg, e.1 = false) :
    exec (.unknownType qp msg) s =
      .next (s.refuseReq qp p.client msg (reasonStatus reUnknownType) reUnknownType 0) := by
  show execUnknownType qp msg s = _
  have hmine : (!s.isLead || (decide (1 ≤ hdType msg) && decide (hdType msg ≤ 7))) = false := by
    simpa [hlead] using htype
  have hpass : firstFail ([ (rd 4 msg 4 != msg.length || decide (msg.length < 32), stLenRange, 4) ] ++ reservedBad msg) =
      none := by
    refine firstFail_of_all fun e he => ?_
    rcases List.mem_append.1 he with hhead | hreserved
    · rw [List.mem_singleton.1 hhead]
      simp [hlen, Nat.not_lt.2 hlong]
    · exact hform e hreserved
  simp only [execUnknownType, hp, hmine, hpass, Bool.false_eq_true, if_false]

/-! ### What settles later (R209, R210, R215) -/

section

variable {s : State} {id t : Nat} {x : Sess} {r : ReqRec} (hx : s.sessById id = some x) (hlead : s.isLead = true)

include hx hlead

theorem cancelSettled_of_session : exec (.cancelSettled id) s = .next (s.settleCancel x) := by
  show execCancelSettled id s = _
  simp only [execCancelSettled, hx, hlead, if_true]

section

variable (hclosing : x.closing = true) (hheld : x.held = false)

include hclosing hheld

/-- No step in flight holds the closing session: it is freed, and its closes are answered. -/
theorem closeSettled_of_free : exec (.closeSettled id) s =
    .next (if x.closes.isEmpty then (s.freeSession x.index).replyFree x rpDone rdClosed x.n
      else x.closes.foldl (fun a r => a.repDone x r rdClosed) (s.freeSession x.index)) := by
  show execCloseSettled id s = _
  have hfree : (!s.isLead || !x.closing || x.held) = false := by simp [hlead, hclosing, hheld]
  simp only [execCloseSettled, hx, hfree, Bool.false_eq_true, if_false]

theorem closeSettled_unasked (hnone : x.closes = []) :
    exec (.closeSettled id) s = .next ((s.freeSession x.index).replyFree x rpDone rdClosed x.n) := by
  rw [closeSettled_of_free hx hlead hclosing hheld, if_pos (by simp [hnone])]

theorem closeSettled_asked (hsome : x.closes ≠ []) : exec (.closeSettled id) s =
    .next (x.closes.foldl (fun a r => a.repDone x r rdClosed) (s.freeSession x.index)) := by
  rw [closeSettled_of_free hx hlead hclosing hheld, if_neg (by simp [hsome])]

end

theorem kvWaitExpiry_of_late (hwait : x.waitingNs = some t) (hlate : t + s.setN setKvWaitMax * 1000000 < s.now) :
    exec (.kvWaitExpiry id) s = .next (((s.advanceEpoch (s.kvVictim x).index).failPending (s.kvVictim x).index
      reKvFull).count ctKvFullEnds 0 1) := by
  show execKvWaitExpiry id s = _
  have hdue : (!s.isLead || decide (s.now ≤ t + s.setN setKvWaitMax * 1000000)) = false := by
    simp [hlead, hlate]
  simp only [execKvWaitExpiry, hx, hwait, hdue, Bool.false_eq_true, if_false]

end

/-- Settles O22: each request by the lemma of its case, the refusal of an unknown type, and the two settlements and the
expiry of a wait. -/
theorem requestsCancelPauseResumeAndClose : Obligations.RequestsCancelPauseResumeAndClose := by
  unfold Obligations.RequestsCancelPauseResumeAndClose
  intro s u v qp client msg x y z r id
  refine ⟨fun hr hx hclient => ⟨fun ha => ?cancel, ?pause, ?resume, reqClose_of_session hr hx hclient⟩,
    fun p => unknownType_of_whole, fun hx hlead => ⟨cancelSettled_of_session hx hlead, fun hclosing hheld => ?close,
      fun t => kvWaitExpiry_of_late hx hlead⟩⟩
  case cancel => exact ⟨reqCancel_of_other_epoch hr hx hclient ha, reqCancel_of_own_epoch hr hx hclient ha⟩
  case pause =>
    intro ha hepoch hopen hstate hqueue hentry hz
    exact reqPause_of_allowed hr hx hclient hepoch hopen hqueue ha hstate hentry hz
  case resume =>
    intro ha hepoch hdrain hopen hqueue
    refine ⟨reqResume_of_paused hr hx hclient hepoch hopen hqueue ha hdrain, fun w hstate hv hy hw => ?pausing⟩
    exact reqResume_of_pausing hr hx hclient hepoch hopen hqueue ha hdrain hstate hv hy hw
  case close => exact ⟨closeSettled_unasked hx hlead hclosing hheld, closeSettled_asked hx hlead hclosing hheld⟩

end Sys2Proof.Proofs
end

section
/-! PROOFS. Steps as the lead composes them and as their messages reach a module (O23). -/

namespace Sys2Proof.Proofs

open Sys2Proof Sys2Proof.Machine Sys2Proof.Laws

/-! ### STEP_COMPOSE (R83, R216) -/

section

variable {s u v w : State} {ver pre ready : List Sess} {verify : Bool} {q : Comp}

/- The lead may compose: `u` is the slice past its step boundary, `v` the same with its restores tried, and `ver` and `pre` are
the sessions ready there to verify and to prefill. -/
variable (hmay : s.mayCompose = true)
  (hu : u = (((s.closeDarkslide).assignCommits (s.steps.composed + 1)).installPending))
  (hv : v = (u.allSess.map (·.index)).foldl (fun (a : State) i => a.tryRestore i) u)
  (hver : ver = v.allSess.filter v.readyVerify) (hpre : pre = v.allSess.filter v.readyPrefill)

include hmay hu hv hver hpre

theorem stepCompose_of_none_ready (hkind : v.nextKind ver pre = none) :
    exec .stepCompose s = .next (s.noteState v.settleDrain) := by
  show execStepCompose s = _
  subst hpre hver
  simp only [execStepCompose, hmay, ← hu, ← hv, hkind, Bool.not_true, Bool.false_eq_true, if_false]

theorem stepCompose_of_ready (hkind : v.nextKind ver pre = some verify) (hready : ready = if verify then ver else pre)
    (hw : w = v.topUp ((ready.map fun (y : Sess) => y.client).foldl addNew []))
    (hq : q = ([0, 1, 2].foldl (fun (c : Comp) cls => c.fill (w.plan.attns w.adp.perHb) verify cls ready.length)
      { st := w, left := ready.map (w.cand verify) })) :
    exec .stepCompose s = .next (s.noteState (q.finish verify ver).settleDrain) := by
  show execStepCompose s = _
  subst hq hw hready hpre hver
  simp only [execStepCompose, hmay, ← hu, ← hv, hkind, Bool.not_true, Bool.false_eq_true, if_false]

end

/-! ### The messages of a step (R83, R137, R116, R258) -/

section

variable {s u v : State} {port : Nat} {k : Packet} {m : Msg} {t : Step} {e : Bytes} {bad : Bool}

/-- What a whole message's rule makes of it is the next state. -/
theorem next_hears {msg : Nat} (hh : Hears s port k msg u m) {rule : State → Msg → State} (hrule : rule u m = v) :
    (.next (s.recvMsg port k msg rule) : Ret) = .next v := by
  rw [recvMsg_hears hh, hrule]

theorem sessionTable_of_step (hh : Hears s port k mSessionTable u m) (hrsv : m.entries.any srowRsv = false)
    (htakes : u.takesStep m.step = true) :
    exec (.sessionTable port k) s = .next (((u.hearStep m.step).modStep m.step fun t =>
      t.putHb m.hb { t.hb m.hb with rows := m.entries.map srowOf } m.hb).onKv fun k => { k with
        commits := k.commits.filter (fun c => !(c.2 < m.step && (m.entries.map srowOf).any fun r => r.session == c.1)) ++
          (m.entries.map srowOf).map fun r => (r.session, m.step) }) := by
  refine next_hears hh ?_
  rw [if_neg (by simp [hrsv]), if_neg (by simp [htakes])]

theorem sessionTable_of_malformed (hh : Hears s port k mSessionTable u m) (hrsv : m.entries.any srowRsv = true) :
    exec (.sessionTable port k) s = .next (u.badMsg port m) := by
  refine next_hears hh ?_
  rw [if_pos hrsv]

theorem attnRecords_of_step (hh : Hears s port k mAttnRecords u m) (hrsv : m.entries.any arecRsv = false)
    (htakes : u.takesStep m.step = true)
    (hv : v = (u.hearStep m.step).modStep m.step (fun t => { t.putHb m.hb { t.hb m.hb with recs := m.entries.map arecOf } (2 + m.hb) with
      verify := t.verify || (m.entries.map arecOf).any fun r => !recPrefill r }))
    (ht : v.step? m.step = some t)
    (hbad : bad = (t.rows.length < m.entries.length || [(t.hb0, t.got.contains 0 && t.got.contains 2),
      (t.hb1, t.got.contains 1 && t.got.contains 3)].any fun h => h.2 && (h.1.rows.zip h.1.recs).any fun e =>
        t.verify && !recOk e.2 e.1.rows)) :
    exec (.attnRecords port k) s = .next (
      if bad then v.stepFault fltKvTree noUnit m.step
      else if !t.verify then v
      else ((t.hb m.hb).rows.zip (m.entries.map arecOf)).foldl (fun (a : State) e => a.modSess (e.1.session % 4096) fun x =>
        if x.id = e.1.session then x.takeTree e.2 e.1.rows else x) v) := by
  refine next_hears hh ?_
  rw [if_neg (by simp [hrsv]), if_neg (by simp [htakes])]
  dsimp only at hv ⊢
  rw [← hv]
  simp only [ht, hbad, List.length_map]

theorem promotion_of_whole (hh : Hears s port k mPromotion u m) (hrsv : (m.entries.any fun b => rd 8 b 8 != 0) = false) :
    exec (.promotion port k) s =
      .next (m.entries.foldl (fun a b => a.notePromotion (rd 4 b 0) (rd 2 b 4)) u) := by
  refine next_hears hh ?_
  rw [if_neg (by simp [hrsv])]

theorem stepReport_of_lead (hh : Hears s port k mStepReport u m) (hent : m.entries = [e]) (hcause : rd 4 e 4 < 16)
    (hrsv : rd 8 e 8 = 0) (hlead : u.isLead = true) :
    exec (.stepReport port k) s = .next (u.noteState (u.noteReport m.src m.step (rd 4 e 0) (rd 4 e 4))) := by
  refine next_hears hh ?_
  rw [hent, List.headD_cons, if_neg (by simp [hrsv, Nat.div_eq_of_lt hcause]), if_pos hlead]

end

/-- Settles O23: a composition with and without a ready session, and each message of a step, by the lemma of its case. -/
theorem stepsAreComposedAndAnnounced : Obligations.StepsAreComposedAndAnnounced := by
  unfold Obligations.StepsAreComposedAndAnnounced
  intro s u v port k m t e ver pre ready verify bad
  refine ⟨fun hmay hu hv hver hpre => ?compose, sessionTable_of_step, attnRecords_of_step, sessionTable_of_malformed,
    promotion_of_whole, stepReport_of_lead⟩
  case compose =>
    exact ⟨stepCompose_of_none_ready hmay hu hv hver hpre, fun w q => stepCompose_of_ready hmay hu hv hver hpre⟩

end Sys2Proof.Proofs
end

section
/-! PROOFS. What a module that is not the lead keeps of sessions, and how trees are drafted and sampled (O25). -/

namespace Sys2Proof.Proofs

open Sys2Proof Sys2Proof.Machine Sys2Proof.Laws

/-! ### Messages of sessions, trees and outcomes (R166, R194, R228, R230) -/

section

variable {s u : State} {port : Nat} {k : Packet} {m : Msg} {x : Sess} {b e0 e1 : Bytes} {items : List (Nat × Word32)}

theorem sessionUpdate_of_follower (hh : Hears s port k mSessionUpdate u m) (hlead : u.isLead = false) :
    exec (.sessionUpdate port k) s = .next (m.entries.foldl (fun a b => a.takeUpdate b) u) := by
  refine next_hears hh ?_
  rw [if_neg (by simp [hlead])]

theorem genParams_of_follower (hh : Hears s port k mGenParams u m) (hlead : u.isLead = false) (hb : b = m.entries.flatMap id)
    (hx : u.sessById (rd 4 b 0) = some x) :
    exec (.genParams port k) s =
      .next (u.putSess { x with gen := some (genParamsAt (b.drop 16) 0), rootOnly := true, tree := [], branches := [] }) := by
  refine next_hears hh ?_
  simp only [← hb, hx, hlead, Bool.false_eq_true, if_false]

theorem draftTree_of_whole (hh : Hears s port k mDraftTree u m)
    (hlen : 2 + (parseBranch m.entries).2.tree.length ≤ m.entries.length) (htree : (parseBranch m.entries).2.tree ≠ []) :
    exec (.draftTree port k) s = .next (u.takeBranch (parseBranch m.entries).1 m.step (parseBranch m.entries).2) := by
  refine next_hears hh ?_
  rw [if_neg (by simp [htree, Nat.not_lt.2 hlen])]

section

/- An OUTCOME of two head entries and the items that it counts. -/
variable (hh : Hears s port k mOutcome u m) (hhead : m.entries.take 2 = [e0, e1])
  (hitems : items = (m.entries.drop 2).map (fun e => (rd 4 e 0, w32 (rd 4 e 4))))
  (hcount : items.length = bitsOf (rd 4 e0 4) 20 16) (hmax : items.length ≤ 16)

include hh hhead hitems hcount hmax

/-- It goes to the lead's session, or to what another module keeps of the session. -/
theorem outcome_of_whole : exec (.outcome port k) s =
    .next (if u.isLead then u.noteState (u.leadOutcome (rd 4 e0 0) (rd 2 e0 4) (rd 8 e1 0) m.step items)
      else u.noteOutcome (rd 4 e0 0) (rd 2 e0 4) (rd 8 e1 0) items) := by
  obtain ⟨rest, hent⟩ : ∃ rest, m.entries = e0 :: e1 :: rest :=
    ⟨m.entries.drop 2, by rw [← List.take_append_drop 2 m.entries, hhead]; rfl⟩
  refine next_hears hh ?_
  subst hitems
  rw [hent] at hcount hmax ⊢
  have hwhole := And.intro hcount hmax
  rw [if_neg (by simpa using hwhole)]
  rfl

theorem outcome_of_lead (hlead : u.isLead = true) : exec (.outcome port k) s =
    .next (u.noteState (u.leadOutcome (rd 4 e0 0) (rd 2 e0 4) (rd 8 e1 0) m.step items)) := by
  rw [outcome_of_whole hh hhead hitems hcount hmax, if_pos hlead]

theorem outcome_of_follower (hlead : u.isLead = false) : exec (.outcome port k) s =
    .next (u.noteOutcome (rd 4 e0 0) (rd 2 e0 4) (rd 8 e1 0) items) := by
  rw [outcome_of_whole hh hhead hitems hcount hmax, if_neg (by simp [hlead])]

end

end

/-! ### Drafts (R224) -/

section

variable {s : State} {session step : Nat} {x : Sess} {g : GenParams} {logits : List (List Word32)} {tree : List TreeRow}
  {made : List Branch × State}

theorem draftStep_of_generating (hx : s.sessById session = some x) (hg : x.gen = some g) (hdraft : s.wts.draft.isSome = true)
    (hproof : s.plan.proofModule x.index = s.index) (hstate : x.state = .generating) (hbusy : s.sliceBusy = true)
    (hstep : step = (s.steps.live.filter fun t => (t.find session).isSome).foldl (fun m t => max m t.seq) 0)
    (htree : tree = (if x.tree.length ≤ 1 then
      [⟨x.lastTok, 0, 0, (logits.map (draftQ g (s.windowOf x g x.kvLen [x.lastTok]))).headD []⟩] else x.tree))
    (hmade : made = s.buildBranches x g (decide (x.tree.length ≤ 1)) (branchOutcomes tree (s.setN setDraftAhead))
      (if x.tree.length ≤ 1 then (logits.map (draftQ g (s.windowOf x g x.kvLen [x.lastTok]))).tail
        else logits.map (draftQ g (s.windowOf x g x.kvLen [x.lastTok])))) :
    exec (.draftStep session logits) s = .next (made.1.foldl (fun (a : State) b => a.takeBranch x.id step b)
      (made.1.foldl (fun (a : State) b => ((addNew [s.plan.leadIndex] (s.plan.sampleModule x.index)).filter (· != s.index)).foldl
        (fun (c : State) d => c.sendMsg d mDraftTree 0 step (branchEntries x.id b)) a) made.2)) := by
  show execDraftStep session logits s = _
  have hdrafts : (s.wts.draft.isNone || s.plan.proofModule x.index != s.index || x.state != .generating || !s.sliceBusy) =
      false := by
    simp [← Option.not_isSome, hdraft, hproof, hstate, hbusy]
  subst hmade htree hstep
  simp only [execDraftStep, hx, hg, hdrafts, Bool.false_eq_true, if_false]

end

/-! ### Logits (R220) -/

section

variable {s u : State} {session row hb : Nat} {x : Sess} {t : Step} {e : SRow} {r : ARec} {remote : List (Nat × List Word32)}
  {zs : List (Option (List Word32))}

theorem samplingRow_of_sampled (hx : s.sessById session = some x) (hmine : s.plan.sampleModule x.index = s.index)
    (hfind : (s.steps.live.findSome? fun t => (t.find session).map fun e => (t, e)) = some (t, hb, e, r))
    (hrow : (sampledRows t.verify e).contains row = true) (hentered : t.entered = true)
    (hu : u = (s.onSrv fun v => { v with
      logits := v.logits.filter (fun l => !(l.session == session && l.step == t.seq && l.row == row)) ++
        [{ ((s.srv.logits.find? fun l => l.session == session && l.step == t.seq && l.row == row).getD
            { session := session, step := t.seq, row := row, ranges := [] }) with
           ranges := ((s.srv.logits.find? fun l => l.session == session && l.step == t.seq && l.row == row).getD
            { session := session, step := t.seq, row := row, ranges := [] }).ranges ++ remote }] }))
    (hzs : zs = (sampledRows t.verify e).map (fun i =>
      (u.srv.logits.find? fun l => l.session == session && l.step == t.seq && l.row == i).bind fun l =>
        coverLogits s.plan.vocab l.ranges)) :
    exec (.samplingRow session row remote) s = .next (if zs.all (·.isSome) then
      s.noteState (u.sampleSession x t e r (zs.map fun z => z.getD [])) else u) := by
  show execSamplingRow session row remote s = _
  have hhere : (s.plan.sampleModule x.index != s.index) = false := by simp [hmine]
  have hdue : (!(sampledRows t.verify e).contains row || !t.entered) = false := by rw [hrow, hentered]; rfl
  subst hzs hu
  simp only [execSamplingRow, hx, hhere, hfind, hdue, Bool.false_eq_true, if_false]

end

/-- Settles O25: each message of a session, a tree or an outcome, a draft and a row's logits, by the lemma of each. -/
theorem followersTrackSessionsAndTrees : Obligations.FollowersTrackSessionsAndTrees := by
  unfold Obligations.FollowersTrackSessionsAndTrees
  intro s u v port k m x h e0 e1 b session row step g items logits tree zs made t hb e r remote
  refine ⟨sessionUpdate_of_follower, genParams_of_follower, draftTree_of_whole, fun hh hhead hitems hcount hmax => ?outcome,
    draftStep_of_generating, samplingRow_of_sampled⟩
  case outcome =>
    exact ⟨outcome_of_lead hh hhead hitems hcount hmax, outcome_of_follower hh hhead hitems hcount hmax⟩

end Sys2Proof.Proofs
end

section
/-! PROOFS. The verification of a copy, the digest sweep and the backing copies in T3 (O4). -/

namespace Sys2Proof.Proofs

open Sys2Proof Sys2Proof.Machine Sys2Proof.Laws

/-! ### The verification of a copy begins (R250) -/

/-- What OP_SHARD_VERIFY may name by its kind: a WEIGHT shard of the plan, in a generation; an ADAPTER shard, in none. -/
def NamesCopy (t : State) (c : Cmd) : Prop :=
  rd 4 c.pay 0 = kWeight ∧ rd 4 c.pay 8 ≠ 0 ∧ rd 4 c.pay 8 ≠ 0xFFFFFFFF ∧ t.wts.main.isSome = true ∧
    (t.shardEnt (rd 4 c.pay 4)).isSome = true ∨
  rd 4 c.pay 0 = kAdapter ∧ rd 4 c.pay 8 = 0

/-- The checks of OP_SHARD_VERIFY's fields (R250). -/
def verifyFields (c : Cmd) : List (Bool × Nat × Nat) :=
  let k := rd 4 c.pay 0 % 4
  lenIs c 0x40 ++
  [ (k == 0 || k == 3, stFieldRange, payOff 0), (decide (4 ≤ rd 4 c.pay 0), stFieldRange, payOff 0),
    (rd 4 c.pay 4 == 0 || rd 4 c.pay 4 == 0xFFFFFFFF, stFieldRange, payOff 4),
    (if k = 1 then rd 4 c.pay 8 == 0 || rd 4 c.pay 8 == 0xFFFFFFFF else rd 4 c.pay 8 != 0, stFieldRange, payOff 8),
    (rd 4 c.pay 0x0C != 0, stFieldRange, payOff 0x0C) ]

/-- The shard map's entry of the copy that OP_SHARD_VERIFY names: of a WEIGHT shard only. -/
def verifyEnt (t : State) (c : Cmd) : Option (PlanObj × List Nat) :=
  if rd 4 c.pay 0 = kWeight then t.shardEnt (rd 4 c.pay 4) else none

section

variable {s t : State} {q : Req} {c : Cmd} {x : ShardCopy} {want : Option Bytes}

theorem NamesCopy.kind_mod (h : NamesCopy t c) : rd 4 c.pay 0 % 4 = rd 4 c.pay 0 := by
  rcases h with ⟨hk, -⟩ | ⟨hk, -⟩ <;> rw [hk] <;> rfl

theorem NamesCopy.plan_present (h : NamesCopy t c) : (decide (rd 4 c.pay 0 = kWeight) && t.wts.main.isNone) = false := by
  rcases h with ⟨-, -, -, hmain, -⟩ | ⟨hk, -⟩
  · simp [← Option.not_isSome, hmain]
  · simp [hk, kWeight, kAdapter]

theorem NamesCopy.ent_present (h : NamesCopy t c) :
    (decide (rd 4 c.pay 0 = kWeight) && (verifyEnt t c).isNone) = false := by
  rcases h with ⟨hk, -, -, -, hent⟩ | ⟨hk, -⟩
  · simp [verifyEnt, hk, ← Option.not_isSome, hent]
  · simp [hk, kWeight, kAdapter]

/-- A payload's digest passes where it is left zero or is the one to be expected. -/
theorem digest_accepted {given d : Bytes} (h : allZero given = true ∨ some d = none ∨ some d = some given) :
    (!allZero given && given != d) = false := by
  rcases h with hzero | hnone | hsame
  · simp [hzero]
  · cases hnone
  · simp [Option.some.inj hsame]

section

/- The command is found, its fields are in range, and no running command holds the copy that it names. -/
variable (hf : Finds s q t c 0x0203 0x40) (hkind : NamesCopy t c) (hid : rd 4 c.pay 4 ≠ 0) (hids : rd 4 c.pay 4 ≠ 0xFFFFFFFF)
  (hrsv : rd 4 c.pay 0x0C = 0)

include hf hkind hid hids hrsv

theorem verifyFields_pass : ∀ y ∈ verifyFields c, y.1 = false := by
  rcases hkind with ⟨hk, hgen, hgens, -⟩ | ⟨hk, hgen⟩
  · simp [verifyFields, lenIs, hf.lenEq, hk, hid, hids, hgen, hgens, hrsv, kWeight]
  · simp [verifyFields, lenIs, hf.lenEq, hk, hid, hids, hgen, hrsv, kAdapter]

variable (hfree : objFree t (objCopy (rd 4 c.pay 0) (rd 4 c.pay 4) (rd 4 c.pay 8)))
  (hcopy : t.copy? (rd 4 c.pay 0) (rd 4 c.pay 4) (rd 4 c.pay 8) = some x)

include hfree hcopy

theorem opShardVerify_of_verified (hstate : x.state = .verified) :
    exec (.opShardVerify q) s = .next (endsIn t c (verifyBytes .verified none)) := by
  refine congrArg Host.Outcome.next (runOp_done hf rfl ?checks ?act)
  case checks => exact verifyFields_pass hf hkind hid hids hrsv
  case act =>
    have hent := hkind.ent_present
    unfold verifyEnt at hent
    simp only [hkind.kind_mod, hkind.plan_present, hent, objAct_free hfree, hcopy, hstate, Bool.false_eq_true, if_false]

/-- The digest to be expected is the map entry's where it gives one, and the payload's where it does not. -/
theorem opShardVerify_of_written (hstate : x.state = .writing) (hall : covered x.totalLen x.data = true)
    (hwant : (verifyEnt t c).bind (fun e => t.mapDigest e (rd 4 c.pay 8)) = want)
    (hdigest : allZero (cut c.pay 0x10 48) = true ∨ want = none ∨ want = some (cut c.pay 0x10 48)) :
    exec (.opShardVerify q) s = .next (runsIn (t.putCopy { x with state := .verifying }) c
      (objCopy (rd 4 c.pay 0) (rd 4 c.pay 4) (rd 4 c.pay 8)) [] (want.getD (cut c.pay 0x10 48))) := by
  refine congrArg Host.Outcome.next (runOp_long hf rfl ?checks ?act rfl)
  case checks => exact verifyFields_pass hf hkind hid hids hrsv
  case act =>
    have hent := hkind.ent_present
    unfold verifyEnt at hent hwant
    simp only [hkind.kind_mod, hkind.plan_present, hent, objAct_free hfree, hcopy, hstate, hall, Bool.not_true,
      Bool.false_eq_true, if_false]
    generalize (if rd 4 c.pay 0 = kWeight then t.shardEnt (rd 4 c.pay 4) else none) = ent at hwant ⊢
    subst hwant
    cases ent with
    | none => rfl
    | some e =>
      cases hd : t.mapDigest e (rd 4 c.pay 8) with
      | none => simp only [hd, Option.bind_some, Option.getD_none]
      | some d =>
        have hsame := digest_accepted (by simpa only [Option.bind_some, hd] using hdigest)
        simp only [hd, hsame, Option.bind_some, Option.getD_some, Bool.false_eq_true, if_false]

end

end

/-! ### The verification ends (R250) -/

section

variable {s : State} {kind id gen : Nat} {r : Running} {x : ShardCopy} {narrow : Bytes}

/- The verify runs, its copy is VERIFYING, and the copy's bytes develop. -/
variable (hr : s.mbox.running.find? (fun r => r.opcode == 0x0203 && r.obj == objCopy kind id gen) = some r)
  (hcopy : s.copy? kind id gen = some x) (hstate : x.state = .verifying)
  (hdev : develop x.coded x.length x.bytes = .ok narrow)

include hr hcopy hstate hdev

theorem shardVerifyDone_of_match (hd : sha384 narrow = r.body) : exec (.shardVerifyDone kind id gen) s =
    .next ((s.shardVerified x narrow (sha384 narrow)).finishRun r stOk 0 (verifyBytes .verified none)) := by
  show execShardVerifyDone kind id gen s = _
  simp only [execShardVerifyDone, hr, hcopy, hstate, hdev, hd, bne_self_eq_false, Bool.false_eq_true, if_false]

theorem shardVerifyDone_of_mismatch (hd : sha384 narrow ≠ r.body) : exec (.shardVerifyDone kind id gen) s =
    .next (((s.putCopy { x with state := .failed }).count ctShardFailed 0 1).finishRun r stDigestMismatch 0
      (verifyBytes .failed none)) := by
  show execShardVerifyDone kind id gen s = _
  simp only [execShardVerifyDone, hr, hcopy, hstate, hdev, bne_self_eq_false, Bool.false_eq_true, if_false,
    if_pos (bne_iff_ne.2 hd)]

end

/-! ### Digest sweeps (R253, R254) -/

section

variable {s t u : State} {q : Req} {c : Cmd} {r : Sweep} {a b : State × Nat} {n : Nat}

theorem opDigestSweep_of_finds (hf : Finds s q t c 0x0206 4) (hstart : rd 4 c.pay 0 ≤ 1)
    (hu : u = (if rd 4 c.pay 0 = 1 && t.wts.sweep.isNone then
      (if t.wts.swap.isSome then t.onWts fun w => { w with sweepAfterSwap := true } else t.beginSweep) else t)) :
    exec (.opDigestSweep q) s = .next (endsIn u c (le 4 (u.wts.sweep.getD ⟨0, 0, 0, 0⟩).done ++
      le 4 (u.wts.sweep.getD ⟨0, 0, 0, 0⟩).total ++ le 4 (u.wts.sweep.getD ⟨0, 0, 0, 0⟩).mismatch ++
      le 4 (b2n u.wts.sweep.isSome))) := by
  show execOpDigestSweep q s = _
  unfold execOpDigestSweep
  subst hu
  congr 1
  refine runOp_done hf rfl ?checks rfl
  case checks => simp [lenIs, hf.lenEq, lt_false hstart]

/-- The shards are swept one after another, then the staged copies; a sweep without a mismatch is noted as the last clean one. -/
theorem sweepDone_of_sweep (hr : s.wts.sweep = some r)
    (ha : a = s.shardEnts.foldl (fun (a : State × Nat) x => ((a.1.sweepShard x).1, a.2 + (a.1.sweepShard x).2)) (s, 0))
    (hb : b = a.1.sweepStaged) (hn : n = a.2 + b.2) :
    exec .sweepDone s = .next (((b.1.onWts fun w => { w with
      sweep := none, sweepCleanS := if n = 0 then s.clock.lifeS else w.sweepCleanS }).count ctSweepMismatch 0 n).event
        evSweepDone noUnit (s.now - r.startNs) n) := by
  show execSweepDone s = _
  subst hn hb ha
  simp only [execSweepDone, hr]

theorem sweepPeriod_of_idle (hup : s.l2Up = true) (hsweep : s.wts.sweep = none) (hswap : s.wts.swap = none) :
    exec .sweepPeriod s = .next s.beginSweep := by
  show execSweepPeriod s = _
  simp [execSweepPeriod, hup, hsweep, hswap]

theorem sweepPeriod_of_running (hup : s.l2Up = true) (hsweep : s.wts.sweep = some r) :
    exec .sweepPeriod s = .next (s.event evSweepLate noUnit) := by
  show execSweepPeriod s = _
  simp [execSweepPeriod, hup, hsweep]

end

/-! ### Backing copies in T3 (R241) -/

theorem backingCopyDone_of_room {s : State} {id : Nat} {x : ShardCopy} (hcopy : s.copy? kWeight id s.wts.curGen = some x)
    (ht3 : s.wts.t3InService = true) (hstate : x.state = .verified) (hrole : x.role = roleBacking) (hin : x.inT3 = false)
    (hroom : pagesOf x.totalLen ≤ s.t3Free) :
    exec (.backingCopyDone id) s = .next ((s.putCopy { x with inT3 := true }).countBw 3 bwBackground x.totalLen) := by
  show execBackingCopyDone id s = _
  simp [execBackingCopyDone, hcopy, ht3, hstate, hrole, hin, hroom]

/-- Settles O4: a verification's start and end, the digest sweep's command, end and period, and a backing copy's move. -/
theorem copiesAreVerifiedAndSwept : Obligations.CopiesAreVerifiedAndSwept := by
  unfold Obligations.CopiesAreVerifiedAndSwept
  intro s t q c
  refine ⟨?start, ?judged, fun _ => opDigestSweep_of_finds, fun _ _ _ _ => sweepDone_of_sweep, sweepPeriod_of_idle,
    fun _ => sweepPeriod_of_running, fun _ _ => backingCopyDone_of_room⟩
  case start =>
    intro x hf hkind hid hids hrsv hfree hcopy
    exact ⟨opShardVerify_of_verified hf hkind hid hids hrsv hfree hcopy,
      fun hstate hall _ => opShardVerify_of_written hf hkind hid hids hrsv hfree hcopy hstate hall⟩
  case judged =>
    intro kind id gen r x narrow hr hcopy hstate hdev
    exact ⟨shardVerifyDone_of_match hr hcopy hstate hdev, shardVerifyDone_of_mismatch hr hcopy hstate hdev⟩

end Sys2Proof.Proofs
end

section
/-! PROOFS. The weight swap, the plan unload and the streamed fetches (O5). -/

namespace Sys2Proof.Proofs

open Sys2Proof Sys2Proof.Machine Sys2Proof.Laws

/-! ### OP_WEIGHT_SWAP (R260) -/

section

variable {s t u : State} {q : Req} {c : Cmd}

/- The command is found, its fields are in range, and every module holds the newer generation that its digest names (what the
others report is left open by log entry 86). -/
variable (hf : Finds s q t c 0x0204 0x40) (hgen : rd 4 c.pay 0 ≠ 0) (hgens : rd 4 c.pay 0 ≠ 0xFFFFFFFF)
  (hmode : rd 4 c.pay 4 ≤ 1) (hrsv : rd 8 c.pay 8 = 0) (hmain : t.wts.main.isSome = true) (hswap : t.wts.swap = none)
  (hnew : t.wts.curGen < rd 4 c.pay 0) (hmine : t.allVerified (rd 4 c.pay 0) = true)
  (hothers : ∀ m ∈ t.others, otherVerified m (rd 4 c.pay 0) = true)
  (hdigest : cut c.pay 0x10 48 = t.sliceManifest (rd 4 c.pay 0))
  (hu : u = t.onWts fun w => { w with
    swap := some { newGen := rd 4 c.pay 0, discard := decide (rd 4 c.pay 4 = 1), port := c.port, slot := c.slot
                   closedNs := none, writing := none, phase := 0, reports := [] }
    sweep := none, sweepAfterSwap := w.sweepAfterSwap || w.sweep.isSome })

include hmain hswap hnew hmine hothers hdigest in
/-- No check of the slice's state refuses the swap. -/
theorem swapChecks_pass : firstFail
    [ (t.wts.main.isNone, stStateDenied, 0), (t.wts.swap.isSome, stBusy, 0),
      (decide (rd 4 c.pay 0 ≤ t.wts.curGen), stVersion, payOff 0),
      (!(t.allVerified (rd 4 c.pay 0) && t.others.all fun m => otherVerified m (rd 4 c.pay 0)), stStateDenied, payOff 0),
      (cut c.pay 0x10 48 != t.sliceManifest (rd 4 c.pay 0), stDigestMismatch, payOff 0x10) ] = none := by
  have hall : (t.others.all fun m => otherVerified m (rd 4 c.pay 0)) = true := List.all_eq_true.2 hothers
  simp only [firstFail, ← Option.not_isSome, hmain, hswap, le_false hnew, hmine, hall, hdigest, Option.isSome_none, Bool.and_self,
    Bool.not_true, bne_self_eq_false, Bool.false_eq_true, if_false]

include hf hgen hgens hmode hrsv hmain hswap hnew hmine hothers hdigest hu

theorem opWeightSwap_of_running (hrun : t.sliceRunning = true) :
    exec (.opWeightSwap q) s = .next (runsIn u c objSwap [] []) := by
  subst hu
  refine congrArg Host.Outcome.next (runOp_long hf rfl ?checks ?act rfl)
  case checks => simp [lenIs, hf.lenEq, hgen, hgens, lt_false hmode, hrsv]
  case act => simp only [swapChecks_pass hmain hswap hnew hmine hothers hdigest, if_pos hrun]

/-- On a stopped slice every home is written at once. -/
theorem opWeightSwap_of_stopped (hrun : t.sliceRunning = false) : exec (.opWeightSwap q) s = .next (endsIn
    (((((u.finishSwapWrites).onWts fun w => { w with swap := none }).swapKv (decide (rd 4 c.pay 4 = 1)) (rd 4 c.pay 0)).count
      ctSwaps 0 1).resumeSweep) c (le 8 0)) := by
  subst hu
  refine congrArg Host.Outcome.next (runOp_done hf rfl ?checks ?act)
  case checks => simp [lenIs, hf.lenEq, hgen, hgens, lt_false hmode, hrsv]
  case act =>
    simp only [swapChecks_pass hmain hswap hnew hmine hothers hdigest, hrun, Bool.false_eq_true, if_false]

end

/-! ### The homes of a phase and the darkslide (R261, R262) -/

section

variable {s u v : State} {phase : Nat} {r : SwapRun}

theorem homePhaseWrite_of_due (hr : s.swapHere = some r) (hidle : r.writing = none) (hphase : r.phase = phase)
    (hpost : phase ≤ s.plan.postPhase) (hs0 : s.pwr.state = .s0) (hold : (s.oldStepsBefore phase).isEmpty = true) :
    exec (.homePhaseWrite phase) s = .next (s.onWts fun w => { w with swap := some { r with writing := some phase } }) := by
  show execHomePhaseWrite phase s = _
  simp only [execHomePhaseWrite, hr]
  rw [if_neg (by simp [hidle, hphase, hpost, hs0, hold])]

theorem homePhaseWritten_of_layer (hr : s.wts.swap = some r) (hwriting : r.writing = some phase)
    (hpost : phase ≠ s.plan.postPhase) :
    exec (.homePhaseWritten phase) s = .next (((s.writeHomes r.newGen phase).countBw 2 bwSwap 0).onWts fun w => { w with
      homeGens := tset w.homeGens phase r.newGen
      swap := some { r with writing := none, phase := phase + 1, reports := [] } }) := by
  show execHomePhaseWritten phase s = _
  simp only [execHomePhaseWritten, hr]
  rw [if_neg (by simp [hwriting]), if_pos (bne_iff_ne.2 hpost)]

/-- KV_DISCARD takes the held steps back (log entry 109); KV_KEEP lets them go with their tables. -/
theorem darkslideOpen_of_lead (hr : s.wts.swap = some r) (hlead : s.isLead = true) (hpost : s.plan.postPhase < r.phase)
    (hidle : r.writing = none)
    (hu : u = ((((((s.becomeCurrent r.newGen).onWts fun w => { w with swap := none }).count ctSwapHold 0
      (s.now - r.closedNs.getD s.now)).count ctSwaps 0 1).onSrv fun v => { v with held := false }).swapKv r.discard r.newGen))
    (hv : v = (if r.discard then ((u.steps.live.filter (·.held)).map (·.seq)).foldl (fun a n => a.uncompose n) u
      else ((u.steps.live.filter (·.held)).map (·.seq)).foldl (fun a n =>
        (a.modStep n fun t => { t with held := false }).sendTables n) u)) :
    exec .darkslideOpen s =
      .next ((v.finishAt r.port r.slot stOk 0 (le 8 (s.now - r.closedNs.getD s.now))).resumeSweep) := by
  show execDarkslideOpen s = _
  have hdue : (!s.isLead || decide (r.phase ≤ s.plan.postPhase) || r.writing.isSome) = false := by
    simp [hlead, hpost, hidle]
  subst hv hu
  simp only [execDarkslideOpen, hr, hdue, Bool.false_eq_true, if_false]

end

/-! ### OP_PLAN_UNLOAD (R302) -/

section

variable {s t : State} {q : Req} {c : Cmd}

theorem opPlanUnload_of_staged (hf : Finds s q t c 0x0205 4) (hmode : rd 4 c.pay 0 = 1) (hswap : t.wts.swap = none) :
    exec (.opPlanUnload q) s = .next (endsIn t.freeStaged c []) := by
  refine congrArg Host.Outcome.next (runOp_done hf rfl ?checks ?act)
  case checks => simp [lenIs, hf.lenEq, hmode]
  case act => simp only [if_pos hmode, hswap, Option.isSome_none, Bool.false_eq_true, if_false]

theorem opPlanUnload_of_whole (hf : Finds s q t c 0x0205 4) (hmode : rd 4 c.pay 0 = 0) (hidle : t.sliceBusy = false)
    (hfree : objFree t objPlan) :
    exec (.opPlanUnload q) s = .next (endsIn (t.noteState
      (((((t.kvDiscard).unloadPlan).onCfg fun x => { x with txnSlice := none }).endRemap).evalPorts)) c []) := by
  refine congrArg Host.Outcome.next (runOp_done hf rfl ?checks ?act)
  case checks => simp [lenIs, hf.lenEq, hmode]
  case act => simp only [hmode, hidle, objAct_free hfree, Nat.zero_ne_one, Bool.false_eq_true, if_false]

end

/-! ### Streamed layers (R256) -/

section

variable {s : State} {layer tier cause : Nat} {x : Step} {h : StreamHalf}

theorem streamFetchStart_of_free (hlayer : s.wts.main.any (fun p => p.streamedLayers.contains layer) = true)
    (hx : s.fetchStep layer = some x) (hfree : s.halfFree (tgetD s.wts.halves (s.plan.halfOf layer) {}) = true) :
    exec (.streamFetchStart layer) s = .next (s.onWts fun w => { w with
      halves := tset w.halves (s.plan.halfOf layer) { layer := some layer, step := x.seq, startNs := s.now } }) := by
  show execStreamFetchStart layer s = _
  simp only [execStreamFetchStart, hlayer, hx, hfree, Bool.not_true, Bool.false_eq_true, if_false]

/-- A fetch whose step is no longer live is only marked and its bytes counted, from a cause that is no chunk's retry. -/
theorem streamFetchDone_of_gone (hmain : s.wts.main.isSome = true)
    (hh : tgetD s.wts.halves (s.plan.halfOf layer) {} = h) (hlayer : h.layer = some layer) (hnew : h.fetched = false)
    (hdecode : 0 < cause) (hcause : cause < 7) (hstep : s.step? h.step = none) :
    exec (.streamFetchDone layer tier cause) s = .next ((s.onWts fun w => { w with
      halves := tset w.halves (s.plan.halfOf layer) { h with fetched := true } }).countBw 2 bwStream
        (s.plan.streamBytes layer)) := by
  show execStreamFetchDone layer tier cause s = _
  have hgo : (s.wts.main.isNone || h.layer != some layer || h.fetched || decide (7 ≤ cause)) = false := by
    simp [← Option.not_isSome, hmain, hlayer, hnew, hcause]
  have hretry : cause ≠ causeDecode := hdecode.ne'
  simp only [execStreamFetchDone, hh, hgo, hstep, if_neg hretry, Bool.false_eq_true, if_false]

end

/-- Settles O5: the swap's command, homes and darkslide, the plan unload's two modes, and a streamed layer's fetch. -/
theorem weightsSwapAndPlansUnload : Obligations.WeightsSwapAndPlansUnload := by
  unfold Obligations.WeightsSwapAndPlansUnload
  intro s t q c
  refine ⟨?swap, fun _ _ => homePhaseWrite_of_due, fun _ _ => homePhaseWritten_of_layer, fun _ _ _ => darkslideOpen_of_lead,
    opPlanUnload_of_staged, opPlanUnload_of_whole, fun _ _ => streamFetchStart_of_free,
    fun _ _ _ _ => streamFetchDone_of_gone⟩
  case swap =>
    intro u hf hgen hgens hmode hrsv hmain hswap hnew hmine hothers hdigest hu
    exact ⟨opWeightSwap_of_running hf hgen hgens hmode hrsv hmain hswap hnew hmine hothers hdigest hu,
      opWeightSwap_of_stopped hf hgen hgens hmode hrsv hmain hswap hnew hmine hothers hdigest hu⟩

end Sys2Proof.Proofs
end

section
/-! PROOFS. Steps: the front of the queue or a nanosecond (O45, O46), what no command touches (O51), safety (O48, O49), and the
state at reset (O47). -/

namespace Sys2Proof.Proofs

open Sys2Proof Sys2Proof.Machine Sys2Proof.Laws

/-! ### One step (R284, R289, R365) -/

section

variable {s t : State} {c : Instr} {rest : List Instr}

theorem step_of_front (h : s.pending = c :: rest) : step s = exec c { s with pending := rest } := by
  simp only [step, h]

theorem step_idle_moves_time (h : s.pending = []) (hstep : step s = .next t) : t.pending = [] ∧
    t.clock.timeNs = s.clock.timeNs + 1 ∧ s.clock.lifeS ≤ t.clock.lifeS := by
  obtain ⟨u, hkeeps, hpend, htime, hlife, -⟩ := tick_keeps s
  rw [step_nil s h] at hstep
  cases hstep
  exact ⟨hkeeps.pending.trans (hpend.trans h), hkeeps.timeNs.trans htime, hkeeps.lifeS ▸ hlife⟩

theorem step_of_front_keeps_time (h : s.pending = c :: rest) (hstep : step s = .next t) : t.pending = rest ∧
    t.clock.timeNs = s.clock.timeNs ∧ t.clock.lifeS = s.clock.lifeS := by
  have hkeeps := exec_next_keeps ((step_of_front h).symm.trans hstep)
  exact ⟨hkeeps.pending, hkeeps.timeNs, hkeeps.lifeS⟩

end

/-- Settles O49: a step keeps the canonical form of the memory that it starts from, and that is the memory of `s`. -/
theorem everyStepIsSafe : Obligations.EveryStepIsSafe := by
  unfold Obligations.EveryStepIsSafe
  intro s hs
  obtain ⟨u, t, hstep, hkeeps, -, -, -, hmem, -, -⟩ := step_keeps s
  have hu : SafeState u := by
    unfold SafeState
    rw [hmem]
    exact hs
  exact ⟨t, hstep, hkeeps.memWf hu⟩

/-- Settles O51: what every command keeps, and from it a step by whether a command waits. -/
theorem commandsTouchNeitherQueueNorTime : Obligations.CommandsTouchNeitherQueueNorTime := by
  unfold Obligations.CommandsTouchNeitherQueueNorTime
  refine ⟨fun i s => ?command, fun s t hstep => ?step⟩
  case command =>
    obtain ⟨u, hexec, hkeeps⟩ := exec_keeps i s
    exact ⟨u, hexec, hkeeps.pending, hkeeps.timeNs, hkeeps.lifeS⟩
  case step =>
    cases h : s.pending with
    | nil => exact step_idle_moves_time h hstep
    | cons c rest =>
      obtain ⟨hpend, htime, hlife⟩ := step_of_front_keeps_time h hstep
      exact ⟨hpend, htime, hlife.ge⟩

/-- Settles O45: the queue is not empty, so a step is its front on its rest. -/
theorem stepTakesTheFrontCommand : Obligations.StepTakesTheFrontCommand := by
  unfold Obligations.StepTakesTheFrontCommand
  exact fun _ _ _ => step_of_front rfl

/-! ### A nanosecond (R284, R365) -/

section

variable (s : State)

/-- The clock after a nanosecond: module time, and module life with its carry. -/
def clockTicked : State := s.onClock fun c => { c with
  timeNs := c.timeNs + 1, lifeNs := (c.lifeNs + b2n s.mainOn) % 1000000000
  lifeS := c.lifeS + (c.lifeNs + b2n s.mainOn) / 1000000000 }

theorem tick_eq : s.tick = if s.pwr.state = .s5 then clockTicked s else (clockTicked s).stateTime := rfl

theorem b2n_mainOn : b2n s.mainOn = if s.pwr.state = .s0 ∨ s.pwr.state = .s1 ∨ s.pwr.state = .s2 then 1 else 0 := by
  simp only [b2n, State.mainOn, Bool.or_eq_true, beq_iff_eq, or_assoc]

theorem clockTicked_life : (clockTicked s).clock.lifeS * 1000000000 + (clockTicked s).clock.lifeNs =
    s.clock.lifeS * 1000000000 + s.clock.lifeNs + b2n s.mainOn := by
  simp only [clockTicked, onClock_clock]
  omega

end

/-- Settles O46: a tick is the clock's, and the power state's time outside S5. -/
theorem anIdleStepPassesANanosecond : Obligations.AnIdleStepPassesANanosecond := by
  unfold Obligations.AnIdleStepPassesANanosecond
  intro s hpend _
  refine ⟨clockTicked s, ?tick, rfl, rfl, ?life, Nat.mod_lt _ (by decide)⟩
  case tick => rw [step_nil s hpend, tick_eq]
  case life => rw [clockTicked_life, b2n_mainOn]

/-! ### Reset (R284, R314, R410) -/

/-- No key has two rows. -/
theorem settingRow_of_mem : ∀ r ∈ settings, settingRow r.key = some r := by decide

theorem reset_setting (r : SettingRow) (hr : r ∈ settings) : State.reset.setting r.key = r.factory := by
  show runValue [] r.key = _
  simp only [runValue, tget, settingRow_of_mem r hr]

/-- Settles O47: each field at its default, and each setting at its row's. -/
theorem resetIsAColdModule : Obligations.ResetIsAColdModule := by
  unfold Obligations.ResetIsAColdModule
  have hslots : ∀ (p : MPort) (i : Nat), State.reset.slot p i = {} := by
    intro p i
    cases p <;> rfl
  exact ⟨rfl, rfl, rfl, hslots, rfl, rfl, fun r hr => ⟨reset_setting r hr, rfl⟩, rfl, rfl, rfl, rfl, rfl, rfl, rfl, rfl, rfl, rfl,
    fun _ => rfl, rfl, rfl, rfl⟩

/-- Settles O48: at reset memory lists no cell. -/
theorem resetIsSafe : Obligations.ResetIsSafe := mem_wf_nil

end Sys2Proof.Proofs
end

section
/-! PROOFS. What a hand-back leaves in its slot and elsewhere (O53). -/

namespace Sys2Proof.Proofs

open Sys2Proof Sys2Proof.Machine Sys2Proof.Laws

/-! ### Changes of mailbox and outputs alone (R283, R286) -/

/-- `u` is `t` but for the mailbox, whose running commands it leaves, and what goes out. -/
def MailOnly (t u : State) : Prop := ∃ m o, m.running = t.mbox.running ∧ u = { t with mbox := m, out := o }

section

variable {t u v : State}

theorem MailOnly.trans (h : MailOnly t u) (k : MailOnly u v) : MailOnly t v := by
  obtain ⟨m, o, hm, rfl⟩ := h
  obtain ⟨n, p, hn, rfl⟩ := k
  exact ⟨n, p, hn.trans hm, rfl⟩

theorem MailOnly.frame (h : MailOnly t u) : u = { t with mbox := u.mbox, out := u.out } := by
  obtain ⟨m, o, -, rfl⟩ := h
  rfl

theorem MailOnly.running (h : MailOnly t u) : u.mbox.running = t.mbox.running := by
  obtain ⟨m, o, hm, rfl⟩ := h
  exact hm

theorem MailOnly.refl : MailOnly t t := ⟨_, _, rfl, rfl⟩

theorem emit_mailOnly (o : Out) : MailOnly t (t.emit o) := ⟨_, _, rfl, rfl⟩

theorem onMbox_mailOnly {f : Mbox → Mbox} (h : (f t.mbox).running = t.mbox.running) : MailOnly t (t.onMbox f) := ⟨_, _, h, rfl⟩

theorem putSlot_mailOnly (p : MPort) (i : Nat) (x : Slot) : MailOnly t (t.putSlot p i x) :=
  onMbox_mailOnly (by cases p <;> rfl)

theorem vector_mailOnly (n : Nat) : MailOnly t (t.vector n) := by
  unfold State.vector
  split
  · exact onMbox_mailOnly rfl
  · exact emit_mailOnly _

theorem signal_mailOnly (p : MPort) (i : Nat) (x : Slot) : MailOnly t (t.signal p i x) := by
  unfold State.signal
  cases p with
  | h =>
    have hcause : MailOnly t (t.onMbox fun m => { m with irqCause := m.irqCause ||| 1#4 }) := onMbox_mailOnly rfl
    dsimp only
    split
    · exact hcause
    · exact hcause.trans (vector_mailOnly _)
  | m =>
    dsimp only
    split
    · exact emit_mailOnly _
    · exact MailOnly.refl
  | d => exact MailOnly.refl

theorem handBack_mailOnly (p : MPort) (i st d : Nat) (pay : Bytes) (acc : Bool) : MailOnly t (t.handBack p i st d pay acc) :=
  (putSlot_mailOnly p i _).trans (signal_mailOnly p i _)

end

theorem take_overlay_zero (b new : Bytes) : (overlay b 0 new).take new.length = new := by simp [overlay, fit]

/-- Settles O53: the slot by what a hand-back leaves in it, the other slots by its frame, the rest by `MailOnly`. -/
theorem aHandedBackSlotIsTheSenders : Obligations.AHandedBackSlotIsTheSenders := by
  unfold Obligations.AHandedBackSlotIsTheSenders
  intro t u c st d pay acc hc hu
  have hslot := handBack_slot_same t c.port c.slot st d pay acc
  have hhdr : c.hdr = t.slot c.port c.slot := congrArg Cmd.hdr hc
  have hmail : MailOnly t u := hu ▸ handBack_mailOnly c.port c.slot st d pay acc
  rw [← hu, ← hhdr] at hslot
  have hothers : ∀ (p : MPort) (i : Nat), (p, i) ≠ (c.port, c.slot) → u.slot p i = t.slot p i := fun p i hne =>
    hu ▸ handBack_slot t c.port c.slot st d pay acc p i hne
  refine ⟨?_, ?_, ?_, ?_, ?_, ?_, ?_, ?_, ?_, ?_, hothers, hmail.frame, hmail.running⟩ <;> rw [hslot]
  exact take_overlay_zero _ pay

end Sys2Proof.Proofs
end

section
/-! PROOFS. Transactions: opened, staged into, committed and rolled back (O1). -/

namespace Sys2Proof.Proofs

open Sys2Proof Sys2Proof.Machine Sys2Proof.Laws

section

variable {s t : State} {q : Req} {c : Cmd} {n : Nat} {x : Txn} {es : List SetEntry}

theorem runOp_refuse {op st d : Nat} {mine : Cmd → Bool} {own : State → Cmd → List (Bool × Nat × Nat)} {act : State → Cmd → Act}
    (hf : Finds s q t c op n) (hmine : mine c = true) (hown : ∀ y ∈ own t c, y.1 = false) (hact : act t c = .refuse st d) :
    s.runOp q op mine own act = t.handBack c.port c.slot st d [] false := by
  rw [runOp_finds hf hmine hown, hact]
  rfl

/-- A refused command is not followed by what would follow it. -/
theorem runOpThen_refuse {op st d : Nat} {mine : Cmd → Bool} {own : State → Cmd → List (Bool × Nat × Nat)}
    {act : State → Cmd → Act} {after : State → State} (hf : Finds s q t c op n) (hmine : mine c = true)
    (hown : ∀ y ∈ own t c, y.1 = false) (hact : act t c = .refuse st d) :
    s.runOpThen q op mine own act after = t.handBack c.port c.slot st d [] false := by
  have hruns : s.runs q op mine own act = false := by
    obtain ⟨b, hb⟩ : ∃ b : Bool, s.runs q op mine own act =
      (b && match act (foundIn s q) ((foundIn s q).cmdAt q.port q.slot) with
        | .done _ _ _ _ => true
        | .long _ _ _ _ => true
        | _ => false) := ⟨_, rfl⟩
    rw [hb, hf.found, hf.here, hact]
    exact Bool.and_false b
  simp only [State.runOpThen, hruns, Bool.false_eq_true, if_false]
  exact runOp_refuse hf hmine hown hact

/-! ### OP_BEGIN (R305) -/

theorem opBegin_of_none_open (hf : Finds s q t c 0x0101 8) (hscope : rd 4 c.pay 0 ≤ 1)
    (hms : rd 4 c.pay 4 = 0 ∨ 100 ≤ rd 4 c.pay 4 ∧ rd 4 c.pay 4 ≤ 600000)
    (hnone : (if rd 4 c.pay 0 == 1 then t.cfg.txnSlice else t.cfg.txnModule).isSome = false) :
    exec (.opBegin q) s = .next (endsIn (((t.drawn).putTxn
      { id := t.draw 0xFFFFFFFE + 1, slice := rd 4 c.pay 0 == 1, port := c.port
        timeoutMs := if rd 4 c.pay 4 = 0 then t.setN setTxnTimeout else rd 4 c.pay 4
        timerNs := t.now, base := t.cfg.run, baseGen := t.cfg.gen, staged := [] }).setTxnField c.port c.slot
      (t.draw 0xFFFFFFFE + 1)) c (le 4 (t.draw 0xFFFFFFFE + 1) ++ le 4 t.cfg.gen)) := by
  refine congrArg Host.Outcome.next (runOp_done hf rfl ?checks ?act)
  case checks =>
    have htime : (rd 4 c.pay 4 != 0 && (decide (rd 4 c.pay 4 < 100) || decide (600000 < rd 4 c.pay 4))) = false := by
      rcases hms with h | ⟨hlow, hhigh⟩
      · simp [h]
      · simp [lt_false hlow, lt_false hhigh]
    simp [lenIs, hf.lenEq, lt_false hscope, htime]
  case act => simp only [hnone, Bool.false_eq_true, if_false]

/-! ### OP_STAGE (R307, R308) -/

/-- An immediate set: no key waits for a transaction, and every whole value is in range. -/
theorem opStage_of_immediate (hf : Finds s q t c 0x0102 n) (hown : ∀ y ∈ entriesOwn false true t c, y.1 = false)
    (hid : c.hdr.txnId = 0) (hkeys : ∀ e ∈ (cmdEntries c true).1, (settingRow e.key).any (·.txn) = false)
    (hblob : t.blobBad [] (cmdEntries c true).1 = none) :
    exec (.opStage q) s = .next (endsIn (t.setNow (t.layEntries [] (cmdEntries c true).1)) c []) := by
  have hfind : (cmdEntries c true).1.find? (fun e => (settingRow e.key).any (·.txn)) = none := by
    simpa only [List.find?_eq_none, Bool.not_eq_true] using hkeys
  refine congrArg Host.Outcome.next (runOp_done hf rfl hown ?_)
  simp only [if_pos hid, hfind, hblob]

theorem stageInto_own {op : Nat} {k : State → Act} (hport : x.port = c.port) (hscope : ∀ e ∈ es, keyScope e.key x.slice = true)
    (hblob : t.blobBad x.staged es = none) (hfree : objFree t (objTxn x.id)) :
    t.stageInto c x es op k = k (t.putTxn { x with staged := t.layEntries x.staged es, timerNs := t.now }) := by
  have hfind : es.find? (fun e => !keyScope e.key x.slice) = none := by
    simpa only [List.find?_eq_none, Bool.not_eq_true', Bool.not_eq_false] using hscope
  have hours : (x.port != c.port) = false := bne_eq_false_iff_eq.2 hport
  simp only [State.stageInto, hours, hfind, hblob, objAct_free hfree, Bool.false_eq_true, if_false]

theorem stageInto_other {op : Nat} {k : State → Act} (hport : x.port ≠ c.port) :
    t.stageInto c x es op k = .refuse stPortDenied 0 := by
  rw [State.stageInto, if_pos (bne_iff_ne.2 hport)]

theorem opStage_of_own (hf : Finds s q t c 0x0102 n) (hown : ∀ y ∈ entriesOwn false true t c, y.1 = false)
    (hid : c.hdr.txnId ≠ 0) (hx : t.txn? c.hdr.txnId.toNat = some x) (hport : x.port = c.port)
    (hscope : ∀ e ∈ (cmdEntries c true).1, keyScope e.key x.slice = true)
    (hblob : t.blobBad x.staged (cmdEntries c true).1 = none) (hfree : objFree t (objTxn x.id)) :
    exec (.opStage q) s = .next (endsIn (t.putTxn { x with
      staged := t.layEntries x.staged (cmdEntries c true).1, timerNs := t.now }) c []) := by
  refine congrArg Host.Outcome.next (runOp_done hf rfl hown ?_)
  simp only [if_neg hid, hx, stageInto_own hport hscope hblob hfree]

theorem opStage_of_other (hf : Finds s q t c 0x0102 n) (hown : ∀ y ∈ entriesOwn false true t c, y.1 = false)
    (hid : c.hdr.txnId ≠ 0) (hx : t.txn? c.hdr.txnId.toNat = some x) (hport : x.port ≠ c.port) :
    exec (.opStage q) s = .next (t.handBack c.port c.slot stPortDenied 0 [] false) := by
  refine congrArg Host.Outcome.next (runOp_refuse hf rfl hown ?_)
  simp only [if_neg hid, hx, stageInto_other hport]

/-! ### OP_COMMIT and OP_ROLLBACK (R306, R310, R311) -/

theorem opCommit_of_own (hf : Finds s q t c 0x0104 0) (hx : t.txn? c.hdr.txnId.toNat = some x) (hport : x.port = c.port)
    (hidle : t.cfg.commit = none) (hagree : ∀ k ∈ tkeys x.staged, runValue x.base k = t.setting k)
    (hfree : objFree t (objTxn x.id)) :
    exec (.opCommit q) s = .next (runsIn (t.onCfg fun g => { g with
      commit := some { txn := x, port := c.port, slot := c.slot, prepared := [], assigned := none, firstStep := 0
                       applied := [] } }) c (objTxn x.id) [] []).prepareCommit := by
  have hours : (x.port != c.port) = false := bne_eq_false_iff_eq.2 hport
  have hconflict : ((tkeys x.staged).any fun k => runValue x.base k != t.setting k) = false := by
    simpa only [List.any_eq_false, Bool.not_eq_true, bne_eq_false_iff_eq] using hagree
  refine congrArg Host.Outcome.next ((runOpThen_finds hf _ rfl (noPayload_ok hf) ?_ ?_).trans ?_) <;>
    simp only [hx, hours, hidle, hconflict, objAct_free hfree, Option.isSome_none, Bool.false_eq_true, if_false]
  · exact fun _ _ => Act.noConfusion
  · exact Act.noConfusion
  · rfl

theorem opCommit_of_other (hf : Finds s q t c 0x0104 0) (hx : t.txn? c.hdr.txnId.toNat = some x) (hport : x.port ≠ c.port) :
    exec (.opCommit q) s = .next (t.handBack c.port c.slot stPortDenied 0 [] false) := by
  refine congrArg Host.Outcome.next (runOpThen_refuse hf rfl (noPayload_ok hf) ?_)
  simp only [hx, if_pos (bne_iff_ne.2 hport)]

theorem opRollback_of_open (hf : Finds s q t c 0x0105 0) (hx : t.txn? c.hdr.txnId.toNat = some x)
    (hfree : objFree t (objTxn x.id)) : exec (.opRollback q) s = .next (endsIn (t.dropTxn x.slice) c []) := by
  refine congrArg Host.Outcome.next (runOp_done hf rfl (noPayload_ok hf) ?_)
  simp only [hx, objAct_free hfree]

end

/-- Settles O1: the opening, the two ways of staging, the commit and the rollback, by the lemma of each. -/
theorem transactionsOpenStageAndEnd : Obligations.TransactionsOpenStageAndEnd := by
  unfold Obligations.TransactionsOpenStageAndEnd
  intro s t q c n
  exact ⟨opBegin_of_none_open, opStage_of_immediate, fun _ => opStage_of_own, fun _ => opCommit_of_own, fun _ => opRollback_of_open⟩

end Sys2Proof.Proofs
end

section
/-! PROOFS. Settings read, at their factory defaults, persisted and timed out (O2), the values that a read returns (O56), and
whose a transaction is (O57). -/

namespace Sys2Proof.Proofs

open Sys2Proof Sys2Proof.Machine Sys2Proof.Laws

/-! ### What OP_READ returns (R309) -/

/-- A read entry with its key's running value, and with the transaction's where the key is staged. -/
def runningRead (t : State) (e : SetEntry) : SetEntry × Nat × Bytes := (e, t.srcOf e.key, t.setting e.key)

def stagedRead (t : State) (x : Txn) (e : SetEntry) : SetEntry × Nat × Bytes :=
  match tget x.staged e.key with
  | some v => (e, 3, v)
  | none => runningRead t e

/-- The values of a command: staged ones only with STAGED. -/
def readValues (t : State) (c : Cmd) (e : SetEntry) : SetEntry × Nat × Bytes :=
  match (if bitOf (rd 4 c.pay 0) 16 then (t.txn? c.hdr.txnId.toNat).bind fun x => tget x.staged e.key else none) with
  | some v => (e, 3, v)
  | none => runningRead t e

/-- The completion's bytes. -/
def readOut (t : State) (c : Cmd) : Bytes := readBytes ((cmdEntries c false).1.map (readValues t c))

/-- The timer of the transaction that a read names starts again. -/
def retimed (t : State) (c : Cmd) : State :=
  match t.txn? c.hdr.txnId.toNat with
  | some x => t.putTxn { x with timerNs := t.now }
  | none => t

section

variable {s t : State} {q : Req} {c : Cmd} {n : Nat} {out : Bytes} {x : Txn}

theorem readOut_running (hbit : bitOf (rd 4 c.pay 0) 16 = false) :
    readOut t c = readBytes ((cmdEntries c false).1.map (runningRead t)) := by
  have hvals : readValues t c = runningRead t := by
    funext e
    rw [readValues, hbit]
    rfl
  rw [readOut, hvals]

theorem readOut_staged (hbit : bitOf (rd 4 c.pay 0) 16 = true) (hx : t.txn? c.hdr.txnId.toNat = some x) :
    readOut t c = readBytes ((cmdEntries c false).1.map (stagedRead t x)) := by
  have hvals : readValues t c = stagedRead t x := by
    funext e
    rw [readValues, if_pos hbit, hx]
    rfl
  rw [readOut, hvals]

theorem retimed_of_txn (hx : t.txn? c.hdr.txnId.toNat = some x) : retimed t c = t.putTxn { x with timerNs := t.now } := by
  simp only [retimed, hx]

theorem retimed_of_zero (hid : c.hdr.txnId = 0) : retimed t c = t := by
  have hnone : t.txn? c.hdr.txnId.toNat = none := by rw [hid]; rfl
  simp only [retimed, hnone]

/-- The checks of OP_READ and OP_FACTORY_VIEW: those of the entries, and a flag that asks for a TXN_ID. -/
theorem entriesOwn_flag_pass (hown : ∀ y ∈ entriesOwn true false t c, y.1 = false)
    (hid : bitOf (rd 4 c.pay 0) 16 = true → c.hdr.txnId ≠ 0) : ∀ y ∈ entriesOwn true false t c ++
      [(bitOf (rd 4 c.pay 0) 16 && c.hdr.txnId == 0, stFieldRange, payOff 0)], y.1 = false := by
  intro y hy
  rcases List.mem_append.1 hy with hy | hy
  · exact hown y hy
  · obtain rfl := List.mem_singleton.1 hy
    cases hbit : bitOf (rd 4 c.pay 0) 16 with
    | false => rfl
    | true => simpa using hid hbit

/- The command is found and its checks pass. -/
variable (hf : Finds s q t c 0x0103 n) (hown : ∀ y ∈ entriesOwn true false t c, y.1 = false)

section

/- With STAGED, the command names a transaction, and it is the port's. -/
variable (hid : bitOf (rd 4 c.pay 0) 16 = true → c.hdr.txnId ≠ 0)
  (hours : bitOf (rd 4 c.pay 0) 16 = true → ∀ x, t.txn? c.hdr.txnId.toNat = some x → x.port = c.port)

include hours in
theorem read_not_denied :
    (bitOf (rd 4 c.pay 0) 16 && (t.txn? c.hdr.txnId.toNat).any fun x => x.port != c.port) = false := by
  cases hbit : bitOf (rd 4 c.pay 0) 16 with
  | false => rfl
  | true =>
    cases hx : t.txn? c.hdr.txnId.toNat with
    | none => rfl
    | some x => exact bne_eq_false_iff_eq.2 (hours hbit x hx)

include hf hown hid hours

/-- A read by the length of its completion. -/
theorem opRead_ends : ((readOut t c).length ≤ 4032 → exec (.opRead q) s = .next (endsIn (retimed t c) c (readOut t c))) ∧
    (4032 < (readOut t c).length → exec (.opRead q) s = .next (t.handBack c.port c.slot stLenRange (payOff 0) [] false)) := by
  have hours' := Bool.eq_false_iff.1 (read_not_denied hours)
  have hpass := entriesOwn_flag_pass hown hid
  refine ⟨fun hroom => ?_, fun hlong => ?_⟩
  · exact congrArg Host.Outcome.next (runOp_done hf rfl hpass ((if_neg hours').trans (if_neg hroom.not_gt)))
  · exact congrArg Host.Outcome.next (runOp_refuse hf rfl hpass ((if_neg hours').trans (if_pos hlong)))

end

include hf hown

theorem opRead_of_running (hbit : bitOf (rd 4 c.pay 0) 16 = false)
    (hout : out = readBytes ((cmdEntries c false).1.map (runningRead t))) :
    (out.length ≤ 4032 → exec (.opRead q) s = .next (endsIn (retimed t c) c out)) ∧
      (4032 < out.length → exec (.opRead q) s = .next (t.handBack c.port c.slot stLenRange (payOff 0) [] false)) := by
  rw [← readOut_running hbit] at hout
  subst hout
  have hunset : ¬ bitOf (rd 4 c.pay 0) 16 = true := Bool.eq_false_iff.1 hbit
  exact opRead_ends hf hown (fun h => absurd h hunset) fun h => absurd h hunset

theorem opRead_of_staged (hid : c.hdr.txnId ≠ 0) (hbit : bitOf (rd 4 c.pay 0) 16 = true)
    (hx : t.txn? c.hdr.txnId.toNat = some x) (hport : x.port = c.port)
    (hout : out = readBytes ((cmdEntries c false).1.map (stagedRead t x))) :
    (out.length ≤ 4032 → exec (.opRead q) s = .next (endsIn (retimed t c) c out)) ∧
      (4032 < out.length → exec (.opRead q) s = .next (t.handBack c.port c.slot stLenRange (payOff 0) [] false)) := by
  rw [← readOut_staged hbit hx] at hout
  subst hout
  exact opRead_ends hf hown (fun _ => hid) fun _ y hy => Option.some.inj (hx.symm.trans hy) ▸ hport

theorem opRead_of_other (hid : c.hdr.txnId ≠ 0) (hx : t.txn? c.hdr.txnId.toNat = some x) (hport : x.port ≠ c.port)
    (hbit : bitOf (rd 4 c.pay 0) 16 = true) :
    exec (.opRead q) s = .next (t.handBack c.port c.slot stPortDenied 0 [] false) := by
  have hdenied : (bitOf (rd 4 c.pay 0) 16 && (t.txn? c.hdr.txnId.toNat).any fun x => x.port != c.port) = true := by
    simp [hbit, hx, hport]
  exact congrArg Host.Outcome.next (runOp_refuse hf rfl (entriesOwn_flag_pass hown fun _ => hid) (if_pos hdenied))

end

/-! ### OP_FACTORY_VIEW (R313) -/

/-- A key's factory default. -/
def factoryValue (e : SetEntry) : Bytes := (settingRow e.key).elim [] SettingRow.factory

section

variable {s t : State} {q : Req} {c : Cmd} {n : Nat} {out : Bytes} {x : Txn} {es : List SetEntry}

/- The command is found, its checks pass, and its completion has room. -/
variable (hf : Finds s q t c 0x0107 n) (hown : ∀ y ∈ entriesOwn true false t c, y.1 = false)
  (hout : out = readBytes ((cmdEntries c false).1.map fun e => (e, 0, factoryValue e))) (hroom : out.length ≤ 4032)

include hf hown hout hroom

theorem opFactoryView_of_view (hbit : bitOf (rd 4 c.pay 0) 16 = false) :
    exec (.opFactoryView q) s = .next (endsIn t c out) := by
  subst hout
  have hpass := entriesOwn_flag_pass hown fun h => absurd (hbit.symm.trans h) Bool.noConfusion
  refine congrArg Host.Outcome.next (runOp_done hf rfl hpass ((if_neg hroom.not_gt).trans (if_pos ?_)))
  rw [hbit, Bool.not_false]

/-- With its flag the defaults are staged too, by the rights of OP_STAGE. -/
theorem opFactoryView_of_staging (hbit : bitOf (rd 4 c.pay 0) 16 = true) (hid : c.hdr.txnId ≠ 0)
    (hright : t.portAllowed ((opInfo 0x0102).getD ⟨0, 0, 0, false, false⟩) c.port = true)
    (hstate : t.opState ((opInfo 0x0102).getD ⟨0, 0, 0, false, false⟩) c.port (rd 4 c.pay 0) = true)
    (hx : t.txn? c.hdr.txnId.toNat = some x) (hport : x.port = c.port)
    (hes : es = (cmdEntries c false).1.map fun e => { e with value := readPart e (factoryValue e) })
    (hscope : ∀ e ∈ es, keyScope e.key x.slice = true) (hblob : t.blobBad x.staged es = none) (hfree : objFree t (objTxn x.id)) :
    exec (.opFactoryView q) s =
      .next (endsIn (t.putTxn { x with staged := t.layEntries x.staged es, timerNs := t.now }) c out) := by
  subst hout hes
  refine congrArg Host.Outcome.next (runOp_done hf rfl (entriesOwn_flag_pass hown fun _ => hid)
    ((if_neg hroom.not_gt).trans ?_))
  simp only [hbit, hright, hstate, hx, Bool.not_true, Bool.false_eq_true, if_false]
  exact stageInto_own hport hscope hblob hfree

end

/-! ### OP_PERSIST and the transaction timer (R312, R306) -/

section

variable {s t : State} {q : Req} {c : Cmd} {r : PersistRun} {x : Txn} {sc : Bool}

theorem opPersist_of_idle (hf : Finds s q t c 0x0106 4) (hslice : rd 4 c.pay 0 ≤ 1)
    (htrial : (t.cfg.migrated && t.fw.trialBank.isSome) = false) (hcommit : t.cfg.commit = none) (hidle : t.cfg.persist = none) :
    exec (.opPersist q) s = .next (runsIn (t.onCfg fun g => { g with
      persist := some { port := c.port, slot := c.slot, slice := rd 4 c.pay 0 == 1 } }) c objConfig [] []) := by
  refine congrArg Host.Outcome.next (runOp_long hf rfl ?checks ?act rfl)
  case checks => simp [lenIs, hf.lenEq, lt_false hslice]
  case act => simp only [htrial, hcommit, hidle, Option.isSome_none, Bool.or_self, Bool.false_eq_true, if_false]

theorem persistDone_of_persisting (hr : s.cfg.persist = some r) : exec .persistDone s =
    .next (((s.writeConfig).onCfg fun g => { g with persist := none }).finishAt r.port r.slot stOk 0 (le 4 s.cfg.nextImage)) := by
  show execPersistDone s = _
  simp only [execPersistDone, hr]

theorem txnTimeout_of_late (hx : (if sc then s.cfg.txnSlice else s.cfg.txnModule) = some x)
    (hlate : x.timerNs + x.timeoutMs * 1000000 ≤ s.now) (hidle : s.cfg.commit.any (fun r => r.txn.id == x.id) = false) :
    exec (.txnTimeout sc) s = .next (s.dropTxn sc) := by
  show execTxnTimeout sc s = _
  simp only [execTxnTimeout, hx, lt_false hlate, hidle, Bool.or_self, Bool.false_eq_true, if_false]

end

/-! ### The statements -/

/-- Settles O2: reads with and without STAGED, the factory view with and without staging, persistence and the timer, by the
lemma of each. -/
theorem settingsAreReadPersistedAndTimedOut : Obligations.SettingsAreReadPersistedAndTimedOut := by
  unfold Obligations.SettingsAreReadPersistedAndTimedOut
  intro s t q c n out
  refine ⟨?running, ?staged, fun hf hown hbit hout hroom => opFactoryView_of_view hf hown hout hroom hbit,
    fun x es hf hown hbit hid hout hroom => opFactoryView_of_staging hf hown hout hroom hbit hid,
    opPersist_of_idle, fun _ => persistDone_of_persisting, fun _ _ => txnTimeout_of_late⟩
  case running =>
    intro hf hown hbit hout hroom
    exact (opRead_of_running hf hown hbit hout).1 hroom
  case staged =>
    intro x hf hown hbit hid hx hport hout hroom
    rw [← retimed_of_txn hx]
    exact (opRead_of_staged hf hown hid hbit hx hport hout).1 hroom

/-- Settles O56: a read's completion by whether values are staged, and its two ends by the completion's length. -/
theorem readsReturnRunningOrStagedValues : Obligations.ReadsReturnRunningOrStagedValues := by
  unfold Obligations.ReadsReturnRunningOrStagedValues
  intro s t q c n out hf hown
  refine ⟨?running, ?staged⟩
  case running =>
    intro hid hbit hout
    have hread := opRead_of_running hf hown hbit hout
    rw [retimed_of_zero hid] at hread
    exact hread
  case staged =>
    intro x hid hbit hx hport hout
    have hread := opRead_of_staged hf hown hid hbit hx hport hout
    rw [retimed_of_txn hx] at hread
    exact hread

/-- Settles O57: the three refusals of another port, and the rollback with its right. -/
theorem transactionsBelongToTheirPort : Obligations.TransactionsBelongToTheirPort := by
  unfold Obligations.TransactionsBelongToTheirPort
  intro s t q c n x hid hx
  refine ⟨fun hport => ?other, fun hf hfree => opRollback_of_open hf hx hfree, by decide⟩
  case other =>
    exact ⟨fun hf hown => opStage_of_other hf hown hid hx hport, fun hf => opCommit_of_other hf hx hport,
      fun hf hown => opRead_of_other hf hown hid hx hport⟩

end Sys2Proof.Proofs
end

section
/-! PROOFS. Queries without a payload (O7), and the slots as the host, management and debug paths reach them (O17). -/

namespace Sys2Proof.Proofs

open Sys2Proof Sys2Proof.Machine Sys2Proof.Laws

/-! ### Queries (R299) -/

/-- An opcode without a payload that answers with bytes of the state. -/
theorem runOp_query {s t : State} {q : Req} {c : Cmd} {op : Nat} (hf : Finds s q t c op 0) (answer : State → Bytes) :
    s.runOp q op allPayloads noPayload (fun u _ => .done u stOk 0 (answer u)) = endsIn t c (answer t) :=
  runOp_done hf rfl (noPayload_ok hf) rfl

/-- Settles O7: each query's row is a `runOp` of the bytes it answers. -/
theorem queriesAnswer : Obligations.QueriesAnswer := by
  unfold Obligations.QueriesAnswer
  intro s t q c
  refine ⟨?identify, ?status, ?rights, ?power, ?budget, ?health, ?neighbours, ?links⟩ <;>
    exact fun hf => congrArg Host.Outcome.next (runOp_query hf _)

/-! ### The host's slots (R287) -/

section

variable {s : State} {slot off : Nat} {data : Bytes}

theorem slotWriteDenied_of_owned (hup : s.endpoint = true) (hslot : slot < 64) (howner : (s.slot .h slot).owner = true) :
    exec (.slotWriteDenied slot off data) s =
      .next (s.onMbox fun m => { m with slotWriteDenied := satTo 0xFFFFFFFF (m.slotWriteDenied + 1) }) := by
  show execSlotWriteDenied slot off data s = _
  rw [execSlotWriteDenied, if_pos (by simp [hup, hslot, howner])]

end

/-! ### Slot messages (R291) -/

section

variable {s : State} {path : MPath} {slot : Nat} {image : SlotImage}

/-- A WRITE out of range: no such slot, or a payload that is too long for its slot or for its message. -/
abbrev OutOfRange (slot : Nat) (image : SlotImage) : Prop :=
  8 ≤ slot ∨ 4032 < bitsOf image.word0C.toNat 15 0 ∨ image.payload.length < bitsOf image.word0C.toNat 15 0

theorem not_outOfRange (hslot : slot < 8) (hlen : bitsOf image.word0C.toNat 15 0 ≤ 4032)
    (hpay : bitsOf image.word0C.toNat 15 0 ≤ image.payload.length) : ¬ OutOfRange slot image := by
  unfold OutOfRange
  omega

/- The port is served. -/
variable (hserved : s.mbox.mServed = true)

include hserved

theorem slotMsgWrite_of_served : exec (.slotMsgWrite path slot image) s = .next (
    if OutOfRange slot image then s.emit (.writeAck path slot 2)
    else if (s.slot .m slot).owner then s.emit (.writeAck path slot 1)
    else (s.post .m slot { image with payload := image.payload.take (bitsOf image.word0C.toNat 15 0) } path).emit
      (.writeAck path slot 0)) := by
  show execSlotMsgWrite path slot image s = _
  simp only [execSlotMsgWrite, hserved, Bool.not_true, Bool.false_eq_true, if_false]

theorem slotMsgRead_of_served (hslot : slot < 8) : exec (.slotMsgRead path slot) s =
    .next (s.emit (.readReply path slot ((s.slot .m slot).image (min (s.slot .m slot).payloadLen 4032)))) := by
  show execSlotMsgRead path slot s = _
  rw [execSlotMsgRead, if_pos (by simp [hserved, hslot])]

end

/-! ### MBOX_ACCESS (R292) -/

section

variable {s : State} {slot : Nat} {image : SlotImage} {write : Bool}

theorem mboxAccess_of_powered (hup : s.pwr.state ≠ .s5) (hslot : slot < 2) : exec (.mboxAccess slot write image) s = .next
    (if write then (s.emit (.jtag slot ((s.slot .d slot).image 4032))).post .d slot image .i3c0
      else s.emit (.jtag slot ((s.slot .d slot).image 4032))) := by
  show execMboxAccess slot write image s = _
  rw [execMboxAccess, if_neg (not_or_intro hup hslot.not_ge)]

end

/-- Settles O17: the host's denied write, the two slot messages, and the shift, by the lemma of each. -/
theorem mailboxSlotsAreReachedByEveryPath : Obligations.MailboxSlotsAreReachedByEveryPath := by
  unfold Obligations.MailboxSlotsAreReachedByEveryPath
  intro s slot off data image path
  refine ⟨slotWriteDenied_of_owned, fun hserved => ⟨?inRange, ?outOfRange, slotMsgRead_of_served hserved⟩,
    fun hup hslot => ⟨mboxAccess_of_powered hup hslot, mboxAccess_of_powered hup hslot⟩⟩
  case inRange =>
    intro hslot hlen hpay
    rw [slotMsgWrite_of_served hserved, if_neg (not_outOfRange hslot hlen hpay)]
    refine ⟨fun hfree => ?_, fun howned => ?_⟩
    · rw [if_neg (Bool.eq_false_iff.1 hfree)]
    · rw [if_pos howned]
  case outOfRange =>
    intro hout
    rw [slotMsgWrite_of_served hserved, if_pos hout]

end Sys2Proof.Proofs
end

section
/-! PROOFS. Changes of power state, and the power cap (O13). -/

namespace Sys2Proof.Proofs

open Sys2Proof Sys2Proof.Machine Sys2Proof.Laws

section

variable {s t u : State} {q : Req} {c : Cmd} {r : StateRun}

theorem bitsOf_of_div_eq_zero {x hi lo : Nat} (h : x / 2 ^ lo = 0) : bitsOf x hi lo = 0 := by
  rw [bitsOf, Nat.shiftRight_eq_div_pow, h, Nat.zero_mod]

/-! ### OP_POWER_STATE_SET (R327) -/

theorem opPowerStateSet_of_allowed (hf : Finds s q t c 0x0501 4) (hrsv : rd 4 c.pay 0 / 8 = 0)
    (hallowed : t.stateAllowed (powerOf (rd 4 c.pay 0 % 4)) = true) (hchange : t.pwr.change = none)
    (herase : t.sec.erasing = none)
    (hu : u = t.onPwr fun p => { p with
      fade := if bitOf (rd 4 c.pay 0) 2 && t.pwr.fade.isSome then p.fade else none
      change := some ⟨powerOf (rd 4 c.pay 0 % 4), some (c.port, c.slot), t.now,
        bitOf (rd 4 c.pay 0) 2 && t.pwr.fade.isSome, false⟩ }) :
    exec (.opPowerStateSet q) s =
      .next (t.carryOut c (.long (if powerOf (rd 4 c.pay 0 % 4) != .s3 then u.s3Exit else u) [0x0501] [] [])) := by
  subst hu
  refine congrArg Host.Outcome.next ((runOp_finds hf rfl ?checks).trans (congrArg (t.carryOut c) ?act))
  case checks =>
    have hbits : bitsOf (rd 4 c.pay 0) 31 3 = 0 := bitsOf_of_div_eq_zero hrsv
    simp [lenIs, hf.lenEq, hbits]
  case act =>
    simp only [hallowed, hchange, herase, Option.isSome_none, Bool.or_self, Bool.not_true, Bool.false_eq_true, if_false]

/-! ### POWER_STATE_ENTERED (R327 to R329) -/

section

/- A change is in course, it waits for no fade, and the module runs outside S3. -/
variable (hr : s.pwr.change = some r) (hfade : (r.waitFade && s.pwr.fade.isSome) = false) (hs3 : s.pwr.state ≠ .s3)
  (hstage : s.fw.stage = 12)

include hfade hs3 hstage in
theorem change_can_complete : (r.waitFade && s.pwr.fade.isSome || s.pwr.state == .s3 || s.fw.stage != 12) = false := by
  simp [hfade, hs3, hstage]

include hr hfade hs3 hstage

theorem powerStateEntered_s1 (ht : r.target = .s1) (hlive : s.steps.live = []) : exec .powerStateEntered s =
    .next (s.noteState (((s.onPwr fun p => { p with state := .s1, belowReach := r.byReach }).stopTests).endChange r)) := by
  show execPowerStateEntered s = _
  simp only [execPowerStateEntered, hr, change_can_complete hfade hs3 hstage, ht, hlive, List.isEmpty_nil,
    Bool.false_eq_true, if_false, if_true]

theorem powerStateEntered_s2 (ht : r.target = .s2) (hidle : s.sliceIdle = true) : exec .powerStateEntered s =
    .next (s.noteState ((((s.onPwr fun p => { p with state := .s2, belowReach := false }).evalPorts).sendCards
      false).endChange r)) := by
  show execPowerStateEntered s = _
  simp only [execPowerStateEntered, hr, change_can_complete hfade hs3 hstage, ht, hidle, Bool.false_eq_true, if_false,
    if_true]

/-- In S3 only port M is served (R327): the entry answers its request. -/
theorem powerStateEntered_s3_of_m {slot : Nat} (ht : r.target = .s3) (hidle : s.sliceIdle = true)
    (hfrom : r.from_ = some (.m, slot)) : exec .powerStateEntered s = .next (s.noteState (s.enterS3.endChange r)) := by
  show execPowerStateEntered s = _
  simp only [execPowerStateEntered, hr, change_can_complete hfade hs3 hstage, ht, hidle, hfrom, Bool.false_eq_true, if_false,
    if_true]

/-- A request of another port is not answered in S3. -/
theorem powerStateEntered_s3_of_other (ht : r.target = .s3) (hidle : s.sliceIdle = true)
    (hother : ∀ slot, r.from_ ≠ some (.m, slot)) :
    exec .powerStateEntered s = .next (s.noteState (s.enterS3.onPwr fun p => { p with change := none })) := by
  show execPowerStateEntered s = _
  simp only [execPowerStateEntered, hr, change_can_complete hfade hs3 hstage, ht, hidle, Bool.false_eq_true, if_false, if_true]

/-- From S1 the stagger starts (R328, R338); from S2 the ports and cards come back. -/
theorem powerStateEntered_s0 (ht : r.target = .s0) (hcommand : r.byReach = false)
    (hu : u = s.onPwr fun p => { p with state := .s0, belowReach := false, reachDue := none }) :
    exec .powerStateEntered s = .next (s.noteState
      ((if s.pwr.state == .s1 then u.startStagger else (u.evalPorts).sendCards false).endChange r)) := by
  show execPowerStateEntered s = _
  subst hu
  simp only [execPowerStateEntered, hr, change_can_complete hfade hs3 hstage, ht, hcommand, Bool.false_eq_true, if_false]

end

/-! ### OP_CAP_SET (R325) -/

section

/- The cap is in range, and `u` is the state in which it is set. -/
variable (hf : Finds s q t c 0x0502 4) (hlow : 1200 ≤ rd 2 c.pay 0) (hhigh : rd 2 c.pay 0 ≤ 5000) (hrsv : rd 2 c.pay 2 = 0)
  (hu : u = (t.onCfg fun g => { g with
    run := tset g.run setPowerCap { value := le 2 (rd 2 c.pay 0), src := 2 } }).capChanged)

include hf hlow hhigh hrsv hu

theorem opCapSet_of_s0 (hus0 : u.pwr.state = .s0) (hts0 : t.pwr.state = .s0) : exec (.opCapSet q) s =
    .next (t.carryOut c (.long (u.onPwr fun p => { p with capReq := p.capReq ++ [(c.port, c.slot, t.now)] })
      [0x0502, c.slot] [] [])) := by
  refine congrArg Host.Outcome.next ((runOp_finds hf rfl ?checks).trans (congrArg (t.carryOut c) ?act))
  case checks => simp [lenIs, hf.lenEq, lt_false hlow, lt_false hhigh, hrsv]
  case act => simp only [← hu, hus0, hts0, beq_self_eq_true, if_true]

theorem opCapSet_of_not_s0 (hus0 : u.pwr.state ≠ .s0) (hts0 : t.pwr.state ≠ .s0) :
    exec (.opCapSet q) s = .next (endsIn u c (u.capBytes 0)) := by
  refine congrArg Host.Outcome.next (runOp_done hf rfl ?checks ?act)
  case checks => simp [lenIs, hf.lenEq, lt_false hlow, lt_false hhigh, hrsv]
  case act => simp only [← hu, beq_eq_false_iff_ne.2 hus0, beq_eq_false_iff_ne.2 hts0, Bool.false_eq_true, if_false]

end

end

/-- Settles O13: the start of a change, its end by its target, and the cap by the power state, by the lemma of each. -/
theorem powerStatesAndCapsAreSet : Obligations.PowerStatesAndCapsAreSet := by
  unfold Obligations.PowerStatesAndCapsAreSet
  intro s t u q c r
  refine ⟨opPowerStateSet_of_allowed, fun hr hfade hs3 hstage => ?entered, fun hf hlow hhigh hrsv hu => ?cap⟩
  case entered =>
    exact ⟨powerStateEntered_s1 hr hfade hs3 hstage, powerStateEntered_s2 hr hfade hs3 hstage,
      fun _ => powerStateEntered_s3_of_m hr hfade hs3 hstage, powerStateEntered_s3_of_other hr hfade hs3 hstage,
      powerStateEntered_s0 hr hfade hs3 hstage⟩
  case cap => exact ⟨opCapSet_of_s0 hf hlow hhigh hrsv hu, opCapSet_of_not_s0 hf hlow hhigh hrsv hu⟩

end Sys2Proof.Proofs
end

section
/-! PROOFS. Budget messages and windows (O27): slack, loans, grants and reverts. -/

namespace Sys2Proof.Proofs

open Sys2Proof Sys2Proof.Machine Sys2Proof.Laws

section

variable {s u s1 s2 s3 s4 : State} {port : Nat} {k : Packet} {m : Msg} {e : Bytes} {slack stepNs : Nat}

/-! ### Budget messages (Table 10.8, R334 to R336) -/

section

/- A whole BUDGET message of one entry. -/
variable (hh : Hears s port k mBudget u m) (hent : m.entries = [e]) (hparse : (parseMsg k).map (·.entries) = some [e])

include hh hent hparse

/-- The entry is given to the rule of its kind. -/
theorem recvBudget_hears {kind : Nat} (hkind : byteAt e 0 = kind) (hknown : kind ≤ 4) (rule : State → Bytes → State) :
    s.recvBudget port k kind rule = rule u e := by
  obtain ⟨_, _, m1, -, hm1, hbudget, -⟩ := hh.lands
  have hentries : m1.entries = [e] := by simpa [hm1] using hparse
  have hown : ¬ 4 < byteAt e 0 := hkind ▸ hknown.not_gt
  simp only [State.recvBudget, hm1, hbudget, hentries, hkind, List.any_cons, beq_self_eq_true, Bool.true_or, Bool.and_self,
    Bool.not_true, Bool.false_eq_true, if_false]
  rw [recvMsg_hears hh, hent, List.foldl_cons, List.foldl_nil, if_neg hown, if_pos hkind]

theorem budgetSlack_records (hkind : byteAt e 0 = bkSlack) : exec (.budgetSlack port k) s = .next (u.onPwr fun p => { p with
    slackReports := tset p.slackReports (bgModule e) (rd 4 e 12, rd 4 e 16) }) :=
  congrArg Host.Outcome.next (recvBudget_hears hh hent hparse hkind (by decide) _)

theorem budgetLent_of_lead (hkind : byteAt e 0 = bkLent) (hlead : u.isLead = true) : exec (.budgetLent port k) s =
    .next ((u.onPwr fun p => { p with lentReports := p.lentReports ++ [(bgModule e, rd 2 e 8)] }).grantLoans) :=
  congrArg Host.Outcome.next ((recvBudget_hears hh hent hparse hkind (by decide) _).trans (if_pos hlead))

theorem budgetGrant_raises (hkind : byteAt e 0 = bkGrant) :
    exec (.budgetGrant port k) s = .next (u.takeGrant (rd 2 e 8)) :=
  congrArg Host.Outcome.next (recvBudget_hears hh hent hparse hkind (by decide) _)

theorem budgetRevert_undoes (hkind : byteAt e 0 = bkRevert) : exec (.budgetRevert port k) s = .next (
    if u.isLead then u.revertLoans else if 0 < u.pwr.borrowed then u.revertBorrower else u.revertLender) :=
  congrArg Host.Outcome.next (recvBudget_hears hh hent hparse hkind (by decide) _)

theorem budgetReverted_of_lead (hkind : byteAt e 0 = bkReverted) (hlead : u.isLead = true) :
    exec (.budgetReverted port k) s =
      .next ((u.onPwr fun p => { p with reverted := addNew p.reverted (bgModule e) }).settleRevert) :=
  congrArg Host.Outcome.next ((recvBudget_hears hh hent hparse hkind (by decide) _).trans (if_pos hlead))

end

/-! ### BUDGET_WINDOW (R334, R335) -/

theorem budgetWindow_of_full (hfull : 1024 ≤ s.pwr.slackSteps) (hslack : slack = s.meanSlack)
    (hstep : stepNs = if s.srv.windowCount = 0 then s.plan.resNs 0 else s.srv.windowTime / s.srv.windowCount)
    (h1 : s1 = s.onPwr fun p => { p with slackNs := slack, slackSum := 0, slackSteps := 0, window := p.window + 1 })
    (h2 : s2 = if s.isLead then s1.onPwr fun p => { p with slackReports := tset p.slackReports s.index (slack, stepNs) }
      else s1.sendBudget s.plan.leadIndex bkSlack s.index 0 slack stepNs)
    (h3 : s3 = if s.setN setBudgetTrade = 1 ∧ 5 * stepNs ≤ 100 * slack ∧ 0 < stepNs ∧ s.pwr.reverting = false then
      s2.onPwr fun p => { p with lent := p.lent + s2.loanOffer, owesLent := some s2.loanOffer } else s2)
    (h4 : s4 = s3.onPwr fun p => { p with
      paceSetter := s3.isLead && s3.paceSetters.contains s.index
      paceWindows := if s3.isLead && s3.paceSetters.contains s.index then p.paceWindows + 1 else 0 }) :
    exec .budgetWindow s = .next (if s4.pwr.paceWindows = 8 ∧ (s4.tiles.causes.any fun c => c.cause == 3) = true then
      s4.fault fltPaceLimiter else s4) := by
  show execBudgetWindow s = _
  have hlends : (s.setN setBudgetTrade == 1 && decide (5 * stepNs ≤ 100 * slack) && decide (0 < stepNs) &&
      !s.pwr.reverting) = true ↔
      s.setN setBudgetTrade = 1 ∧ 5 * stepNs ≤ 100 * slack ∧ 0 < stepNs ∧ s.pwr.reverting = false := by
    simp [and_assoc]
  simp only [execBudgetWindow, if_neg hfull.not_gt, ← hslack, ← hstep, ← h1, ← h2, hlends, ← h3, ← h4]
  simp only [Bool.and_eq_true, decide_eq_true_eq]

end

/-- Settles O27: each budget message by its kind, and the end of a window. -/
theorem powerIsTradedInTheSlice : Obligations.PowerIsTradedInTheSlice := by
  unfold Obligations.PowerIsTradedInTheSlice
  intro s u s1 s2 s3 s4 port k m e slack stepNs
  refine ⟨fun hh hent hparse => ?messages, budgetWindow_of_full⟩
  case messages =>
    exact ⟨budgetSlack_records hh hent hparse, budgetLent_of_lead hh hent hparse, budgetGrant_raises hh hent hparse,
      budgetRevert_undoes hh hent hparse, budgetReverted_of_lead hh hent hparse⟩

end Sys2Proof.Proofs
end

section
/-! PROOFS. The 100 µs power window (O39), and the clamp, the thermal limit and the ends of points, stagger and fade (O40). -/

namespace Sys2Proof.Proofs

open Sys2Proof Sys2Proof.Machine Sys2Proof.Laws

/-! ### POWER_WINDOW_END (R321, R337) -/

section

variable {s s1 s2 s3 s4 s6 s7 s8 : State} {w v uj : Nat} {done : List (MPort × Nat × Nat)}

/- `s1` records the window. -/
variable (huj : uj = s.pwr.energyUj + w * 100)
  (h1 : s1 = s.onPwr fun p => { p with
    windowW := w, windows := (w :: p.windows).take 10000, vIn100mV := v
    energyMj := (p.energyMj + uj / 1000) % 2 ^ 64, energyUj := uj % 1000 })

include huj h1

theorem powerWindowEnd_of_off (hoff : s.pwr.state = .s3 ∨ s.pwr.state = .s5) :
    exec (.powerWindowEnd w v) s = .next s1 := by
  show execPowerWindowEnd w v s = _
  subst huj h1
  exact congrArg Host.Outcome.next (if_pos (by simpa using hoff))

/-- Outside S3 and S5 the window also steps the ramp limit, the filler, the cap changes, the budget and the reach. -/
theorem powerWindowEnd_of_on (hs3 : s.pwr.state ≠ .s3) (hs5 : s.pwr.state ≠ .s5)
    (h2 : s2 = s1.onPwr fun p => { p with
      rampLimit := if p.stagger.isSome then p.rampLimit else min s.effCap (w + s.setN setRampUp / 10) })
    (h3 : s3 = if s.pwr.clamp && s.pwr.clampRamp then s2.count ctRampLimited 0 100000 else s2) (h4 : s4 = s3.stepFiller w)
    (hdone : done = s4.pwr.capReq.filter fun r => w ≤ s4.effCap && r.2.2 + 100000 ≤ s.now)
    (h6 : s6 = done.foldl (fun (a : State) r => a.finishAt r.1 r.2.1 stOk 0 (a.capBytes w))
      (s4.onPwr fun p => { p with capReq := p.capReq.filter fun r => !done.contains r }))
    (h7 : s7 = if w ≤ s6.effCap then s6.payBudget else s6)
    (hnone : s7.pwr.reachDue = none → s8 = s7)
    (hdue : ∀ n cap, s7.pwr.reachDue = some (n, cap) → s8 = (if s7.pwr.state != .s1 then s7
      else if n ≤ 1 then (s7.onPwr fun p => { p with reachDue := none }).fault fltCapBelowFloor noUnit
        { args := [cap, s7.pwr.reachW, meanOf (s7.pwr.windows.take 10), s7.setN setPowerCap] }
      else s7.onPwr fun p => { p with reachDue := some (n - 1, cap) })) :
    exec (.powerWindowEnd w v) s = .next (
      if s8.pwr.belowReach && s8.pwr.state == .s1 && s8.pwr.change.isNone && s8.pwr.reachW + 50 ≤ s8.effCap then
        s8.onPwr fun p => { p with change := some ⟨.s0, none, s.now, false, true⟩ } else s8) := by
  show execPowerWindowEnd w v s = _
  have hon : ¬ (s.pwr.state == .s3 || s.pwr.state == .s5) = true := by simp [hs3, hs5]
  simp only [execPowerWindowEnd, if_neg hon, ← huj, ← h1, ← h2, ← h3, ← h4, ← hdone, ← h6, ← h7]
  cases hreach : s7.pwr.reachDue with
  | none => rw [hnone hreach]
  | some due =>
    obtain ⟨n, cap⟩ := due
    rw [hdue n cap hreach]

end

/-- Settles O39: a window with the main rails off and on, the reach by whether it is due. -/
theorem powerWindowsEnd : Obligations.PowerWindowsEnd := by
  unfold Obligations.PowerWindowsEnd
  intro s s1 s2 s3 s4 s6 s7 s8 w v uj done huj h1
  exact ⟨powerWindowEnd_of_off huj h1, powerWindowEnd_of_on huj h1⟩

section

variable {s u v : State} {mean lim reach cdie t0 ms : Nat} {temps : List Int}

/-! ### The clamp and the reach (R323, R324) -/

section

/- The clamp holds the lower of the cap and the ramp limit. -/
variable (hs0 : s.pwr.state = .s0) (hlim : lim = min s.effCap s.pwr.rampLimit)

include hs0 hlim

theorem clampAdjust_releases (hfits : mean ≤ lim) : exec (.clampAdjust mean) s =
    .next (s.onPwr fun p => { p with clamp := false, clamp16 := 0, clampRamp := false }) := by
  show execClampAdjust mean s = _
  subst hlim
  simp only [execClampAdjust, hs0, bne_self_eq_false, Bool.false_eq_true, if_false, if_pos hfits]

theorem clampAdjust_clamps (hover : lim < mean)
    (hu : u = s.onPwr fun p => { p with
      clamp := true, clamp16 := 1 + Config.unstated 10 [mean, lim], clampRamp := decide (s.pwr.rampLimit < s.effCap)
      clampSinceNs := if p.clamp then p.clampSinceNs else s.now }) :
    exec (.clampAdjust mean) s = .next (((List.range 16).foldl (fun (a : State) c => a.setPoint c (a.point c - 1)) u).count
      ctClamp 0 10000) := by
  show execClampAdjust mean s = _
  subst hlim hu
  simp only [execClampAdjust, hs0, bne_self_eq_false, Bool.false_eq_true, if_false, if_neg hover.not_ge]

end

theorem capReachDecision_of_floor (hs0 : s.pwr.state = .s0) (hclamp : s.pwr.clamp = true)
    (hlong : s.pwr.clampSinceNs + 20000000 ≤ s.now) (hzero : ∀ c, c < 16 → s.point c = 0) (hchange : s.pwr.change = none) :
    exec (.capReachDecision reach) s = .next (s.onPwr fun p => { p with
      reachW := reach, reachDue := some (10, s.effCap), change := some ⟨.s1, none, s.now, false, true⟩ }) := by
  show execCapReachDecision reach s = _
  have hpoints : (List.range 16).all (fun c => s.point c == 0) = true := by simpa using hzero
  simp only [execCapReachDecision, hs0, hclamp, hlong, hpoints, hchange, beq_self_eq_true, decide_true, Option.isNone_none,
    Bool.and_self, if_true]

/-! ### The thermal limit (R326) -/

section

/- `u` shows every sensor's reading in its gauge. -/
variable (hon : s.mainOn = true)
  (hu : u = (indexed temps).foldl (fun (a : State) t => a.gauge ctDieTemp t.1 (gaugeInt t.2)) s)

include hon hu

theorem thermalSupervisor_of_hot (hhot : ((indexed temps).any fun t => throttleM t.1 < t.2) = true)
    (hv : v = u.onPwr fun p => { p with thermalW := max 1200 (p.thermalW - 100), thermalCool := 0 }) :
    exec (.thermalSupervisor temps) s = .next (
      if (s.pwr.thermalEvNs = none ∨ ∃ t, s.pwr.thermalEvNs = some t ∧ t + 1000000000 ≤ s.now) ∧
          v.pwr.thermalW < s.pwr.thermalW then
        (v.onPwr fun p => { p with thermalEvNs := some s.now }).event evThermalLimit noUnit v.pwr.thermalW else v) := by
  show execThermalSupervisor temps s = _
  simp only [execThermalSupervisor, hon, Bool.not_true, Bool.false_eq_true, if_false, ← hu, hhot, if_true, ← hv]
  cases s.pwr.thermalEvNs with
  | none => simp
  | some t => simp

theorem thermalSupervisor_of_not_hot (hhot : ((indexed temps).any fun t => throttleM t.1 < t.2) = false) :
    exec (.thermalSupervisor temps) s = .next (u.onPwr fun p =>
      if ((indexed temps).all fun t => t.2 + 3000 ≤ throttleM t.1) then
        if 9 ≤ s.pwr.thermalCool then { p with thermalW := min 5000 (p.thermalW + 100), thermalCool := 0 }
        else { p with thermalCool := p.thermalCool + 1 }
      else { p with thermalCool := 0 }) := by
  show execThermalSupervisor temps s = _
  simp only [execThermalSupervisor, hon, Bool.not_true, Bool.false_eq_true, if_false, ← hu, hhot]
  split
  · split <;> rfl
  · rfl

end

/-! ### The stagger hold and the fade (R338, R340) -/

theorem staggerHoldEnd_of_late {a : Nat} (hs : s.pwr.stagger = some (t0, a))
    (hlate : t0 + s.plan.rank s.index * s.setN setStagger * 1000 ≤ s.now) :
    exec .staggerHoldEnd s = .next (s.onPwr fun p => { p with stagger := none }) := by
  show execStaggerHoldEnd s = _
  simp only [execStaggerHoldEnd, hs, if_pos hlate]

theorem fadeEnd_of_late {a : Nat} (hf : s.pwr.fade = some (a, t0, ms)) (hlate : t0 + ms * 1000000 ≤ s.now) :
    exec .fadeEnd s = .next (s.onPwr fun p => { p with fade := none }) := by
  show execFadeEnd s = _
  simp only [execFadeEnd, hf, if_pos hlate]

end

/-- Settles O40: the clamp both ways, the reach, the thermal limit by its readings, and the three ends. -/
theorem clampsThermalLimitsAndFadesEnd : Obligations.ClampsThermalLimitsAndFadesEnd := by
  unfold Obligations.ClampsThermalLimitsAndFadesEnd
  intro s u v mean lim reach cdie temps t0 ms
  refine ⟨fun hs0 hlim => ?clamp, fun hon hu => ?thermal, rfl, fun _ => staggerHoldEnd_of_late, fun _ => fadeEnd_of_late⟩
  case clamp =>
    exact ⟨clampAdjust_releases hs0 hlim, clampAdjust_clamps hs0 hlim, capReachDecision_of_floor hs0⟩
  case thermal =>
    exact ⟨thermalSupervisor_of_hot hon hu, thermalSupervisor_of_not_hot hon hu⟩

end Sys2Proof.Proofs
end

section
/-! PROOFS. The check value as a division by the polynomial of R350 (O55): the model's register is the division's, reflected. -/

namespace Sys2Proof.Proofs

open Sys2Proof Sys2Proof.Machine Sys2Proof.Laws

/-! ### Reflection -/

theorem mirror_lt (w n : Nat) : mirror w n < 2 ^ w := by
  induction w generalizing n with
  | zero => exact Nat.one_pos
  | succ w ih =>
    have hbit : 2 ^ w * (n % 2) ≤ 2 ^ w * 1 := Nat.mul_le_mul_left _ (Nat.le_of_lt_succ (Nat.mod_lt n Nat.two_pos))
    have hrest := ih (n / 2)
    rw [mirror, pow_succ]
    omega

theorem testBit_mirror (w n i : Nat) : (mirror w n).testBit i = (decide (i < w) && n.testBit (w - 1 - i)) := by
  induction w generalizing n with
  | zero => simp [mirror]
  | succ w ih =>
    rw [mirror, Nat.testBit_two_pow_mul_add _ (mirror_lt w (n / 2))]
    split
    next hlow =>
      have hplace : w + 1 - 1 - i = (w - 1 - i) + 1 := by omega
      rw [ih, Nat.testBit_div_two, hplace, decide_eq_true hlow, decide_eq_true (Nat.lt_succ_of_lt hlow)]
    next hhigh =>
      obtain ⟨j, rfl⟩ := Nat.exists_eq_add_of_le (Nat.le_of_not_lt hhigh)
      cases j with
      | zero => simp
      | succ j => simp [← Nat.testBit_div_two]

theorem mirror_xor (w a b : Nat) : mirror w (a ^^^ b) = mirror w a ^^^ mirror w b := by
  refine Nat.eq_of_testBit_eq fun i => ?_
  simp only [Nat.testBit_xor, testBit_mirror, Bool.and_xor_distrib_left]

/-- A shift to the left within the register is a shift to the right of its reflection. -/
theorem mirror_shift (w n : Nat) : mirror w (n * 2 % 2 ^ w) = mirror w n / 2 := by
  refine Nat.eq_of_testBit_eq fun i => ?_
  have hplace : w - 1 - i - 1 = w - 1 - (i + 1) := by omega
  rw [Nat.testBit_div_two, testBit_mirror, testBit_mirror, Nat.testBit_mod_two_pow, ← pow_one 2, Nat.testBit_mul_two_pow,
    hplace, Bool.eq_iff_iff]
  simp only [Bool.and_eq_true, decide_eq_true_eq]
  exact ⟨fun ⟨_, _, hlow, hset⟩ => ⟨by omega, hset⟩, fun ⟨hlow, hset⟩ => ⟨by omega, by omega, by omega, hset⟩⟩

theorem mirror_mod_two (w n : Nat) : mirror (w + 1) n % 2 = n / 2 ^ w % 2 := by
  have hbit := testBit_mirror (w + 1) n 0
  simp only [Nat.testBit_eq_decide_div_mod_eq, Nat.pow_zero, Nat.div_one, Nat.succ_pos, decide_true, Bool.true_and,
    Nat.add_sub_cancel, Nat.sub_zero, decide_eq_decide] at hbit
  omega

theorem mod_two_xor_two_mul_div_two (n : Nat) : n % 2 ^^^ 2 * (n / 2) = n := by
  have hmod : (n % 2 ^^^ 2 * (n / 2)) % 2 = n % 2 := by rw [Nat.xor_mod_two_eq]; omega
  have hdiv : (n % 2 ^^^ 2 * (n / 2)) / 2 = n / 2 := by
    rw [Nat.xor_div_two, Nat.mod_div_self, Nat.mul_div_cancel_left _ Nat.two_pos, Nat.zero_xor]
  omega

/-! ### One bit and one byte of the division -/

/-- Higher bits of the message only wait in the register. -/
theorem crcBit_xor_two_mul (x m : Nat) : crcBit (x ^^^ 2 * m) = crcBit x ^^^ m := by
  have hmod : (x ^^^ 2 * m) % 2 = x % 2 := by rw [Nat.xor_mod_two_eq]; omega
  have hdiv : (x ^^^ 2 * m) / 2 = x / 2 ^^^ m := by rw [Nat.xor_div_two, Nat.mul_div_cancel_left m Nat.two_pos]
  simp only [crcBit, hmod, hdiv]
  split
  · exact Nat.xor_right_comm _ _ _
  · rfl

theorem mirror_crcDivideBit (r : Nat) {bit : Nat} (hbit : bit < 2) :
    mirror 32 (crcDivideBit r bit) = crcBit (mirror 32 r ^^^ bit) := by
  have hdiv : (mirror 32 r ^^^ bit) / 2 = mirror 32 r / 2 := by
    rw [Nat.xor_div_two, Nat.div_eq_of_lt hbit, Nat.xor_zero]
  have hout : (mirror 32 r ^^^ bit) % 2 = (r / 2 ^ 31 + bit) % 2 := by
    rw [Nat.xor_mod_two_eq, Nat.add_mod, mirror_mod_two, ← Nat.add_mod]
  have hpoly : mirror 32 0x1EDC6F41 = 0x82F63B78 := by decide
  rw [crcDivideBit, crcBit, hdiv, hout]
  by_cases heq : r / 2 ^ 31 % 2 = bit
  · rw [if_pos heq, if_neg (by omega), mirror_shift]
  · rw [if_neg heq, if_pos (by omega), mirror_xor, mirror_shift, hpoly]

/-- The bits of a number go in one after the other, or at once before the shifts. -/
theorem foldl_crcBit (k c n : Nat) (hn : n < 2 ^ k) :
    (List.range k).foldl (fun c i => crcBit (c ^^^ n / 2 ^ i % 2)) c = crcBit^[k] (c ^^^ n) := by
  induction k generalizing c n with
  | zero => simp [Nat.lt_one_iff.1 hn]
  | succ k ih =>
    have hsplit : c ^^^ n = (c ^^^ n % 2) ^^^ 2 * (n / 2) := by rw [Nat.xor_assoc, mod_two_xor_two_mul_div_two]
    have hhalf : n / 2 < 2 ^ k := by omega
    rw [List.range_succ_eq_map, List.foldl_cons, List.foldl_map, Function.iterate_succ_apply, hsplit, crcBit_xor_two_mul,
      ← ih _ _ hhalf]
    simp only [Nat.pow_zero, Nat.div_one, Nat.div_div_eq_div_mul, Nat.pow_succ', Nat.succ_eq_add_one]

theorem mirror_crcDivide (r : Nat) (b : Byte) : mirror 32 (crcDivide r b) = crcByte (mirror 32 r) b := by
  have hbits := List.foldl_hom (mirror 32) (l := List.range 8) (init := r)
    (g₁ := fun r i => crcDivideBit r (b.toNat / 2 ^ i % 2)) (g₂ := fun c i => crcBit (c ^^^ b.toNat / 2 ^ i % 2))
    fun r i => (mirror_crcDivideBit r (Nat.mod_lt _ Nat.two_pos)).symm
  calc mirror 32 (crcDivide r b)
      = (List.range 8).foldl (fun c i => crcBit (c ^^^ b.toNat / 2 ^ i % 2)) (mirror 32 r) := hbits.symm
    _ = crcBit^[8] (mirror 32 r ^^^ b.toNat) := foldl_crcBit 8 _ _ b.isLt
    _ = crcByte (mirror 32 r) b := rfl

/-- Settles O55: byte by byte the model's register is the reflection of the division's. -/
theorem blocksAreCheckedByCrc32c : Obligations.BlocksAreCheckedByCrc32c := by
  unfold Obligations.BlocksAreCheckedByCrc32c
  refine ⟨fun b => ?_, by decide +kernel⟩
  have hstart : mirror 32 0xFFFFFFFF = 0xFFFFFFFF := by decide
  have hfold := List.foldl_hom (mirror 32) (l := b) (init := 0xFFFFFFFF) fun r x => (mirror_crcDivide r x).symm
  rw [crc32c, ← hfold, hstart]

end Sys2Proof.Proofs
end

section
/-! PROOFS. Counters, events, accounting, fault records, history and certificates read, and fault records acknowledged (O8). -/

namespace Sys2Proof.Proofs

open Sys2Proof Sys2Proof.Machine Sys2Proof.Laws

section

variable {s t : State} {q : Req} {c : Cmd}

/-! ### Counters, events and accounting (R375, R376, R85) -/

theorem opCounterRead_of_counters (hf : Finds s q t c 0x0601 (8 + 8 * rd 2 c.pay 0)) (hpos : 0 < rd 2 c.pay 0)
    (hmax : rd 2 c.pay 0 ≤ 251) (hrsv2 : rd 2 c.pay 2 = 0) (hrsv4 : rd 4 c.pay 4 = 0)
    (hok : ∀ i ∈ List.range (rd 2 c.pay 0), t.counterOk (rd 4 c.pay (8 + 8 * i)) (rd 4 c.pay (12 + 8 * i)) = true) :
    exec (.opCounterRead q) s = .next (endsIn t c (le 2 (rd 2 c.pay 0) ++ zeros 6 ++
      (List.range (rd 2 c.pay 0)).flatMap fun i => le 4 (rd 4 c.pay (8 + 8 * i)) ++ le 4 (rd 4 c.pay (12 + 8 * i)) ++
        le 8 (t.counter (rd 4 c.pay (8 + 8 * i)) (rd 4 c.pay (12 + 8 * i))))) := by
  refine congrArg Host.Outcome.next (runOp_done hf rfl (fun x hx => ?checks) rfl)
  case checks =>
    rcases List.mem_append.1 hx with hform | hcounters
    · have hforms : ∀ y ∈ [(rd 2 c.pay 0 == 0 || decide (251 < rd 2 c.pay 0), stLenRange, payOff 0)] ++
          lenIs c (8 + 8 * rd 2 c.pay 0) ++ [(rd 2 c.pay 2 != 0 || rd 4 c.pay 4 != 0, stFieldRange, payOff 2)],
          y.1 = false := by
        simp [lenIs, hf.lenEq, hpos.ne', lt_false hmax, hrsv2, hrsv4]
      exact hforms x hform
    · obtain ⟨i, hi, rfl⟩ := List.mem_map.1 hcounters
      simp [hok i hi]

theorem opEventRead_of_count {r : List Rec × Nat × Nat} (hf : Finds s q t c 0x0602 8) (hpos : 0 < byteAt c.pay 4)
    (hmax : byteAt c.pay 4 ≤ 125) (hrsv : rd 4 c.pay 4 / 256 = 0)
    (hr : r = ringRead t.integ.events t.integ.eventSeq (rd 4 c.pay 0) (byteAt c.pay 4)) :
    exec (.opEventRead q) s =
      .next (endsIn t c (le 4 r.1.length ++ le 4 r.2.1 ++ le 4 r.2.2 ++ zeros 4 ++ r.1.flatMap Rec.bytes)) := by
  subst hr
  refine congrArg Host.Outcome.next (runOp_done hf rfl ?checks rfl)
  case checks => simp [lenIs, hf.lenEq, hpos.ne', lt_false hmax, hrsv]

theorem opAccountingRead_of_first {ks : List Nat} (hf : Finds s q t c 0x0603 4) (hpos : 0 < byteAt c.pay 0)
    (hrsv : rd 4 c.pay 0 / 256 = 0)
    (hks : ks = ((rangeFrom (byteAt c.pay 0) (256 - byteAt c.pay 0)).filter fun k => ceValid (t.clientEntry k)).take 125) :
    exec (.opAccountingRead q) s = .next (endsIn t c (le 8 ks.length ++ ks.flatMap fun k =>
      le 8 k ++ le 8 (tgetD t.srv.accounting k (0, 0, 0)).1 ++ le 8 (tgetD t.srv.accounting k (0, 0, 0)).2.1 ++
        le 8 (tgetD t.srv.accounting k (0, 0, 0)).2.2)) := by
  subst hks
  refine congrArg Host.Outcome.next (runOp_done hf rfl ?checks rfl)
  case checks => simp [lenIs, hf.lenEq, hpos.ne', hrsv]

/-! ### Fault records (R372, R376) -/

theorem opFaultRead_of_count {rs : List FaultRec} (hf : Finds s q t c 0x0701 12) (hpos : 0 < rd 4 c.pay 8)
    (hmax : rd 4 c.pay 8 ≤ 12)
    (hrs : rs = (t.integ.faults.filter fun r => rd 8 c.pay 0 ≤ r.recordId).take (rd 4 c.pay 8)) :
    exec (.opFaultRead q) s = .next (endsIn t c (le 8 rs.length ++ rs.flatMap FaultRec.cper)) := by
  have hfield : rd 4 c.pay 8 % 16 = rd 4 c.pay 8 := Nat.mod_eq_of_lt (by omega)
  have hrsv : rd 4 c.pay 8 / 16 = 0 := Nat.div_eq_of_lt (by omega)
  subst hrs
  refine congrArg Host.Outcome.next (runOp_done hf rfl ?checks ?act)
  case checks => simp [lenIs, hf.lenEq, hfield, hpos.ne', lt_false hmax, hrsv]
  case act => simp only [hfield]

theorem opFaultAck_marks {u : State} (hf : Finds s q t c 0x0702 8)
    (hu : u = t.onInteg fun i => { i with
      faults := i.faults.map fun r => if r.recordId ≤ rd 8 c.pay 0 then { r with acked := true } else r }) :
    exec (.opFaultAck q) s = .next (endsIn u c (le 2 u.faultsWaiting ++ zeros 2)) := by
  subst hu
  refine congrArg Host.Outcome.next (runOp_done hf rfl ?checks rfl)
  case checks => simp [lenIs, hf.lenEq]

/-! ### Health history (Table 11.14) -/

section

/- The command is found, and asks for `n` entries, a number that fills no reserved bit. -/
variable {n : Nat} (hf : Finds s q t c 0x0705 12) (hpos : 0 < n) (hn : n = rd 4 c.pay 8) (hbits : n < 512)

include hf hpos hn hbits

theorem opHistoryRead_states (hpart : rd 4 c.pay 0 = 0) (hmax : n ≤ 125) (hkind : rd 4 c.pay 4 / 65536 < 12) :
    exec (.opHistoryRead q) s = .next (endsIn t c (le 4 ((unitsFrom (rd 4 c.pay 4)).take n).length ++
      le 4 ((((unitsFrom (rd 4 c.pay 4)).take n).getLast?.map fun u => UnitId.inst u + 1).getD (rd 4 c.pay 4)) ++
      ((unitsFrom (rd 4 c.pay 4)).take n).flatMap t.tableEntry)) := by
  subst hn
  refine congrArg Host.Outcome.next (runOp_done hf rfl ?checks ?act)
  case checks =>
    simp [lenIs, hf.lenEq, Nat.mod_eq_of_lt hbits, Nat.div_eq_of_lt hbits, hpos.ne', hpart, lt_false hmax, le_false hkind]
  case act => simp only [hpart, Nat.mod_eq_of_lt hbits]

theorem opHistoryRead_log {r : List Rec × Nat × Nat} (hpart : rd 4 c.pay 0 = 1) (hmax : n ≤ 125)
    (hr : r = ringRead t.integ.log t.integ.logSeq (rd 4 c.pay 4) n) :
    exec (.opHistoryRead q) s = .next (endsIn t c (le 4 r.1.length ++ le 4 r.2.1 ++ r.1.flatMap Rec.bytes)) := by
  subst hn hr
  refine congrArg Host.Outcome.next (runOp_done hf rfl ?checks ?act)
  case checks => simp [lenIs, hf.lenEq, Nat.mod_eq_of_lt hbits, Nat.div_eq_of_lt hbits, hpos.ne', hpart, lt_false hmax]
  case act => simp only [hpart, Nat.mod_eq_of_lt hbits]

theorem opHistoryRead_frames {fr : List (Nat × Nat)} (hpart : rd 4 c.pay 0 = 2) (hmax : n ≤ 503)
    (hfr : fr = ((sortBy (fun a b => a.1 < b.1 || (a.1 == b.1 && a.2 ≤ b.2)) t.mem.retired).drop (rd 4 c.pay 4)).take n) :
    exec (.opHistoryRead q) s = .next (endsIn t c (le 4 fr.length ++ le 4 (rd 4 c.pay 4 + fr.length) ++
      fr.flatMap fun x => le 8 (x.1 + 4 * x.2))) := by
  subst hn hfr
  refine congrArg Host.Outcome.next (runOp_done hf rfl ?checks ?act)
  case checks => simp [lenIs, hf.lenEq, Nat.mod_eq_of_lt hbits, Nat.div_eq_of_lt hbits, hpos.ne', hpart, lt_false hmax]
  case act => simp only [hpart, Nat.mod_eq_of_lt hbits]

end

/-! ### The certificate chain (R381) -/

theorem opCertRead_of_length {b : Bytes} (hf : Finds s q t c 0x0906 8) (hpos : 0 < rd 2 c.pay 4)
    (hmax : rd 2 c.pay 4 ≤ 4024 ∨ rd 2 c.pay 4 = 0xFFFF) (hrsv : rd 2 c.pay 6 = 0)
    (hb : b = cut t.chain (rd 4 c.pay 0) (if rd 2 c.pay 4 = 0xFFFF then 4024 else rd 2 c.pay 4)) :
    exec (.opCertRead q) s = .next (endsIn t c (le 4 t.chain.length ++ le 4 b.length ++ padMul 4 b)) := by
  subst hb
  refine congrArg Host.Outcome.next (runOp_done hf rfl ?checks rfl)
  case checks =>
    have hlength : (rd 2 c.pay 4 == 0 || decide (4024 < rd 2 c.pay 4) && rd 2 c.pay 4 != 0xFFFF) = false := by
      rcases hmax with hshort | hall
      · simp [hpos.ne', lt_false hshort]
      · simp [hall]
    simp [lenIs, hf.lenEq, hlength, hrsv]

end

/-- Settles O8: each read by the lemma of its row, the history by its three parts. -/
theorem recordsAreReadAndAcknowledged : Obligations.RecordsAreReadAndAcknowledged := by
  unfold Obligations.RecordsAreReadAndAcknowledged
  intro s t q c n
  refine ⟨opCounterRead_of_counters, fun _ => opEventRead_of_count, fun _ => opAccountingRead_of_first,
    fun _ => opFaultRead_of_count, fun _ => opFaultAck_marks, fun hf hpos hn hbits => ?history, fun _ => opCertRead_of_length⟩
  case history =>
    exact ⟨opHistoryRead_states hf hpos hn hbits, fun _ => opHistoryRead_log hf hpos hn hbits,
      fun _ => opHistoryRead_frames hf hpos hn hbits⟩

end Sys2Proof.Proofs
end

section
/-! PROOFS. Self-tests started and ended, and preferred operating points (O9). -/

namespace Sys2Proof.Proofs

open Sys2Proof Sys2Proof.Machine Sys2Proof.Laws

section

variable {s t u : State} {q : Req} {c : Cmd} {r : SelfRun} {failed : Option (Nat × UnitId)} {due : List Nat}

/-! ### OP_SELFTEST_RUN (R377) -/

theorem selfMine_of_kind {k : Nat} (hkind : rd 4 c.pay 0 = k) : selfMine k c = true := by
  simp [selfMine, selfKind, hkind]

theorem selfChecks_pass (hf : Finds s q t c 0x0704 8) (hkind : rd 4 c.pay 0 ≤ 2)
    (htile : rd 4 c.pay 4 = 0 ∨ rd 4 c.pay 0 = 1) (hlt : rd 4 c.pay 4 < 2560) : ∀ x ∈ selfChecks t c, x.1 = false := by
  have hknown : decide (2 < selfKind c) = false := lt_false hkind
  have hargument : (rd 4 c.pay 4 != 0 && selfKind c != 1) = false := by
    rcases htile with hzero | hone
    · simp [hzero]
    · simp [selfKind, hone]
  simp [selfChecks, lenIs, hf.lenEq, hknown, hargument, hlt]

/-- While no run is in course, a run of its kind starts. -/
theorem selfRun_of_none {k : Nat} {tiles : List Nat} (hnone : t.integ.selftest = none) : t.selfRun c k tiles =
    .long (t.onInteg fun i => { i with
      selftest := some { port := c.port, slot := c.slot, kind := k, waiting := tiles } }) objSelftest [] [] := by
  rw [State.selfRun, hnone, Option.isSome_none, if_neg Bool.false_ne_true]

theorem selftestCheckers_starts (hf : Finds s q t c 0x0704 8) (hkind : rd 4 c.pay 0 = 0) (hzero : rd 4 c.pay 4 = 0)
    (hidle : t.sliceBusy = false) (hnone : t.integ.selftest = none) :
    exec (.selftestCheckers q) s = .next (runsIn (t.onInteg fun i => { i with
      selftest := some { port := c.port, slot := c.slot, kind := 0, waiting := [] } }) c objSelftest [] []) := by
  refine congrArg Host.Outcome.next (runOp_long hf (selfMine_of_kind hkind) ?checks ?act rfl)
  case checks => exact selfChecks_pass hf (by omega) (.inl hzero) (by omega)
  case act => simp only [hidle, Bool.false_eq_true, if_false, selfRun_of_none hnone]

theorem selftestTile_starts (hf : Finds s q t c 0x0704 8) (hkind : rd 4 c.pay 0 = 1) (hlt : rd 4 c.pay 4 < 2560)
    (hnone : t.integ.selftest = none)
    (hu : u = t.onInteg fun i => { i with
      selftest := some { port := c.port, slot := c.slot, kind := 1, waiting := [rd 4 c.pay 4] } }) :
    exec (.selftestTile q) s = .next (t.carryOut c (.long (if u.inPlace (rd 4 c.pay 4)
      then u.startTests (ptileDie (rd 4 c.pay 4)) else u.addCause (rd 4 c.pay 4) 4) objSelftest [] [])) := by
  subst hu
  refine congrArg Host.Outcome.next
    ((runOp_finds hf (selfMine_of_kind hkind) ?checks).trans (congrArg (t.carryOut c) ?act))
  case checks => exact selfChecks_pass hf (by omega) (.inr hkind) hlt
  case act => simp only [selfRun_of_none hnone]

section

/- An ALL_DUE run is asked for while none is in course, and `due` are the tiles that are due or already under test. -/
variable (hf : Finds s q t c 0x0704 8) (hkind : rd 4 c.pay 0 = 2) (hzero : rd 4 c.pay 4 = 0)
  (hnone : t.integ.selftest = none)
  (hdue : due = (List.range 2560).filter (fun p => t.testDue p || t.tiles.inTest.contains p))

include hf hkind hzero hnone hdue

theorem selftestAllDue_of_none_due (hempty : due = []) : exec (.selftestAllDue q) s = .next (endsIn t c (zeros 4)) := by
  refine congrArg Host.Outcome.next (runOp_done hf (selfMine_of_kind hkind) ?checks ?act)
  case checks => exact selfChecks_pass hf (by omega) (.inl hzero) (by omega)
  case act => simp only [hnone, ← hdue, hempty, Option.isSome_none, List.isEmpty_nil, Bool.false_eq_true, if_false, if_true]

theorem selftestAllDue_of_some_due (hu : u = t.onInteg fun i => { i with
      selftest := some { port := c.port, slot := c.slot, kind := 2, waiting := due } }) (hsome : due ≠ []) :
    exec (.selftestAllDue q) s = .next (t.carryOut c (.long ((List.range 16).foldl (fun x d => x.startTests d)
      ((due.filter fun p => !u.inPlace p && !u.tiles.inTest.contains p).foldl (fun x p => x.addCause p 4) u))
      objSelftest [] [])) := by
  subst hu
  refine congrArg Host.Outcome.next
    ((runOp_finds hf (selfMine_of_kind hkind) ?checks).trans (congrArg (t.carryOut c) ?act))
  case checks => exact selfChecks_pass hf (by omega) (.inl hzero) (by omega)
  case act =>
    have hfull : due.isEmpty = false := List.isEmpty_eq_false_iff.2 hsome
    simp only [← hdue, hfull, hnone, Option.isSome_none, Bool.false_eq_true, if_false, selfRun_of_none hnone]

end

/-! ### CHECKER_TEST_DONE (R357) -/

theorem checkerTestDone_of_checkers (hr : s.integ.selftest = some r) (hkind : r.kind = 0) :
    exec (.checkerTestDone failed) s = .next (((s.checkerResult failed).onInteg fun i => { i with
      selftest := none }).finishAt r.port r.slot stOk 0 (le 2 (b2n failed.isSome) ++ le 2 (checkerCode failed))) := by
  show execCheckerTestDone failed s = _
  simp only [execCheckerTestDone, hr, if_pos hkind]

/-! ### OP_OPPOINT_SET (Table 10.7) -/

/-- A payload's entry `i`: LAYER_CODE in bits 15:0, CLASS in 17:16, POINT in 21:18, and reserved bits above. -/
abbrev pointEntry (c : Cmd) (i : Nat) : Nat := rd 4 c.pay (8 + 4 * i)

theorem opOppointSet_of_entries (hf : Finds s q t c 0x0504 (8 + 4 * rd 2 c.pay 0)) (hpos : 0 < rd 2 c.pay 0)
    (hmax : rd 2 c.pay 0 ≤ 1000) (hrsv2 : rd 2 c.pay 2 = 0) (hrsv4 : rd 4 c.pay 4 = 0)
    (hentries : ∀ i ∈ List.range (rd 2 c.pay 0), bitsOf (pointEntry c i) 15 0 ≤ t.plan.nLayers + 1 ∧
      ¬ (8 ≤ bitsOf (pointEntry c i) 21 18 ∧ bitsOf (pointEntry c i) 21 18 ≤ 14) ∧ bitsOf (pointEntry c i) 31 22 = 0) :
    exec (.opOppointSet q) s = .next (endsIn (t.onPwr fun w => { w with
      prefsNext := (List.range (rd 2 c.pay 0)).foldl (fun (t : Tbl Nat) i =>
        if bitsOf (pointEntry c i) 21 18 = 15
        then tdel t (bitsOf (pointEntry c i) 15 0 * 4 + bitsOf (pointEntry c i) 17 16)
        else tset t (bitsOf (pointEntry c i) 15 0 * 4 + bitsOf (pointEntry c i) 17 16)
          (bitsOf (pointEntry c i) 21 18)) w.prefsNext }) c []) := by
  refine congrArg Host.Outcome.next (runOp_done hf rfl (fun x hx => ?checks) rfl)
  case checks =>
    rcases List.mem_append.1 hx with hform | hentry
    · have hforms : ∀ y ∈ [(rd 2 c.pay 0 == 0 || decide (1000 < rd 2 c.pay 0), stLenRange, 0x40)] ++
          lenIs c (8 + 4 * rd 2 c.pay 0) ++
          [(rd 2 c.pay 2 != 0, stFieldRange, 0x42), (rd 4 c.pay 4 != 0, stFieldRange, 0x44)], y.1 = false := by
        simp [lenIs, hf.lenEq, hpos.ne', lt_false hmax, hrsv2, hrsv4]
      exact hforms x hform
    · obtain ⟨i, hi, hcheck⟩ := List.mem_flatMap.1 hentry
      obtain ⟨hphase, hpoint, hrsv⟩ := hentries i hi
      simp only [List.mem_cons, List.not_mem_nil, or_false] at hcheck
      rcases hcheck with rfl | rfl | rfl
      · exact lt_false hphase
      · exact decide_eq_false hpoint
      · exact bne_eq_false_iff_eq.2 hrsv

end

/-- Settles O9: the three kinds of self-test, the end of the checkers' run, and the preferred points. -/
theorem selfTestsAndPreferredPointsAreTaken : Obligations.SelfTestsAndPreferredPointsAreTaken := by
  unfold Obligations.SelfTestsAndPreferredPointsAreTaken
  intro s t q c
  refine ⟨selftestCheckers_starts, fun _ => selftestTile_starts, ?allDue, fun _ _ => checkerTestDone_of_checkers,
    opOppointSet_of_entries⟩
  case allDue =>
    intro u due hf hkind hzero hnone hdue hu
    exact ⟨selftestAllDue_of_none_due hf hkind hzero hnone hdue, selftestAllDue_of_some_due hf hkind hzero hnone hdue hu⟩

end Sys2Proof.Proofs
end

section
/-! PROOFS. Fault records delivered by PLDM and to collectors, and the seconds that count repeats (O19). -/

namespace Sys2Proof.Proofs

open Sys2Proof Sys2Proof.Machine Sys2Proof.Laws

section

variable {s : State} {receiver : Option (Nat × Nat)} {rx : Nat × Nat} {id tries sentNs c interval code : Nat} {r : FaultRec}
  {unit : UnitId} {x : Series}

/-! ### Delivery by PLDM (R373) -/

section

/- Standby power is on. -/
variable (hup : s.standby = true)

include hup

theorem setEventReceiver_of_other (hother : s.integ.receiver ≠ receiver) :
    exec (.setEventReceiver receiver) s = .next (((s.onInteg fun i => { i with
      receiver := receiver, pldmSent := none, pldmPos := 0,
      faults := i.faults.map fun r => { r with delivered := without r.delivered 0 } }).setAlert).exportPldm) := by
  show execSetEventReceiver receiver s = _
  simp only [execSetEventReceiver, hup, beq_eq_false_iff_ne.2 hother, Bool.not_true, Bool.or_self, Bool.false_eq_true, if_false]

theorem pldmEventResponse_of_sent (hsent : s.integ.pldmSent = some (id, tries, sentNs)) :
    exec .pldmEventResponse s = .next (((s.onInteg fun i => { i with
      pldmSent := none, pldmPos := id,
      faults := i.faults.map fun r =>
        if r.recordId = id then { r with delivered := addNew r.delivered 0 } else r }).setAlert).exportPldm) := by
  show execPldmEventResponse s = _
  simp only [execPldmEventResponse, hsent, hup, Bool.not_true, Bool.false_eq_true, if_false]

section

/- The record in flight has had no response in its time. -/
variable (hsent : s.integ.pldmSent = some (id, tries, sentNs)) (hrx : s.integ.receiver = some rx)
  (hlate : sentNs + (if tries < 10 then 100000000 else 10000000000) ≤ s.now)

include hsent hrx hlate

theorem pldmExportRetry_of_held (hheld : s.integ.faults.find? (fun r => r.recordId == id) = some r) :
    exec .pldmExportRetry s = .next (((s.onInteg fun i => { i with
      pldmSent := some (id, tries + 1, s.now) }).count ctExportRetries 0 1).emit (.pldm rx.1 rx.2 id r.cper)) := by
  show execPldmExportRetry s = _
  simp only [execPldmExportRetry, hsent, hrx, hup, lt_false hlate, hheld, Bool.not_true, Bool.or_self, Bool.false_eq_true,
    if_false]

theorem pldmExportRetry_of_overwritten (hgone : s.integ.faults.find? (fun r => r.recordId == id) = none) :
    exec .pldmExportRetry s = .next ((s.onInteg fun i => { i with pldmSent := none, pldmPos := id }).exportPldm) := by
  show execPldmExportRetry s = _
  simp only [execPldmExportRetry, hsent, hrx, hup, lt_false hlate, hgone, Bool.not_true, Bool.or_self, Bool.false_eq_true,
    if_false]

end

/-! ### Delivery to collectors (R374) -/

section

variable (hcollects : s.collectors.contains c = true)

include hcollects

theorem collectorAck_of_collector :
    exec (.collectorAck c id) s = .next ((((s.putCollector c { s.collector c with
      outstanding := (s.collector c).outstanding.filter fun o => o.1 != id }).onInteg fun i => { i with
        faults := i.faults.map fun r =>
          if r.recordId = id then { r with delivered := addNew r.delivered c } else r }).exportTo c 8)) := by
  show execCollectorAck c id s = _
  simp only [execCollectorAck, hup, hcollects, Bool.not_true, Bool.or_self, Bool.false_eq_true, if_false]

section

/- The record went to the collector, and its interval has passed without an acknowledgement. -/
variable (hsent : (s.collector c).outstanding.find? (fun o => o.1 == id) = some (id, sentNs, interval))
  (hlate : sentNs + interval * 1000000000 ≤ s.now)

include hsent hlate

theorem collectorResend_of_held (hheld : s.integ.faults.find? (fun r => r.recordId == id) = some r) :
    exec (.collectorResend c id) s = .next (((s.putCollector c { s.collector c with
      outstanding := (s.collector c).outstanding.map fun o =>
        if o.1 = id then (id, s.now, min 60 (2 * interval)) else o }).count ctExportRetries c 1).emit
          (.datagram c (datagramOf r))) := by
  show execCollectorResend c id s = _
  simp only [execCollectorResend, hsent, hup, hcollects, lt_false hlate, hheld, Bool.not_true, Bool.or_self,
    Bool.false_eq_true, if_false]

theorem collectorResend_of_overwritten (hgone : s.integ.faults.find? (fun r => r.recordId == id) = none) :
    exec (.collectorResend c id) s = .next ((s.putCollector c { s.collector c with
      outstanding := (s.collector c).outstanding.filter fun o => o.1 != id }).exportTo c 8) := by
  show execCollectorResend c id s = _
  simp only [execCollectorResend, hsent, hup, hcollects, lt_false hlate, hgone, Bool.not_true, Bool.or_self,
    Bool.false_eq_true, if_false]

end

end

end

/-! ### The seconds of a series (R370) -/

section

/- The series of a fault and its unit is open, and its second has passed. -/
variable (hx : s.integ.series.find? (fun y => y.code == code && y.unit == unit) = some x)
  (hlate : x.startNs + 1000000000 ≤ s.now)

include hx hlate

theorem faultCountSecond_of_none (hzero : x.count = 0) :
    exec (.faultCountSecond code unit) s = .next (s.onInteg fun i => { i with
      series := s.integ.series.filter fun y => !(y.code == code && y.unit == unit) }) := by
  show execFaultCountSecond code unit s = _
  simp only [execFaultCountSecond, hx, if_neg hlate.not_gt, if_pos hzero]

theorem faultCountSecond_of_some (hsome : x.count ≠ 0) :
    exec (.faultCountSecond code unit) s = .next ((s.onInteg fun i => { i with
      series := s.integ.series.filter (fun y => !(y.code == code && y.unit == unit)) ++
        [{ x with count := 0, startNs := s.now }] }).faultRecord code unit x.ctx x.count) := by
  show execFaultCountSecond code unit s = _
  simp only [execFaultCountSecond, hx, if_neg hlate.not_gt, if_neg hsome]

end

end

/-- Settles O19: delivery to the receiver and to a collector with standby power, and the end of a series' second. -/
theorem faultRecordsAreDelivered : Obligations.FaultRecordsAreDelivered := by
  unfold Obligations.FaultRecordsAreDelivered
  intro s receiver rx id tries sentNs c interval code r unit x
  refine ⟨fun hup => ⟨setEventReceiver_of_other hup, fun hsent => ?pldm, fun hcollects => ?collector⟩, fun hx hlate => ?series⟩
  case pldm =>
    exact ⟨pldmEventResponse_of_sent hup hsent, fun hrx hlate =>
      ⟨pldmExportRetry_of_held hup hsent hrx hlate, pldmExportRetry_of_overwritten hup hsent hrx hlate⟩⟩
  case collector =>
    exact ⟨collectorAck_of_collector hup hcollects, fun hsent hlate =>
      ⟨collectorResend_of_held hup hcollects hsent hlate, collectorResend_of_overwritten hup hcollects hsent hlate⟩⟩
  case series => exact ⟨faultCountSecond_of_none hx hlate, faultCountSecond_of_some hx hlate⟩

end Sys2Proof.Proofs
end

section
/-! PROOFS. RETIRED and the burned fuses along a step (O50). -/

namespace Sys2Proof.Proofs

open Sys2Proof Sys2Proof.Machine Sys2Proof.Laws

/-- What a step keeps of the security group and of MIN_SVN (R386, R419): a nanosecond has no part in either. -/
theorem step_keeps_sec {s t : State} (hstep : step s = .next t) : SecKeeps s.sec t.sec ∧ s.fw.minSvn ≤ t.fw.minSvn := by
  obtain ⟨u, v, hnext, hkeeps, -, -, -, -, hsec, hfw⟩ := step_keeps s
  obtain rfl : v = t := Host.Outcome.next.inj (hnext.symm.trans hstep)
  exact ⟨hsec ▸ hkeeps.sec, hfw ▸ hkeeps.minSvn⟩

/-- Settles O50: RETIRED with no erase that leaves it is one predicate of the security group, and a step keeps it. -/
theorem retiredAndFusesAreFinal : Obligations.RetiredAndFusesAreFinal := by
  unfold Obligations.RetiredAndFusesAreFinal
  intro s t hstep
  obtain ⟨hsec, hsvn⟩ := step_keeps_sec hstep
  exact ⟨fun hlife herase => hsec.retired ⟨hlife, herase⟩, hsec.factory, hsec.retire, hsec.fuses, hsvn⟩

end Sys2Proof.Proofs
end

section
/-! PROOFS. The physical view (O15, O52) and the scan chains (O15). -/

namespace Sys2Proof.Proofs

open Sys2Proof Sys2Proof.Machine Sys2Proof.Laws

theorem length_fit (n : Nat) (b : Bytes) : (fit n b).length = n := by
  simp only [fit, zeros, List.length_take, List.length_append, List.length_replicate]
  omega

/-! ### Physical reads and writes (R48, R396) -/

section

variable {s t : State} {q : Req} {c : Cmd} {a n : Nat}

/-- A found command's payload is as long as its header says. -/
theorem finds_length_pay {op len : Nat} (hf : Finds s q t c op len) : c.pay.length = len := by
  have hpay : c.pay.length = min c.hdr.payloadLen 4032 := by
    rw [← hf.here]
    exact length_fit _ _
  rw [hpay, hf.lenEq, Nat.min_eq_left hf.room]

/- A command names `n` bytes from `a` on, whole words within its limits that the view holds. -/
variable (ha : a = rd 8 c.pay 0) (hn : n = rd 2 c.pay 8) (hmin : 8 ≤ n) (hmax : n ≤ 4016) (hwhole : n % 8 = 0)
  (halign : a % 8 = 0) (hrsv : rd 2 c.pay 10 = 0) (hview : t.physOk a n = true)

include ha hn hmin hmax hwhole halign hrsv

theorem physRead_checks (hf : Finds s q t c 0x0F02 12) : ∀ x ∈ physChecks false t c, x.1 = false := by
  subst ha hn
  simp [physChecks, lenIs, hf.lenEq, lt_false hmin, lt_false hmax, hwhole, halign, hrsv]

theorem physWrite_checks (hf : Finds s q t c 0x0F03 (16 + n)) (hrsv12 : rd 4 c.pay 12 = 0) :
    ∀ x ∈ physChecks true t c, x.1 = false := by
  have hpadded : ceilDiv n 4 * 4 = n := by
    unfold ceilDiv
    omega
  subst ha hn
  simp [physChecks, lenIs, hf.lenEq, hpadded, lt_false hmin, lt_false hmax, hwhole, halign, hrsv, hrsv12]

include hview

theorem opPhysRead_of_sound (hf : Finds s q t c 0x0F02 12) (hfirst : t.poisoned a = false)
    (hlast : t.poisoned (a + n - 1) = false) : exec (.opPhysRead q) s = .next (endsIn t c (t.read a n)) := by
  refine congrArg Host.Outcome.next
    (runOp_done hf rfl (physRead_checks ha hn hmin hmax hwhole halign hrsv hf) ?act)
  case act =>
    simp only [← ha, ← hn, hview, List.find?_cons, hfirst, hlast, List.find?_nil, Bool.not_true, Bool.false_eq_true, if_false]

theorem opPhysRead_of_poisoned (hf : Finds s q t c 0x0F02 12) (hpoison : t.poisoned a = true) : exec (.opPhysRead q) s =
    .next ((t.memUe (viewUnit a) a .range 0).handBack c.port c.slot stInternal 0 [] true) := by
  refine congrArg Host.Outcome.next ((runOp_finds hf rfl
    (physRead_checks ha hn hmin hmax hwhole halign hrsv hf)).trans (congrArg (t.carryOut c)
      (?act : _ = Act.done (t.memUe (viewUnit a) a .range 0) stInternal 0 [])))
  case act => simp only [← ha, ← hn, hview, List.find?_cons, hpoison, Bool.not_true, Bool.false_eq_true, if_false]

theorem opPhysWrite_of_stopped (hf : Finds s q t c 0x0F03 (16 + n)) (hrsv12 : rd 4 c.pay 12 = 0)
    (hstarting : t.srv.sliceState ≠ .starting) (hrunning : t.srv.sliceState ≠ .running) :
    exec (.opPhysWrite q) s = .next (endsIn (t.write a (cut c.pay 0x10 n)) c []) := by
  refine congrArg Host.Outcome.next
    (runOp_done hf rfl (physWrite_checks ha hn hmin hmax hwhole halign hrsv hf hrsv12) ?act)
  case act =>
    simp only [← ha, ← hn, hview, beq_eq_false_iff_ne.2 hstarting, beq_eq_false_iff_ne.2 hrunning, Bool.or_self,
      Bool.not_true, Bool.false_eq_true, if_false]

end

/-! ### A write's bytes and its frame (R48) -/

section

variable {t u : State} {b : Bytes} {a i n off : Nat}

theorem length_cut_of_le (h : off + n ≤ b.length) : (cut b off n).length = n := by
  simp only [cut, List.length_take, List.length_drop]
  omega

theorem toNat_getElem_cut (h : i < (cut b off n).length) : ((cut b off n)[i]).toNat = byteAt b (off + i) := by
  have hin : off + i < b.length := by
    simp only [cut, List.length_take, List.length_drop] at h
    omega
  simp [cut, byteAt, hin]

/-- A hand-back leaves memory. -/
theorem MailOnly.mem (h : MailOnly t u) : u.mem = t.mem := by
  obtain ⟨m, o, -, rfl⟩ := h
  rfl

theorem write_mailOnly_frame (h : MailOnly (t.write a b) u) :
    u.mem = { t.mem with cells := u.mem.cells } ∧ u = { t with mem := u.mem, mbox := u.mbox, out := u.out } := by
  obtain ⟨m, o, -, rfl⟩ := h
  exact ⟨rfl, rfl⟩

end

/-- Settles O52: memory after the command is memory after the write of the payload's bytes, whose laws Laws/Memory states. -/
theorem physicalWritesStoreTheirBytes : Obligations.PhysicalWritesStoreTheirBytes := by
  unfold Obligations.PhysicalWritesStoreTheirBytes
  intro s t q c a n ha hn hmin hmax hwhole halign hrsv hrsv12 hview hf hstarting hrunning hsafe
  have hexec := opPhysWrite_of_stopped ha hn hmin hmax hwhole halign hrsv hview hf hrsv12 hstarting hrunning
  have hlen : (cut c.pay 0x10 n).length = n := length_cut_of_le (finds_length_pay hf).ge
  generalize hu : endsIn (t.write a (cut c.pay 0x10 n)) c [] = u at hexec
  have hmail : MailOnly (t.write a (cut c.pay 0x10 n)) u := hu ▸ handBack_mailOnly _ _ _ _ _ _
  obtain ⟨hmem, hframe⟩ := write_mailOnly_frame hmail
  refine ⟨u, hexec, fun i hi => ?inside, fun x hx => ?outside, ?safe, hmem, hframe⟩
  case inside =>
    have hin : i < (cut c.pay 0x10 n).length := hi.trans_eq hlen.symm
    calc (Memory.get u.mem.cells (a + i)).toNat
      _ = ((cut c.pay 0x10 n)[i]).toNat := by
        rw [hmail.mem]
        exact congrArg BitVec.toNat (mem_get_write_inside _ _ a i hin hsafe)
      _ = byteAt c.pay (16 + i) := toNat_getElem_cut hin
  case outside =>
    rw [hmail.mem]
    exact state_get_write_outside t a x _ (by omega) hsafe
  case safe =>
    unfold SafeState
    rw [hmail.mem]
    exact state_write_wf t a _ hsafe

/-! ### Scan chains (R396) -/

section

variable {s t : State} {q : Req} {c : Cmd} {k : Nat} {new : List Bool}

theorem actionIs_of_eq {action : Nat} (hlt : action < 4) (haction : rd 4 c.pay 0 = action) : actionIs action c = true := by
  rw [actionIs, haction, Nat.mod_eq_of_lt hlt, beq_self_eq_true]

theorem scanList_lists (hf : Finds s q t c 0x0F04 16) (haction : rd 4 c.pay 0 = 0) : exec (.scanList q) s =
    .next (endsIn t c ((List.range (min 504 Config.scanChains)).flatMap fun k => le 4 k ++ le 4 (Config.scanLength k))) := by
  refine congrArg Host.Outcome.next (runOp_done hf (actionIs_of_eq (by decide) haction) ?checks rfl)
  case checks => simp [scanChecks, lenIs, hf.lenEq, haction]

/- The command names a chain of the module. -/
variable (hk : k = rd 4 c.pay 4) (hchain : k < Config.scanChains)

include hk hchain

theorem scanCapture_stops_clocks (hf : Finds s q t c 0x0F04 16) (haction : rd 4 c.pay 0 = 1) :
    exec (.scanCapture q) s = .next (endsIn ((t.drawn).onSec fun x => { x with
      scanStopped := true, scanChains := tset x.scanChains k
        ((List.range (Config.scanLength k)).map (Config.scanBit ((t.freeCtr + 1) * 65536 + k))) }) c []) := by
  subst hk
  refine congrArg Host.Outcome.next (runOp_done hf (actionIs_of_eq (by decide) haction) ?checks rfl)
  case checks => simp [scanChecks, lenIs, hf.lenEq, haction, le_false hchain]

/- It names bits of that chain, a number that a slot can carry. -/
variable (hpos : 0 < scanBits c) (hmax : scanBits c ≤ 32064) (hend : rd 4 c.pay 8 + scanBits c ≤ Config.scanLength k)

include hpos hmax hend

theorem scanShiftOut_returns_bits (hf : Finds s q t c 0x0F04 16) (haction : rd 4 c.pay 0 = 2) :
    exec (.scanShiftOut q) s = .next (endsIn t c
      (padMul 4 (bytesOfBits (((t.chainBits k).drop (rd 4 c.pay 8)).take (scanBits c))))) := by
  subst hk
  refine congrArg Host.Outcome.next (runOp_done hf (actionIs_of_eq (by decide) haction) ?checks rfl)
  case checks =>
    simp [scanChecks, lenIs, hf.lenEq, haction, le_false hchain, hpos.ne', lt_false hmax, lt_false hend]

theorem scanShiftIn_sets_bits (hf : Finds s q t c 0x0F04 (16 + ceilDiv (ceilDiv (scanBits c) 8) 4 * 4))
    (haction : rd 4 c.pay 0 = 3) (hnew : new = (bitStream (c.pay.drop 0x10)).take (scanBits c)) :
    exec (.scanShiftIn q) s = .next (endsIn (t.onSec fun x => { x with
      scanChains := tset x.scanChains k
        ((t.chainBits k).take (rd 4 c.pay 8) ++ new ++ (t.chainBits k).drop (rd 4 c.pay 8 + new.length)) }) c []) := by
  subst hk hnew
  refine congrArg Host.Outcome.next (runOp_done hf (actionIs_of_eq (by decide) haction) ?checks rfl)
  case checks =>
    simp [scanChecks, lenIs, hf.lenEq, haction, le_false hchain, hpos.ne', lt_false hmax, lt_false hend]

end

/-- Settles O15: the physical view by its three commands, and the scan chains by the four actions. -/
theorem physicalMemoryAndScanChainsAreReached : Obligations.PhysicalMemoryAndScanChainsAreReached := by
  unfold Obligations.PhysicalMemoryAndScanChainsAreReached
  intro s t q c a n k new
  refine ⟨fun ha hn hmin hmax hwhole halign hrsv hview => ?view, scanList_lists, fun hk hchain => ?chain⟩
  case view =>
    exact ⟨opPhysRead_of_sound ha hn hmin hmax hwhole halign hrsv hview,
      opPhysRead_of_poisoned ha hn hmin hmax hwhole halign hrsv hview,
      opPhysWrite_of_stopped ha hn hmin hmax hwhole halign hrsv hview⟩
  case chain =>
    exact ⟨scanCapture_stops_clocks hk hchain, fun hpos hmax hend =>
      ⟨scanShiftOut_returns_bits hk hchain hpos hmax hend, scanShiftIn_sets_bits hk hchain hpos hmax hend⟩⟩

end Sys2Proof.Proofs
end

section
/-! PROOFS. Lifecycle transitions, ownership, debug levels, erases and narrowing (O11). -/

namespace Sys2Proof.Proofs

open Sys2Proof Sys2Proof.Machine Sys2Proof.Laws

section

variable {s t : State} {q : Req} {c : Cmd} {target : Nat}

/-- What a command makes of the state is what the module then notes. -/
theorem next_noteState {u v : State} (h : u = v) : (.next (s.noteState u) : Ret) = .next (s.noteState v) := by rw [h]

/-! ### Transitions (R386, R387) -/

/-- No transition of OP_LIFECYCLE_SET leads to FACTORY. -/
theorem transitionOk_zero (l : Lifecycle) : transitionOk l 0 = false := by cases l <;> rfl

/-- With no slice, no work on customer data and a SERVICE fuse left, a transition begins its erase. -/
theorem lifecycleAct_of_idle {ceiling : Nat} {owner : Bytes} (hslice : t.sliceBusy = false) (hbusy : t.eraseBusy = false)
    (hfuse : (t.sec.lifecycle == .owned && target == 2 && decide (32 ≤ t.sec.serviceFuses)) = false) :
    t.lifecycleAct c target ceiling owner =
      .long (t.beginErase (eraseOf t c 1 false target ceiling owner)) [] [] [] := by
  simp only [State.lifecycleAct, hslice, hbusy, hfuse, Bool.false_eq_true, if_false]
  rfl

theorem opLifecycleSet_of_allowed (hf : Finds s q t c 0x0901 0x50) (htarget : target = rd 4 c.pay 0 % 4)
    (hallowed : transitionOk t.sec.lifecycle target = true) (hrsv : rd 4 c.pay 0 / 16 = 0)
    (hceiling : target = 1 ∧ bitsOf (rd 4 c.pay 0) 3 2 ≠ 3 ∨ target ≠ 1 ∧ bitsOf (rd 4 c.pay 0) 3 2 = 0)
    (hrsv4 : allZero (cut c.pay 4 12) = true)
    (hserial : if target = 3 then cut c.pay 0x10 16 = serial else allZero (cut c.pay 0x10 16) = true)
    (howner : target = 1 ∨ allZero (cut c.pay 0x20 48) = true) (hslice : t.sliceBusy = false) (hbusy : t.eraseBusy = false)
    (hfuse : (t.sec.lifecycle == .owned && target == 2 && decide (32 ≤ t.sec.serviceFuses)) = false) :
    exec (.opLifecycleSet q) s = .next (s.noteState (t.carryOut c (.long (t.beginErase
      (eraseOf t c 1 false target (bitsOf (rd 4 c.pay 0) 3 2) (cut c.pay 0x20 48))) [] [] []))) := by
  have hnonzero : target ≠ 0 := by
    rintro rfl
    exact absurd (hallowed.symm.trans (transitionOk_zero _)) Bool.noConfusion
  have hrange : (if target = 1 then bitsOf (rd 4 c.pay 0) 3 2 == 3 else bitsOf (rd 4 c.pay 0) 3 2 != 0) = false := by
    rcases hceiling with ⟨hone, hlow⟩ | ⟨hother, hzero⟩
    · simp [hone, hlow]
    · simp [hother, hzero]
  obtain ⟨hblank, hours⟩ : (target != 3 && !allZero (cut c.pay 0x10 16)) = false ∧
      (decide (target = 3) && cut c.pay 0x10 16 != serial) = false := by
    split at hserial
    · next hthree => simp [hthree, hserial]
    · next hother => simp [hother, hserial]
  have hnoOwner : (target != 1 && !allZero (cut c.pay 0x20 48)) = false := by
    rcases howner with hone | hzero
    · simp [hone]
    · simp [hzero]
  subst htarget
  refine next_noteState ((runOp_finds hf rfl ?checks).trans (congrArg (t.carryOut c) ?act))
  case checks => simp [lenIs, hf.lenEq, hnonzero, hrange, hrsv, hrsv4, hblank, hnoOwner]
  case act =>
    simp only [hallowed, hours, Bool.not_true, Bool.false_eq_true, if_false, lifecycleAct_of_idle hslice hbusy hfuse]

theorem opOwnershipTake_of_idle (hf : Finds s q t c 0x0902 0x40) (hceiling : rd 4 c.pay 0 ≤ 2)
    (hrsv4 : allZero (cut c.pay 4 12) = true) (hslice : t.sliceBusy = false) (hbusy : t.eraseBusy = false) :
    exec (.opOwnershipTake q) s = .next (s.noteState (t.carryOut c (.long (t.beginErase
      (eraseOf t c 1 false 1 (rd 4 c.pay 0) (cut c.pay 0x10 48))) [] [] []))) := by
  refine next_noteState ((runOp_finds hf rfl ?checks).trans (congrArg (t.carryOut c) (lifecycleAct_of_idle hslice hbusy ?fuse)))
  case checks => simp [lenIs, hf.lenEq, lt_false hceiling, hrsv4]
  case fuse => simp

/-! ### Debug levels (R391) -/

section

/- The command is found, and names debug level `target`. -/
variable (hf : Finds s q t c 0x0904 4) (hrsv : rd 4 c.pay 0 / 8 = 0) (htarget : target = rd 4 c.pay 0 % 4)

include hf hrsv in
theorem debugLevelSet_checks : ∀ x ∈ lenIs c 4 ++ [(rd 4 c.pay 0 / 8 != 0, stFieldRange, payOff 0)], x.1 = false := by
  simp [lenIs, hf.lenEq, hrsv]

include hf hrsv htarget

theorem opDebugLevelSet_of_same (hsame : target = t.sec.debug) :
    exec (.opDebugLevelSet q) s = .next (s.noteState (endsIn t c (le 4 target ++ le 4 0))) := by
  subst htarget
  exact next_noteState (runOp_done hf rfl (debugLevelSet_checks hf hrsv) (if_pos hsame))

theorem opDebugLevelSet_of_free (hother : target ≠ t.sec.debug) (hallowed : t.debugAllowed target = true)
    (hfree : t.debugErases target = false) :
    exec (.opDebugLevelSet q) s = .next (s.noteState (endsIn (t.setDebug target) c (le 4 target ++ le 4 0))) := by
  subst htarget
  refine next_noteState (runOp_done hf rfl (debugLevelSet_checks hf hrsv) ?act)
  case act => simp only [if_neg hother, hallowed, hfree, Bool.not_true, Bool.false_eq_true, if_false]

theorem opDebugLevelSet_of_erasing (hother : target ≠ t.sec.debug) (hallowed : t.debugAllowed target = true)
    (herases : t.debugErases target = true) (hbusy : t.eraseBusy = false) :
    exec (.opDebugLevelSet q) s = .next (s.noteState (t.carryOut c (.long (t.beginErase
      (eraseOf t c 2 (bitOf (rd 4 c.pay 0) 2) target 0 [])) [] [] []))) := by
  subst htarget
  refine next_noteState ((runOp_finds hf rfl (debugLevelSet_checks hf hrsv)).trans (congrArg (t.carryOut c) ?act))
  case act => simp only [if_neg hother, hallowed, herases, hbusy, Bool.not_true, Bool.false_eq_true, if_false, if_true, eraseOf]

end

/-! ### Erases (R392) -/

theorem opErase_of_idle (hf : Finds s q t c 0x0905 4) (hrsv : bitsOf (rd 4 c.pay 0) 1 0 = 0)
    (hrsvHigh : rd 4 c.pay 0 / 8 = 0) (hbusy : t.eraseBusy = false) :
    exec (.opErase q) s = .next (s.noteState (t.carryOut c (.long (t.beginErase
      (eraseOf t c 0 (bitOf (rd 4 c.pay 0) 2) 0 0 [])) [] [] []))) := by
  refine next_noteState ((runOp_finds hf rfl ?checks).trans (congrArg (t.carryOut c) (if_neg ?idle)))
  case checks => simp [lenIs, hf.lenEq, hrsv, hrsvHigh]
  case idle => simp [hbusy]

theorem eraseDone_of_erasing {r : EraseRun} {failed : Option UnitId} (hr : s.sec.erasing = some r)
    (hs1 : s.pwr.state ≠ .s1) (hs2 : s.pwr.state ≠ .s2) :
    exec (.eraseDone failed) s = .next (s.noteState (s.endErase r failed)) := by
  show execEraseDone failed s = _
  simp only [execEraseDone, hr, beq_eq_false_iff_ne.2 hs1, beq_eq_false_iff_ne.2 hs2, Bool.or_self, Bool.false_eq_true,
    if_false]

/-! ### Narrowing (R389) -/

theorem opRightsNarrow_of_entries {es : List (Nat × Nat × Nat)} (hf : Finds s q t c 0x0903 (8 + 4 * rd 2 c.pay 0))
    (hmax : rd 2 c.pay 0 ≤ 1006) (hrsv : rd 4 c.pay 0 / 2 ^ 18 = 0) (hrsv4 : rd 4 c.pay 4 = 0)
    (hentries : ∀ i ∈ List.range (rd 2 c.pay 0), rd 4 c.pay (8 + 4 * i) / 2 ^ 19 = 0)
    (hceiling : bitsOf (rd 4 c.pay 0) 17 16 ≤ t.sec.debugCeiling)
    (hes : es = (List.range (rd 2 c.pay 0)).map (fun i => (i, narrowEntry c.pay i)))
    (hknown : ∀ e ∈ es, (opInfo e.2.1).isSome = true ∧ (bitOf e.2.2 1 && keepsM e.2.1) = false) :
    exec (.opRightsNarrow q) s = .next (endsIn ((t.onSec fun k => { k with
      debugCeiling := bitsOf (rd 4 c.pay 0) 17 16,
      narrowed := es.foldl (fun (n : Tbl Nat) e => if e.2.2 &&& (((opInfo e.2.1).map OpInfo.ports).getD 0) = 0 then n
        else tmod n e.2.1 0 (fun x => x ||| (e.2.2 &&& (((opInfo e.2.1).map OpInfo.ports).getD 0)))) k.narrowed }).event
      evRightsNarrowed noUnit (rd 2 c.pay 0)) c []) := by
  have hnone : es.find? (fun e => (opInfo e.2.1).isNone || (bitOf e.2.2 1 && keepsM e.2.1)) = none := by
    refine List.find?_eq_none.2 fun e he => ?_
    obtain ⟨hsome, hkeeps⟩ := hknown e he
    simp [Option.isSome_iff_ne_none.1 hsome, hkeeps]
  subst hes
  refine congrArg Host.Outcome.next (runOp_done hf rfl (fun x hx => ?checks) ?act)
  case checks =>
    rcases List.mem_append.1 hx with hform | hentry
    · have hforms : ∀ y ∈ [(decide (1006 < rd 2 c.pay 0), stLenRange, payOff 0)] ++ lenIs c (8 + 4 * rd 2 c.pay 0) ++
          [(rd 4 c.pay 0 / 2 ^ 18 != 0, stFieldRange, payOff 0), (rd 4 c.pay 4 != 0, stFieldRange, payOff 4)],
          y.1 = false := by
        have hlow : rd 4 c.pay 0 < 262144 := by omega
        simp [lenIs, hf.lenEq, lt_false hmax, hlow, hrsv4]
      exact hforms x hform
    · obtain ⟨i, hi, rfl⟩ := List.mem_map.1 hentry
      exact bne_eq_false_iff_eq.2 (hentries i hi)
  case act => simp only [if_neg hceiling.not_gt, hnone]

end

/-- Settles O11: each command by its lemma, the debug levels by the three ways of taking one. -/
theorem lifecycleDebugAndEraseCommandsRun : Obligations.LifecycleDebugAndEraseCommandsRun := by
  unfold Obligations.LifecycleDebugAndEraseCommandsRun
  intro s t q c target
  refine ⟨opLifecycleSet_of_allowed, opOwnershipTake_of_idle, fun hf hrsv htarget => ?debug, opErase_of_idle,
    fun _ _ => eraseDone_of_erasing, fun _ => opRightsNarrow_of_entries⟩
  case debug =>
    exact ⟨opDebugLevelSet_of_same hf hrsv htarget, opDebugLevelSet_of_free hf hrsv htarget,
      opDebugLevelSet_of_erasing hf hrsv htarget⟩

end Sys2Proof.Proofs
end

section
/-! PROOFS. The SPDM responder's answers (O18). -/

namespace Sys2Proof.Proofs

open Sys2Proof Sys2Proof.Machine Sys2Proof.Laws

section

variable {s : State} {t : SpdmPath}

/- The path answers, no resynchronisation is due, and the identity is in force. -/
variable (hup : s.spdmUp t = true) (hsync : s.sec.resync.contains t = false) (hidentity : Config.identityBad = false)

include hup hsync hidentity

/-- A request that the connection has come far enough for is given to its rule. -/
theorem spdmReq_of_reached {need : Nat} {rule : State → State} (hneed : need ≤ s.spdmState t) :
    s.spdmReq t need rule = rule s := by
  simp only [State.spdmReq, hup, hsync, hidentity, if_neg hneed.not_gt, Bool.not_true, Bool.false_eq_true, if_false]

theorem getVersion_restarts : exec (.getVersion t) s = .next ((s.setSpdm t 1).spdmSay t spVersion [0x12, 0x13]) :=
  congrArg Host.Outcome.next (spdmReq_of_reached hup hsync hidentity (Nat.zero_le _))

theorem spdmUnsupportedRequest_refused (code : Nat) :
    exec (.spdmUnsupportedRequest t code) s = .next (s.spdmErr t seUnsupported) :=
  congrArg Host.Outcome.next (spdmReq_of_reached hup hsync hidentity (Nat.zero_le _))

theorem getCapabilities_of_version {v : Nat} (hstate : 1 ≤ s.spdmState t) (hv : v = 0x12 ∨ v = 0x13) :
    exec (.getCapabilities t v) s = .next ((s.setSpdm t 2).spdmSay t spCapabilities (le 1 12 ++ le 4 0x36)) := by
  refine congrArg Host.Outcome.next ((spdmReq_of_reached hup hsync hidentity hstate).trans (if_neg ?_))
  rcases hv with rfl | rfl <;> decide

theorem negotiateAlgorithms_of_ours (hstate : 2 ≤ s.spdmState t) :
    exec (.negotiateAlgorithms t true true true) s = .next ((s.setSpdm t 3).spdmSay t spAlgorithms []) :=
  congrArg Host.Outcome.next (spdmReq_of_reached hup hsync hidentity hstate)

/- The connection is negotiated. -/
variable (hstate : 3 ≤ s.spdmState t)

include hstate

theorem getDigests_of_negotiated : exec (.getDigests t) s = .next (s.spdmSay t spDigests (sha384 s.chain)) :=
  congrArg Host.Outcome.next (spdmReq_of_reached hup hsync hidentity hstate)

theorem getCertificate_of_negotiated (off len : Nat) :
    exec (.getCertificate t 0 off len) s = .next (s.spdmSay t spCertificate (cut s.chain off len)) :=
  congrArg Host.Outcome.next (spdmReq_of_reached hup hsync hidentity hstate)

theorem challenge_of_hashType {ht : Nat} {nonce sum : Bytes} (hsum : ht = 0 ∧ sum = [] ∨
    ht = 0xFF ∧ sum = sha384 s.allBlocks ∨ ht = 1 ∧ sum = le 48 (Config.unstated 43 (s.allBlocks.map BitVec.toNat))) :
    exec (.challenge t 0 nonce ht) s = .next ((s.drawn).spdmSay t spChallengeAuth (sha384 s.chain ++ s.nonce ++ sum)
      (some (s.signed nonce (sha384 s.chain ++ s.nonce ++ sum)))) := by
  refine congrArg Host.Outcome.next ((spdmReq_of_reached hup hsync hidentity hstate).trans ?_)
  rcases hsum with ⟨rfl, rfl⟩ | ⟨rfl, rfl⟩ | ⟨rfl, rfl⟩ <;> rfl

theorem getMeasurements_of_index {ix : Nat} {sig : Bool} {nonce sum : Bytes} (hix : ix ≤ 10 ∨ ix = 0xFF)
    (hsum : sum = if ix = 0 then le 1 10 else if ix = 0xFF then s.allBlocks else s.measBlock ix) :
    exec (.getMeasurements t ix sig nonce) s = .next ((s.drawn).spdmSay t spMeasurements (sum ++ s.nonce)
      (if sig then some (s.signed nonce (sum ++ s.nonce)) else none)) := by
  have hknown : ¬(decide (10 < ix) && ix != 0xFF) = true := by
    rcases hix with hone | hall
    · simp [hone]
    · simp [hall]
  subst hsum
  exact congrArg Host.Outcome.next ((spdmReq_of_reached hup hsync hidentity hstate).trans (if_neg hknown))

end

/-- Settles O18: each request by its lemma, in the order of the connection. -/
theorem attestationAnswers : Obligations.AttestationAnswers := by
  unfold Obligations.AttestationAnswers
  intro s t v off len ht ix code nonce sum sig hup hsync hidentity
  refine ⟨getVersion_restarts hup hsync hidentity, spdmUnsupportedRequest_refused hup hsync hidentity code,
    getCapabilities_of_version hup hsync hidentity, negotiateAlgorithms_of_ours hup hsync hidentity, fun hstate => ?negotiated⟩
  case negotiated =>
    exact ⟨getDigests_of_negotiated hup hsync hidentity hstate, getCertificate_of_negotiated hup hsync hidentity hstate off len,
      challenge_of_hashType hup hsync hidentity hstate, getMeasurements_of_index hup hsync hidentity hstate⟩

end Sys2Proof.Proofs
end

section
/-! PROOFS. A command that ends with a status of its own, and one with what follows it, where its act is short or long. -/

namespace Sys2Proof.Proofs

open Sys2Proof Sys2Proof.Machine Sys2Proof.Laws

section

variable {s t u : State} {q : Req} {c : Cmd} {op len : Nat} {mine : Cmd → Bool} {own : State → Cmd → List (Bool × Nat × Nat)}
  {act : State → Cmd → Act} (hf : Finds s q t c op len) (after : State → State) (hmine : mine c = true)
  (hown : ∀ x ∈ own t c, x.1 = false)

include hf hmine hown

/-- A short command ends with the status that its act gives. -/
theorem runOp_handsBack {st d : Nat} {pay : Bytes} (hact : act t c = .done u st d pay) :
    s.runOp q op mine own act = u.handBack c.port c.slot st d pay true := by
  rw [runOp_finds hf hmine hown, hact]
  rfl

/-- A short command ends as its act says before what follows it. -/
theorem runOpThen_done {pay : Bytes} (hact : act t c = .done u stOk 0 pay) :
    s.runOpThen q op mine own act after = after (endsIn u c pay) := by
  rw [runOpThen_finds hf after hmine hown (by simp [hact]) (by simp [hact]), hact]
  rfl

/-- A long command starts as its act says before what follows it. -/
theorem runOpThen_long {obj args : List Nat} {body : Bytes} (hact : act t c = .long u obj args body) :
    s.runOpThen q op mine own act after = after (t.carryOut c (.long u obj args body)) := by
  rw [runOpThen_finds hf after hmine hown (by simp [hact]) (by simp [hact]), hact]

end

end Sys2Proof.Proofs
end

section
/-! PROOFS. Firmware written, activated, confirmed and aborted (O10). -/

namespace Sys2Proof.Proofs

open Sys2Proof Sys2Proof.Machine Sys2Proof.Laws

section

variable {s t : State} {q : Req} {c : Cmd} {b : Bool}

/-! ### OP_FW_HEADER (R415) -/

theorem opFwHeader_of_good (hf : Finds s q t c 0x0801 512) (hfree : objFree t objFirmware) (hgood : t.headerCheck c.pay = none)
    (htrial : t.bankIn .trial = none) (hb : b = t.inactiveBank) :
    exec (.opFwHeader q) s = .next (endsIn ((t.putBank b { state := .writing, header := c.pay }).onFw fun f => { f with
      trialBank := if f.trialBank = some b then none else f.trialBank }) c (le 4 (b2n b))) := by
  subst hb
  refine congrArg Host.Outcome.next (runOp_done hf rfl ?checks ?act)
  case checks => simp [lenIs, hf.lenEq]
  case act => simp only [objAct_free hfree, hgood, htrial, Option.isSome_none, Bool.false_eq_true, if_false]

/-! ### OP_FW_CHUNK (R302, R416) -/

section

/- A part passes its checks while bank `b` is written and no command holds the firmware. -/
variable {n : Nat} (hf : Finds s q t c 0x0802 n) (hchecks : ∀ x ∈ fwChunkChecks t c, x.1 = false)
  (hwriting : t.bankIn .writing = some b) (hfree : objFree t objFirmware)

include hf hchecks hwriting hfree

theorem opFwChunk_inline (hinline : bitOf (rd 4 c.pay 0) 0 = false) (r : State × Nat)
    (hr : r = t.fwPart b (rd 4 c.pay 8) (cut c.pay 0x40 (rd 4 c.pay 12))) :
    exec (.opFwChunk q) s = .next (r.1.handBack c.port c.slot r.2 0 (r.1.fwChunkBytes b (rd 4 c.pay 12)) true) := by
  subst hr
  refine congrArg Host.Outcome.next (runOp_handsBack hf rfl hchecks ?act)
  case act => simp only [hwriting, hinline, objAct_free hfree, Bool.false_eq_true, if_false]

theorem opFwChunk_dma (hdma : bitOf (rd 4 c.pay 0) 0 = true) (hport : c.port = .h) :
    exec (.opFwChunk q) s = .next (runsIn t c objFirmware [rd 4 c.pay 8, rd 4 c.pay 12, b2n b] []) := by
  refine congrArg Host.Outcome.next (runOp_long hf rfl hchecks ?act rfl)
  case act => simp only [hwriting, hdma, hport, objAct_free hfree, bne_self_eq_false, Bool.false_eq_true, if_false, if_true]

end

theorem dmaReadDone_of_firmware {port : MPort} {slot : Nat} {x : Bytes} {r : Running} {o : State × Nat}
    (hr : s.mbox.running.find? (fun r => r.port == port && r.slot == slot && (r.opcode == 0x0202 || r.opcode == 0x0802)) = some r)
    (hop : r.opcode = 0x0802) (hb : b = (r.args.getD 2 0 == 1)) (hwriting : (s.bank b).state = .writing)
    (ho : o = s.fwPart b (r.args.getD 0 0) (fit (r.args.getD 1 0) x)) :
    exec (.dmaReadDone port slot (.inr x)) s = .next (o.1.finishRun r o.2 0 (o.1.fwChunkBytes b (r.args.getD 1 0))) := by
  show execDmaReadDone port slot (.inr x) s = _
  have hfirmware : (r.opcode == 0x0202) = false := by rw [hop]; rfl
  subst hb ho
  simp only [execDmaReadDone, hr, hfirmware, State.fwDmaDone, hwriting, bne_self_eq_false, Bool.false_eq_true, if_false]

/-! ### OP_FW_ACTIVATE (R417) -/

section

/- A staged bank `b` is activated while no command holds the firmware. -/
variable (hchecks : ∀ x ∈ activateChecks t c, x.1 = false) (hstaged : t.bankIn .staged = some b)
  (hfree : objFree t objFirmware) (hf : Finds s q t c 0x0803 8)

theorem modeIs_of_mode {k : Nat} (hmode : rd 4 c.pay 0 = k) : modeIs k c = true := by
  simp [modeIs, hmode]

include hchecks hstaged hfree hf

theorem fwActivateAtReset_of_staged (hmode : rd 4 c.pay 0 = 0) : exec (.fwActivateAtReset q) s =
    .next (endsIn ((t.setTrial b (confirmS c)).activated b 0) c (t.activateBytes b 0)) := by
  refine congrArg Host.Outcome.next (runOp_done hf (modeIs_of_mode hmode) hchecks ?act)
  case act => simp only [hstaged, objAct_free hfree]

theorem fwActivateWarm_of_staged (hmode : rd 4 c.pay 0 = 1) (hidle : t.sliceBusy = false) : exec (.fwActivateWarm q) s =
    .next (endsIn (((t.setTrial b (confirmS c)).activated b 1).onMbox fun m => { m with
      warmResetAt := some (t.now + 10000000) }) c (t.activateBytes b 0)) := by
  refine congrArg Host.Outcome.next (runOp_done hf (modeIs_of_mode hmode) hchecks ?act)
  case act => simp only [hstaged, hidle, objAct_free hfree, Bool.false_eq_true, if_false]

theorem fwActivateLive_of_staged (hmode : rd 4 c.pay 0 = 2) (hs0 : t.pwr.state = .s0) (habi : t.handsOver b = true)
    (hlinks : t.linksAccept b = true) (hother : t.otherInTrial = false) (hheld : t.srv.held = false) :
    exec (.fwActivateLive q) s =
      .next (t.carryOut c (.long (((t.setTrial b (confirmS c)).drawn).onFw fun f => { f with
        handover := some { port := c.port, slot := c.slot, bank := b, mode := 2, blackoutNs := none, back := false } })
        objFirmware [] [])) := by
  refine congrArg Host.Outcome.next
    ((runOp_finds hf (modeIs_of_mode hmode) hchecks).trans (congrArg (t.carryOut c) ?act))
  case act =>
    simp only [hstaged, hs0, habi, hlinks, hother, hheld, objAct_free hfree, bne_self_eq_false, Bool.not_true, Bool.or_self,
      Bool.false_eq_true, if_false]

end

/-! ### OP_HEALTH_CONFIRM (R419) -/

theorem opHealthConfirm_of_trial {u v : State} (hf : Finds s q t c 0x0804 4) (hflag : rd 4 c.pay 0 ≤ 1)
    (htrial : t.fw.trialBank = some b) (hruns : t.fw.trialFromNs.isSome = true)
    (hu : u = ((t.putBank b { t.bank b with state := .active }).putBank (!b) { t.bank (!b) with
      state := if (t.bank (!b)).state == .active then .staged else (t.bank (!b)).state }).onFw fun f => { f with
        activeB := b, trialBank := none, trialFromNs := none, trialLive := false
        minSvn := if rd 4 c.pay 0 = 1 then max f.minSvn (t.bank b).lowSvn else f.minSvn })
    (hv : v = if u.cfg.migrated then (u.writeConfig).onCfg fun g => { g with migrated := false } else u) :
    exec (.opHealthConfirm q) s = .next (endsIn (v.event evFwConfirmed noUnit) c (le 4 v.fw.minSvn)) := by
  refine congrArg Host.Outcome.next (runOp_done hf rfl ?checks ?act)
  case checks => simp [lenIs, hf.lenEq, lt_false hflag]
  case act => simp only [htrial, Option.isNone_eq_false_iff.2 hruns, Bool.false_eq_true, if_false, ← hu, ← hv]

/-! ### OP_FW_ABORT (R423) -/

section

variable (hf : Finds s q t c 0x0805 4)

include hf in
theorem fwAbort_checks (hflag : rd 4 c.pay 0 ≤ 1) :
    ∀ x ∈ lenIs c 4 ++ [(decide (1 < rd 4 c.pay 0), stFieldRange, payOff 0)], x.1 = false := by
  simp [lenIs, hf.lenEq, lt_false hflag]

include hf

theorem opFwAbort_query (hquery : rd 4 c.pay 0 = 1) :
    exec (.opFwAbort q) s = .next (endsIn t c t.fwBytes).fallbackReset := by
  exact congrArg Host.Outcome.next
    (runOpThen_done hf State.fallbackReset rfl (fwAbort_checks hf hquery.le) (if_pos hquery))

theorem opFwAbort_of_free {u : State} (habort : rd 4 c.pay 0 = 0) (hfree : objFree t objFirmware)
    (hu : u = if t.fw.trialFromNs.isSome then t.fallBack 2 else t.emptyBank) :
    exec (.opFwAbort q) s = .next (endsIn u c u.fwBytes).fallbackReset := by
  subst hu
  have hnotQuery : ¬ rd 4 c.pay 0 = 1 := by omega
  exact congrArg Host.Outcome.next
    (runOpThen_done hf State.fallbackReset rfl (fwAbort_checks hf (by omega)) ((if_neg hnotQuery).trans (objAct_free hfree)))

end

end

/-- Settles O10: the header, a part by its two ways and the end of its read, the three modes, the confirmation and the abort. -/
theorem firmwareIsWrittenActivatedAndConfirmed : Obligations.FirmwareIsWrittenActivatedAndConfirmed := by
  unfold Obligations.FirmwareIsWrittenActivatedAndConfirmed
  intro s t q c n b
  refine ⟨opFwHeader_of_good, fun hf hchecks hwriting hfree => ?chunk, fun _ _ _ _ hr hop hb hwriting _ => ?read,
    fun hchecks hstaged hfree hf => ?activate, fun _ _ => opHealthConfirm_of_trial, opFwAbort_query,
    fun _ hf => opFwAbort_of_free hf⟩
  case chunk => exact ⟨opFwChunk_inline hf hchecks hwriting hfree, opFwChunk_dma hf hchecks hwriting hfree⟩
  case read => exact dmaReadDone_of_firmware hr hop hb hwriting
  case activate =>
    exact ⟨fwActivateAtReset_of_staged hchecks hstaged hfree hf, fwActivateWarm_of_staged hchecks hstaged hfree hf,
      fwActivateLive_of_staged hchecks hstaged hfree hf⟩

end Sys2Proof.Proofs
end

section
/-! PROOFS. Slice start and stop, and the session commands of the mailbox (O12). -/

namespace Sys2Proof.Proofs

open Sys2Proof Sys2Proof.Machine Sys2Proof.Laws

section

variable {s t t1 t2 u : State} {q : Req} {c : Cmd} {x : Sess} {ms : Nat}

/-! ### OP_SLICE_START (R408) -/

/-- A module that had no start in course sends its markers once it has one. -/
theorem next_noteState_startFollowed (hstart : s.srv.start = none) (h : t = u) :
    (.next (s.noteState (if t.srv.start.isSome && s.srv.start.isNone then t.sendMarkers.barrierDone else t)) : Ret) =
      .next (s.noteState (if u.srv.start.isSome then u.sendMarkers.barrierDone else u)) := by
  simp only [h, hstart, Option.isNone_none, Bool.and_true]

/-- The running settings are the module's own: the generation that a start gives them changes none. -/
theorem opSliceStart_of_idle (hf : Finds s q t c 0x0401 0) (herase : t.sec.erasing = none) (hidle : t.sliceBusy = false)
    (hmay : t.mayStart = true) (hroom : t.startRoom = true) (hstart : s.srv.start = none)
    (ht1 : t1 = t.onCfg fun g => { g with gen := 1, prevGen := 1, prevRun := g.run })
    (ht2 : t2 = (t1.sendAll mTxnStage 0 0 (txnHead 0 1 t.wts.curGen t.plan.planGen ++
        ((settings.filter (·.slice)).map (·.key)).flatMap fun k => units (entryBytes k (t1.srcOf k) 0 (t1.setting k)))).onSrv
      fun v => { v with start := some ⟨c.port, c.slot, [], [], []⟩, drain := none })
    (hu : u = t.carryOut c (.long (t2.clearRun.onSrv fun v => { v with sliceState := .starting }) [0x0401] [] [])) :
    exec (.opSliceStart q) s = .next (s.noteState (if u.srv.start.isSome then u.sendMarkers.barrierDone else u)) := by
  subst ht1 ht2 hu
  refine next_noteState_startFollowed hstart ((runOp_finds hf rfl (noPayload_ok hf)).trans (congrArg (t.carryOut c) ?act))
  case act =>
    simp only [herase, hidle, hmay, hroom, Option.isSome_none, Bool.not_true, Bool.or_self, Bool.false_eq_true, if_false]
    rfl

/-! ### OP_SLICE_STOP (R409, Table 13.5) -/

section

/- A stop names a mode, and a time of up to an hour. -/
variable (hf : Finds s q t c 0x0402 8) (hmode : rd 4 c.pay 0 ≤ 2) (hms : ms = rd 4 c.pay 4) (hmax : ms ≤ 3600000)

include hf hmode hms hmax

theorem sliceStop_checks : ∀ x ∈ lenIs c 8 ++ [(decide (2 < rd 4 c.pay 0), stFieldRange, payOff 0),
    (decide (3600000 < rd 4 c.pay 4), stFieldRange, payOff 4)], x.1 = false := by
  subst hms
  simp [lenIs, hf.lenEq, lt_false hmode, lt_false hmax]

theorem opSliceStop_of_running (hrunning : t.srv.sliceState = .running)
    (hu : u = t.onSrv fun v => { v with
      sliceState := .draining
      drain := some ⟨rd 4 c.pay 0, c.port, c.slot, t.now,
        if ms = 0 ∨ rd 4 c.pay 0 = 2 then none else some (t.now + ms * 1000000)⟩ }) :
    exec (.opSliceStop q) s = .next (s.noteState (t.carryOut c (.long
      (if rd 4 c.pay 0 = 1 then u.pauseAll else if rd 4 c.pay 0 = 2 then u.endAllGens rdCancelled else u)
      [0x0402, c.slot] [] [])).settleDrain) := by
  have hchecks := sliceStop_checks hf hmode hms hmax
  subst hms hu
  refine next_noteState (runOpThen_long hf State.settleDrain rfl hchecks ?act)
  case act => simp only [hrunning, Bool.or_eq_true, decide_eq_true_eq]

theorem opSliceStop_of_draining {d : Drain} (hdraining : t.srv.sliceState = .draining) (hd : t.srv.drain = some d)
    (hnow : rd 4 c.pay 0 = 2) :
    exec (.opSliceStop q) s = .next (s.noteState (t.carryOut c (.long
      ((t.onSrv fun v => { v with drain := some { d with mode := 2, deadlineNs := none } }).endAllGens rdCancelled)
      [0x0402, c.slot] [] [])).settleDrain) := by
  refine next_noteState (runOpThen_long hf State.settleDrain rfl (sliceStop_checks hf hmode hms hmax) ?act)
  case act => simp only [hdraining, hd, if_pos hnow]

end

/-! ### OP_SESSION_QUERY and OP_SESSION_EVICT (R304) -/

section

/- The command names a session that exists. -/
variable {op : Nat} (hf : Finds s q t c op 4) (hx : t.sessById (rd 4 c.pay 0) = some x)

include hf hx in
theorem sessionOwn_of_session : ∀ y ∈ sessionOwn t c, y.1 = false := by
  simp [sessionOwn, lenIs, hf.lenEq, hx]

include hx

theorem opSessionQuery_of_session (hf : Finds s q t c 0x0403 4) :
    exec (.opSessionQuery q) s = .next (endsIn t c x.bytes) := by
  refine congrArg Host.Outcome.next (runOp_done hf rfl (sessionOwn_of_session hf hx) ?act)
  case act => simp only [hx]

theorem opSessionEvict_of_session (hf : Finds s q t c 0x0404 4) :
    exec (.opSessionEvict q) s = .next (endsIn (t.beginClose x.index none) c []) := by
  refine congrArg Host.Outcome.next (runOp_done hf rfl (sessionOwn_of_session hf hx) ?act)
  case act => simp only [hx]

end

end

/-- Settles O12: the start, the stop of a running and of a draining slice, and the two session commands. -/
theorem slicesAreStartedAndStopped : Obligations.SlicesAreStartedAndStopped := by
  unfold Obligations.SlicesAreStartedAndStopped
  intro s t t1 t2 u q c x ms
  refine ⟨opSliceStart_of_idle, fun hf hmode hms hmax => ?stop, fun hf hx => opSessionQuery_of_session hx hf,
    fun hf hx => opSessionEvict_of_session hx hf⟩
  case stop =>
    exact ⟨opSliceStop_of_running hf hmode hms hmax, fun _ => opSliceStop_of_draining hf hmode hms hmax⟩

end Sys2Proof.Proofs
end

section
/-! PROOFS. Retraining, lane margins and the trace store (O14). -/

namespace Sys2Proof.Proofs

open Sys2Proof Sys2Proof.Machine Sys2Proof.Laws

section

variable {s t : State} {q : Req} {c : Cmd}

/-! ### OP_LINK_RETRAIN (R423) -/

section

/- A retrain names its ports in bits 5:0, and FULL in bit 8. -/
variable {ps : List Nat} (hf : Finds s q t c 0x0A03 4) (hrsv : bitsOf (rd 4 c.pay 0) 7 6 = 0) (hrsvHigh : rd 4 c.pay 0 / 512 = 0)
  (hps : ps = allPorts.filter fun p => bitOf (rd 4 c.pay 0) p)

include hf hrsv hrsvHigh in
theorem linkRetrain_checks : ∀ x ∈ lenIs c 4 ++
    [(bitsOf (rd 4 c.pay 0) 7 6 != 0 || rd 4 c.pay 0 / 512 != 0, stFieldRange, payOff 0)], x.1 = false := by
  simp [lenIs, hf.lenEq, hrsv, Nat.lt_of_div_eq_zero (by decide) hrsvHigh]

include hf hrsv hrsvHigh hps

theorem opLinkRetrain_fast (hfast : bitOf (rd 4 c.pay 0) 8 = false) :
    exec (.opLinkRetrain q) s = .next (s.noteState (endsIn (ps.foldl (fun a p => a.startFast p) t) c [])) := by
  subst hps
  refine next_noteState (runOp_done hf rfl (linkRetrain_checks hf hrsv hrsvHigh) ?act)
  case act => simp only [hfast, Bool.false_eq_true, if_false]

theorem opLinkRetrain_full (hfull : bitOf (rd 4 c.pay 0) 8 = true)
    (hunused : (t.sliceBusy && ps.any fun p => (t.portX p).outcome == .matched || (t.portX p).outcome == .remapped) = false) :
    exec (.opLinkRetrain q) s = .next (s.noteState (endsIn (ps.foldl (fun a p =>
      (a.modPort p fun x => { x with trained := false, card := none, fast := none, state := .training }).startTraining p)
      t).evalPorts c [])) := by
  subst hps
  refine next_noteState (runOp_done hf rfl (linkRetrain_checks hf hrsv hrsvHigh) ?act)
  case act => simp only [hfull, hunused, Bool.false_eq_true, if_false, if_true]

end

/-! ### OP_LANE_MARGIN and LANE_MARGIN_DONE (R441, R442) -/

theorem opLaneMargin_of_unmeasured {iface index : Nat} (hf : Finds s q t c 0x0A04 16) (hiface : iface = rd 4 c.pay 0 % 4)
    (hknown : iface < 3) (hindex : index = bitsOf (rd 4 c.pay 0) 4 2) (htop : index < indexTop iface)
    (hrsv : rd 4 c.pay 0 / 32 = 0) (hwindow : 0 < rd 4 c.pay 4) (hlong : rd 4 c.pay 4 ≤ 10000) (hlanes : 0 < rd 8 c.pay 8)
    (hmask : rd 8 c.pay 8 < 2 ^ laneTop iface)
    (hfree : t.pins.margins.any (fun m => m.2.2.1 == iface && m.2.2.2.1 == index) = false) :
    exec (.opLaneMargin q) s = .next (t.carryOut c (.long (t.onPins fun p => { p with
      margins := p.margins ++ [(c.port, c.slot, iface, index, rd 8 c.pay 8)] }) [] [] [])) := by
  subst hiface hindex
  have hword : rd 4 c.pay 4 % 65536 = rd 4 c.pay 4 := Nat.mod_eq_of_lt (by omega)
  have hhigh : rd 4 c.pay 4 / 65536 = 0 := Nat.div_eq_of_lt (by omega)
  refine congrArg Host.Outcome.next ((runOp_finds hf rfl ?checks).trans (congrArg (t.carryOut c) ?act))
  case checks =>
    simp [lenIs, hf.lenEq, hknown.ne, le_false htop, hrsv, hword, hhigh, hwindow.ne', lt_false hlong, hlanes.ne', le_false hmask]
  case act => simp only [hfree, Bool.false_eq_true, if_false]

theorem laneMarginDone_of_window {iface index : Nat} {lanes : List LaneReading} {m : MPort × Nat × Nat × Nat × Nat}
    (hm : s.pins.margins.find? (fun m => m.2.2.1 == iface && m.2.2.2.1 == index) = some m) :
    exec (.laneMarginDone iface index lanes) s = .next ((s.onPins fun p => { p with
        margins := p.margins.filter fun y => !(y.2.2.1 == iface && y.2.2.2.1 == index) }).finishAt m.1 m.2.1 stOk 0
      (le 4 ((List.range (laneTop iface)).filter (bitOf m.2.2.2.2)).length ++ zeros 4 ++
        ((List.range (laneTop iface)).filter (bitOf m.2.2.2.2)).flatMap
          (laneBytes (iface != 0 || (s.portX index).trained) lanes))) := by
  show execLaneMarginDone iface index lanes s = _
  simp only [execLaneMarginDone, hm]

/-! ### OP_TRACE_READ (R397) -/

section

/- Its reserved bits are zero. -/
variable (hf : Finds s q t c 0x0F01 12) (hrsv : bitsOf (rd 4 c.pay 0) 7 2 = 0) (hrsvHigh : rd 4 c.pay 0 / 65536 = 0)
  (hrsv8 : rd 4 c.pay 8 / 256 = 0)

include hf hrsv hrsvHigh hrsv8

theorem traceChecks_pass (hknown : rd 4 c.pay 0 % 4 ≠ 3)
    (hcount : rd 4 c.pay 0 % 4 = 0 → byteAt c.pay 8 ≠ 0 ∧ byteAt c.pay 8 ≤ 125) : ∀ x ∈ traceChecks t c, x.1 = false := by
  have hrecords : (rd 4 c.pay 0 % 4 == 0 && (byteAt c.pay 8 == 0 || decide (125 < byteAt c.pay 8))) = false := by
    simpa using hcount
  have hword : (rd 4 c.pay 0 % 4 == 3 || bitsOf (rd 4 c.pay 0) 7 2 != 0 || rd 4 c.pay 0 / 65536 != 0) = false := by
    simp only [hrsv, hrsvHigh, bne_self_eq_false, Bool.or_false, beq_eq_false_iff_ne.2 hknown]
  have hhigh : (rd 4 c.pay 8 / 256 != 0) = false := bne_eq_false_iff_eq.2 hrsv8
  simp [traceChecks, lenIs, hf.lenEq, hrecords, hword, hhigh]

theorem traceRead_returns {got : List Bytes} (haction : rd 4 c.pay 0 % 4 = 0) (hpos : 0 < byteAt c.pay 8)
    (hmax : byteAt c.pay 8 ≤ 125)
    (hgot : got = (t.sec.trace.recs.filter fun r => rd 4 c.pay 4 ≤ rd 4 r 0).take (byteAt c.pay 8)) :
    exec (.traceRead q) s = .next (endsIn t c (le 4 got.length ++
      le 4 ((got.getLast?.map fun r => rd 4 r 0 + 1).getD (max (rd 4 c.pay 4) t.sec.trace.seq)) ++
      le 4 t.sec.trace.lost ++ zeros 4 ++ got.flatMap id)) := by
  subst hgot
  refine congrArg Host.Outcome.next (runOp_done hf ?mine
    (traceChecks_pass hf hrsv hrsvHigh hrsv8 (by omega) fun _ => ⟨hpos.ne', hmax⟩) rfl)
  case mine => simp [actionIs, haction]

theorem traceStart_records (haction : rd 4 c.pay 0 % 4 = 1) : exec (.traceStart q) s =
    .next (endsIn (t.onSec fun k => { k with
      trace := { k.trace with running := true, kinds := bitsOf (rd 4 c.pay 0) 15 8 } }) c []) :=
  congrArg Host.Outcome.next (runOp_done hf (beq_iff_eq.2 haction)
    (traceChecks_pass hf hrsv hrsvHigh hrsv8 (by omega) (by omega)) rfl)

theorem traceStop_ends (haction : rd 4 c.pay 0 % 4 = 2) : exec (.traceStop q) s =
    .next (endsIn (t.onSec fun k => { k with trace := { k.trace with running := false } }) c []) :=
  congrArg Host.Outcome.next (runOp_done hf (beq_iff_eq.2 haction)
    (traceChecks_pass hf hrsv hrsvHigh hrsv8 (by omega) (by omega)) rfl)

end

end

/-- Settles O14: the two retrains, a margin's window and its end, and the trace's three actions. -/
theorem linksMarginsAndTracesAreCommanded : Obligations.LinksMarginsAndTracesAreCommanded := by
  unfold Obligations.LinksMarginsAndTracesAreCommanded
  intro s t u q c ps got iface index lanes
  refine ⟨fun hf hrsv hrsvHigh hps => ?retrain, opLaneMargin_of_unmeasured, fun _ => laneMarginDone_of_window,
    fun hf hrsv hrsvHigh hrsv8 => ?trace⟩
  case retrain => exact ⟨opLinkRetrain_fast hf hrsv hrsvHigh hps, opLinkRetrain_full hf hrsv hrsvHigh hps⟩
  case trace =>
    exact ⟨traceRead_returns hf hrsv hrsvHigh hrsv8, traceStart_records hf hrsv hrsvHigh hrsv8,
      traceStop_ends hf hrsv hrsvHigh hrsv8⟩

end Sys2Proof.Proofs
end

section
/-! PROOFS. Neighbour cards, flush markers and other link messages (O37). -/

namespace Sys2Proof.Proofs

open Sys2Proof Sys2Proof.Machine

section

variable {s u v w x : State} {port : Nat} {k : Packet}

/-! ### Cards sent and absent (R403) -/

theorem cardSend_of_main (hmain : s.mainOn = true) : exec (.cardSend port) s = .next (s.sendCard port) :=
  congrArg Host.Outcome.next (if_pos hmain)

theorem cardAbsent_of_trained (hmain : s.mainOn = true) (htrained : (s.portX port).trained = true)
    (hcard : (s.portX port).card = none) : exec (.cardAbsent port) s = .next s.evalPorts :=
  congrArg Host.Outcome.next (if_pos (by simp [hmain, htrained, hcard]))

/-! ### Link messages as they arrive (R165, R403) -/

section

/- A well-formed link message arrives on a trained port, and its buffer room is released in `u`. -/
variable (hmain : s.mainOn = true) (htrained : (s.portX port).trained = true) (htype : k.type = ptLink)
  (hgood : badPacket k = false) (hu : u = s.emit (.release port (bufferOf k) (flitPayloads k)))

include hmain htrained htype hgood hu

theorem linkArrive_of_good (rule : State → State) : s.linkArrive port k rule = rule u := by
  subst hu
  simp only [State.linkArrive, hmain, htrained, htype, hgood, bne_self_eq_false, Bool.not_true, Bool.or_self, Bool.false_eq_true,
    if_false]

/-- The card stands in its port's place before the ports are evaluated again; a port that it takes out of a running slice's
traffic without leaving halts the slice. -/
theorem neighbourCard_of_good (hkind : byteAt k.data 0 = 1) (hlen : k.len = 128) (hcrc : crc32c k.data = k.dcrc.toNat)
    (hv : v = u.modPort port fun y => { y with
      card := some k.data, cardNs := u.now, departed := false
      leavingNs := if cdLeaving k.data then some u.now else none })
    (hw : w = if (u.portX port).card = none then v.event evNbArrived (portUnit port) port else v)
    (hx : x = if (u.portX port).logical.isSome = true ∧ (u.portX port).card ≠ some k.data then w.endRemap else w) :
    exec (.neighbourCard port k) s = .next (s.noteState (if u.sliceBusy = true ∧ u.portUp port = true ∧
      x.evalPorts.portUp port = false ∧ cdLeaving k.data = false then x.evalPorts.loseSlice else x.evalPorts)) := by
  show execNeighbourCard port k s = _
  have hcard : (byteAt k.data 0 != 1 || k.len != 128) = false := by simp [hkind, hlen]
  have hchecked : (crc32c k.data != k.dcrc.toNat) = false := bne_eq_false_iff_eq.2 hcrc
  subst hx hw hv
  simp only [execNeighbourCard, hcard, linkArrive_of_good hmain htrained htype hgood hu, hchecked, Bool.false_eq_true, if_false,
    Bool.and_eq_true, Bool.not_eq_true', and_assoc, bne_iff_ne, Option.isNone_iff_eq_none]

theorem flushMarker_of_slice (hkind : byteAt k.data 0 = 2) (hlen : k.len = 16) (hslice : rd 2 k.data 4 = u.plan.sliceId) :
    exec (.flushMarker port k) s = .next (if (u.portX port).awaitMarker then
      u.noteState ((u.modPort port fun x => { x with awaitMarker := false }).barrierDone)
      else u.modPort port fun x => { x with markerIn := u.srv.sliceState != .running }) := by
  show execFlushMarker port k s = _
  subst hu
  simp only [execFlushMarker, hmain, htrained, htype, hgood, hkind, hlen, hslice, bne_self_eq_false, beq_self_eq_true,
    Bool.and_self, Bool.not_true, Bool.or_self, Bool.false_eq_true, if_false]

theorem linkMgmt_of_other (hcard : ¬(byteAt k.data 0 = 1 ∧ k.len = 128)) (hmarker : ¬(byteAt k.data 0 = 2 ∧ k.len = 16)) :
    exec (.linkMgmt port k) s = .next u := by
  show execLinkMgmt port k s = _
  have hother : ((byteAt k.data 0 == 1 && k.len == 128) || (byteAt k.data 0 == 2 && k.len == 16)) = false := by
    simpa using And.intro hcard hmarker
  simp only [execLinkMgmt, hother, linkArrive_of_good hmain htrained htype hgood hu, Bool.false_eq_true, if_false, id]

end

end

/-- Settles O37: a card sent, absent and received, a flush marker, and any other message. -/
theorem neighboursMarkersAndLinkMessagesAreTaken : Obligations.NeighboursMarkersAndLinkMessagesAreTaken := by
  unfold Obligations.NeighboursMarkersAndLinkMessagesAreTaken
  intro s u v w x port k hmain
  refine ⟨cardSend_of_main hmain, cardAbsent_of_trained hmain, fun htrained htype hgood hu => ?arrives⟩
  case arrives =>
    exact ⟨neighbourCard_of_good hmain htrained htype hgood hu, flushMarker_of_slice hmain htrained htype hgood hu,
      linkMgmt_of_other hmain htrained htype hgood hu⟩

end Sys2Proof.Proofs
end

section
/-! PROOFS. Start-up, the live handover, trials, the watchdog, scheduled resets and PROGRESS (O41). -/

namespace Sys2Proof.Proofs

open Sys2Proof Sys2Proof.Machine

section

variable {s u v a b : State} {t0 : Nat} {h : Handover}

/-! ### Start-up (R399) -/

theorem coldStart_of_s5 {x y : Bool} (hs5 : s.pwr.state = .s5)
    (hu : u = ((s.standbyLost).onClock fun c => { c with boot := (c.boot + 1) % 65536 }).onPins fun p =>
      { p with pwrEn := x, dimmPwrOk := y }) :
    exec (.coldStart x y) s = .next (s.noteState (u.startUp 0)) := by
  subst hu
  exact congrArg Host.Outcome.next (if_neg (by simp [hs5]))

theorem startupStage_of_current {stage : Nat} {failing : List UnitId} (hstage : s.fw.stage = stage) (hon : s.pwr.state ≠ .s5) :
    exec (.startupStage stage failing) s = .next (s.noteState (s.completeStage stage failing)) :=
  congrArg Host.Outcome.next (if_neg (by simp [hstage, hon]))

/-! ### The live handover (R418) -/

theorem handoverBlackout_of_quiet (hh : s.fw.handover = some h) (hbefore : h.blackoutNs = none) (hquiet : s.quiet h = true) :
    exec .handoverBlackout s = .next (s.noteState ((s.onMbox fun m => { m with ready := false }).onFw fun f =>
      { f with handover := some { h with blackoutNs := some s.now } })) := by
  show execHandoverBlackout s = _
  simp only [execHandoverBlackout, hh, hbefore, hquiet, Option.isSome_none, Bool.not_true, Bool.or_self, Bool.false_eq_true,
    if_false]

section

/- The blackout began at `t0`; `u` is ready again, with its transports to be resynchronised. -/
variable (hh : s.fw.handover = some h) (hblack : h.blackoutNs = some t0)
  (hu : u = ((s.onMbox fun m => { m with ready := true, lastReset := 5 }).onSec fun c =>
    { c with resync := [.doe, .mctp0, .mctp1], spdm := [] }).onClock fun c => { c with heartbeatNs := s.now })

include hh hblack hu

theorem handoverDone_of_back (hback : h.back = true) : exec .handoverDone s =
    .next ((u.onFw fun f => { f with runningB := h.bank, handover := none }).raiseIrq irqState) := by
  show execHandoverDone s = _
  simp only [execHandoverDone, hh, Option.bind_some, hblack, Option.map_some, hback, if_true, ← hu]

theorem handoverDone_of_takeover (htakeover : h.back = false) (ha : a = u.putBank h.bank { u.bank h.bank with state := .trial })
    (hb : b = a.onFw fun f =>
      { f with runningB := h.bank, handover := none, trialFromNs := some s.now, trialLive := true }) :
    exec .handoverDone s = .next (((b.activated h.bank 2).finishAt h.port h.slot stOk 0
      (b.activateBytes h.bank ((s.now - t0) / 1000))).raiseIrq irqState) := by
  show execHandoverDone s = _
  simp only [execHandoverDone, hh, Option.bind_some, hblack, Option.map_some, htakeover, Bool.false_eq_true, if_false, ← hu, ← ha,
    ← hb]

end

/-! ### Trials and the watchdog (R419) -/

theorem trialWindowExpiry_of_late (ht : s.fw.trialFromNs = some t0) (hlate : t0 + s.fw.trialConfirmS * 1000000000 ≤ s.now) :
    exec .trialWindowExpiry s = .next (s.fallBack 1).fallbackReset := by
  show execTrialWindowExpiry s = _
  simp only [execTrialWindowExpiry, ht, if_pos hlate]

theorem heartbeatWatchdog_of_still (hup : s.l2Up = true) (hsafe : s.fw.safelight = false)
    (hblack : (s.fw.handover.any fun h => h.blackoutNs.isSome) = false) (hstill : s.clock.heartbeatNs + 2000000000 ≤ s.now)
    (hu : u = (if s.sliceBusy then s.hardHalt else s).fault fltFwWatchdog)
    (hv : v = if u.fw.trialFromNs.isSome then u.fallBack 3 else u) :
    exec .heartbeatWatchdog s =
      .next ((v.onFw fun f => { f with fallbackDue := false, handover := none }).warmReset 2) := by
  show execHeartbeatWatchdog s = _
  simp only [execHeartbeatWatchdog, hup, hsafe, hblack, hstill, decide_true, Bool.not_false, Bool.and_self, if_true, ← hu, ← hv]

/-! ### Scheduled resets and PROGRESS (R286, R387) -/

theorem scheduledWarmReset_of_due (ht : s.mbox.warmResetAt = some t0) (hdue : t0 ≤ s.now) :
    exec .scheduledWarmReset s = .next (s.warmReset 2) := by
  show execScheduledWarmReset s = _
  simp only [execScheduledWarmReset, ht, if_pos hdue]

theorem scheduledWarmReset_of_none (ht : s.mbox.warmResetAt = none) :
    exec .scheduledWarmReset s = .next s.fallbackReset := by
  show execScheduledWarmReset s = _
  simp only [execScheduledWarmReset, ht]

theorem progressRewrite_of_running {port : MPort} {slot progress : Nat} {r : Running} (hr : s.runningAt port slot = some r) :
    exec (.progressRewrite port slot progress) s = .next (s.interim port slot (progress % 65536) false) := by
  show execProgressRewrite port slot progress s = _
  simp only [execProgressRewrite, hr]

end

/-- Settles O41: the start-up, the handover's start and its two ends, the trial, the watchdog, the reset and the rewrite. -/
theorem startUpTrialsAndWatchdogsRun : Obligations.StartUpTrialsAndWatchdogsRun := by
  unfold Obligations.StartUpTrialsAndWatchdogsRun
  intro s u v a b x y stage slot progress t0 failing h port r
  refine ⟨coldStart_of_s5, startupStage_of_current, handoverBlackout_of_quiet, fun hh hblack hu => ?done,
    trialWindowExpiry_of_late, heartbeatWatchdog_of_still, scheduledWarmReset_of_due, scheduledWarmReset_of_none,
    progressRewrite_of_running⟩
  case done => exact ⟨handoverDone_of_back hh hblack hu, handoverDone_of_takeover hh hblack hu⟩

end Sys2Proof.Proofs
end

section
/-! PROOFS. Power, reset and supply pins, straps, and the time pulse (O42). -/

namespace Sys2Proof.Proofs

open Sys2Proof Sys2Proof.Machine

section

variable {s u v w : State} {t0 : Nat}

/-! ### PWR_EN (R431) -/

theorem pwrEnRise_of_s3 (hs3 : s.pwr.state = .s3) :
    exec .pwrEnRise s = .next ((s.onPins fun p => { p with pwrEn := true }).s3Exit) :=
  congrArg Host.Outcome.next (if_pos (beq_iff_eq.2 hs3))

theorem pwrEnRise_of_not_s3 (hs3 : s.pwr.state ≠ .s3) : exec .pwrEnRise s =
    .next ((s.onPins fun p => { p with pwrEn := true }).onPwr fun p => { p with s3Deferred := false }) :=
  congrArg Host.Outcome.next (if_neg fun h => hs3 (beq_iff_eq.1 h))

section

variable (hmain : s.mainOn = true) (hu : u = s.onPins fun p => { p with pwrEn := false })

include hmain hu

theorem pwrEnFall_of_idle (hidle : s.sliceIdle = true) (hchange : s.pwr.change = none) :
    exec .pwrEnFall s = .next (u.onPwr fun p => { p with change := some ⟨.s3, none, s.now, p.fade.isSome, false⟩ }) := by
  show execPwrEnFall s = _
  subst hu
  simp only [execPwrEnFall, hmain, hidle, hchange, Option.isNone_none, Bool.not_true, Bool.and_self, Bool.false_eq_true, if_false,
    if_true]

theorem pwrEnFall_of_busy (hbusy : s.sliceIdle = false) :
    exec .pwrEnFall s = .next (if s.pwr.s3Deferred then u.onPwr fun p => { p with s3Deferred := true }
      else (u.onPwr fun p => { p with s3Deferred := true }).event evS3Deferred) := by
  show execPwrEnFall s = _
  subst hu
  simp only [execPwrEnFall, hmain, hbusy, Bool.not_true, Bool.false_and, Bool.or_false, Bool.false_eq_true, if_false]

end

/-! ### Resets and straps (R432, R433) -/

theorem modResetN_of_long {ns : Nat} (hlong : 10000 ≤ ns) (hon : s.pwr.state ≠ .s5) :
    exec (.modResetN ns) s = .next ((s.onPins fun p => { p with strapSampled := false }).warmReset 1) :=
  congrArg Host.Outcome.next (if_neg (by simp [hlong, hon]))

theorem perstN_of_endpoint (hendpoint : s.endpoint = true) : exec .perstN s = .next (s.resetHost 4) :=
  congrArg Host.Outcome.next (if_pos hendpoint)

theorem strapSample_of_unsampled {slot : Nat} {rec_ : Bool} (hon : s.pwr.state ≠ .s5) (hnew : s.pins.strapSampled = false) :
    exec (.strapSample slot rec_) s = .next ((s.onPins fun p => { p with
      strapSampled := true, slotStrap := slot, i3cAddr := 0x50 + slot % 16, recoveryN := rec_ }).gauge ctSlotStrap 0 slot) :=
  congrArg Host.Outcome.next (if_neg (by simp [hon, hnew]))

theorem strapChange_of_sampled (hsampled : s.pins.strapSampled = true) :
    exec .strapChange s = .next (s.event evStrapChanged) :=
  congrArg Host.Outcome.next (if_pos hsampled)

/-! ### The MRDIMM supplies (R434) -/

section

variable (hu : u = s.onPins fun p => { p with dimmPwrOk := false })

include hu

theorem dimmPwrOkFall_of_retained (hoff : s.mainOn = false) (hretained : s.wts.t3Retained = true) :
    exec .dimmPwrOkFall s = .next (u.onWts fun w => { w with
      t3Retained := false, copies := w.copies.filter fun c => !c.inT3 }) := by
  show execDimmPwrOkFall s = _
  subst hu
  simp only [execDimmPwrOkFall, hoff, Bool.not_false, if_true, State.onWts, State.onPins, hretained]

/-- T3 goes out of service: its copies' homes become RAW copies in T2, and every page of T3 is lost. -/
theorem dimmPwrOkFall_of_inService (hon : s.mainOn = true) (hservice : s.wts.t3InService = true)
    (hv : v = (u.fault fltT3Power).onWts fun w => { w with
      t3InService := false, copies := w.copies.map fun c => if c.inT3 then c.toT2 else c })
    (hw : w = if s.isLead then v.failPauses else v) :
    exec .dimmPwrOkFall s = .next (((s.mem.pages.filter fun e => e.2.base < t2Base).map (·.2.base)).foldl
      (fun a b => a.t3PageLost b) w) := by
  show execDimmPwrOkFall s = _
  simp only [execDimmPwrOkFall, hon, hservice, Bool.not_true, Bool.false_eq_true, if_false, ← hu, ← hv, ← hw]

end

/-! ### PPS_IN (R437, R450) -/

section

/- `u` has counted the pulse. -/
variable (hon : s.pwr.state ≠ .s5)
  (hu : u = (s.onPins fun p => { p with ppsEdgeNs := some s.now, ppsLostRaised := false }).count ctPpsEdges 0 1)

include hon hu

theorem ppsEdge_first (hnone : s.pins.ppsEdgeNs = none) :
    exec .ppsEdge s = .next (u.gauge ctPpsLastNs 0 (s.now - s.clock.startNs)) := by
  show execPpsEdge s = _
  subst hu
  simp only [execPpsEdge, beq_eq_false_iff_ne.2 hon, hnone, Bool.false_eq_true, if_false]

theorem ppsEdge_again (hsome : s.pins.ppsEdgeNs = some t0) :
    exec .ppsEdge s = .next (if s.now - t0 < 999000000 ∨ 1001000000 < s.now - t0 then u.count ctPpsRejected 0 1
      else u.gauge ctPpsLastNs 0 (s.now - s.clock.startNs)) := by
  show execPpsEdge s = _
  subst hu
  simp only [execPpsEdge, beq_eq_false_iff_ne.2 hon, hsome, Bool.false_eq_true, if_false, Bool.or_eq_true, decide_eq_true_eq]

end

theorem ppsLost_of_late (hsome : s.pins.ppsEdgeNs = some t0) (hlate : t0 + 3000000000 ≤ s.now)
    (hnew : s.pins.ppsLostRaised = false) :
    exec .ppsLost s = .next ((s.onPins fun p => { p with ppsLostRaised := true }).event evPpsLost) := by
  show execPpsLost s = _
  simp only [execPpsLost, hsome, hlate, hnew, decide_true, Bool.not_false, Bool.and_self, if_true]

end

/-- Settles O42: each pin by its lemma, the falls of PWR_EN and DIMM_PWR_OK and the pulse by their cases. -/
theorem pinsPowerAndStraps : Obligations.PinsPowerAndStraps := by
  unfold Obligations.PinsPowerAndStraps
  intro s u v w ns slot rec_ t0
  refine ⟨pwrEnRise_of_s3, pwrEnRise_of_not_s3, fun hmain hu => ⟨pwrEnFall_of_idle hmain hu, pwrEnFall_of_busy hmain hu⟩,
    modResetN_of_long, perstN_of_endpoint, fun hu => ⟨dimmPwrOkFall_of_retained hu, dimmPwrOkFall_of_inService hu⟩,
    fun hon => ⟨strapSample_of_unsampled hon, fun hu => ⟨ppsEdge_first hon hu, ppsEdge_again hon hu⟩⟩,
    strapChange_of_sampled, ppsLost_of_late⟩

end Sys2Proof.Proofs
end

section
/-! PROOFS. Trips, leaks, the loss of VSB, the coolant, drains past their deadline, and lost modules (O43). -/

namespace Sys2Proof.Proofs

open Sys2Proof Sys2Proof.Machine

section

variable {s u : State} {d : Drain}

/-! ### Trips (R429, R445, R446) -/

section

/- The module is not in S5. -/
variable (hon : s.pwr.state ≠ .s5)

include hon

theorem trayLeakN_trips : exec .trayLeakN s =
    .next ((s.onPins fun p => { p with trayLeakN := false }).tripWith fltLeak ctLeakTrips 1) :=
  congrArg Host.Outcome.next (if_neg (by simp [hon]))

theorem carrierLeak_trips : exec .carrierLeak s =
    .next ((s.onPins fun p => { p with leakWet := true, leakN := false }).tripWith fltLeak ctLeakTrips 0) :=
  congrArg Host.Outcome.next (if_neg (by simp [hon]))

theorem thermalTrip_trips (sensor : Nat) : exec (.thermalTrip sensor) s =
    .next ((s.onPins fun p => { p with thermtripN := false }).tripWith fltThermalTrip ctThermalTrips sensor) := by
  show execThermalTrip sensor s = _
  simp only [execThermalTrip, beq_eq_false_iff_ne.2 hon, Bool.false_and]

/-! ### VSB and the coolant (R429, R443) -/

theorem vsbLoss_leaves_s5 (hu : u = ((((s.railsOff false).dropWriting).unloadPlan).standbyLost).onMbox fun m =>
      { ({} : Mbox) with msix := m.msix }) :
    exec .vsbLoss s = .next (((u.onFw fun f => { f with
        stage := 0, t1Ns := none, handover := none, safelight := false, trialFromNs := none }).onPwr fun p => { p with
        state := .s5, energyMj := 0, energyUj := 0 }).onSec fun c => { c with
          debug := 0, scanStopped := false, spdm := [], resync := [], udsLocked := false, erasing := none }) := by
  subst hu
  exact congrArg Host.Outcome.next (if_neg (by simp [hon]))

theorem coolantHigh_of_inlet (inlet : Int) : exec (.coolantHigh inlet) s =
    .next (if 40000 < inlet ∧ (s.pins.coolantEvNs = none ∨
        ∃ t, s.pins.coolantEvNs = some t ∧ t + 60000000000 ≤ s.now) then
      ((s.gauge ctCoolantIn 0 (gaugeInt inlet)).onPins fun p => { p with coolantEvNs := some s.now }).event evCoolantHigh
      else s.gauge ctCoolantIn 0 (gaugeInt inlet)) := by
  show execCoolantHigh inlet s = _
  simp only [execCoolantHigh, beq_eq_false_iff_ne.2 hon, Bool.false_eq_true, if_false]
  cases s.pins.coolantEvNs with
  | none => simp
  | some t => simp

end

theorem inputUndervoltage_trips {mv : Nat} (hlow : mv < 38000) :
    exec (.inputUndervoltage mv) s = .next (s.tripWith fltInputUv ctUvTrips mv) :=
  congrArg Host.Outcome.next (if_pos hlow)

theorem inputOvervoltage_trips {mv : Nat} (hhigh : 62500 < mv) :
    exec (.inputOvervoltage mv) s = .next (s.tripWith fltInputOv ctOvTrips mv) :=
  congrArg Host.Outcome.next (if_pos hhigh)

/-! ### Drains and lost modules (R273, R336, R409) -/

theorem drainDeadline_of_late (hd : s.srv.drain = some d) (hlate : (d.deadlineNs.any fun t => t ≤ s.now) = true)
    (hu : u = if d.mode = 1 then (s.endAllGens rdGenPaused).abandonPauses else s.endAllGens rdCancelled) :
    exec .drainDeadline s = .next (s.noteState ((u.onSrv fun v => { v with
      drain := some { d with mode := 2, deadlineNs := none } }).settleDrain)) := by
  show execDrainDeadline s = _
  simp only [execDrainDeadline, hd, if_pos hlate, ← hu]

theorem lostModuleMark_of_late (hlate : s.srv.haltNs + 1000000 ≤ s.now) : exec .lostModuleMark s = .next s.markLost :=
  congrArg Host.Outcome.next (if_neg hlate.not_gt)

theorem lenderSelfRevert_of_late (hlate : s.srv.haltNs + 1000000 ≤ s.now) (hhalted : s.srv.sliceState = .haltedHard)
    (hlent : 0 < s.pwr.lent) : exec .lenderSelfRevert s = .next s.revertLender :=
  congrArg Host.Outcome.next (if_pos (by simp [hlate, hhalted, hlent]))

end

/-- Settles O43: what trips, what VSB takes, the coolant, the drain's deadline, and what follows a hard halt. -/
theorem tripsLeaksAndLosses : Obligations.TripsLeaksAndLosses := by
  unfold Obligations.TripsLeaksAndLosses
  intro s u mv sensor inlet d
  refine ⟨fun hon => ?powered, rfl, inputUndervoltage_trips, inputOvervoltage_trips, drainDeadline_of_late,
    fun hlate => ⟨lostModuleMark_of_late hlate, lenderSelfRevert_of_late hlate⟩⟩
  case powered =>
    exact ⟨trayLeakN_trips hon, carrierLeak_trips hon, thermalTrip_trips hon sensor, vsbLoss_leaves_s5 hon,
      coolantHigh_of_inlet hon inlet⟩

end Sys2Proof.Proofs
end
